-- ==== Sys2Proof/Word.lean ====
section
/-! DEFINITION. The word types of the model: bytes, register words and tables keyed by number. -/
namespace Sys2Proof

/-- A byte; multi-byte fields are little-endian lists of these (R5). -/
abbrev Byte := BitVec 8

/-- A 16-bit link sequence number (R98) or incarnation (LK_HISTORY). -/
abbrev Seq16 := BitVec 16

/-- A 32-bit register value. -/
abbrev W32 := BitVec 32

/-- A 64-bit register or counter value. -/
abbrev W64 := BitVec 64

/-- A table: entries by number, in rising order of the number; an unlisted number has no entry. -/
abbrev Tbl (α : Type) := List (Nat × α)

end Sys2Proof
end

