-- ==== Sys2Proof/Word/Wire.lean ====
section
/-! DEFINITION. The data that commands and events carry: packets' headers, trains, cells, parcels, descriptors
and completions, as the spec's formats give them (R98, R140, R147, R264, R473). -/
namespace Sys2Proof

/-- The variants of 00_scope.md, in the encoding of GL_DEVICE_ID.variant. -/
inductive Variant where
  | AX | LX | TX
  deriving DecidableEq, Repr

/-- Status codes of command replies (R17), in the order of their values. -/
inductive Status where
  | OK | BUSY | CAPACITY | UNIT_ABSENT | BAD_PACKET | BAD_PARAM | NOT_PERMITTED | STALE | TIMEOUT | FAILED
  | UNKNOWN_OPCODE | BAD_VERSION | NOT_FOUND | EXISTS | WRONG_MODE | BAD_SIGNATURE
  deriving DecidableEq, Repr

/-- The transport and source a command packet came over (R480 step 5, R481 to R491). -/
inductive CmdSrc where
  /-- the COMMAND entry of the manager's ADMIN ring whose in-flight place has this handle: the place in bits [19:0], its reuse
  number above -/
  | admin (handle : Nat)
  /-- an MCTP requester's endpoint ID and message tag (R485) -/
  | mctp (eid tag : Nat)
  /-- a router location and transfer number on the CONTROL VC (R486) -/
  | control (loc transfer : Nat)
  /-- packet `index` of the configuration record being replayed (R573), with the rights of MCTP (R572) -/
  | replay (index : Nat)
  deriving DecidableEq, Repr

/-- What a command row carries of the packet header (R473), beside the opcode its row stands for. -/
structure CmdHdr where
  src : CmdSrc
  seq : Nat
  force : Bool
  target : Nat
  fn : Nat
  deriving DecidableEq, Repr

/-- A cell on the wire: its 64-bit header (R140) and 64 payload bytes. -/
structure WireCell where
  hdr : BitVec 64
  payload : List Byte
  deriving DecidableEq, Repr

/-- The train header of R98, field by field. -/
structure TrainHdr where
  reserved : Nat
  replay : Bool
  cells : Nat
  ackKind : Nat
  kind : Nat
  xoffMap : BitVec 8
  ackSeq : Seq16
  seq : Seq16
  deriving DecidableEq, Repr

/-- The common part of a descriptor, bytes 0-15 (R264); the opcode is the row's. -/
structure DescHdr where
  flags : Nat
  counter : Nat
  rank : Nat
  user : Nat
  deriving DecidableEq, Repr

/-- Area of PUT, GET and PUT_WITH_SIGNAL (R308). `reserved` gathers bytes 22-23 and 50-55 and the zero bits of op_flags. -/
structure PutArea where
  opFlags : Nat
  localGen : Nat
  localId : Nat
  remoteGen : Nat
  remoteKey : Nat
  length : Nat
  localOffset : Nat
  remoteOffset : Nat
  signalCounter : Nat
  signalValue : Nat
  reserved : Nat
  deriving DecidableEq, Repr

/-- Area of ATOMIC (R309). -/
structure AtomicArea where
  opFlags : Nat
  atomicOp : Nat
  width : Nat
  localGen : Nat
  localId : Nat
  remoteGen : Nat
  remoteKey : Nat
  localOffset : Nat
  remoteOffset : Nat
  operand : Nat
  compare : Nat
  reserved : Nat
  deriving DecidableEq, Repr

/-- Area of MCAST_PUT (R350). -/
structure McastArea where
  opFlags : Nat
  localGen : Nat
  localId : Nat
  group : Nat
  length : Nat
  localOffset : Nat
  remoteOffset : Nat
  reserved : Nat
  deriving DecidableEq, Repr

/-- Area of SEND (R361, 10_matching.md). -/
structure SendArea where
  opFlags : Nat
  localGen : Nat
  localId : Nat
  comm : Nat
  length : Nat
  localOffset : Nat
  tag : Nat
  reserved : Nat
  deriving DecidableEq, Repr

/-- Area of RECV (R362, 10_matching.md). -/
structure RecvArea where
  opFlags : Nat
  localGen : Nat
  localId : Nat
  comm : Nat
  length : Nat
  source : Nat
  localOffset : Nat
  tag : Nat
  mask : Nat
  recordOffset : Nat
  reserved : Nat
  deriving DecidableEq, Repr

/-- Area of CANCEL (10_matching.md). -/
structure CancelArea where
  ring : Nat
  index : Nat
  reserved : Nat
  deriving DecidableEq, Repr

/-- Area of COLLECTIVE (R397). -/
structure CollArea where
  kind : Nat
  type : Nat
  outType : Nat
  redOp : Nat
  mode : Nat
  flags : Nat
  group : Nat
  seq : Nat
  count : Nat
  root : Nat
  stepCounter : Nat
  sendGen : Nat
  recvGen : Nat
  sendId : Nat
  recvId : Nat
  sendOffset : Nat
  recvOffset : Nat
  reserved : Nat
  deriving DecidableEq, Repr

/-- Area of COMMAND (R481). -/
structure CommandArea where
  packet : Nat
  reply : Nat
  packetLength : Nat
  replyLength : Nat
  reserved : Nat
  deriving DecidableEq, Repr

/-- A descriptor's operation area, by opcode (R265). `reserved` of NOP and FENCE is any non-zero area byte. -/
inductive DescArea where
  | nop (reserved : Nat)
  | wait (counter threshold reserved : Nat)
  | counterAdd (amount reserved : Nat)
  | put (a : PutArea)
  | get (a : PutArea)
  | putWithSignal (a : PutArea)
  | fence (reserved : Nat)
  | mcastPut (a : McastArea)
  | atomic (a : AtomicArea)
  | send (a : SendArea)
  | recv (a : RecvArea)
  | cancel (a : CancelArea)
  | collective (a : CollArea)
  | command (a : CommandArea)
  deriving DecidableEq, Repr

/-- How a DMA read's completion ends (R227). -/
inductive HostErr where
  | poison | timeout | refused | ats
  deriving DecidableEq, Repr

/-- What comes back for a read of host memory: the bytes, or an error at a byte offset. -/
inductive Completion where
  | data (bytes : List Byte)
  | error (e : HostErr) (offset : Nat)
  deriving DecidableEq, Repr

/-- Who makes a register access: the latches of R14 belong to these parties. -/
inductive Party where
  | fn (f : Nat)
  | mctp
  | cores
  deriving DecidableEq, Repr

/-- The PCIe configuration controls of a function that the spec names (R219, R226, R233, R240, R342, R535): the host writes them in
configuration space, whose offsets are the PCIe Base Specification's. -/
inductive ConfigField where
  | busMasterEnable | vfEnable | numVfs | msixEnable | msixFunctionMask | atomicOpEnable | atsEnable | aspmL12
  | bar0 | bar2 | vfBar | maxPayload | maxReadRequest
  deriving DecidableEq, Repr

/-- Where a host write goes: a BAR0 offset of a physical function (R24), a function-aperture offset (R223), each with its
width in bytes, or a configuration control. -/
inductive WriteTarget where
  | bar0 (offset width : Nat)
  | aperture (offset width : Nat)
  | config (field : ConfigField)
  deriving DecidableEq, Repr

/-- The tick-driven blocks, by TT_LAG index (02_fabric_time.md): 0 Signal Box, 1 Timetable unit, 2 Roundhouse, 3 Window unit,
4 Token unit, 32 + n engines, 64 + n fabric ports. -/
abbrev BlockIx := Nat

/-- What a fault source reports with its assertion (R506, R513). -/
structure FaultInfo where
  source : Nat
  inst : Nat
  address : Nat
  syndrome : Nat
  deriving DecidableEq, Repr

/-- A token message of R465. -/
structure TokenMsg where
  kind : Nat
  index : Nat
  lost : Bool
  won : Bool
  queued : Bool
  priority : Nat
  endpoint : Nat
  function : Nat
  generation : Nat
  binding : Nat
  request : Nat
  deriving DecidableEq, Repr

end Sys2Proof
end

