-- ==== Sys2Proof/Config.lean ====
section
/-! DEFINITION. What one part fixes (fuses, keys) and the free values the spec leaves open: opaque constants, so that
nothing can be proved of their values. -/
namespace Sys2Proof.Config

/-- A fresh unconstrained number for each draw: the random values (R220, R290, LK_HISTORY.incarnation), the unspecified
contents and the open choices the spec names. A draw applies it to `State.freeCount` and advances that counter. -/
opaque freeValue : Nat → Nat

/-- Fuses: silicon stepping (GL_DEVICE_ID). -/
opaque stepMajor : Nat
/-- Fuses: silicon stepping, minor (GL_DEVICE_ID). -/
opaque stepMinor : Nat
/-- Fuse: the serial number DEVICE_INFO returns (R499). -/
opaque serial : Nat
/-- Fuse: CC_MCTP.enterprise. -/
opaque enterprise : Nat
/-- Fuse: the VDD_CORE target fused for the part, mV (R587). -/
opaque avsTarget : Nat
/-- Fuse: the VDD_CORE floor sufficient for 1,050 W, mV, at most 800 (R589). -/
opaque avsFloor : Nat
/-- The endpoint UUID that Get Endpoint UUID returns (R483; DSP0236 leaves it to the part). -/
opaque uuid : List Byte
/-- The version entries that Get MCTP Version Support returns for a message type, and the version bytes of the command set (R483 leaves
both to DSP0236 and the part). -/
opaque mctpVersions : (msgType : Nat) → List (BitVec 32)
opaque commandSetVersion : Nat
/-- WU_REGION.base_mib: firmware's choice (08_windows.md). -/
opaque windowRegionBase : Nat
/-- Does an image's ECDSA P-384 signature verify against the fused key, over header bytes 0-63 (R500, R501)? -/
opaque imageSignatureVerifies : (header : List Byte) → Bool
/-- SHA-384 of an image payload (R500), by reference to FIPS 180: an uninterpreted function. -/
opaque sha384 : (payload : List Byte) → List Byte
/-- Is a procedure signed with Fenori's maker key and bound to this part's serial number (R505)? -/
opaque makerProcedureVerifies : (procedure : List Byte) → Bool
/-- Attachment of the neighbour router whose engine terminates an edge of a group (R407): no rule says how a router learns it. -/
opaque edgeAnchor : (group edge : Nat) → Nat
/-- The tags that the neighbour's anchor engine holds for an edge of a group (R392, R407): no rule says how a router learns them. -/
opaque edgeTag : (group edge slot : Nat) → Nat
/-- Descriptor bytes 16-35 of which a chunk's signature is the CRC (R403), at a router without members: no rule says how it learns
them. -/
opaque signedDescriptor : (signature : Nat) → List Byte
/-- The number of the stored cell that holds a word of the Junction buffer (R506): no rule maps addresses to cells. -/
opaque bufferCell : (address : Nat) → Nat
/-- Repair rows of an HBM stack before any repair that this model makes (FC_SPARES.hbm_repairs: from the journal). -/
opaque repairRows : (stack : Nat) → Nat
/-- The host's answers to ATS translation requests, in the order asked: the translated page, none where it gives no access (R227, R228). -/
opaque translation : (asked : Nat) → Option Nat
/-- The TLP header of a host's access, which AER logs for one that breaks R8 (R224): the rows name the access, not its header. -/
opaque requestHeader : (access : Nat) → List Byte
/-- The 512 bytes in which a flow context is moved to the spill area (R346): no rule lays them out. -/
opaque contextImage : (moved : Nat) → List Byte
/-- Cells of a VC that an engine has room for beside the first (R188 names the room and gives no size). -/
opaque ejectRoom : (vc : Nat) → Nat
/-- The value of the state byte that RESERVATION_QUERY returns for a reservation, active or suspended (R499 names the field and gives
no values). -/
opaque resvStateByte : (suspended : Bool) → Nat

end Sys2Proof.Config
end

