-- ==== Sys2Proof/Syntax.lean ====
section
/-! DEFINITION. The commands and events of the FN6400: one constructor per row of spec/opcode_table.json, in the table's
order. `h` is the command packet's header (R473) as one transport delivered it; the other operands are the row's parameters
(R499) or name the port, engine, function, flow or entry the step is about. -/
namespace Sys2Proof

inductive Instr where
  /-- R499: Command returning device id, mode, slot, unit presence, serial and firmware version. -/
  | deviceInfo (h : CmdHdr)
  /-- R532: Command requesting SERVICE, DRAIN or HEATH under the transition table. -/
  | modeSet (h : CmdHdr) (mode : Nat)
  /-- R492: Command making the PF of an attachment, or no PF, the manager. -/
  | managerSet (h : CmdHdr) (attachment : Nat)
  /-- R540: Command that replies and then starts a whole-device reset, subject to deferral. -/
  | deviceReset (h : CmdHdr)
  /-- R556: Command resetting one fabric port, engine or host port alone. -/
  | blockReset (h : CmdHdr) (kind index : Nat)
  /-- R572: Command writing the current settings as a configuration record to the journal store. -/
  | configSave (h : CmdHdr) (flags : Nat)
  /-- R555: Command configuring one GPIO pin. -/
  | pinConfigSet (h : CmdHdr) (pin config : Nat)
  /-- R446: Command setting whether this router's engines elide PUT data. -/
  | balerConfigSet (h : CmdHdr) (elideEn : Nat)
  /-- R489: Command setting the remote manager locations allowed to send commands over the CONTROL VC. -/
  | controlAccessSet (h : CmdHdr) (enableMask : Nat) (locations : List Nat)
  /-- R615: Command reading registers through the manager's BAR0 view. -/
  | registerRead (h : CmdHdr) (width offset count : Nat)
  /-- R615: Command writing one register through the manager's BAR0 view. -/
  | registerWrite (h : CmdHdr) (width offset value : Nat)
  /-- R490: Command sending an inner packet to another router over the CONTROL VC and returning its reply. -/
  | commandForward (h : CmdHdr) (location : Nat) (packet : List Byte)
  /-- R624: Command taking a DISABLED fabric port to TRAINING. -/
  | linkEnable (h : CmdHdr) (port : Nat)
  /-- R132: Command marking a port unproductive and starting its drain towards DISABLED. -/
  | linkDisable (h : CmdHdr) (port : Nat)
  /-- R623: Command setting a port's role and expected peer, checked against the partner's last HELLO. -/
  | linkRoleSet (h : CmdHdr) (port role peer : Nat)
  /-- R125: Command setting a port's grace period for its next entry into HELD. -/
  | linkGraceSet (h : CmdHdr) (port graceUs : Nat)
  /-- R130: Command retrying failed lanes through the lane-change handshake. -/
  | linkLanesRestore (h : CmdHdr) (port : Nat)
  /-- R119: Command moving a port from UP to STANDBY. -/
  | linkStandby (h : CmdHdr) (port : Nat)
  /-- R135: Command moving a port from STANDBY to TRAINING. -/
  | linkWake (h : CmdHdr) (port : Nat)
  /-- R499: Command returning a port's LK_ registers. -/
  | linkQuery (h : CmdHdr) (port : Nat)
  /-- R94: Command writing host equalisation settings for a pluggable module. -/
  | linkModuleSet (h : CmdHdr) (port lanes pre main post : Nat)
  /-- R191: Command setting a weighted queue's quantum and burst at one egress. -/
  | queueWeightSet (h : CmdHdr) (egress queue quantum burst : Nat)
  /-- R207: Command setting the level map and transit map. -/
  | queueMapSet (h : CmdHdr) (levelMap transitMap : Nat)
  /-- R207: Command setting the yellow pool level. -/
  | signalBoxConfigSet (h : CmdHdr) (yellowPoolMib : Nat)
  /-- R214: Command setting a host port's split and retraining it. -/
  | hostPortSplitSet (h : CmdHdr) (port split : Nat)
  /-- R166: Command setting torus sizes, station size, location and datelines, and filling the route table. -/
  | routeTopologySet (h : CmdHdr) (nx ny nz routers location datelineX datelineY datelineZ : Nat)
  /-- R167: Command narrowing, restoring or invalidating one station route entry. -/
  | routeEntrySet (h : CmdHdr) (station valid dx dy dz : Nat)
  /-- R499: Command returning one station route entry. -/
  | routeQuery (h : CmdHdr) (station : Nat)
  /-- R170: Command setting detour enable, down weight, detour penalty and escape wait. -/
  | routeAdaptSet (h : CmdHdr) (detourEn downWeight detourPenalty escapeWait : Nat)
  /-- R164: Command setting the pool admission alpha. -/
  | poolConfigSet (h : CmdHdr) (alpha : Nat)
  /-- R165: Command setting an attachment's reassembly quota. -/
  | reasmQuotaSet (h : CmdHdr) (attachment quota : Nat)
  /-- R181: Command installing a multicast group's mask and ingress on one router. -/
  | multicastInstall (h : CmdHdr) (group ingress mask : Nat)
  /-- R180: Command removing a multicast group from one router. -/
  | multicastRemove (h : CmdHdr) (group : Nat)
  /-- R352: Command writing a member record of a group on a member's engine. -/
  | multicastMemberSet (h : CmdHdr) (group domain senderFn member sender window : Nat)
  /-- R352: Command removing a member record. -/
  | multicastMemberClear (h : CmdHdr) (group : Nat)
  /-- R351: Command writing a group's sender record on the sender's engine. -/
  | multicastSenderSet (h : CmdHdr) (group rankTable first count : Nat)
  /-- R351: Command removing a sender record unless an MCAST_PUT of the group is in flight. -/
  | multicastSenderClear (h : CmdHdr) (group : Nat)
  /-- R46: Command setting a router's time role and root priority. -/
  | timeConfig (h : CmdHdr) (role priority : Nat)
  /-- R48: Command setting the root's fabric time to whole seconds in BRINGUP. -/
  | timeSetSeconds (h : CmdHdr) (seconds : Nat)
  /-- R67: Command setting the device-wide reservable fraction. -/
  | timetableFractionSet (h : CmdHdr) (fraction : Nat)
  /-- R70: Command installing one timetable reservation on one router and charging its ports. -/
  | reservationInstall (h : CmdHdr) (id rate rank burst destKind hops sourceFn destFn source dest flight installTime egress : Nat)
  /-- R71: Command removing a reservation and freeing its charge. -/
  | reservationRemove (h : CmdHdr) (id : Nat)
  /-- R71: Command returning a reservation's state, at-risk flag and counters. -/
  | reservationQuery (h : CmdHdr) (id : Nat)
  /-- R499: Command returning fabric time and synchronisation state. -/
  | timeQuery (h : CmdHdr)
  /-- R217: Command creating a VF function with its grants and returning its number and generation. -/
  | functionCreate (h : CmdHdr) (attachment vf vectors stagingMib fabricTokens resvSlots ringQuota ctxQuota : Nat)
  /-- R238: Command destroying a function, revoking control-class state with FORCE. -/
  | functionDestroy (h : CmdHdr)
  /-- R233: Command taking a READY function to RUNNING. -/
  | functionEnable (h : CmdHdr)
  /-- R235: Command cutting off a function's work and returning it to READY. -/
  | functionDisable (h : CmdHdr)
  /-- R235: Command resetting a function, advancing its generation and replying at the reset point. -/
  | functionReset (h : CmdHdr)
  /-- R499: Command returning a function's HPC_FN_v entry. -/
  | functionQuery (h : CmdHdr)
  /-- R241: Command taking a function to FREEZING to drain towards FROZEN within a limit. -/
  | functionFreeze (h : CmdHdr) (limitMs : Nat)
  /-- R242: Command writing a FROZEN function's state blob to host memory. -/
  | functionSave (h : CmdHdr) (buffer bufferLength : Nat)
  /-- R243: Command loading a blob into a READY function, leaving it FROZEN. -/
  | functionRestore (h : CmdHdr) (blob blobLength : Nat)
  /-- R244: Command resuming a FROZEN function and re-reading its producer indexes. -/
  | functionThaw (h : CmdHdr)
  /-- R230: Command setting a function's pool grants and vf_limit. -/
  | functionPoolSet (h : CmdHdr) (vectors stagingMib fabricTokens vfLimit resvSlots : Nat)
  /-- R232: Command setting a function's ring and flow context quotas. -/
  | functionQuotaSet (h : CmdHdr) (ringQuota ctxQuota : Nat)
  /-- R89: Command setting a function's finality horizon. -/
  | functionHorizonSet (h : CmdHdr) (horizonMs : Nat)
  /-- R200: Command setting a function's base level, lane_en, share and default queue. -/
  | functionSchedSet (h : CmdHdr) (baseLevel laneEn share dwq : Nat)
  /-- R196: Command setting a function's shaper rates. -/
  | functionShaperSet (h : CmdHdr) (minRate maxRate : Nat)
  /-- R198: Command setting one policer class of a function. -/
  | functionPolicerSet (h : CmdHdr) (cls enable action cir pir cbs pbs : Nat)
  /-- R334: Command setting a function's congestion parameters. -/
  | functionCcSet (h : CmdHdr) (targetNs alpha beta initParcels maxParcels : Nat)
  /-- R346: Command placing or disabling the flow context spill area. -/
  | flowSpillSet (h : CmdHdr) (base capacity enable : Nat)
  /-- R161: Command writing entries of a rank table. -/
  | rankTableWrite (h : CmdHdr) (table first : Nat) (entries : List Nat)
  /-- R162: Command creating a rank table for a function. -/
  | rankTableCreate (h : CmdHdr) (table entries : Nat)
  /-- R162: Command destroying an unbound rank table. -/
  | rankTableDestroy (h : CmdHdr) (table : Nat)
  /-- R358: Command setting a function's matching context. -/
  | matchContextSet (h : CmdHdr) (enable log2Comms backoff postedMax unexpectedMax unexpectedKib : Nat)
  /-- R359: Command writing a communicator of a function. -/
  | matchCommSet (h : CmdHdr) (comm rankTable domain ownRank : Nat)
  /-- R360: Command invalidating a communicator, cancelling its receives with FORCE. -/
  | matchCommClear (h : CmdHdr) (comm : Nat)
  /-- R283: Command creating a protection domain and its window array. -/
  | domainCreate (h : CmdHdr) (domain log2Ids job : Nat)
  /-- R284: Command removing an unused protection domain. -/
  | domainDestroy (h : CmdHdr) (domain : Nat)
  /-- R295: Command writing a window's extents and entry and returning its key. -/
  | windowOpen (h : CmdHdr) (domain rights dirtyTrack id : Nat) (extents : List (Nat × Nat))
  /-- R297: Command invalidating a window, advancing its generation and broadcasting invalidation. -/
  | windowRevoke (h : CmdHdr) (domain id : Nat)
  /-- R621: Command returning a window slot's entry and extents. -/
  | windowQuery (h : CmdHdr) (domain id : Nat)
  /-- R296: Command changing a window's rights and IOVAs, lazily or with invalidation. -/
  | windowModify (h : CmdHdr) (domain rights lazy id : Nat) (iovas : List Nat)
  /-- R304: WINDOW_DIRTY action allocating and clearing dirty bitmaps. -/
  | windowDirtyEnable (h : CmdHdr) (domain id : Nat)
  /-- R304: WINDOW_DIRTY action freeing dirty bitmaps. -/
  | windowDirtyDisable (h : CmdHdr) (domain id : Nat)
  /-- R304: WINDOW_DIRTY action copying and atomically zeroing dirty bitmaps to host memory. -/
  | windowDirtyFetch (h : CmdHdr) (domain id buffer bufferLength : Nat)
  /-- R304: WINDOW_DIRTY action clearing accessed and dirty bits and invalidating caches. -/
  | windowDirtyClearMarks (h : CmdHdr) (domain id : Nat)
  /-- R391: Command installing a collective group on one router. -/
  | collGroupCreate (h : CmdHdr) (group epoch parent anchor depth size : Nat) (children : List Nat)
  /-- R396: Command removing a collective group, failing it first with FORCE. -/
  | collGroupDestroy (h : CmdHdr) (group : Nat)
  /-- R394: Command naming an attachment's member function and group rank. -/
  | collMemberSet (h : CmdHdr) (group attachment rank : Nat)
  /-- R396: Command returning a group to READY with a new epoch and sequences at 0. -/
  | collGroupReset (h : CmdHdr) (group epoch : Nat)
  /-- R396: Command returning a group's entry, children and members. -/
  | collGroupQuery (h : CmdHdr) (group : Nat)
  /-- R450: Command writing a local token group's rights entry. -/
  | tokenGroupRightsSet (h : CmdHdr) (group enable first last pfMask : Nat)
  /-- R463: Command enabling or disabling a fabric token home slot. -/
  | tokenFabricHomeSet (h : CmdHdr) (slot enable : Nat)
  /-- R464: Command setting a fabric token binding for a function. -/
  | tokenFabricBind (h : CmdHdr) (binding homeIndex homeLoc : Nat)
  /-- R464: Command removing a binding, releasing it with FORCE. -/
  | tokenFabricUnbind (h : CmdHdr) (binding : Nat)
  /-- R499: Command returning a local token, home slot or binding entry. -/
  | tokenQuery (h : CmdHdr) (kind index : Nat)
  /-- R462: Command releasing a local token with the lost flag set. -/
  | tokenForceRelease (h : CmdHdr) (token : Nat)
  /-- R507: Command setting one fault source's severity. -/
  | faultSeveritySet (h : CmdHdr) (source severity : Nat)
  /-- R499: Command returning the fault status words. -/
  | faultStatusRead (h : CmdHdr)
  /-- R511: Command clearing one latched fault bit when its condition has ended. -/
  | faultClear (h : CmdHdr) (source : Nat)
  /-- R522: Command routing an event of a function to one of its EVENT rings. -/
  | eventRouteSet (h : CmdHdr) (event ring enable : Nat)
  /-- R518: Command returning violation log entries. -/
  | violationLogRead (h : CmdHdr) (first count : Nat)
  /-- R581: Command returning journal records or a piece of a configuration record. -/
  | journalRead (h : CmdHdr) (region count record offset : Nat)
  /-- R581: Command writing a MARK record to the evidence journal. -/
  | journalMark (h : CmdHdr) (note : List Byte)
  /-- R519: Command setting or clearing the persistent evidence hold. -/
  | evidenceHold (h : CmdHdr) (enable : Nat)
  /-- R499: Command returning the running and boot slots and slot states. -/
  | fwQuery (h : CmdHdr)
  /-- R502: Command opening a firmware stage for a slot. -/
  | fwStageBegin (h : CmdHdr) (slot length : Nat)
  /-- R502: Command writing image data into the open stage. -/
  | fwStageData (h : CmdHdr) (offset : Nat) (data : List Byte)
  /-- R501: Command verifying the staged image and marking the slot VALID or INVALID. -/
  | fwStageEnd (h : CmdHdr)
  /-- R503: Command replacing the running firmware hitlessly through the standby pair. -/
  | fwActivate (h : CmdHdr) (slot : Nat)
  /-- R504: Command storing the boot slot in the journal store. -/
  | fwBootSlotSet (h : CmdHdr) (slot : Nat)
  /-- R505: Command running a maker-signed procedure bound to the device. -/
  | makerProcedure (h : CmdHdr) (procedure : List Byte)
  /-- R502: Command closing the open stage and marking the slot EMPTY. -/
  | fwStageAbort (h : CmdHdr)
  /-- R206: Command placing the meter ring in the manager's host memory. -/
  | meterRingSet (h : CmdHdr) (base log2Size enable : Nat)
  /-- R499: Command returning a function's six meters. -/
  | meterRead (h : CmdHdr)
  /-- R602: Command returning the 16 sensor entries. -/
  | telemetryRead (h : CmdHdr)
  /-- R603: Command setting one sensor's warn threshold. -/
  | telemetryThresholdSet (h : CmdHdr) (sensor warn : Nat)
  /-- R483: MCTP control message assigning the endpoint ID. -/
  | setEndpointId (requester tag eid : Nat)
  /-- R483: MCTP control message returning the endpoint ID. -/
  | getEndpointId (requester tag : Nat)
  /-- R483: MCTP control message returning the endpoint UUID. -/
  | getEndpointUuid (requester tag : Nat)
  /-- R483: MCTP control message returning supported MCTP versions. -/
  | getMctpVersionSupport (requester tag msgType : Nat)
  /-- R483: MCTP control message returning supported message types. -/
  | getMessageTypeSupport (requester tag : Nat)
  /-- R483: MCTP control message returning vendor-defined message support. -/
  | getVendorDefinedMessageSupport (requester tag selector : Nat)
  /-- R483: I3C dynamic address assignment of the FN6400 as target. -/
  | i3cEntdaa (address : Nat)
  /-- R485: An MCTP command message carrying one packet arrives and is executed and answered. -/
  | mctpMessageReceive (requester tag : Nat) (ic : Bool) (packet : List Byte)
  /-- R487: A CONTROL cell reaches this router and is assembled into a command, reply or token message. -/
  | controlCellReceive
  /-- R488: A CONTROL transfer with no fragment for 1 ms is discarded. -/
  | controlTransferTimeout (source transfer : Nat)
  /-- R490: Every 10 ms without reply the forwarded transfer is resent. -/
  | commandForwardResend (transfer : Nat)
  /-- R490: After 1 s without reply COMMAND_FORWARD returns TIMEOUT. -/
  | commandForwardTimeout (transfer : Nat)
  /-- R261: Write to PE_DOORBELL naming a ring, starting or coalescing a producer index read. -/
  | doorbell (fn value : Nat)
  /-- R262: The producer index read completes and the engine fetches entries up to it. -/
  | producerIndexReadReturn (fn ring : Nat) (c : Completion)
  /-- R262: Fetched descriptors arrive and are checked for acceptance in ring order. -/
  | descriptorFetchReturn (fn ring : Nat) (c : Completion)
  /-- R254: Setup action creating a ring bound to a domain and rank table. -/
  | ringCreate (fn ring : Nat)
  /-- R256: Setup action destroying a ring with no unretired entries. -/
  | ringDestroy (fn ring : Nat)
  /-- R255: Setup action reporting a ring's state and cause. -/
  | ringQuery (fn ring : Nat)
  /-- R278: Setup action allocating a completion counter with optional mirror. -/
  | counterAlloc (fn counter : Nat)
  /-- R278: Setup action releasing a completion counter. -/
  | counterFree (fn counter : Nat)
  /-- R278: Setup action setting a counter's value and clearing its broken flag. -/
  | counterSet (fn counter : Nat)
  /-- R266: Descriptor accepted that succeeds once earlier entries retire. -/
  | nop (fn ring : Nat) (d : DescHdr) (reserved : Nat)
  /-- R281: Descriptor accepted that holds its ring WAITING until a counter reaches a threshold. -/
  | wait (fn ring : Nat) (d : DescHdr) (counter threshold reserved : Nat)
  /-- R617: Descriptor accepted that adds an amount to a counter. -/
  | counterAdd (fn ring : Nat) (d : DescHdr) (amount reserved : Nat)
  /-- R308: Descriptor accepted that writes local window data to a remote window. -/
  | put (fn ring : Nat) (d : DescHdr) (a : PutArea)
  /-- R308: Descriptor accepted that reads a remote window into a local window. -/
  | get (fn ring : Nat) (d : DescHdr) (a : PutArea)
  /-- R317: Descriptor accepted that PUTs and then signals a remote counter. -/
  | putWithSignal (fn ring : Nat) (d : DescHdr) (a : PutArea)
  /-- R314: Descriptor accepted that holds later entries' effects until earlier entries are final. -/
  | fence (fn ring : Nat) (d : DescHdr) (reserved : Nat)
  /-- R353: Descriptor accepted that writes one buffer to every member of a multicast group. -/
  | mcastPut (fn ring : Nat) (d : DescHdr) (a : McastArea)
  /-- R309: Descriptor accepted that performs a remote atomic operation. -/
  | atomic (fn ring : Nat) (d : DescHdr) (a : AtomicArea)
  /-- R372: Descriptor accepted that sends a two-sided message eager or rendezvous. -/
  | send (fn ring : Nat) (d : DescHdr) (a : SendArea)
  /-- R367: Descriptor accepted that matches the unexpected list or is posted. -/
  | recv (fn ring : Nat) (d : DescHdr) (a : RecvArea)
  /-- R384: Descriptor accepted that removes a posted RECV in match order. -/
  | cancel (fn ring : Nat) (d : DescHdr) (a : CancelArea)
  /-- R397: Descriptor accepted that contributes to a collective of a group. -/
  | collective (fn ring : Nat) (d : DescHdr) (a : CollArea)
  /-- R482: ADMIN descriptor accepted whose command packet is read, executed and answered. -/
  | command (fn ring : Nat) (d : DescHdr) (a : CommandArea)
  /-- R316: A parcel whose window, congestion window and tag allow is released to the Junction. -/
  | parcelSend (pe flow seq : Nat) (mcast : Bool)
  /-- R227: A host read completion returns data, or an error that fails the operation. -/
  | dmaReadCompletion (tag : Nat) (c : Completion) (balerBusy : Bool)
  /-- R189: At a cell boundary an egress sends from the first source with an eligible cell. -/
  | egressCellSelect (egress : Nat)
  /-- R100: A port releases its next train, IDLE when it has no cells. -/
  | trainRelease (port : Nat)
  /-- R51: Every 8 ticks a port sends a time-exchange request. -/
  | timeExchangeSend (port : Nat)
  /-- R101: Every tick a port sends a SUMMARY train. -/
  | summarySend (port : Nat)
  /-- R101: Every tick in HANDSHAKE a port sends HELLO. -/
  | helloSend (port : Nat)
  /-- R133: Every 8 ticks in STANDBY a port sends KEEPALIVE. -/
  | keepaliveSend (port : Nat)
  /-- R101: An unanswered LANE_CHANGE request is sent again after 10 µs. -/
  | laneChangeResend (port : Nat)
  /-- R105: A DATA train passing its CRC is classified and its cells stored and routed. -/
  | dataTrainReceive (port : Nat) (th : TrainHdr) (cells : List WireCell)
  /-- R106: A train failing its CRC is counted and a replay requested. -/
  | trainCrcFail (port : Nat) (isData : Bool)
  /-- R96: An uncorrectable codeword fails every train overlapping it. -/
  | fecUncorrectable (port codewords dataTrains : Nat)
  /-- R104: An IDLE train delivers the partner's acknowledgement and xoff_map. -/
  | idleTrainReceive (port : Nat) (th : TrainHdr)
  /-- R51: A TIME train gives timestamps and root announcement for delay, offset and parent choice. -/
  | timeTrainReceive (port : Nat) (th : TrainHdr) (body : List Byte)
  /-- R107: A NAK makes the sender replay from its siding. -/
  | nakTrainReceive (port : Nat) (th : TrainHdr) (body : List Byte)
  /-- R106: A replay request unanswered for 2f + 920 ns is repeated. -/
  | nakRepeatTimeout (port : Nat)
  /-- R129: A LANE_CHANGE request or answer drives the lane-change handshake. -/
  | laneChangeTrainReceive (port : Nat) (th : TrainHdr) (body : List Byte)
  /-- R138: A partner's violation notice is received. -/
  | violationTrainReceive (port : Nat) (th : TrainHdr) (body : List Byte)
  /-- R169: A SUMMARY train updates partner congestion levels, free space and up_map. -/
  | summaryTrainReceive (port : Nat) (th : TrainHdr) (body : List Byte)
  /-- R134: A KEEPALIVE train refreshes standby presence. -/
  | keepaliveTrainReceive (port : Nat) (th : TrainHdr) (body : List Byte)
  /-- R126: A HELLO gives partner parameters for role check, rate choice and resume. -/
  | helloTrainReceive (port : Nat) (th : TrainHdr) (body : List Byte)
  /-- R119: PMD training, FEC lock and deskew complete and the port enters HANDSHAKE. -/
  | lanesLocked (port : Nat) (lanes : BitVec 8)
  /-- R119: 100 ms without lock restarts TRAINING. -/
  | trainingTimeout (port : Nat)
  /-- R122: Handshake agreement brings the port UP with continuity or fresh, or to STANDBY or DISABLED. -/
  | handshakeComplete (port : Nat)
  /-- R120: 10 µs without a good train sends an UP port to HELD. -/
  | noGoodTrainTimeout (port : Nat)
  /-- R123: The grace deadline of a HELD port passes and the port is flushed. -/
  | graceExpiry (port : Nat)
  /-- R128: Lanes losing lock start a degrade or send the port to HELD. -/
  | laneLockLoss (port : Nat) (lanes : BitVec 8)
  /-- R128: At a frame boundary a lane whose error ratio exceeded 1e-4 is marked bad. -/
  | laneErrorRateCheck (port : Nat) (lanes : BitVec 8)
  /-- R129: A lane change not UP within 500 µs sends the port to HELD. -/
  | laneChangeTimeout (port : Nat)
  /-- R118: Once per frame E is recomputed and the rate stepped down after three excesses. -/
  | exposureCheck (port : Nat)
  /-- R134: 100 µs without a good train in STANDBY sends the port to FLUSHED. -/
  | standbyKeepaliveLoss (port : Nat)
  /-- R132: Queues empty or 1 ms passes and the disabled port is emptied to DISABLED. -/
  | linkDisableDrainEnd (port : Nat)
  /-- R176: An adaptive cell waiting escape_wait moves to its escape path. -/
  | escapeWaitExpiry (egress position : Nat)
  /-- R153: An ejected cell is recorded in its reassembly entry and folded into the check. -/
  | reasmCellReceive (pe : Nat)
  /-- R157: An entry with no cell for 4 frames is freed. -/
  | reasmEntryTimeout (pe tag : Nat) (mcast : Bool)
  /-- R151: A tag in QUARANTINE for 2 frames becomes FREE. -/
  | tagQuarantineExpiry (pe tag : Nat)
  /-- R320: An OPEN parcel creates or finds a flow and is answered with flow id and tag grant. -/
  | openReceive (pe : Nat)
  /-- R339: A PUT parcel is carried out by sequence and its data placed in the window. -/
  | putParcelReceive (pe : Nat)
  /-- R442: An elided parcel is expanded and placed as a PUT. -/
  | putElidedReceive (pe : Nat)
  /-- R327: A GET request is carried out by reading host memory for a GET_RESP. -/
  | getReqReceive (pe : Nat)
  /-- R327: A GET response is placed at the initiator and acknowledges its request. -/
  | getRespReceive (pe : Nat)
  /-- R342: An atomic is executed or answered from the replay cache. -/
  | atomicParcelReceive (pe : Nat)
  /-- R325: A SIGNAL adds its value to a counter of the destination function. -/
  | signalReceive (pe : Nat)
  /-- R324: A CLOSE frees the destination flow context and quarantines its tags. -/
  | closeReceive (pe : Nat)
  /-- R354: A member places a multicast parcel through its member record and acknowledges it. -/
  | mcastPutReceive (pe : Nat)
  /-- R355: A member handles a unicast repair against its record's done map. -/
  | mcastRepairReceive (pe : Nat)
  /-- R35: After the last posted write is issued the destination sends the parcel's ACK. -/
  | ackSend (pe : Nat)
  /-- R330: An ACK acknowledges a parcel and may end its operation. -/
  | ackReceive (pe : Nat)
  /-- R337: A NACK triggers a resend, back-off or final status by kind. -/
  | nackReceive (pe : Nat)
  /-- R335: An unanswered parcel times out and is resent with doubled timeout. -/
  | parcelTimeout (pe flow seq : Nat) (mcast : Bool)
  /-- R337: A RETRY_AFTER back-off ends and the parcel is resent. -/
  | retryAfterExpiry (pe flow seq : Nat)
  /-- R380: A RESOURCE back-off ends and the message parcel is resent. -/
  | resourceBackoffExpiry (pe flow seq : Nat)
  /-- R91: An operation without final status ends with HORIZON_EXPIRED at its deadline. -/
  | horizonExpiry (place : Nat)
  /-- R324: A flow idle for 16 frames is closed with a CLOSE parcel. -/
  | flowIdleClose (pe flow : Nat)
  /-- R347: A fetched flow context releases the parcels parked for it. -/
  | flowContextFetchComplete (pe flow : Nat) (isSource : Bool)
  /-- R378: An eager message is checked and matched or appended to the unexpected list. -/
  | msgEagerReceive (pe : Nat)
  /-- R369: A rendezvous announcement is checked and matched or kept unexpected. -/
  | msgRtsReceive (pe : Nat)
  /-- R374: A pull is answered with a GET_RESP or MSG_GONE. -/
  | msgGetReceive (pe : Nat)
  /-- R376: A MSG_FIN ends the rendezvous SEND with its outcome. -/
  | msgFinReceive (pe : Nat)
  /-- R373: An unexpected announcement past the sender's deadline is removed. -/
  | rtsExpiry (fn position : Nat)
  /-- R383: A posted receive at its deadline is removed in match order and expires. -/
  | recvExpiry (place : Nat)
  /-- R407: An up chunk or fail notice arrives on a tree edge and is folded. -/
  | collUpReceive (pe : Nat)
  /-- R407: A down chunk is placed at local members and sent to children. -/
  | collDownReceive (pe : Nat)
  /-- R408: An unacknowledged chunk is resent, failing the group after 8 resends. -/
  | chunkResendTimeout (group edge chunk : Nat)
  /-- R61: A tick-driven block reaches its tick boundary and plans the tick's work. -/
  | tickBoundary (block workEnd : Nat)
  /-- R204: At each fabric-time minute the meters are snapshotted to the ring and journal. -/
  | meterSnapshot
  /-- R202: At each frame boundary a function's context-store occupancy is sampled. -/
  | meterOccupancySample (fn : Nat)
  /-- R301: At frame boundaries aged translation cache entries are reclaimed. -/
  | windowCacheSweep (client : Nat)
  /-- R298: Every cache acknowledges the invalidation and the revoke replies. -/
  | revocationComplete (domain id : Nat)
  /-- R299: A second revocation of an id held to the next frame boundary proceeds. -/
  | revocationHoldRelease (domain id : Nat)
  /-- R228: An ATS invalidate request stops use of a translation and is completed. -/
  | atsInvalidate (attachment address length : Nat)
  /-- R221: A generation change held to the next frame boundary completes. -/
  | generationHoldRelease (fn : Nat)
  /-- R237: All old-generation writes issued and revocations done, the reset completes. -/
  | resetPoint (fn : Nat)
  /-- R241: A FREEZING function's operations have retired and it enters FROZEN. -/
  | freezeDrained (fn : Nat)
  /-- R241: The freeze limit passes and the function returns to RUNNING with TIMEOUT. -/
  | freezeLimitExpiry (fn : Nat)
  /-- R534: All accepted non-ADMIN operations retire and MODE_SET DRAIN replies OK. -/
  | drainComplete
  /-- R240: A host FLR of a VF resets its function with FORCE. -/
  | flrVf (fn : Nat)
  /-- R240: A host FLR of a PF resets it and every VF of the attachment. -/
  | flrPf (attachment : Nat)
  /-- R240: Host clearing VF Enable resets every VF function to READY. -/
  | vfEnableClear (attachment : Nat)
  /-- R240: Host clearing Bus Master Enable halts a running function. -/
  | busMasterEnableClear (fn : Nat)
  /-- R247: HP_PERST_N held low 2 µs resets every function of the port's attachments. -/
  | perstAssert (port : Nat)
  /-- R247: Loss of an attachment's PCIe link resets its functions with FORCE. -/
  | pcieLinkDown (attachment : Nat)
  /-- R210: An attachment's link trains, UP or SLOW by its rate and width. -/
  | pcieLinkUp (attachment speed width : Nat) (flit : Bool)
  /-- R210: A link retraining below the limit halts running functions with HOST_LINK. -/
  | hostLinkRetrainSlow (attachment speed width : Nat) (flit : Bool)
  /-- R226: Unmasking a vector sends its pending message once. -/
  | msixUnmask (fn vector : Nat)
  /-- R224: An access breaking alignment rules is aborted or discarded and logged in AER. -/
  | badRegisterAccess (fn : Nat) (isRead : Bool)
  /-- R26: An access outside a function's view reads zero or is ignored and is counted. -/
  | viewDeniedAccess (fn offset : Nat) (isRead : Bool)
  /-- R11: Writing 1 to a saturation flag clears the flag and its EVIDENCE counter. -/
  | counterFlagClear (party : Party) (offset value : Nat)
  /-- R13: A 32-bit read of a counter's low word latches its high word for that party. -/
  | counterLowWordRead (party : Party) (offset : Nat)
  /-- R9: Reading CS_PARK returns and clears the peak use. -/
  | parkPeakRead (party : Party)
  /-- R9: A write to a register without its own row acts by its access type. -/
  | hostRegisterWrite (fn : Nat) (target : WriteTarget) (value : Nat)
  /-- R454: A read of a local token's acquire address takes or reports the token. -/
  | localTokenAcquireRead (fn token : Nat)
  /-- R455: A read of a local token's wait alias takes it or registers a waiter. -/
  | localTokenWaitRead (fn token : Nat)
  /-- R457: The holder writes zero to release a local token. -/
  | localTokenReleaseWrite (fn token value : Nat)
  /-- R458: Writing zero to a wait alias removes the writer's registration. -/
  | tokenWaitCancelWrite (fn : Nat) (fabric : Bool) (index value : Nat)
  /-- R466: A read of a binding's acquire address sends ACQUIRE or returns the answer. -/
  | fabricBindingAcquireRead (fn binding : Nat)
  /-- R466: A read of a binding's wait alias sends WAIT or returns the answer. -/
  | fabricBindingWaitRead (fn binding : Nat)
  /-- R468: Writing zero releases a held binding and sends RELEASE to the home. -/
  | fabricBindingReleaseWrite (fn binding value : Nat)
  /-- R466: A home receives ACQUIRE and answers as a local acquire. -/
  | tokenMsgAcquire
  /-- R469: A home receives WAIT and registers or refreshes a waiter. -/
  | tokenMsgWait
  /-- R466: A home receives CANCEL and removes a waiter registration. -/
  | tokenMsgCancel
  /-- R468: A home receives RELEASE, hands the token on and acknowledges. -/
  | tokenMsgRelease
  /-- R470: A home receives RENEW, extends the lease and answers with top waiter priority. -/
  | tokenMsgRenew
  /-- R466: A requester's router receives ANSWER for its binding. -/
  | tokenMsgAnswer
  /-- R468: A waiter's router receives GRANT, answers GRANT_ACK and marks the binding held. -/
  | tokenMsgGrant
  /-- R468: A home receives GRANT_ACK confirming the new holder. -/
  | tokenMsgGrantAck
  /-- R467: An unanswered token request is resent with doubling wait. -/
  | tokenRequestRetry (binding : Nat)
  /-- R467: Token retries reach the horizon and the binding reports failed. -/
  | tokenRequestFail (binding : Nat)
  /-- R468: An unacknowledged RELEASE is sent again. -/
  | tokenReleaseResend (release : Nat)
  /-- R470: At every frame boundary RENEW is sent for each held binding. -/
  | tokenRenewSend (binding : Nat)
  /-- R469: At every frame boundary a waiting binding sends WAIT again. -/
  | tokenWaitResend (binding : Nat)
  /-- R471: A home with no RENEW for 4 ms releases the token with lost set. -/
  | tokenLeaseLapse (home : Nat)
  /-- R471: A GRANT without GRANT_ACK for 4 ms lapses. -/
  | tokenGrantLapse (home : Nat)
  /-- R472: A holder's router drops a binding 3 ms after its last answered RENEW. -/
  | tokenLeaseDrop (binding : Nat)
  /-- R52: A port whose root_seq has not advanced for 100 µs stops offering a root. -/
  | rootOfferTimeout (port : Nat)
  /-- R55: 5 ms in HOLDOVER and the router enters UNSYNC with fault TIME_UNSYNC. -/
  | holdoverExpiry
  /-- R56: A BACKUP with no better root for 1 ms announces itself as root. -/
  | backupTakeover
  /-- R49: A PPS rising edge aligns the root's fabric time or applies TIME_SET_SECONDS. -/
  | ppsEdge
  /-- R508: A fault source asserts, latches, is recorded and its reaction applied. -/
  | faultAssert (info : FaultInfo)
  /-- R514: A collector parity failure or miscompare sends the device to HALT. -/
  | collectorSelfFault (failedWord : Nat)
  /-- R537: After 100 µs of IDLE trains in HALT the fabric lanes power down. -/
  | haltLanesPowerDown
  /-- R574: After any pulse ends the HALT record is programmed to the reserved block. -/
  | haltRecordWrite
  /-- R508: A degraded block's accepted operations finish and CONTAIN is applied. -/
  | degradeDrainComplete (source : Nat)
  /-- R508: A degraded pool bank leaves the pool once its cells have left. -/
  | bankRetire (bank : Nat)
  /-- R528: Periodic scrub of the Junction buffer corrects and spares rows. -/
  | sramScrub (bank row corrected : Nat)
  /-- R528: Daily scrub of HBM corrects and repairs rows. -/
  | hbmScrub (stack row corrected : Nat)
  /-- R529: The standby pair finishes taking over and command service resumes. -/
  | lockstepTakeoverComplete
  /-- R503: The standby pair finishes loading and self-test during FW_ACTIVATE. -/
  | standbySelftestComplete (pass : Bool)
  /-- R592: Rails and RESET_N become good and the device leaves OFF for BRINGUP. -/
  | powerOn
  /-- R531: Loss of power takes the device to OFF. -/
  | powerLoss
  /-- R543: RESET_N held low 2 µs makes a device reset due, deferred or restarting BRINGUP. -/
  | resetNAssert
  /-- R548: RESET_N rises and the bring-up sequence starts at stage STRAP. -/
  | resetNRelease (code : Nat)
  /-- R548: A bring-up stage completes and the next stage begins. -/
  | bringupStageComplete
  /-- R548: PLLs not locked within 1 ms are retried every 10 ms. -/
  | pllLockRetry (locked : Bool)
  /-- R546: The watchdog expires and a device reset follows. -/
  | watchdogExpiry
  /-- R547: A die sensor at 112 °C asserts THERMTRIP_N and starts a device reset. -/
  | thermalTrip (sensor : Nat) (value : Int)
  /-- R547: Sensors below 95 °C for 1 s release the thermal reset. -/
  | thermalTripRelease
  /-- R604: A sensor crossing its warn threshold raises TELEMETRY_WARN and THERMAL_WARN. -/
  | telemetrySample (sensor : Nat) (value : Int)
  /-- R587: The FN6400 adjusts VDD_CORE over PMBus within its limits. -/
  | avsAdjust (target : Nat) (acked : Bool) (readback : Nat)
  /-- R588: PMB_ALERT_N low raises TELEMETRY_WARN. -/
  | pmbAlert
  /-- R560: A NAND program or erase ends and the next journal operation may start. -/
  | journalPulseComplete (ok : Bool)
  /-- R572: An evidence page is programmed 1 s after its first record. -/
  | evidencePageFlush
  /-- R565: Every hour of age clock a new anchor is written. -/
  | anchorHourlyWrite
  /-- R579: Daily patrol reads every page and refreshes worn or old blocks. -/
  | journalPatrol (block page : Nat) (mains spares : List (List Byte))
  /-- R227: A DMA read's completion does not arrive within the PCIe Completion Timeout range, AER logs Completion Timeout and the operation fails with HOST_ACCESS_ERROR subtype TIMEOUT, or a ring fetch is retried once. -/
  | completionTimeout (tag : Nat)
  /-- R227: A receiver error, bad TLP, bad DLLP or replay on a host link is recovered by PCIe link-level retry, reported as correctable in AER and counted in HPC_CORRECTABLE. -/
  | pcieCorrectableError (attachment : Nat)
  /-- R129: After switching at the codeword boundary, both ends finish deskew on the new lane mask, reach UP with it and resume DATA trains with unbroken sequence numbers; LINK_DEGRADED is raised and R84 applies. -/
  | laneChangeComplete (port : Nat)
  /-- R496: A NAND page read to cache and its quad read finish, feeding JOURNAL_READ's reply or the verification of a staged or activated image. -/
  | journalPageReadComplete (mains spares : List (List Byte))
  /-- R529: A control-core pair finishes its self-test after a lockstep takeover, or its reload after FW_ACTIVATE, and becomes standby if it passes, setting CC_STATUS.standby_ready. -/
  | failedPairSelfTestComplete (pass : Bool)
  deriving DecidableEq, Repr

end Sys2Proof
end

