-- ==== Sys2Proof/Decode.lean ====
section
/-! DEFINITION. The command that a word spells by the opcode table's bits. The FN6400 is a block: no row of
spec/opcode_table.json gives bits, so no word spells a command. Command packets are parsed in Machine/Packets.lean. -/
namespace Sys2Proof

def decodeTableWord (_nbits _w : Nat) : Option Instr := none

end Sys2Proof
end

