-- ==== Sys2Proof/Machine/State/Fabric.lean ====
section
/-! DEFINITION. State of the fabric half: fabric time and the Timetable unit (02_fabric_time.md), the fabric ports
(03_fabric_links.md), the Junction (04_cells_and_routing.md) and the Signal Box (05_signal_box.md). -/
namespace Sys2Proof.Machine

/-- A time role (R46), in the encoding of TT_ROLE.role. -/
inductive TimeRole where
  | FOLLOWER | ROOT | BACKUP
  deriving DecidableEq, Repr

/-- TT_SYNC.state, in the order of its values (02_fabric_time.md). -/
inductive SyncState where
  | UNSYNC | ACQUIRING | LOCKED | HOLDOVER | ROOT
  deriving DecidableEq, Repr

/-- One installed timetable reservation (R68 to R73). -/
structure Reservation where
  rate : Nat
  rank : Nat
  burst : Nat
  /-- 0 unicast, 1 multicast -/
  destKind : Nat
  hops : Nat
  sourceFn : Nat
  destFn : Nat
  source : Nat
  dest : Nat
  flight : Nat
  installTime : Nat
  /-- the egress parameter as installed -/
  egress : Nat
  /-- the fabric ports it is charged on now (R69, R84) -/
  ports : List Nat
  /-- the attachments it is charged on (R69) -/
  atts : List Nat
  suspended : Bool
  /-- the functions whose FUNCTION_DISABLE with FORCE holds it suspended (R239) -/
  forced : List Nat
  /-- flagged at risk by the router's sync state (R59) -/
  atRisk : Bool
  /-- the source bucket of R72 -/
  bucket : Nat
  demoted : Nat
  late : Nat
  /-- frame of its last TIMETABLE_RESENT (R77) -/
  resentFrame : Option Nat
  deriving DecidableEq, Repr

/-- A tick-driven block's boundaries and lag (R61 to R63). -/
structure Lag where
  /-- current boundary, ns -/
  boundary : Nat
  /-- current tick number -/
  tick : Nat
  /-- TICK_LATE raised, lag not yet zero -/
  late : Bool
  /-- TICK_LAG asserted, lag not yet zero: the block holds reservations at risk -/
  fault : Bool
  /-- DEGRADE reaction under way: no new best-effort work until lag is 1,000 ns or less -/
  degraded : Bool
  deriving DecidableEq, Repr

/-- The Timetable unit. Fabric time is kept in units of 2^-16 ns (R44). -/
structure TT where
  now : Nat
  /-- correction still to be slewed, 2^-16 ns units, and its limit in units per core cycle -/
  slewLeft : Int
  slewMax : Nat
  role : TimeRole
  priority : Nat
  sync : SyncState
  hops : Nat
  parent : Nat
  /-- last offset to the parent, signed, 2^-4 ns, saturated to 16 bits -/
  offset : Int
  rootPriority : Nat
  rootLocation : Nat
  /-- root_seq as this router last announced itself (R52) -/
  rootSeq : Nat
  /-- the highest root_seq heard on any port (R56, R58) -/
  heardSeq : Nat
  /-- R55: the last disciplined rate beside nominal, in 2^-16 ns per 8 ticks, and the part of it not yet applied -/
  rate : Int
  ratePart : Int
  /-- this router announces itself as root -/
  announcing : Bool
  /-- R58: given role ROOT while a root was offered; joins before announcing -/
  joining : Bool
  /-- R57: a ROOT that yielded announces again only after a new TIME_CONFIG -/
  yielded : Bool
  /-- R53: the one step in BRINGUP has been made -/
  stepped : Bool
  /-- consecutive exchanges within 40 ns -/
  goodExchanges : Nat
  /-- time HOLDOVER was entered -/
  holdoverSince : Nat
  /-- time when the last better root that a port offered and has since replaced stopped being offered (R56) -/
  noBetterSince : Nat
  ppsEn : Bool
  /-- time of the last PPS edge -/
  ppsLast : Option Nat
  /-- phase at the last edge, signed ns, saturated to 16 bits -/
  phase : Int
  /-- TIME_SET_SECONDS value waiting for a PPS edge (R47) -/
  pendingSeconds : Option Nat
  /-- TT_RESV_CFG.fraction -/
  fraction : Nat
  resv : Tbl Reservation
  lags : Tbl Lag
  /-- aggregate buckets of R187: (ingress, destination kind, destination) -/
  agg : List ((Nat × Nat × Nat) × Nat)
  deriving DecidableEq, Repr

/-- Link states, in the order of LK_STATUS.state (R119). -/
inductive LinkState where
  | DISABLED | TRAINING | HANDSHAKE | UP | HELD | FLUSHED | STANDBY
  deriving DecidableEq, Repr

/-- Where a stored cell lies (R112). -/
inductive Place where
  | reserve | pool | headroom
  deriving DecidableEq, Repr

/-- How a cell entered this router. -/
inductive Ingress where
  | port (p : Nat)
  | engine (n : Nat)
  /-- the control cores, the Token unit and the Roundhouse -/
  | cores
  deriving DecidableEq, Repr

/-- The queues of an egress (R185). -/
inductive Queue where
  | timetable
  | sq (n : Nat)
  | wq (n : Nat)
  deriving DecidableEq, Repr

/-- A cell queued at an egress: the cell as it arrived, the hop it takes next (VC, escape and dateline bits), and where it is
stored. The copies of a multicast cell share one buffer number (01_architecture.md: each cell is written once). -/
structure QCell where
  cell : WireCell
  /-- its header fields on the next hop -/
  vc : Nat
  esc : Bool
  dateline : Bool
  buf : Nat
  queue : Queue
  place : Place
  ingress : Ingress
  arrived : Nat
  /-- key of the reservation or the aggregate bucket that classified it, for the ladder order of R74: rank, install
  time, id -/
  ladder : Nat × Nat × Nat
  deriving DecidableEq, Repr

/-- A DATA train in the siding (R99). -/
structure SidingTrain where
  seq : Nat
  cells : List QCell
  /-- time of its last release -/
  released : Nat
  deriving DecidableEq, Repr

/-- What a partner last announced of its root (R52). -/
structure RootOffer where
  location : Nat
  priority : Nat
  seq : Nat
  hops : Nat
  noRoot : Bool
  /-- time root_seq last advanced -/
  advanced : Nat
  deriving DecidableEq, Repr

/-- The partner's last HELLO (R102). -/
structure Hello where
  location : Nat
  port : Nat
  role : Nat
  good : BitVec 8
  failed : BitVec 8
  resume : Bool
  rate : Nat
  incarnation : Nat
  peerIncarnation : Nat
  rxExpected : Nat
  sidingBase : Nat
  txNext : Nat
  flight : Nat
  deriving DecidableEq, Repr

/-- A lane-change request under way (R129). -/
structure LaneChange where
  failed : BitVec 8
  active : BitVec 8
  change : Nat
  deadline : Nat
  lastSent : Nat
  /-- begun by LINK_LANES_RESTORE (R131) -/
  restore : Bool
  /-- begun by the exposure rule (R118) -/
  exposure : Bool
  /-- an ACCEPT has been agreed; the ends are deskewing -/
  accepted : Bool
  deriving DecidableEq, Repr

/-- The partner's last SUMMARY (R102, R169). -/
structure Summary where
  poolFree : Nat
  vcFree : List Nat
  congestion : List Nat
  upMap : BitVec 64
  deriving DecidableEq, Repr

/-- A fabric port (03_fabric_links.md). -/
structure Port where
  state : LinkState
  rate : Nat
  active : BitVec 8
  failed : BitVec 8
  role : Nat
  peer : Nat
  /-- role and peer set by LINK_ROLE_SET since reset (R623) -/
  roleSet : Bool
  fHandshake : Nat
  fCurrent : Nat
  /-- frame boundaries in a row with E above the limit (R118) -/
  overExposed : Nat
  grace : Nat
  /-- grace deadline of a port that entered HELD and has not yet flushed (R123) -/
  graceDeadline : Option Nat
  /-- the port's retraining follows a flush: it comes up fresh (R124) -/
  flushed : Bool
  trainSince : Nat
  /-- lanes locked in this training (R119), and which of them can be driven -/
  locked : Bool
  good : BitVec 8
  /-- time of the last HELLO or KEEPALIVE sent -/
  lastHello : Option Nat
  /-- frame of the last exposure check (R118) -/
  exposureFrame : Option Nat
  txNext : Nat
  sidingBase : Nat
  rxExpected : Nat
  siding : List SidingTrain
  /-- sequence numbers of siding trains still to be released again (R107) -/
  replay : List Nat
  xoffIn : BitVec 8
  xoffOut : BitVec 8
  lastCause : Nat
  incarnation : Nat
  /-- partner incarnation last seen in UP -/
  peerIncarnation : Nat
  /-- time of the replay request now outstanding (R106) -/
  nakAt : Option Nat
  /-- reason of that request (R102) -/
  nakReason : Nat
  /-- a NAK is to be carried in the next train header -/
  nakDue : Bool
  /-- frame of the replay requests counted, and their counts by sequence number (R108) -/
  nakFrame : Nat
  nakCounts : Tbl Nat
  /-- DATA trains released, replays apart, since the link last came up fresh -/
  sentTrains : Nat
  lastRelease : Nat
  lastGood : Nat
  /-- violations in the frame: frame and count (R137) -/
  violFrame : Nat × Nat
  /-- violation notice due: code, seq, first 8 bytes (R138) -/
  notice : Option (Nat × Nat × Nat)
  noticeTick : Option Nat
  hello : Option Hello
  /-- time exchanges completed in this HANDSHAKE -/
  exchanges : Nat
  /-- the exchange outstanding: number and t1 -/
  exchange : Option (Nat × Nat)
  exchangeNo : Nat
  lastTimeSend : Option Nat
  offer : Option RootOffer
  change : Option LaneChange
  changeNo : Nat
  /-- the last LANE_CHANGE answered: change number and the answer's step, failed and active -/
  answered : Option (Nat × Nat × BitVec 8 × BitVec 8)
  /-- deadline of the LINK_DISABLE drain (R132), and its cause code -/
  drain : Option (Nat × Nat)
  /-- held DISABLED by a DEGRADE reaction (R508) -/
  degraded : Bool
  summary : Option Summary
  lastSummary : Option Nat
  /-- cells chosen by the egress for the next trains -/
  txReady : List QCell
  /-- host equalisation settings by lane: pre, main, post (R94) -/
  module : Tbl (Nat × Nat × Nat)
  deriving DecidableEq, Repr

/-- A station route entry, JN_ROUTE_s; directions 1 +, 2 -, 3 both. -/
structure Route where
  valid : Bool
  dx : Nat
  dy : Nat
  dz : Nat
  deriving DecidableEq, Repr

/-- A multicast group entry, JN_MCAST_g. -/
structure McastEntry where
  ingress : Nat
  mask : BitVec 80
  deriving DecidableEq, Repr

/-- The Junction (04_cells_and_routing.md). -/
structure JN where
  /-- ROUTE_TOPOLOGY_SET has been applied since reset (R184) -/
  topology : Bool
  nx : Nat
  ny : Nat
  nz : Nat
  routers : Nat
  location : Nat
  datelineX : Nat
  datelineY : Nat
  datelineZ : Nat
  detourEn : Bool
  downWeight : Nat
  detourPenalty : Nat
  escapeWait : Nat
  alpha : Nat
  /-- pool banks retired (R508), of 1 MiB each -/
  banksGone : List Nat
  /-- banks that leave once their cells have left -/
  banksLeaving : List Nat
  /-- reassembly quotas that differ from 64, by attachment -/
  quota : Tbl Nat
  /-- route entries that ROUTE_ENTRY_SET has changed; the others follow from the topology (R167) -/
  routes : Tbl Route
  mcast : Tbl McastEntry
  /-- tags of groups whose sender record was removed, resting until a time (R159) -/
  mcastRest : Tbl (Tbl Nat)
  /-- the rotating pointer of R170 and the turn of R177 -/
  turn : Nat
  /-- model's own: number of the next stored cell's buffer -/
  nextBuf : Nat
  deriving DecidableEq, Repr

/-- An egress of the Signal Box (R185): its cells in order of arrival, the deficits and the weights. -/
structure Egress where
  cells : List QCell
  deficit : List Nat
  pointer : Nat
  /-- the weighted queue at the pointer has been credited and is being served (R192) -/
  visiting : Bool
  quantum : Tbl Nat
  burst : Tbl Nat
  /-- priority-lane cells admitted: fabric tick and count (R80) -/
  lane : Nat × Nat
  deriving DecidableEq, Repr

/-- What a function may inject within its engine's grant, in cells by class (R194). -/
structure FnGrant where
  lane : Nat
  strict : Nat
  weighted : Nat
  deriving DecidableEq, Repr

/-- A grant of one engine for one tick, in cells by class (R193): the timetable class, and the other three by function. -/
structure Grant where
  tick : Nat
  timetable : Nat
  fns : Tbl FnGrant
  deriving DecidableEq, Repr

/-- A live change that waits for the Signal Box's next tick boundary (R207). -/
inductive SbChange where
  | sched (fn baseLevel : Nat) (laneEn : Bool) (share dwq : Nat)
  | shaper (fn minRate maxRate : Nat)
  | policer (fn cls : Nat) (enable : Bool) (action cir pir cbs pbs : Nat)
  | weight (egress queue quantum burst : Nat)
  | map (level transit : Nat)
  | yellow (mib : Nat)
  | inherited (fn level : Nat)
  deriving DecidableEq, Repr

/-- The meters of a function destroyed in the minute (R204, R205). -/
structure Ghost where
  fn : Nat
  gen : Nat
  createdMinute : Nat
  meters : List Nat
  deriving DecidableEq, Repr

/-- The Signal Box (05_signal_box.md); the per-function settings stand with the function. -/
structure SB where
  yellowMib : Nat
  levelMap : BitVec 64
  transitMap : BitVec 64
  ringBase : Nat
  ringEnable : Bool
  ringLog2 : Nat
  ringProd : Nat
  ringCons : Nat
  /-- minute in which METER_RING_FULL was last raised -/
  ringFullMinute : Option Nat
  /-- last minute snapshotted -/
  lastMinute : Nat
  egresses : Tbl Egress
  /-- grants of each engine, oldest first: those of ticks that the engine has not passed (R37) -/
  grants : Tbl (List Grant)
  changes : List SbChange
  /-- functions destroyed in the minute, with their meters (R204) -/
  ghosts : List Ghost
  deriving DecidableEq, Repr

end Sys2Proof.Machine
end

