-- ==== Sys2Proof/Machine/State/Host.lean ====
section
/-! DEFINITION. State of the host side: host ports and attachments, functions (06_host_ports.md), their rings and
completion counters (07_work_rings.md), and their per-function settings of the Signal Box (05_signal_box.md). -/
namespace Sys2Proof.Machine

/-- HPC_ATT_LINK.state, in the order of its values; UNASSIGNED follows from the split. -/
inductive AttState where
  | DOWN | TRAINING | UP | SLOW
  deriving DecidableEq, Repr

/-- A translation that an attachment's ATS cache holds (R208, R228): a page of a function's address space, and the page that the host
answered with. -/
structure AtsEntry where
  fn : Nat
  page : Nat
  target : Nat
  deriving DecidableEq, Repr

/-- An ATS invalidation whose completion waits for reads that used the translation and are still to be sent (R228): address, the reads' tags,
and the time by which it completes in any case. -/
structure AtsInval where
  addr : Nat
  tags : List Nat
  due : Nat
  deriving DecidableEq, Repr

/-- A PCIe attachment (06_host_ports.md). -/
structure Att where
  state : AttState
  speed : Nat
  width : Nat
  flit : Bool
  vfLimit : Nat
  /-- the host's VF Enable and NumVFs (R219) -/
  vfEnable : Bool
  numVfs : Nat
  /-- base the host has set in VF BAR0/1 (R222), zero before -/
  vfBar : Nat
  /-- translations in the ATS cache, oldest first (R208, R228), and invalidations not yet completed -/
  ats : List AtsEntry
  invals : List AtsInval
  /-- Max Payload Size and Max Read Request Size that the host has programmed, in bytes (R208) -/
  maxPayload : Nat
  maxRead : Nat
  /-- ASPM L1.2 enabled by the host (R535) -/
  l12 : Bool
  /-- a CONTAIN of its engine or host port is under way (R510) -/
  contained : Bool
  deriving DecidableEq, Repr

/-- A host port. -/
structure HostPort where
  /-- 0 one x16, 1 two x8 -/
  split : Nat
  nextSplit : Nat
  strapSplit : Nat
  perst : Bool
  /-- out of service, and draining before that, after a DEGRADE (R508) -/
  degraded : Bool
  draining : Bool
  deriving DecidableEq, Repr

/-- Function states, in the order of HPC_SELF_STATE.state (R233); NONE is the absence of an entry. -/
inductive FnState where
  | READY | RUNNING | RESETTING | HALTED | FREEZING | FROZEN
  deriving DecidableEq, Repr

/-- Ring states (07_work_rings.md); UNSET is the absence of an entry. -/
inductive RingState where
  | ACTIVE | WAITING | FROZEN
  deriving DecidableEq, Repr

/-- Why acceptance stands still at a ring's next entry: no in-flight place (R313), or no room on the posted list (R381). -/
inductive Stall where
  | place | posted
  deriving DecidableEq, Repr

/-- Completion statuses, in the order of their values (R270). -/
inductive Final where
  | SUCCESS | HORIZON_EXPIRED | POLICED | HOST_ACCESS_ERROR | BAD_RANK | REMOTE_ACCESS_VIOLATION
  | LOCAL_ACCESS_VIOLATION | STALE_ROLE | REMOTE_REFUSED | COLLECTIVE_FAILED | CANCELLED | TRUNCATED
  | CHAIN_BROKEN | UNIT_ABSENT | MALFORMED
  deriving DecidableEq, Repr

/-- A final status with its subtype and detail (R270) and the time it was reached. -/
structure Outcome where
  status : Final
  subtype : Nat
  detail : Nat
  time : Nat
  deriving DecidableEq, Repr

/-- An accepted entry of a ring that has not retired (R267). -/
structure Entry where
  opcode : Nat
  hdr : DescHdr
  /-- generation at acceptance -/
  gen : Nat
  outcome : Option Outcome
  deriving DecidableEq, Repr

/-- Retirements not yet published (R268): entries that failed and entries retired, and whether one of these had irq set. -/
structure Unpublished where
  failed : Nat
  retired : Nat
  irq : Bool
  deriving DecidableEq, Repr

/-- A ring of a function (R251 to R277). -/
structure Ring where
  /-- 0 WORK, 1 EVENT, 2 ERROR, 3 ADMIN -/
  kind : Nat
  base : Nat
  indexAddr : Nat
  log2 : Nat
  irqEn : Bool
  vector : Nat
  pd : Nat
  rankTable : Nat
  state : RingState
  /-- 0 none, 1 MALFORMED, 2 FETCH -/
  cause : Nat
  /-- the producer (WORK, ADMIN) or consumer (EVENT, ERROR) last read from the index block -/
  producer : Nat
  /-- next unaccepted index (WORK, ADMIN); producer (EVENT, ERROR) -/
  next : Nat
  done : Nat
  /-- error_tally or lost -/
  tally : Nat
  /-- accepted, unretired entries by index, oldest first -/
  entries : List (Nat × Entry)
  /-- acceptance stands still -/
  stalled : Option Stall
  /-- a producer index read is outstanding (R261), and one more is due -/
  reading : Bool
  again : Bool
  /-- descriptors are being fetched: the index after the last one asked for -/
  fetching : Option Nat
  /-- the failed read of the index block has been retried once, and that of descriptors (R277) -/
  retried : Bool
  retriedDesc : Bool
  /-- the first index beyond the limit of R259, as a producer index has been read while the ring did not accept (R273) -/
  overrun : Option Nat
  /-- retirements whose error records wait for room on the ERROR ring: steps 2 to 4 of R268 follow them -/
  unpublished : Option Unpublished
  /-- a doorbell recorded while WAITING (R263) -/
  bell : Bool
  /-- R492: the ring accepts no further entry and becomes UNSET when its entries retire -/
  closing : Bool
  /-- frame in which EVENT_RING_FULL or ERROR_RING_FULL was last raised -/
  fullFrame : Option Nat
  /-- records that found no room by the consumer index last read, oldest first: they wait for that index to be read again (R272) -/
  held : List (List Byte)
  deriving DecidableEq, Repr

/-- A completion counter (R278, R279). -/
structure Counter where
  value : Nat
  broken : Bool
  mirror : Nat
  deriving DecidableEq, Repr

/-- An MSI-X table entry (R226). -/
structure Vector where
  addr : Nat
  data : Nat
  masked : Bool
  pending : Bool
  deriving DecidableEq, Repr

/-- A policer of RFC 2698 with the changes of R195; bucket fills in 2^-8 cells. -/
structure Policer where
  enable : Bool
  /-- 0 DELAY, 1 DISCARD_NOTIFY -/
  action : Nat
  cir : Nat
  pir : Nat
  cbs : Nat
  pbs : Nat
  tc : Nat
  tp : Nat
  deriving DecidableEq, Repr

/-- The Signal Box settings of a function (R196, R200). Rates and buckets in 2^-8 cells. -/
structure Sched where
  baseLevel : Nat
  laneEn : Bool
  share : Nat
  dwq : Nat
  inherited : Nat
  minRate : Nat
  maxRate : Nat
  minBucket : Nat
  maxBucket : Nat
  lane : Policer
  strict : Policer
  weighted : Policer
  deriving DecidableEq, Repr

/-- A setup action in progress (R255, R257). -/
structure Setup where
  action : Nat
  target : Nat
  /-- DMA tag of the record read -/
  tag : Nat
  deriving DecidableEq, Repr

/-- A communicator of a function (R359). -/
structure Comm where
  rankTable : Nat
  domain : Nat
  ownRank : Nat
  deriving DecidableEq, Repr

/-- A reset, or the steps of R235 under a disable, a destroy or a halt, awaiting its reset point (R237). -/
structure ResetRec where
  oldGen : Nat
  /-- state the function ends in -/
  ends : FnState
  /-- a reset of its host port (R245, R247) -/
  port : Bool
  deriving DecidableEq, Repr

/-- Congestion state of a flow that a restored function reopens on first use (R243). -/
structure SavedFlow where
  endpoint : Nat
  dstFn : Nat
  domain : Nat
  ordered : Bool
  cwnd : Nat
  srtt : Nat
  deriving DecidableEq, Repr

/-- A function that exists (R216 to R244). -/
structure Fn where
  att : Nat
  vf : Nat
  vectors : Nat
  staging : Nat
  fabricTokens : Nat
  resvSlots : Nat
  ringQuota : Nat
  ctxQuota : Nat
  state : FnState
  /-- 0 none, 1 MALFORMED, 2 FAULT, 3 BUS_MASTER, 4 HOST_LINK -/
  cause : Nat
  busMaster : Bool
  atomicEnable : Bool
  atsEnable : Bool
  /-- bases the host has set in BAR0/1 and BAR2/3 (R222), zero before -/
  bar0 : Nat
  bar2 : Nat
  msixEnable : Bool
  msixMask : Bool
  msix : Tbl Vector
  /-- a larger vector grant that waits for the next FLR (R231) -/
  tableSize : Nat
  horizonMs : Nat
  resetRec : Option ResetRec
  /-- deadline of the freeze (R241) -/
  freeze : Option Nat
  freezeTime : Nat
  freezeGen : Nat
  /-- doorbells recorded, not served (R233, R534) -/
  bells : List Nat
  rings : Tbl Ring
  counters : Tbl Counter
  setupAddr : Nat
  counterValue : Nat
  setup : Option Setup
  /-- PE_SETUP_STATUS ring_state, cause, status -/
  setupState : Nat
  setupCause : Nat
  setupStatus : Nat
  /-- EVENT ring of each routed event (R522) -/
  routes : Tbl Nat
  sched : Sched
  /-- FUNCTION_CC_SET: target, alpha, beta, init, max (R334) -/
  ccTarget : Nat
  ccAlpha : Nat
  ccBeta : Nat
  ccInit : Nat
  ccMax : Nat
  /-- matching context (R358): enabled, log2_comms, backoff and limits -/
  matchEn : Bool
  log2Comms : Nat
  backoff : Nat
  postedMax : Nat
  unexpectedMax : Nat
  unexpectedKib : Nat
  comms : Tbl Comm
  /-- frames in which MATCH_UNEXPECTED_FULL and MATCH_POSTED_FULL were last raised -/
  unexpectedFullFrame : Option Nat
  postedFullFrame : Option Nat
  /-- minute of creation (R205) -/
  createdMinute : Nat
  /-- frame of the last occupancy sample (R202) -/
  occFrame : Option Nat
  savedFlows : List SavedFlow
  deriving DecidableEq, Repr

/-- A generation of a function number and the frame in which it last changed (R220, R221); kept across destroy. -/
structure Gen where
  gen : Nat
  frame : Option Nat
  /-- changes held to a later frame boundary (R221) -/
  held : Nat
  /-- the value that the next held change sets, where it is not the next one in order (R243) -/
  goal : Option Nat
  deriving DecidableEq, Repr

end Sys2Proof.Machine
end

