-- ==== Sys2Proof/Machine/State/Control.lean ====
section
/-! DEFINITION. State of the control cores (14_commands.md), the Fault collector, event and violation logs
(15_faults_events.md), the reset controller (16_modes_reset.md) and the package's sensors (18_package.md). -/
namespace Sys2Proof.Machine

/-- What a waiting command waits for (R493). -/
inductive Wait where
  | fnReset (fn : Nat)
  | fnDisable (fn : Nat)
  | fnDestroy (fn : Nat)
  | freeze (fn : Nat)
  | save (fn : Nat)
  | restore (fn : Nat)
  | revoke (domain id : Nat)
  | modify (domain id : Nat)
  | dirty (domain id : Nat)
  /-- a window command's turn on its window (R299) -/
  | window (domain id : Nat)
  | engineReset (att : Nat)
  | linkDisable (port : Nat)
  | drain
  | forward (transfer : Nat)
  | journal
  | wake
  | activate
  /-- a FUNCTION_CREATE whose generation change is held to the next frame boundary (R217) -/
  | create (fn : Nat)
  deriving DecidableEq, Repr

/-- A command in progress: its packet (as the row it is) and what it waits for. -/
structure Waiting where
  instr : Instr
  hdr : CmdHdr
  opcode : Nat
  on : Wait
  deriving DecidableEq, Repr

/-- A kept reply (R491). -/
structure Kept where
  instr : Instr
  hdr : CmdHdr
  reply : List Byte
  deriving DecidableEq, Repr

/-- A CONTROL transfer being assembled (R488). -/
structure Assembly where
  source : Nat
  transfer : Nat
  /-- 1 COMMAND, 2 REPLY -/
  cls : Nat
  /-- fragments received: number and 56 bytes -/
  frags : List (Nat × List Byte)
  /-- number of the last fragment, once received -/
  last : Option Nat
  at_ : Nat
  deriving DecidableEq, Repr

/-- A COMMAND_FORWARD in progress (R490). -/
structure Forward where
  location : Nat
  packet : List Byte
  sent : Nat
  deadline : Nat
  deriving DecidableEq, Repr

/-- States of a firmware slot, in the order of CC_FW_SLOT_s.state. -/
inductive SlotState where
  | EMPTY | VALID | INVALID | STAGING
  deriving DecidableEq, Repr

/-- A firmware slot of the journal store (R500); the image counts by what its verification found. -/
structure Slot where
  version : Nat
  security : Nat
  state : SlotState
  deriving DecidableEq, Repr

/-- An open firmware stage (R502). -/
structure Stage where
  slot : Nat
  length : Nat
  data : Tbl Byte
  /-- a sector of the image as programmed cannot be read -/
  spoilt : Bool
  deriving DecidableEq, Repr

/-- The control cores. -/
structure CC where
  activePair : Bool
  standbyReady : Bool
  /-- the pair that is not serving runs its self-test or reload -/
  reloading : Bool
  running : Nat
  boot : Nat
  stage : Option Stage
  /-- a command that is not a waiting command and has not ended yet: commands that arrive are held (R216, R217, R493) -/
  pause : Option Waiting
  /-- a lockstep takeover (R529), until its time -/
  takeover : Option Nat
  /-- commands held meanwhile, oldest first -/
  held : List Instr
  waiting : List Waiting
  kept : List Kept
  eid : Nat
  address : Nat
  addressValid : Bool
  remote : List Nat
  remoteEn : Nat
  assemblies : List Assembly
  forwards : Tbl Forward
  nextTransfer : Nat
  /-- CONTROL cells stored for the control cores, oldest first (R112, R487) -/
  controlIn : List QCell
  /-- COMMAND entries' reply buffers: handle of the in-flight place to function, address and length (R481) -/
  adminReply : Tbl (Nat × Nat × Nat)
  deriving DecidableEq, Repr

/-- Severities in the encoding of R507. -/
inductive Severity where
  | LOG | CONTAIN | DEGRADE | HALT
  deriving DecidableEq, Repr

/-- An event record before its route (R520): number, function, detail. -/
structure EventKey where
  event : Nat
  fn : Nat
  detail : Nat
  deriving DecidableEq, Repr

/-- The Fault collector, the event log and the violation log. -/
structure FC where
  /-- latched sources, in rising order -/
  latched : List Nat
  /-- severities that differ from the default of R506 -/
  severity : Tbl Severity
  /-- frame of the last record of a source (R510) -/
  recordFrame : Tbl Nat
  selfFault : Bool
  failedWord : Nat
  /-- bytes 0-15 of the last fault record -/
  last : List Byte
  /-- spare rows used, by bank; rows corrected once: bank, row, time -/
  sparesUsed : Tbl Nat
  corrected : List (Nat × Nat × Nat)
  /-- HBM repair rows left by stack, and rows corrected once: stack, row, time -/
  repairs : Tbl Nat
  hbmCorrected : List (Nat × Nat × Nat)
  /-- soft repairs to be made permanent at the next BRINGUP (R528) -/
  softRepairs : List (Nat × Nat)
  evHead : Nat
  evLog : Tbl (List Byte)
  vHead : Nat
  vLog : Tbl (List Byte)
  /-- violation entries written since the hold began (R519) -/
  holdWritten : Nat
  /-- events raised in the current tick, for the merging of R525 -/
  tickEvents : Nat × List EventKey
  deriving DecidableEq, Repr

/-- Operating modes (R530), in the order of their values. -/
inductive Mode where
  | OFF | BRINGUP | SERVICE | DRAIN | HEATH | HALT
  deriving DecidableEq, Repr

/-- Bring-up stages (R548), in the order of their values; DONE reads 0xF. -/
inductive BootStage where
  | STRAP | FUSE | PLL | SRAM | BOOT | HBM | LINKS | CONFIG | AWAIT | DONE
  deriving DecidableEq, Repr

/-- A GPIO pin's configuration (R555). -/
structure Gpio where
  level : Bool
  pull : Nat
  fn : Nat
  input : Bool
  deriving DecidableEq, Repr

/-- A die sensor (18_package.md). -/
structure Sensor where
  value : Int
  warn : Int
  valid : Bool
  above : Bool
  deriving DecidableEq, Repr

/-- The reset controller, the modes and the pins. -/
structure RST where
  mode : Mode
  stage : BootStage
  cause : Nat
  modeAtReset : Nat
  restartStage : Nat
  restartCause : Nat
  source : Nat
  /-- a device reset that awaits the end of a journal pulse: cause and source (R544) -/
  deferred : Option (Nat × Nat)
  drained : Bool
  watchdog : Bool
  strapFault : Bool
  strapChoice : Nat
  strapCode : Nat
  hostWake : Bool
  periodMs : Nat
  /-- RESET_N is low -/
  resetN : Bool
  /-- the thermal trip of R547 holds the device in reset -/
  thermalHold : Bool
  /-- time of the trip, or of the last reading of 95 °C or more since -/
  hotAt : Nat
  /-- time HALT was entered -/
  haltAt : Nat
  /-- the HALT record has been written (R516) -/
  haltRecorded : Bool
  /-- PLLs not locked: time of the next try (R548) -/
  pllRetry : Option Nat
  /-- no valid image was found at boot (R539) -/
  noImage : Bool
  /-- a wake source was recorded: time by which SERVICE is due (R536, R589) -/
  wake : Option Nat
  gpio : Tbl Gpio
  deriving DecidableEq, Repr

end Sys2Proof.Machine
end

