-- ==== Sys2Proof/Machine/State/Flow.lean ====
section
/-! DEFINITION. State of the endpoint engines: reassembly (04_cells_and_routing.md), operations in flight, flows, multicast
records and flow contexts (09_remote_operations.md), matching lists (10_matching.md), rank tables and the DMA reads
outstanding. -/
namespace Sys2Proof.Machine

/-- A complete parcel as handed on by reassembly (R147, R156). -/
structure Parcel where
  mcast : Bool
  /-- zero for a tagless SINGLE -/
  tag : Nat
  cells : Nat
  flow : Nat
  roleGen : Nat
  op : Nat
  seq : Nat
  length : Nat
  sendTime : Nat
  /-- bytes 12-23 of the header -/
  area : List Byte
  data : List Byte
  /-- low 32 bits of fabric time at completion minus send_time (R330) -/
  delay : Nat
  deriving DecidableEq, Repr

/-- Who a reassembly tag is granted to (R150, R327, R392). -/
inductive TagOwner where
  /-- a destination flow of this engine -/
  | flow (d : Nat)
  /-- the response to request `seq` of source flow `f` -/
  | response (f seq : Nat)
  /-- an edge of a collective group: child number, or 0xFF for the parent -/
  | edge (group edge : Nat)
  deriving DecidableEq, Repr

/-- An open reassembly entry: recorded cells by index, the time of the last (R153, R157) and that of the tail (R78). -/
structure Reasm where
  cells : Tbl WireCell
  last : Nat
  tailAt : Nat
  deriving DecidableEq, Repr

/-- A tag that is not FREE (R151). -/
structure Tag where
  owner : TagOwner
  /-- QUARANTINE, until this time -/
  quarantine : Option Nat
  entry : Option Reasm
  /-- R152: a NACK RETRY_AFTER has been sent and no cell accepted since -/
  nacked : Bool
  deriving DecidableEq, Repr

/-- The classes of a grant (R193). -/
inductive Class where
  | timetable | lane | strict | weighted
  deriving DecidableEq, Repr

/-- A parcel of a source: waiting to leave, being sent or unanswered (R316, R335). -/
structure OutParcel where
  seq : Nat
  op : Nat
  /-- in-flight place of its operation; none for the parcels of R618 -/
  place : Option Nat
  roleGen : Nat
  area : List Byte
  /-- offset within the operation of its first data byte, and its data bytes -/
  offset : Nat
  length : Nat
  /-- data that stands before what is read from host memory (R372) -/
  lead : List Byte
  /-- the data as it goes on the wire, once it is at hand -/
  data : Option (List Byte)
  /-- pieces of its data still being read: DMA tags, in order -/
  reads : List Nat
  /-- pieces read so far, by DMA tag -/
  pieces : Tbl (List Byte)
  /-- the map of its first sending as PUT_ELIDED (R443) -/
  map : Option (List Byte)
  tag : Nat
  respTag : Option Nat
  /-- cells it counts against cwnd (R331) -/
  cells : Nat
  /-- built cells not yet injected -/
  left : List WireCell
  /-- times its head has been released -/
  sendings : Nat
  released : Nat
  /-- when its timeout ends; none before its release -/
  timeout : Option Nat
  /-- back-off: resend at this time; true for RESOURCE, false for RETRY_AFTER -/
  retryAt : Option (Nat × Bool)
  /-- last RESOURCE wait, ticks (R380) -/
  wait : Nat
  /-- must be (re)sent -/
  due : Bool
  /-- colour of its metering (R195): 0 green, 1 yellow, 2 red; none before it asks -/
  colour : Option Nat
  /-- R618: time of its first sending -/
  first : Option Nat
  /-- member index of a repair (R355) -/
  member : Nat
  deriving DecidableEq, Repr

/-- What waits to be cut into parcels on a flow, in order: an operation by its place, or a parcel that belongs to none (R618). -/
inductive Job where
  | op (place : Nat)
  | parcel (p : OutParcel)
  deriving DecidableEq, Repr

/-- States of a source flow. -/
inductive FlowState where
  | OPENING | OPEN | REOPENING | CLOSING
  deriving DecidableEq, Repr

/-- A source flow (R318). -/
structure SrcFlow where
  fn : Nat
  endpoint : Nat
  dstFn : Nat
  domain : Nat
  ordered : Bool
  /-- generations: the source function's, and the destination's that the OPEN carried -/
  gen : Nat
  roleGen : Nat
  state : FlowState
  dstFlow : Nat
  nextSeq : Nat
  queue : List Job
  parcels : List OutParcel
  /-- the OPEN or reopen awaiting its answer -/
  opening : Option OutParcel
  tags : List Nat
  cwnd : Nat
  srtt : Nat
  lastCut : Option Nat
  /-- timeouts in a row with no answer between (R336) -/
  timeouts : Nat
  /-- sequence numbers of atomics sent since the oldest unacknowledged one (R344) -/
  atomics : List Nat
  lastUse : Nat
  deriving DecidableEq, Repr

/-- A destination flow (R320). -/
structure DstFlow where
  endpoint : Nat
  srcFn : Nat
  srcFlow : Nat
  srcGen : Nat
  fn : Nat
  gen : Nat
  domain : Option Nat
  ordered : Bool
  base : Nat
  /-- sequence numbers at or above base that are done -/
  done : List Nat
  /-- sequence numbers now being carried out -/
  busy : List Nat
  tags : List Nat
  staged : List Parcel
  /-- results of the last 64 atomics, newest first (R345) -/
  results : List (Nat × Nat)
  /-- final NACKs kept for repetition: sequence number, kind, subtype and detail -/
  finals : List (Nat × Nat × Nat × Nat)
  violFrame : Option Nat
  /-- tags its OPEN asked for: further ones are granted in ACKs up to that number (R320, R324) -/
  want : Nat
  deriving DecidableEq, Repr

/-- The source of a flow that this engine held and has given up: whom a parcel that still names its id is answered (R322, R324). -/
structure Origin where
  endpoint : Nat
  fn : Nat
  flow : Nat
  gen : Nat
  deriving DecidableEq, Repr

/-- A parcel being placed: the writes translated and not yet handed to the host port (R35, R297). -/
structure Placing where
  /-- the client that translated it: the engine, or the Baler (R442) -/
  client : Nat
  fn : Nat
  domain : Nat
  window : Nat
  winGen : Nat
  offset : Nat
  data : List Byte
  writes : List (Nat × List Byte)
  /-- cut off by a revocation (R298) -/
  cut : Bool
  /-- cancelled by an invalidation that keeps the generation: to be translated again (R298) -/
  redo : Bool
  /-- destination flow and sequence number then done -/
  flow : Option (Nat × Nat)
  /-- group and sequence number of the member record then done (R354) -/
  member : Option (Nat × Nat)
  tag : Nat
  delay : Nat
  deriving DecidableEq, Repr

/-- A request whose data is being read at the target (R327, R374). -/
structure Serving where
  flow : Nat
  seq : Nat
  /-- response tag -/
  tag : Nat
  delay : Nat
  reads : List Nat
  pieces : Tbl (List Byte)
  deriving DecidableEq, Repr

/-- An atomic carried out at the target, or waiting for an earlier one on its address (R342). -/
structure AtomicJob where
  flow : Nat
  seq : Nat
  delay : Nat
  addr : Nat
  /-- the access that was translated: domain, window, its generation, offset -/
  domain : Nat
  window : Nat
  winGen : Nat
  offset : Nat
  op : Nat
  width : Nat
  operand : Nat
  compare : Nat
  /-- DMA tag of its read or AtomicOp, once issued -/
  dma : Option Nat
  /-- issued as a PCIe AtomicOp -/
  pcie : Bool
  deriving DecidableEq, Repr

/-- A multicast parcel of a sender (R353 to R355). -/
structure McastOut where
  seq : Nat
  place : Nat
  offset : Nat
  length : Nat
  data : Option (List Byte)
  reads : List Nat
  pieces : Tbl (List Byte)
  tag : Nat
  cells : Nat
  left : List WireCell
  released : Nat
  timeout : Option Nat
  /-- members that have acknowledged it -/
  acked : List Nat
  sendings : Nat
  colour : Option Nat
  deriving DecidableEq, Repr

/-- A sender record (R351). -/
structure Sender where
  fn : Nat
  rankTable : Nat
  first : Nat
  count : Nat
  seq : Nat
  srtt : Nat
  out : List McastOut
  /-- tags in use or resting until a time (R159) -/
  resting : Tbl Nat
  deriving DecidableEq, Repr

/-- A member record (R352). -/
structure Member where
  fn : Nat
  sender : Nat
  senderFn : Nat
  index : Nat
  domain : Nat
  window : Nat
  gen : Nat
  base : Nat
  done : List Nat
  busy : List Nat
  /-- frame of the last TARGET_ACCESS_VIOLATION (R349) -/
  violFrame : Option Nat
  deriving DecidableEq, Repr

/-- Something that waits in the park buffer for a flow context (R347). -/
inductive Parked where
  | parcel (p : Parcel)
  | answer (c : WireCell)
  deriving DecidableEq, Repr

/-- Cells that an engine sends for a function outside the parcels of its flows, waiting for a grant (R193): an ACK, a NACK, or the
GET_RESP parcel, which alone is metered (R195). -/
structure OutAnswer where
  fn : Nat
  cells : List WireCell
  parcel : Bool
  colour : Option Nat
  deriving DecidableEq, Repr

/-- An endpoint engine. -/
structure Engine where
  tags : Tbl Tag
  /-- multicast entries by group × 65,536 + tag (R158) -/
  mreasm : Tbl Reasm
  /-- cells delivered by the ejection egress, oldest first -/
  ejected : List WireCell
  /-- complete parcels handed on, oldest first -/
  handed : List Parcel
  placing : List Placing
  serving : List Serving
  atomics : List AtomicJob
  src : Tbl SrcFlow
  dst : Tbl DstFlow
  gone : Tbl Origin
  parked : List (Nat × Bool × Parked)
  /-- oldest first -/
  answers : List OutAnswer
  senders : Tbl Sender
  members : Tbl Member
  /-- flow ids are given out in turn: the next of each kind -/
  nextSrc : Nat
  nextDst : Nat
  /-- out of service after a DEGRADE (R508); a drain is under way -/
  degraded : Bool
  draining : Bool
  /-- frame of the last FLOW_QUOTA_FULL (R321) -/
  quotaFrame : Option Nat
  deriving DecidableEq, Repr

/-- Progress of an operation in flight. -/
inductive Phase where
  /-- behind a FENCE, or without a flow, tag or place to send: nothing sent yet (R314, R323) -/
  | waiting
  | sending
  /-- PUT_WITH_SIGNAL: every data parcel acknowledged, SIGNAL sent -/
  | signalled
  /-- RECV on the posted list -/
  | posted
  /-- RECV matched; a rendezvous pull from this source flow under the handle, message length, source rank, tag, match time -/
  | pulling (flow handle total rank tag match_ : Nat)
  /-- RECV matched by an eager message that is being placed: total length, source rank, tag, match time -/
  | delivering (total rank tag match_ : Nat)
  /-- COMMAND: packet being read, or executing -/
  | reading
  | executing
  /-- COLLECTIVE accepted -/
  | collective
  deriving DecidableEq, Repr

/-- An operation in flight (R313). -/
structure Op where
  fn : Nat
  ring : Nat
  index : Nat
  gen : Nat
  hdr : DescHdr
  area : DescArea
  deadline : Nat
  phase : Phase
  /-- engine-local source flow it sends on -/
  flow : Option Nat
  /-- its destination, from the rank table (R163), and the domain of its flow -/
  dest : Nat
  destFn : Nat
  roleGen : Nat
  domain : Nat
  /-- bytes cut into parcels so far, and parcels not yet acknowledged -/
  cut : Nat
  open_ : Nat
  /-- bytes delivered (GET, RECV) -/
  delivered : Nat
  resends : Nat
  /-- parcels of it sent (R197) -/
  sent : Nat
  deriving DecidableEq, Repr

/-- An unexpected message (R366). -/
structure Unexpected where
  comm : Nat
  rank : Nat
  tag : Nat
  /-- eager data; none for an announcement -/
  data : Option (List Byte)
  length : Nat
  handle : Nat
  /-- the sender's deadline, ns -/
  deadline : Nat
  endpoint : Nat
  srcFn : Nat
  srcGen : Nat
  deriving DecidableEq, Repr

/-- The matching lists of a function (R364): in-flight places of posted RECVs in posting order, and the unexpected list in
arrival order. -/
structure MatchLists where
  posted : List Nat
  unexpected : List Unexpected
  deriving DecidableEq, Repr

/-- A rank table (R160 to R162). -/
structure RankTable where
  fn : Nat
  size : Nat
  entries : Tbl (BitVec 64)
  deriving DecidableEq, Repr

/-- What a DMA read is for. -/
inductive DmaUse where
  | setup
  | index (ring : Nat)
  | descriptors (ring first count : Nat)
  /-- a command packet, by the handle of its COMMAND's place -/
  | packet (handle : Nat)
  | parcel (pe flow seq : Nat)
  | mcast (pe group seq : Nat)
  /-- data of a GET or MSG_GET at the target: destination flow and sequence number of the request -/
  | response (pe d seq : Nat)
  /-- the read of an atomic at the target, or its PCIe AtomicOp: 1 FetchAdd, 2 CAS, 3 Swap -/
  | atomic (pe d seq : Nat)
  | atomicOp (pe d seq op width operand compare : Nat)
  | blob
  | collective (group att chunk : Nat)
  | spill (pe flow : Nat) (isSource : Bool)
  /-- a read of a ring that has been destroyed (R256): its completion is not used -/
  | abandoned
  deriving DecidableEq, Repr

/-- A DMA read outstanding (R227, R235). -/
structure DmaRead where
  att : Nat
  /-- function it is made for (R612), and its generation -/
  fn : Nat
  gen : Nat
  addr : Nat
  len : Nat
  use : DmaUse
  issued : Nat
  /-- operation it serves, and the byte offset within it -/
  place : Option Nat
  offset : Nat
  /-- the request has been sent: at most 4,096 of an attachment are outstanding (R208) -/
  sent : Bool
  deriving DecidableEq, Repr

/-- A parcel of its own that a function owes its peer, no flow to it being free (R323, R618): the flow's key, and the parcel. -/
structure Owed where
  fn : Nat
  endpoint : Nat
  dstFn : Nat
  domain : Nat
  ordered : Bool
  parcel : OutParcel
  deriving DecidableEq, Repr

/-- The context store's directory of flow contexts and its spill area (R346, R347). -/
structure CS where
  /-- contexts in the on-die cache, most recently used first: engine, flow, is a source flow -/
  cached : List (Nat × Nat × Bool)
  /-- contexts in the spill area, by their 512-byte place in it -/
  spilled : Tbl (Nat × Nat × Bool)
  /-- contexts being fetched -/
  fetching : List (Nat × Nat × Bool)
  /-- places of operations that wait for a flow (R323), oldest first -/
  waiting : List Nat
  /-- parcels of no operation that wait for a flow, oldest first -/
  owed : List Owed
  spillBase : Nat
  spillCapacity : Nat
  spillEnable : Bool
  parkPeak : Nat
  rankTables : Tbl RankTable
  deriving DecidableEq, Repr

end Sys2Proof.Machine
end

