-- ==== Sys2Proof/Machine/State/Units.lean ====
section
/-! DEFINITION. State of the Window unit (08_windows.md), the Roundhouse (11_roundhouse.md), the Baler (12_baler.md) and
the Token unit (13_tokens.md). -/
namespace Sys2Proof.Machine

/-- A protection domain (R282). -/
structure Domain where
  fn : Nat
  job : Nat
  log2Ids : Nat
  /-- offset of its window array in the region -/
  base : Nat
  deriving DecidableEq, Repr

/-- An extent of a window (R288). -/
structure Extent where
  offset : Nat
  length : Nat
  iova : Nat
  dirty : Bool
  /-- dirty bitmap allocated: address and the granules marked -/
  bitmap : Option (Nat × List Nat)
  deriving DecidableEq, Repr

/-- A window slot that has been opened (R287); others read valid clear and generation 0 (R621). -/
structure Window where
  valid : Bool
  /-- bits 1 read, 2 write, 3 atomic, 4 remote -/
  rights : Nat
  accessed : Bool
  dirtyTrack : Bool
  check : Nat
  gen : Nat
  fn : Nat
  length : Nat
  extentBase : Nat
  openTime : Nat
  extents : List Extent
  /-- frame of its last completed revocation (R299) -/
  revoked : Option Nat
  deriving DecidableEq, Repr

/-- A cached translation: the copy a client uses, and the frame its walk began in (R301). -/
structure Cached where
  client : Nat
  domain : Nat
  id : Nat
  /-- the copy of the entry, with the copies of the extents that are held -/
  window : Window
  frame : Nat
  /-- extents held, by index, and the frame each one's walk began in -/
  extents : Tbl Nat
  deriving DecidableEq, Repr

/-- Why an invalidation runs (R296, R297, R304). -/
inductive Inval where
  | revoke | modify | clear | force (fn : Nat)
  deriving DecidableEq, Repr

/-- An invalidation in progress or held to the next frame boundary (R299). -/
structure Revocation where
  domain : Nat
  id : Nat
  why : Inval
  started : Nat
  held : Bool
  deriving DecidableEq, Repr

/-- The Window unit. -/
structure WU where
  domains : Tbl Domain
  /-- window slots by domain × 2^24 + id -/
  slots : Tbl Window
  revocations : List Revocation
  lastNs : Nat
  cache : List Cached
  misses : Tbl Nat
  deriving DecidableEq, Repr

/-- A contribution or partial result of one chunk: sum elements in the form its mode calls for. -/
inductive Elem where
  /-- superaccumulator value with flags plus_inf, minus_inf, nan, all_neg_zero (R411, R414) -/
  | acc (a : Int) (pinf minf nan negz : Bool)
  /-- an element in its native encoding -/
  | raw (bits : Nat)
  deriving DecidableEq, Repr

/-- One input of a chunk: from attachment a, or from child i as 64 + i (R405). -/
structure ChunkIn where
  src : Nat
  elems : List Elem
  /-- tag it is to be acknowledged on, for a child's -/
  tag : Nat
  /-- folded, and so acknowledged (R408) -/
  folded : Bool
  deriving DecidableEq, Repr

/-- A chunk of the sequence in progress that is being folded at a router. -/
structure Chunk where
  index : Nat
  inputs : List ChunkIn
  deriving DecidableEq, Repr

/-- A result chunk at a router (R405). -/
structure Down where
  index : Nat
  elems : List Nat
  /-- attachments it has been placed at -/
  placed : List Nat
  /-- tag of the parent edge on which it is to be acknowledged (R408) -/
  owed : Option Nat
  done : Bool
  deriving DecidableEq, Repr

/-- A local member's contribution being read (R406): the DMA tags of its pieces, in order. -/
structure RhRead where
  att : Nat
  chunk : Nat
  tags : List Nat
  pieces : Tbl (List Byte)
  deriving DecidableEq, Repr

/-- A member of a group on this router (R394). -/
structure RhMember where
  fn : Nat
  rank : Nat
  next : Nat
  deriving DecidableEq, Repr

/-- A chunk parcel to be sent on an edge until it is acknowledged (R408): edge is a child's number, or 0xFF for the parent. -/
structure EdgeOut where
  edge : Nat
  seq : Nat
  chunk : Nat
  op : Nat
  area : List Byte
  data : List Byte
  /-- place among the edge's tags, once sent -/
  slot : Option Nat
  resends : Nat
  timeout : Nat
  deriving DecidableEq, Repr

/-- A collective group on this router (R389). -/
structure Group where
  epoch : Nat
  /-- 0xFF at the tree root -/
  parent : Nat
  children : List Nat
  anchor : Nat
  depth : Nat
  size : Nat
  /-- 1 READY, 2 ACTIVE, 3 FAILED -/
  state : Nat
  cause : Nat
  seq : Nat
  /-- lowest chunk not yet placed here and sent on -/
  step : Nat
  members : Tbl RhMember
  /-- tags of the anchor engine by edge -/
  tags : List (Nat × List Nat)
  /-- descriptor of the sequence in progress, bytes 16-35, and its signature (R403) -/
  desc : Option (CollArea × Nat)
  /-- chunks sent up so far, or released at the tree root (R409) -/
  upNext : Nat
  chunks : List Chunk
  downs : List Down
  out : List EdgeOut
  /-- next chunk to read, by attachment -/
  reads : Tbl Nat
  reading : List RhRead
  /-- chunk parcels, with their edge, of a sequence that has not started here -/
  later : List (Nat × Parcel)
  deriving DecidableEq, Repr

/-- The Roundhouse; `inbox` holds chunk parcels handed over by the anchor engines. -/
structure RH where
  groups : Tbl Group
  inbox : List (Nat × Parcel)
  /-- what may still be folded in this tick (R410), in 32-bit elements of ORDERED mode -/
  budget : Nat
  deriving DecidableEq, Repr

/-- A rights entry of a local token group (R450). -/
structure TokenRights where
  enable : Bool
  first : Nat
  last : Nat
  pfMask : BitVec 32
  deriving DecidableEq, Repr

/-- A waiter: function (and for a home its endpoint, generation and binding) with its priority. -/
structure Waiter where
  endpoint : Nat
  fn : Nat
  gen : Nat
  binding : Nat
  priority : Nat
  deriving DecidableEq, Repr

/-- A local token (R453): holder function, waiters in order of registration. -/
structure LocalToken where
  holder : Option Nat
  lost : Bool
  waiters : List Waiter
  deriving DecidableEq, Repr

/-- A fabric home slot (R463). -/
structure Home where
  enable : Bool
  holder : Option Waiter
  lost : Bool
  waiters : List Waiter
  /-- time the lease ends (R471) -/
  lease : Nat
  /-- request number of a GRANT that awaits its GRANT_ACK -/
  granting : Option Nat
  /-- answers by (endpoint, binding): request number and the answer (R467) -/
  answers : List ((Nat × Nat) × Nat × TokenMsg)
  deriving DecidableEq, Repr

/-- TK_BIND_b.state, in the order of its values. -/
inductive BindState where
  | IDLE | PENDING | WAITING | HELD | FAILED
  deriving DecidableEq, Repr

/-- A request to a home that is outstanding (R466, R467). -/
structure TokenReq where
  kind : Nat
  request : Nat
  sent : Nat
  wait : Nat
  first : Nat
  deriving DecidableEq, Repr

/-- A fabric binding (R464). -/
structure Binding where
  fn : Nat
  /-- the function's generation at its last request: it names the holder or waiter at the home -/
  gen : Nat
  homeLoc : Nat
  homeIndex : Nat
  state : BindState
  req : Option TokenReq
  /-- answer of the home not yet returned to a read -/
  ready : Option Nat
  /-- last value returned to a read (TK_BIND_b.answer) -/
  answer : Nat
  /-- lost is still to be returned in the first won read -/
  lost : Bool
  /-- send time of the last RENEW (of a waiting binding, WAIT) that the home answered, and the number and send time of the one
  outstanding -/
  renewed : Nat
  renewing : Option (Nat × Nat)
  /-- highest waiter priority that the home last reported (R470) -/
  top : Nat
  deriving DecidableEq, Repr

/-- A RELEASE sent until the home acknowledges it (R468). -/
structure Release where
  homeLoc : Nat
  msg : TokenMsg
  sent : Nat
  wait : Nat
  deriving DecidableEq, Repr

/-- The Token unit. -/
structure TK where
  rights : Tbl TokenRights
  locals : Tbl LocalToken
  homes : Tbl Home
  bindings : Tbl Binding
  releases : Tbl Release
  /-- request numbers are chosen by the requester: this router's next one -/
  nextRequest : Nat
  /-- token messages received and not yet handled, oldest first -/
  inbox : List (Nat × TokenMsg)
  deriving DecidableEq, Repr

end Sys2Proof.Machine
end

