-- ==== Sys2Proof/Machine/State/Journal.lean ====
section
/-! DEFINITION. State of the Journal unit (17_journal_store.md), and what leaves the block: replies, PCIe requests, trains,
pins. -/
namespace Sys2Proof.Machine

/-- A journal record (R569). -/
structure JRec where
  type : Nat
  number : Nat
  payload : List Byte
  deriving DecidableEq, Repr

/-- A programmed page of the anchor, configuration or pool regions (R568). -/
structure JPage where
  block : Nat
  page : Nat
  /-- 1 anchor, 2 configuration, 3 evidence, 4 meter -/
  region : Nat
  flags : Nat
  seq : Nat
  age : Nat
  /-- bytes of a record that goes on from the page before; they stand before the records that begin here -/
  rest : List Byte
  recs : List JRec
  deriving DecidableEq, Repr

/-- A journal operation, run one at a time (R560). -/
inductive JOp where
  /-- program one page of a region with these records; the block is chosen when it starts -/
  | program (region flags : Nat) (recs : List JRec)
  /-- program a further page of a configuration record -/
  | more (flags : Nat) (bytes : List Byte)
  /-- write a new anchor page (R565) -/
  | anchor
  /-- erase a block -/
  | erase (block : Nat)
  /-- program the pages of a slot that these bytes of the staged image complete; without bytes, those left incomplete -/
  | slot (slot offset : Nat) (data : List Byte)
  /-- move a block's contents to another, for its age or (wear) for its erase count (R578, R579); then the copy itself -/
  | refresh (src : Nat) (wear : Bool)
  | copy (src dst : Nat)
  /-- read pages, for JOURNAL_READ or the verification of an image -/
  | read
  /-- the journal command with this opcode and header is answered; `failed`: a write of it was lost -/
  | answer (opcode : Nat) (h : CmdHdr) (failed : Bool)
  deriving DecidableEq, Repr

/-- JR_STATUS.state, in the order of its values. -/
inductive JState where
  | DISCOVERING | READY | UNSUPPORTED | FAILED
  deriving DecidableEq, Repr

/-- The Journal unit and the store's contents. -/
structure JR where
  state : JState
  /-- what the fitted part's SFDP tables say (R559): density, 0 4, 1 8, 2 16 Gbit, others refused; page size; 1-1-4 read present -/
  density : Nat
  pageSize : Nat
  quadRead : Bool
  /-- bad blocks: factory and grown -/
  bad : List Nat
  erases : Tbl Nat
  pages : List JPage
  /-- blocks held by the evidence and meter journals, oldest first -/
  evBlocks : List Nat
  meterBlocks : List Nat
  /-- pages programmed in the current block of each journal since it was erased -/
  evFill : Nat
  meterFill : Nat
  cfgBlock : Nat
  cfgFill : Nat
  anchorBlock : Nat
  anchorFill : Nat
  /-- the block reserved for the HALT record (R564) -/
  haltBlock : Nat
  /-- buffered evidence records and the time of the first -/
  evBuf : List JRec
  evSince : Option Nat
  evNext : Nat
  meterNext : Nat
  cfgNext : Nat
  anchorNext : Nat
  pageSeq : Nat
  /-- the operation in progress and those queued behind it -/
  current : Option JOp
  queue : List JOp
  /-- a program or erase pulse is in progress: the time by which it ends -/
  pulse : Option Nat
  age : Nat
  /-- fabric time since the age clock last advanced, in 2^-16 ns -/
  agePart : Nat
  /-- age saved in the last anchor (R565) -/
  anchorAge : Nat
  /-- kept in the anchor: boot slot, evidence hold -/
  bootSlot : Option Nat
  hold : Bool
  /-- a present anchor exists (R583) -/
  formatted : Bool
  slots : List Slot
  /-- bad blocks among a slot's 144 -/
  slotBad : List Nat
  /-- settings in force as the packets that set them, for CONFIG_SAVE (R572), oldest first -/
  settings : List Instr
  /-- packets of the configuration record still to be applied on entry to SERVICE (R550) -/
  replay : List (Nat × Instr)
  autoService : Bool
  resetRecorded : Bool
  deriving DecidableEq, Repr

/-- AER reports (R227). -/
inductive AerError where
  | correctable | completerAbort | poisonedTlp | completionTimeout | internalNonFatal | internalFatal
  deriving DecidableEq, Repr

/-- What leaves the block, in order. -/
inductive Output where
  /-- a posted write on attachment `att`, with the requester ID of function `fn` (R612) -/
  | write (att fn addr : Nat) (bytes : List Byte)
  | read (att fn addr len tag : Nat)
  /-- a PCIe AtomicOp request: 1 FetchAdd, 2 CAS, 3 Swap -/
  | atomicOp (att fn addr op width operand compare tag : Nat)
  | msix (fn vector addr data : Nat)
  /-- completion of a register read -/
  | value (party : Party) (offset value : Nat)
  | completerAbort (fn : Nat)
  | aer (fn : Nat) (e : AerError)
  /-- an error that AER logs with the header of the request (R224) -/
  | aerHeader (fn : Nat) (e : AerError) (header : List Byte)
  | errFatal (fn : Nat)
  | linkDown (att : Nat)
  | atsComplete (att addr : Nat)
  /-- a reply message over MCTP: endpoint ID, tag, bytes -/
  | mctp (eid tag : Nat) (bytes : List Byte)
  /-- an MCTP control response: completion code and data -/
  | mctpControl (eid tag command : Nat) (bytes : List Byte)
  /-- a train with its header, cells, body and CRC field (R98, R103) -/
  | train (port : Nat) (hdr : TrainHdr) (cells : List WireCell) (body : List Byte) (crc : Nat)
  | haltN (low : Bool)
  | thermTripN (low : Bool)
  | pmbus (target : Nat)
  | gpio (pin : Nat) (level : Bool)
  /-- NAND bus operations -/
  | program (block page : Nat) (main spare : List Byte)
  | erase (block : Nat)
  deriving DecidableEq, Repr

end Sys2Proof.Machine
end

