-- ==== Sys2Proof/Machine/State.lean ====
section
/-! DEFINITION. The state of the FN6400 as a block: every register, table, queue, counter, mode and pin of the spec, the log of
what leaves the block, and the queue of waiting commands. Reasons a step can stop. The state after power-on reset. -/
namespace Sys2Proof.Machine

/-- Why the block stops with a fault. None: the spec gives every condition of a present, powered block an effect. -/
inductive Fault where
  /-- Raised by no meaning; the type must be inhabited for the interface. Safe: it never occurs. -/
  | none
  deriving DecidableEq, Repr

/-- Why a command has no meaning. -/
inductive Refusal where
  /-- Raised by exec for a command that is not modelled. Safe: the model stops where the hardware goes on. -/
  | notModelled (mnemonic : String)
  /-- Raised by execMakerProcedure for a procedure that carries a valid maker signature: R505 gives it no effect. Safe. -/
  | makerProcedure
  deriving DecidableEq, Repr

structure State where
  /-- GL_DEVICE_ID.variant (fuse) -/
  variant : Variant
  /-- attachment whose PF is the manager (R492) -/
  manager : Option Nat
  tt : TT
  /-- fabric ports that differ from their state at reset -/
  ports : Tbl Port
  jn : JN
  sb : SB
  hostPorts : Tbl HostPort
  atts : Tbl Att
  fns : Tbl Fn
  gens : Tbl Gen
  engines : Tbl Engine
  /-- operations in flight by place (R313), and the reuse numbers of places (R373) -/
  ops : Tbl Op
  reuse : Tbl Nat
  matching : Tbl MatchLists
  cs : CS
  dma : Tbl DmaRead
  nextDma : Nat
  wu : WU
  rh : RH
  /-- BL_CFG.elide_en -/
  elideEn : Bool
  tk : TK
  cc : CC
  fc : FC
  rst : RST
  jr : JR
  sensors : Tbl Sensor
  /-- VDD_CORE target, mV; adjustment has stopped (R588); time of the last adjustment -/
  avsTarget : Nat
  avsStopped : Bool
  avsAt : Option Nat
  /-- CC_FW_MINVER (fuse) -/
  minVer : Nat
  /-- every TALLY, EVIDENCE and METER counter by its BAR0 offset (R10); absent reads zero -/
  ctr : Tbl Nat
  /-- EVIDENCE counters whose saturation flag is set, by BAR0 offset (R11) -/
  sat : List Nat
  /-- high words latched by party and offset (R13, R14) -/
  latch : List ((Party × Nat) × Nat)
  /-- model's own: draws of `Config.freeValue` so far, and the draw from which the random resets of this reset start -/
  freeCount : Nat
  freeBase : Nat
  /-- model's own: everything that left the block, oldest first -/
  out : List Output
  /-- commands waiting, first in, first out -/
  pending : List Instr
  deriving DecidableEq, Repr

def TT.reset : TT :=
  { now := 0, slewLeft := 0, slewMax := 0, role := .FOLLOWER, priority := 0xFF, sync := .UNSYNC, hops := 0, parent := 0,
    offset := 0, rootPriority := 0xFF, rootLocation := 0, rootSeq := 0, heardSeq := 0, rate := 0, ratePart := 0, announcing := false, joining := false,
    yielded := false, stepped := false, goodExchanges := 0, holdoverSince := 0, noBetterSince := 0, ppsEn := false,
    ppsLast := none, phase := 0, pendingSeconds := none, fraction := 50, resv := [], lags := [], agg := [] }

def JN.reset : JN :=
  { topology := false, nx := 1, ny := 1, nz := 1, routers := 1, location := 0, datelineX := 0, datelineY := 0,
    datelineZ := 0, detourEn := true, downWeight := 64, detourPenalty := 128, escapeWait := 32, alpha := 16,
    banksGone := [], banksLeaving := [], quota := [], routes := [], mcast := [], mcastRest := [], turn := 0, nextBuf := 0 }

def SB.reset : SB :=
  { yellowMib := 16, levelMap := 0x0F0E0D0C0B0A0908#64, transitMap := 0#64, ringBase := 0, ringEnable := false,
    ringLog2 := 6, ringProd := 0, ringCons := 0, ringFullMinute := none, lastMinute := 0, egresses := [], grants := [],
    changes := [], ghosts := [] }

def CS.reset : CS :=
  { cached := [], spilled := [], fetching := [], waiting := [], owed := [], spillBase := 0, spillCapacity := 0, spillEnable := false, parkPeak := 0,
    rankTables := [] }

def WU.reset : WU :=
  { domains := [], slots := [], revocations := [], lastNs := 0, cache := [], misses := [] }

def RH.reset : RH := { groups := [], inbox := [], budget := 0 }

def TK.reset : TK :=
  { rights := [], locals := [], homes := [], bindings := [], releases := [], nextRequest := 0, inbox := [] }

def CC.reset : CC :=
  { activePair := false, standbyReady := false, reloading := false, running := 0, boot := 0, stage := none,
    pause := none, takeover := none, held := [], waiting := [], kept := [], eid := 0, address := 0, addressValid := false,
    remote := [0, 0, 0, 0], remoteEn := 0, assemblies := [], forwards := [], nextTransfer := 0, controlIn := [],
    adminReply := [] }

def FC.reset : FC :=
  { latched := [], severity := [], recordFrame := [], selfFault := false, failedWord := 0,
    last := List.replicate 16 0#8, sparesUsed := [], corrected := [], repairs := [], hbmCorrected := [],
    softRepairs := [], evHead := 0, evLog := [], vHead := 0, vLog := [], holdWritten := 0, tickEvents := (0, []) }

def RST.reset : RST :=
  { mode := .BRINGUP, stage := .STRAP, cause := 1, modeAtReset := 0, restartStage := 0xF, restartCause := 0, source := 0,
    deferred := none, drained := false, watchdog := false, strapFault := false, strapChoice := 0,
    strapCode := 8, hostWake := false, periodMs := 1000, resetN := false, thermalHold := false, hotAt := 0,
    haltAt := 0, haltRecorded := false, pllRetry := none, noImage := false, wake := none, gpio := [] }

def JR.reset : JR :=
  { state := .DISCOVERING, density := 0, pageSize := 4096, quadRead := true, bad := [], erases := [], pages := [], evBlocks := [], meterBlocks := [],
    evFill := 64, meterFill := 64, cfgBlock := 436, cfgFill := 64, anchorBlock := 0, anchorFill := 64, haltBlock := 452,
    evBuf := [], evSince := none, evNext := 0, meterNext := 0, cfgNext := 0, anchorNext := 0, pageSeq := 0, current := none, queue := [],
    pulse := none, age := 0, agePart := 0, anchorAge := 0, bootSlot := none, hold := false,
    formatted := true,
    slots := [{ version := 1, security := 0, state := .VALID },
      { version := 0, security := 0, state := .EMPTY },
      { version := 0, security := 0, state := .EMPTY }],
    slotBad := [0, 0, 0], settings := [], replay := [], autoService := false, resetRecorded := false }

/-- The block right after power-on reset: mode BRINGUP, stage STRAP (R530, R548), every register at the value its table
gives. Values the spec leaves to fuses, straps and the journal are named in the assumption log. -/
def State.reset : State :=
  { variant := .AX, manager := none, tt := TT.reset, ports := [], jn := JN.reset, sb := SB.reset, hostPorts := [],
    atts := [], fns := [], gens := [], engines := [], ops := [], reuse := [], matching := [], cs := CS.reset, dma := [],
    nextDma := 0, wu := WU.reset, rh := RH.reset, elideEn := true, tk := TK.reset, cc := CC.reset, fc := FC.reset,
    rst := RST.reset, jr := JR.reset, sensors := [], avsTarget := 800, avsStopped := false, avsAt := none,
    minVer := 0, ctr := [], sat := [], latch := [], freeCount := 2112, freeBase := 0,
    out := [], pending := [] }

end Sys2Proof.Machine
end

