-- ==== Sys2Proof/Machine/Bits.lean ====
section
/-! DEFINITION. Helpers of every family: tables, little-endian fields (R5), bit fields, time arithmetic, the CRC-32C of R103
and the CRC-8 of R142. -/
namespace Sys2Proof.Machine

/-- The entry of a table. -/
def Tbl.get? {α : Type} : Tbl α → Nat → Option α
  | [], _ => none
  | (k, v) :: t, i => if k = i then some v else Tbl.get? t i

/-- The entry, or a default where none is listed. -/
def Tbl.getD {α : Type} (t : Tbl α) (i : Nat) (d : α) : α := (Tbl.get? t i).getD d

/-- Set an entry, keeping the keys in rising order. -/
def Tbl.put {α : Type} : Tbl α → Nat → α → Tbl α
  | [], i, a => [(i, a)]
  | (k, v) :: t, i, a =>
    if i < k then (i, a) :: (k, v) :: t
    else if k = i then (i, a) :: t
    else (k, v) :: Tbl.put t i a

/-- Remove an entry. -/
def Tbl.del {α : Type} (t : Tbl α) (i : Nat) : Tbl α := t.filter fun e => e.1 != i

/-- Change an entry that is listed. -/
def Tbl.modify {α : Type} (t : Tbl α) (i : Nat) (f : α → α) : Tbl α :=
  match Tbl.get? t i with
  | some a => Tbl.put t i (f a)
  | none => t

/-- Change every entry. -/
def Tbl.mapVal {α : Type} (t : Tbl α) (f : Nat → α → α) : Tbl α := t.map fun e => (e.1, f e.1 e.2)

def Tbl.keys {α : Type} (t : Tbl α) : List Nat := t.map (·.1)

def Tbl.has {α : Type} (t : Tbl α) (i : Nat) : Bool := (Tbl.get? t i).isSome

/-- The lowest number not below `i` that the table does not list, searching `fuel` numbers. -/
def Tbl.free {α : Type} (t : Tbl α) : (fuel i : Nat) → Nat
  | 0, i => i
  | n + 1, i => if Tbl.has t i then Tbl.free t n (i + 1) else i

/-- `n` bytes of a number, least significant first (R5). -/
def le : (n : Nat) → Nat → List Byte
  | 0, _ => []
  | n + 1, v => BitVec.ofNat 8 v :: le n (v / 256)

/-- The number that bytes spell, least significant first. -/
def ofLe : List Byte → Nat
  | [] => 0
  | b :: t => b.toNat + 256 * ofLe t

/-- `n` bytes at offset `o` as a number. -/
def rd (bs : List Byte) (o n : Nat) : Nat := ofLe ((bs.drop o).take n)

/-- Bits [hi:lo] of a number. -/
def bits (v hi lo : Nat) : Nat := (v / 2 ^ lo) % 2 ^ (hi + 1 - lo)

/-- Bit `i` of a number. -/
def bit (v i : Nat) : Bool := (v / 2 ^ i) % 2 == 1

def b2n (b : Bool) : Nat := if b then 1 else 0

/-- A value placed at bit `lo`. -/
def at_ (v lo : Nat) : Nat := v * 2 ^ lo

def minN (a b : Nat) : Nat := if a ≤ b then a else b
def maxN (a b : Nat) : Nat := if a ≤ b then b else a

def ceilDiv (a b : Nat) : Nat := (a + b - 1) / b

/-- Two's complement of `n` bits. -/
def toSigned (n v : Nat) : Int := if v < 2 ^ (n - 1) then (v : Int) else (v : Int) - (2 ^ n : Nat)
def ofSigned (n : Nat) (i : Int) : Nat := (i % ((2 ^ n : Nat) : Int)).toNat

/-- A signed value saturated to `n` bits. -/
def satSigned (n : Nat) (i : Int) : Int :=
  let m : Int := ((2 ^ (n - 1) : Nat) : Int)
  if i < -m then -m else if i > m - 1 then m - 1 else i

/-- One byte of a reflected CRC-32C register. -/
def crcByte (r : BitVec 32) (b : Byte) : BitVec 32 :=
  let go := fun (r : BitVec 32) => if r.getLsbD 0 then (r >>> 1) ^^^ 0x82F63B78#32 else r >>> 1
  go (go (go (go (go (go (go (go (r ^^^ b.setWidth 32))))))))

/-- The CRC register after running bytes from a given value. -/
def crcRun (r : BitVec 32) (bs : List Byte) : BitVec 32 := bs.foldl crcByte r

/-- CRC-32C (R103, R146). -/
def crc32c (bs : List Byte) : Nat := (crcRun 0xFFFFFFFF#32 bs ^^^ 0xFFFFFFFF#32).toNat

/-- One byte of the CRC-8 of R142, polynomial 0x07. -/
def crc8Byte (r b : BitVec 8) : BitVec 8 :=
  let go := fun (r : BitVec 8) => if r.getLsbD 7 then (r <<< 1) ^^^ 0x07#8 else r <<< 1
  go (go (go (go (go (go (go (go (r ^^^ b))))))))

def crc8 (bs : List Byte) : Nat := (bs.foldl crc8Byte 0#8).toNat

/-- Bytes padded with zeros to a multiple of `n`. -/
def padTo (n : Nat) (bs : List Byte) : List Byte := bs ++ List.replicate ((n - bs.length % n) % n) 0#8

/-- Bytes padded with zeros or cut to exactly `n`. -/
def fitTo (n : Nat) (bs : List Byte) : List Byte := (bs ++ List.replicate (n - bs.length) 0#8).take n

/-- Replace the bytes at offset `o`. -/
def patch (bs : List Byte) (o : Nat) (p : List Byte) : List Byte := bs.take o ++ p ++ bs.drop (o + p.length)

def popcount8 (b : BitVec 8) : Nat := ((List.range 8).filter fun i => b.getLsbD i).length

/-- Add to a list kept in rising order without repeats. -/
def insertNat (i : Nat) : List Nat → List Nat
  | [] => [i]
  | a :: t => if i < a then i :: a :: t else if i = a then a :: t else a :: insertNat i t

def sumNat (l : List Nat) : Nat := l.foldl (· + ·) 0

def maxList (l : List Nat) : Nat := l.foldl maxN 0

/-! Fabric time: 2^-16 ns units, ticks, frames and minutes (R44, R45). -/

def unit : Nat := 65536
def State.ns (s : State) : Nat := s.tt.now / unit
def State.tickNo (s : State) : Nat := s.ns / 1000
def State.frame (s : State) : Nat := s.ns / 1000000
def State.minute (s : State) : Nat := s.ns / 60000000000

/-- A fresh free value: the next draw of the opaque constant. -/
def State.draw (s : State) : Nat × State := (Config.freeValue s.freeCount, { s with freeCount := s.freeCount + 1 })

/-- Append to the log of what leaves the block. -/
def State.emit (s : State) (o : Output) : State := { s with out := s.out ++ [o] }

def State.emits (s : State) (os : List Output) : State := { s with out := s.out ++ os }

end Sys2Proof.Machine
end

