-- ==== Sys2Proof/Machine/Ops.lean ====
section
/-! DEFINITION. The operations over the state that every family uses: units present (R28), records with their reset values,
counters (R10, R11), MSI-X messages (R226), event records (R520 to R525) and writes of rings (R260, R272). -/
namespace Sys2Proof.Machine

/-! ### Units present and attachments -/

/-- GL_UNIT_PRESENT (R28). -/
def unitPresent (v : Variant) : Nat :=
  match v with
  | .AX => 0x007FFFFFFFFFFFFF
  | .LX => 0x007D00FF0000FFFF
  | .TX => 0x0040000000000000

def State.hasUnit (s : State) (n : Nat) : Bool := bit (unitPresent s.variant) n
def State.hasEngine (s : State) (n : Nat) : Bool := decide (n < 32) && s.hasUnit n
def State.hasHostPort (s : State) (p : Nat) : Bool := decide (p < 16) && s.hasUnit (32 + p)

def HostPort.initial : HostPort := { split := 0, nextSplit := 0, strapSplit := 0, perst := false, degraded := false, draining := false }

def State.hostPort (s : State) (p : Nat) : HostPort := Tbl.getD s.hostPorts p HostPort.initial
def State.setHostPort (s : State) (p : Nat) (h : HostPort) : State := { s with hostPorts := Tbl.put s.hostPorts p h }

/-- Attachment `a` is present (its engine is) and assigned by its port's split (R21). -/
def State.assigned (s : State) (a : Nat) : Bool :=
  s.hasEngine a && (a % 2 == 0 || (s.hostPort (a / 2)).split == 1)

def Att.initial : Att :=
  { state := .DOWN, speed := 0, width := 0, flit := false, vfLimit := 127, vfEnable := false, numVfs := 0, vfBar := 0, ats := [],
    invals := [], maxPayload := 128, maxRead := 512, l12 := false, contained := false }

def State.att (s : State) (a : Nat) : Att := Tbl.getD s.atts a Att.initial
def State.setAtt (s : State) (a : Nat) (x : Att) : State := { s with atts := Tbl.put s.atts a x }

/-! ### Fabric ports -/

/-- The role a port holds at reset (R30, R623): LOCAL for FP0-FP15, the line roles above. -/
def resetRole (p : Nat) : Nat := if p < 16 then 1 else 4 + (p - 16) / 8

def Port.initial (p incarnation : Nat) : Port :=
  { state := .DISABLED, rate := 0, active := 0#8, failed := 0#8, role := resetRole p, peer := 0xFFFF, roleSet := false,
    fHandshake := 0, fCurrent := 0, overExposed := 0, grace := 2000, graceDeadline := none, flushed := false,
    trainSince := 0, locked := false, good := 0xFF#8, lastHello := none, exposureFrame := none, txNext := 0, sidingBase := 0, rxExpected := 0, siding := [], replay := [], xoffIn := 0#8,
    xoffOut := 0#8, lastCause := 0, incarnation := incarnation, peerIncarnation := 0, nakAt := none, nakReason := 0,
    nakDue := false, nakFrame := 0, nakCounts := [], sentTrains := 0, lastRelease := 0, lastGood := 0, violFrame := (0, 0), notice := none,
    noticeTick := none, hello := none, exchanges := 0, exchange := none, exchangeNo := 0, lastTimeSend := none,
    offer := none, change := none, changeNo := 0, answered := none, drain := none, degraded := false,
    summary := none, lastSummary := none, txReady := [], module := [] }

/-- The incarnation of a port at this reset: random (LK_HISTORY). -/
def State.resetIncarnation (s : State) (p : Nat) : Nat := Config.freeValue (s.freeBase + 2048 + p) % 65536

def State.port (s : State) (p : Nat) : Port := Tbl.getD s.ports p (Port.initial p (s.resetIncarnation p))
def State.setPort (s : State) (p : Nat) (x : Port) : State := { s with ports := Tbl.put s.ports p x }
def State.modPort (s : State) (p : Nat) (f : Port → Port) : State := s.setPort p (f (s.port p))

/-! ### Engines, egresses, lags -/

def Engine.initial : Engine :=
  { tags := [], mreasm := [], ejected := [], handed := [], placing := [], serving := [], atomics := [], src := [], dst := [], gone := [], parked := [],
    answers := [], senders := [], members := [], nextSrc := 0, nextDst := 0, degraded := false, draining := false, quotaFrame := none }

def State.engine (s : State) (n : Nat) : Engine := Tbl.getD s.engines n Engine.initial
def State.setEngine (s : State) (n : Nat) (e : Engine) : State := { s with engines := Tbl.put s.engines n e }
def State.modEngine (s : State) (n : Nat) (f : Engine → Engine) : State := s.setEngine n (f (s.engine n))

/-- The resting tags of a sender record that is removed stay with the group: none is reused within 2 frames of its last cell (R159). -/
def State.keepRest (s : State) (n group : Nat) : State :=
  match Tbl.get? (s.engine n).senders group with
  | some g =>
    let rest := g.out.foldl (fun t m => Tbl.put t m.tag (s.ns + 2000000)) g.resting
    { s with jn := { s.jn with mcastRest := Tbl.put s.jn.mcastRest group (rest.filter fun r => decide (s.ns < r.2)) } }
  | none => s

def Egress.initial : Egress :=
  { cells := [], deficit := List.replicate 16 0, pointer := 0, visiting := false, quantum := [], burst := [],
    lane := (0, 0) }

def State.egress (s : State) (e : Nat) : Egress := Tbl.getD s.sb.egresses e Egress.initial
def State.setEgress (s : State) (e : Nat) (x : Egress) : State :=
  { s with sb := { s.sb with egresses := Tbl.put s.sb.egresses e x } }

/-- Q[q] and B[q] (R191). -/
def Egress.q (x : Egress) (q : Nat) : Nat := Tbl.getD x.quantum q (if q = 0 then 128 else 16)
def Egress.b (x : Egress) (q : Nat) : Nat := Tbl.getD x.burst q 16

/-- A block on its fabric-time boundary. -/
def Lag.on (tick : Nat) : Lag := { boundary := 1000 * tick, tick := tick, late := false, fault := false, degraded := false }
def State.lag (s : State) (i : Nat) : Lag := Tbl.getD s.tt.lags i (Lag.on s.tickNo)

/-- A tick-driven block that takes no new best-effort work, being degraded by its lag (R63). -/
def State.lagging (s : State) (i : Nat) : Bool := (s.lag i).degraded

/-- The lag of R62: the current boundary less 1,000 × n. -/
def Lag.ns (l : Lag) : Nat := l.boundary - 1000 * l.tick

/-! ### Counters -/

/-- BAR0 offsets of the blocks (R24). -/
def lkBase (p : Nat) : Nat := 0x200000 + p * 0x8000
def hpcBase (p : Nat) : Nat := 0x800000 + p * 0x80000
def attBase (a : Nat) : Nat := hpcBase (a / 2) + (if a % 2 = 0 then 0x10000 else 0x40000)
def peBase (n : Nat) : Nat := 0x1000000 + n * 0x80000

/-- The saturation flags of a flags register: the offset of the EVIDENCE counter that each bit stands for. -/
def flagCounters (reg : Nat) : List Nat :=
  if reg = 0x1C then [0x18]
  else if reg = 0x1013C then [0x10130, 0x10134, 0x10138]
  else if reg = 0x2001C then [0x20018]
  else if reg = 0x3004C then [0x30048]
  else if reg = 0x40064 then [0x40058, 0x4005C, 0x40060]
  else if reg = 0x5005C then [0x50050, 0x50054, 0x50058]
  else if reg = 0x6002C then [0x60020, 0x60024, 0x60028]
  else if reg = 0x8003C then [0x80034, 0x80038]
  else if reg = 0x10003C then [0x100030, 0x100034, 0x100038, 0x100040]
  else if reg = 0x400040 then [0x400038, 0x40003C]
  else if reg = 0x50012C then [0x500128]
  else if reg = 0x600038 then [0x600030, 0x600034]
  else if reg = 0x700044 then [0x700038, 0x70003C, 0x700040]
  else if 0x200000 ≤ reg ∧ reg < 0x400000 ∧ reg % 0x8000 = 0x7C then
    [reg - 0x14, reg - 0x10, reg - 0xC, reg - 8, reg - 4]
  else if 0x800000 ≤ reg ∧ reg < 0x1000000 ∧ reg % 0x80000 = 0x14 then [reg - 4]
  else if 0x800000 ≤ reg ∧ reg < 0x1000000 ∧ (reg % 0x80000 = 0x10048 ∨ reg % 0x80000 = 0x40048) then
    [reg - 0x10, reg - 0xC, reg - 8, reg - 4]
  else if 0x1000000 ≤ reg ∧ reg < 0x2000000 ∧ reg % 0x80000 = 0x7020 then
    [reg - 0x10, reg - 0xC, reg - 8, reg - 4]
  else if 0x1000000 ≤ reg ∧ reg < 0x2000000 ∧ reg % 0x80000 = 0x6034 then [reg - 0xC, reg - 8, reg - 4]
  else if 0x1000000 ≤ reg ∧ reg < 0x2000000 ∧ reg % 0x80000 = 0x502C then [reg - 0xC, reg - 8, reg - 4]
  else []

def State.counter (s : State) (off : Nat) : Nat := Tbl.getD s.ctr off 0

def State.setCounter (s : State) (off v : Nat) : State :=
  { s with ctr := if v = 0 then Tbl.del s.ctr off else Tbl.put s.ctr off v }

/-- A TALLY advances by `n` and wraps (R10). -/
def State.tally (s : State) (off : Nat) (n : Nat := 1) : State := s.setCounter off ((s.counter off + n) % 2 ^ 64)

/-- The engine or host port of an attachment drains under a DEGRADE, or is out of service after it (R508). -/
def State.outOfService (s : State) (a : Nat) : Bool :=
  (s.engine a).degraded || (s.engine a).draining || (s.hostPort (a / 2)).degraded || (s.hostPort (a / 2)).draining

/-! ### Functions -/

def State.fn? (s : State) (f : Nat) : Option Fn := Tbl.get? s.fns f
def State.setFn (s : State) (f : Nat) (x : Fn) : State := { s with fns := Tbl.put s.fns f x }
def State.modFn (s : State) (f : Nat) (g : Fn → Fn) : State := { s with fns := Tbl.modify s.fns f g }

/-- The generation of a function number (R220): random after a reset. -/
def State.genOf (s : State) (f : Nat) : Gen :=
  Tbl.getD s.gens f { gen := Config.freeValue (s.freeBase + f) % 256, frame := none, held := 0, goal := none }
def State.gen (s : State) (f : Nat) : Nat := (s.genOf f).gen

/-- This router's location: endpoint id bits [20:5]. -/
def State.location (s : State) : Nat := s.jn.location

/-- The endpoint id of attachment `a`. -/
def State.endpoint (s : State) (a : Nat) : Nat := s.jn.location * 32 + a

/-! ### PCIe requests and messages -/

/-- The device issues DMA and messages in every mode but OFF and HALT (R537). -/
def State.alive (s : State) : Bool := s.rst.mode != .OFF && s.rst.mode != .HALT

/-- Cut `len` bytes at `addr` into pieces of at most `limit` bytes, none of them across a 4 KiB boundary. -/
def cutRange (limit : Nat) : (fuel addr len : Nat) → List (Nat × Nat)
  | 0, _, _ => []
  | k + 1, addr, len =>
    if len = 0 then []
    else
      let n := minN len (minN limit (4096 - addr % 4096))
      (addr, n) :: cutRange limit k (addr + n) (len - n)

/-- The PCIe requests for a range: at most `limit` bytes each (R208), none across a 4 KiB boundary (PCIe Base Specification). -/
def requestCuts (limit addr len : Nat) : List (Nat × Nat) := cutRange limit (len / maxN 1 limit + len / 4096 + 3) addr len

/-- May the device issue requests on an attachment: its link is up (R245), and the device is not in HALT (R250)? -/
def State.mayIssue (s : State) (a : Nat) : Bool := s.alive && (s.att a).state != .DOWN

/-- A posted write with the requester ID of function `f` (R612), in requests of at most the Max Payload Size (R208). -/
def State.write (s : State) (f addr : Nat) (bytes : List Byte) : State :=
  match s.fn? f with
  | some x =>
    if s.mayIssue x.att then
      s.emits ((requestCuts (s.att x.att).maxPayload addr bytes.length).map fun p =>
        .write x.att f p.1 ((bytes.drop (p.1 - addr)).take p.2))
    else s
  | none => s

def Vector.initial : Vector := { addr := 0, data := 0, masked := true, pending := false }

/-- Send vector `v` of function `f`; masked, it pends (R226). -/
def State.interrupt (s : State) (f v : Nat) : State :=
  match s.fn? f with
  | none => s
  | some x =>
    let e := Tbl.getD x.msix v Vector.initial
    if !x.msixEnable || !s.mayIssue x.att then s
    else if x.msixMask || e.masked then s.setFn f { x with msix := Tbl.put x.msix v { e with pending := true } }
    else s.emit (.msix f v e.addr e.data)

/-- The PCIe requests of a DMA read, each of at most the Max Read Request Size (R208), or of an AtomicOp. -/
def DmaRead.requests (d : DmaRead) (limit tag : Nat) : List Output :=
  match d.use with
  | .atomicOp _ _ _ op width operand compare => [.atomicOp d.att d.fn d.addr op width operand compare tag]
  | _ => (requestCuts limit d.addr d.len).map fun p => .read d.att d.fn p.1 p.2 tag

/-- Read requests of an attachment outstanding. -/
def State.readsOut (s : State) (a : Nat) : Nat :=
  sumNat (s.dma.map fun d => if d.2.att = a ∧ d.2.sent then (d.2.requests (s.att a).maxRead d.1).length else 0)

/-- May a read be sent: at most 4,096 requests of an attachment are outstanding (R208), one read too large for that going alone. -/
def State.mayRead (s : State) (d : DmaRead) : Bool :=
  let n := s.readsOut d.att
  s.mayIssue d.att && (n == 0 || decide (n + (d.requests (s.att d.att).maxRead 0).length ≤ 4096))

/-- A DMA read with the requester ID of function `f` (R612); it waits while it may not be sent. -/
def State.dmaRead (s : State) (f addr len : Nat) (use : DmaUse) (place : Option Nat) (offset : Nat) : State :=
  match s.fn? f with
  | none => s
  | some x =>
    let d : DmaRead :=
      { att := x.att, fn := f, gen := s.gen f, addr := addr, len := len, use := use, issued := s.ns, place := place,
        offset := offset, sent := false }
    let go := s.mayRead d
    { s with
      dma := Tbl.put s.dma s.nextDma { d with sent := go }
      nextDma := s.nextDma + 1
      out := if go then s.out ++ d.requests (s.att x.att).maxRead s.nextDma else s.out }

/-- Invalidations of an attachment whose last request has been sent, or whose 10 µs end before the next tick, complete (R228). -/
def State.settleInvals (s : State) (a : Nat) : State :=
  let x := s.att a
  let over_ := fun (v : AtsInval) => decide (v.due ≤ s.ns + 1000) || v.tags.all fun t => match Tbl.get? s.dma t with
    | some d => d.sent
    | none => true
  if x.invals.any over_ then
    (s.setAtt a { x with invals := x.invals.filter fun v => !over_ v }).emits
      ((x.invals.filter over_).map fun v => .atsComplete a v.addr)
  else s

/-- Send the DMA reads of an attachment that wait for tags, oldest first, as far as these reach (R208). -/
def State.nextRead (s : State) (att : Nat) : State :=
  ((s.dma.filter fun d => d.2.att == att && !d.2.sent).foldl (fun s p =>
    if s.mayRead p.2 then
      { s with dma := Tbl.put s.dma p.1 { p.2 with sent := true, issued := s.ns }
               out := s.out ++ p.2.requests (s.att att).maxRead p.1 }
    else s) s).settleInvals att

/-! ### Rings that the device writes -/

def Ring.size (r : Ring) : Nat := 2 ^ r.log2

/-- Room for one more record: (producer - consumer) mod 2^32 below 2^k (R272). -/
def Ring.room (r : Ring) : Bool := decide ((r.next + 2 ^ 32 - r.producer) % 2 ^ 32 < r.size)

def State.ring? (s : State) (f r : Nat) : Option Ring := (s.fn? f).bind fun x => Tbl.get? x.rings r
def State.setRing (s : State) (f r : Nat) (g : Ring) : State :=
  s.modFn f fun x => { x with rings := Tbl.put x.rings r g }

/-- Read a ring's index block again, unless that read is outstanding (R261). -/
def State.readIndex (s : State) (f r : Nat) : State :=
  match s.ring? f r with
  | none => s
  | some g =>
    if g.reading then s.setRing f r { g with again := true }
    else (s.setRing f r { g with reading := true }).dmaRead f g.indexAddr 4 (.index r) none 0

/-- Write one record to an EVENT or ERROR ring and advance its producer (R260, R524). -/
def State.putRecord (s : State) (f r : Nat) (g : Ring) (rc : List Byte) : State :=
  let i := g.next
  let n := (i + 1) % 2 ^ 32
  let s := s.setRing f r { g with next := n }
  let s := s.write f (g.base + rc.length * (i % g.size)) rc
  let s := s.write f (g.indexAddr + 8) (le 4 n)
  if g.irqEn then s.interrupt f g.vector else s

/-- Records are not written for lack of room: they are counted in `lost`, which is written (R260, R272). -/
def State.loseRecords (s : State) (f r : Nat) (g : Ring) (n : Nat) : State :=
  let v := (g.tally + n) % 2 ^ 64
  (s.setRing f r { g with tally := v }).write f (g.indexAddr + 16) (le 8 v)

/-- Does a record have to wait until the consumer index is read again? A ring whose index block cannot be read waits for nothing. -/
def Ring.recordWaits (g : Ring) : Bool := (g.held ≠ [] || !g.room) && g.state != .FROZEN
def Ring.recordLost (g : Ring) : Bool := !g.room && g.state == .FROZEN

/-- A record for an EVENT or ERROR ring: written where there is room; else it waits for the consumer index (R272, R524, R525). -/
def State.writeRecord (s : State) (f r : Nat) (rc : List Byte) : State :=
  match s.ring? f r with
  | none => s
  | some g =>
    if g.recordWaits then (s.setRing f r { g with held := g.held ++ [rc] }).readIndex f r
    else if g.recordLost then s.loseRecords f r g 1
    else s.putRecord f r g rc

/-! ### Events -/

/-- A 16-byte event record (R520). -/
def eventRecord (ev : Nat) (fn : Option Nat) (us detail : Nat) : List Byte :=
  le 2 ev ++ le 2 (fn.getD 0x8000) ++ le 4 us ++ le 8 detail

/-- The events sent to the manager, and those sent to the function (R521). -/
def eventToM (ev : Nat) : Bool :=
  [0x001, 0x002, 0x003, 0x004, 0x005, 0x010, 0x011, 0x012, 0x013, 0x020, 0x021, 0x040, 0x041, 0x042, 0x043, 0x044,
    0x045, 0x046, 0x080, 0x081, 0x082, 0x083, 0x084, 0x085, 0x0C1, 0x100, 0x180].contains ev
def eventToF (ev : Nat) : Bool :=
  [0x006, 0x020, 0x021, 0x022, 0x0C0, 0x0C2, 0x0C3, 0x0C4, 0x140, 0x141, 0x142].contains ev

/-- An EVIDENCE counter advances; at its maximum it holds and sets its flag. The Bool says that it has just saturated. -/
def State.evidenceStep (s : State) (off : Nat) : State × Bool :=
  let v := s.counter off
  if v < 0xFFFFFFFF then
    let s := s.setCounter off (v + 1)
    if v + 1 = 0xFFFFFFFF then ({ s with sat := insertNat off s.sat }, true) else (s, false)
  else (s, false)

/-- Write an event record to the manager's on-die log (R523). -/
def State.logEvent (s : State) (rc : List Byte) : State :=
  { s with fc := { s.fc with evLog := Tbl.put s.fc.evLog (s.fc.evHead % 64) rc,
                             evHead := (s.fc.evHead + 1) % 2 ^ 32 } }

/-- Deliver a record to function `f`'s routed EVENT ring (R522). The result's second part is the ring that was found full. -/
def State.deliver (s : State) (f ev : Nat) (rc : List Byte) : State × Option Nat :=
  match (s.fn? f).bind fun x => Tbl.get? x.routes ev with
  | none => ((s.evidenceStep 0x10134).1, none)
  | some r =>
    match s.ring? f r with
    | none => ((s.evidenceStep 0x10134).1, none)
    | some g => (s.writeRecord f r rc, if g.recordLost then some r else none)

/-- Deliver to the manager: its log, and its PF's route. -/
def State.toManager (s : State) (ev : Nat) (rc : List Byte) : State :=
  let s := s.logEvent rc
  match s.manager with
  | some a => (s.deliver a ev rc).1
  | none => (s.evidenceStep 0x10134).1

/-- A record found its EVENT ring full: EVENT_RING_FULL to the manager, once per frame per ring; of the manager's own rings it is not
raised (R525). -/
def State.ringFullEvent (s : State) (f r : Nat) : State :=
  match s.ring? f r with
  | some g =>
    if g.fullFrame = some s.frame ∨ s.manager = some f then s
    else
      let s := s.setRing f r { g with fullFrame := some s.frame }
      s.toManager 0x005 (eventRecord 0x005 (some f) (s.ns / 1000 % 2 ^ 32) (f + r * 65536))
  | none => s

/-- Raise an event without the merging of R525. -/
def State.raiseOnce (s : State) (ev : Nat) (fn : Option Nat) (detail : Nat) : State :=
  let rc := eventRecord ev fn (s.ns / 1000 % 2 ^ 32) detail
  let s := if eventToM ev then s.toManager ev rc else s
  match eventToF ev, fn with
  | true, some f =>
    match s.deliver f ev rc with
    | (s, none) => s
    | (s, some r) => s.ringFullEvent f r
  | _, _ => s

/-- FC_EVENT_DROPS has reached its maximum between two states: it raises COUNTER_SATURATED once (R10, R526). -/
def State.dropsSaturated (s t : State) : State :=
  if !s.sat.contains 0x10134 && t.sat.contains 0x10134 then t.raiseOnce 0x002 none 0x10134 else t

/-- Raise an event without the merging of R525; a drop of it may saturate FC_EVENT_DROPS. -/
def State.raiseNow (s : State) (ev : Nat) (fn : Option Nat) (detail : Nat) : State := s.dropsSaturated (s.raiseOnce ev fn detail)

/-- A record found its EVENT ring full, outside the raising of an event (R525). -/
def State.eventRingFull (s : State) (f r : Nat) : State := s.dropsSaturated (s.ringFullEvent f r)

/-- Raise an event; one raised again with identical function and detail within the tick is merged (R525). -/
def State.raise (s : State) (ev : Nat) (fn : Option Nat) (detail : Nat) : State :=
  let key : EventKey := { event := ev, fn := fn.getD 0x8000, detail := detail }
  let seen := if s.fc.tickEvents.1 = s.tickNo then s.fc.tickEvents.2 else []
  if seen.contains key then s
  else ({ s with fc := { s.fc with tickEvents := (s.tickNo, seen ++ [key]) } }).raiseNow ev fn detail

/-- An EVIDENCE counter advances; on reaching its maximum it raises COUNTER_SATURATED once (R10, R526). -/
def State.evidence (s : State) (off : Nat) : State :=
  match s.evidenceStep off with
  | (s, true) => s.raise 0x002 none off
  | (s, false) => s

def State.evidences (s : State) (off : Nat) : Nat → State
  | 0 => s
  | n + 1 => (s.evidence off).evidences off n

/-- Offset of meter k of function f (SB_FN_METER_f_k). -/
def meterOff (f k : Nat) : Nat := 0xC0000 + 64 * f + 8 * k

/-- A METER advances by `n` and holds at its maximum, raising METER_SATURATED once (R10, R526). In HEATH the meters
do not advance (R535). -/
def State.meter (s : State) (f k n : Nat) : State :=
  let v := s.counter (meterOff f k)
  let m := 2 ^ 64 - 1
  if v = m ∨ s.rst.mode = .HEATH then s
  else if v + n < m then s.setCounter (meterOff f k) (v + n)
  else (s.setCounter (meterOff f k) m).raise 0x003 none (f + k * 65536)

/-- Clear an EVIDENCE counter and its flag (R11). -/
def State.clearEvidence (s : State) (off : Nat) : State :=
  { s.setCounter off 0 with sat := s.sat.filter (· != off) }

/-- The value of a flags register. -/
def State.flags (s : State) (reg : Nat) : Nat :=
  sumNat ((flagCounters reg).mapIdx fun i off => if s.sat.contains off then 2 ^ i else 0)

/-- Clear the counters and flags of a block's range (R527). -/
def State.clearCounters (s : State) (lo hi : Nat) : State :=
  { s with ctr := s.ctr.filter (fun e => e.1 < lo || hi ≤ e.1), sat := s.sat.filter (fun o => o < lo || hi ≤ o) }

end Sys2Proof.Machine
end

