-- ==== Sys2Proof/Machine/Clock.lean ====
section
/-! DEFINITION. The passing of time: one core cycle of fabric time (R22, R49, R53) and of the age clock (R580). -/
namespace Sys2Proof.Machine

/-- The slew applied in one core cycle: what is left of the correction, within the limit (R49: 50 ppm, R53: 200 ppm). -/
def TT.slew (t : TT) : Int :=
  let m : Int := (t.slewMax : Int)
  if t.slewLeft > m then m else if t.slewLeft < -m then -m else t.slewLeft

/-- Held rates count in 12,800ths of a core cycle's correction: 8 ticks, the interval of R51, are 12,800 core cycles. -/
def ratePeriod : Int := 12800

/-- Does the clock run on its last disciplined rate (R55)? -/
def TT.holding (t : TT) : Bool := t.sync == .HOLDOVER || t.sync == .UNSYNC

/-- The correction of one core cycle on the held rate, and the part left for later cycles. -/
def TT.drift (t : TT) : Int × Int :=
  if t.holding then ((t.ratePart + t.rate) / ratePeriod, (t.ratePart + t.rate) % ratePeriod) else (0, t.ratePart)

/-- The correction of one core cycle: what is slewed and, without a root, the held rate. -/
def TT.turn (t : TT) : Int := t.slew + t.drift.1

/-- The age clock goes on by `d` units of 2^-16 ns of fabric time; 10^9 ns make a second (R16, R580). -/
def JR.ageStep (j : JR) (d : Nat) : JR :=
  if j.agePart + d < 65536000000000 then { j with agePart := j.agePart + d }
  else { j with agePart := j.agePart + d - 65536000000000, age := j.age + 1 }

/-- One core cycle of 0.625 ns = 40,960 × 2^-16 ns, plus the slew, or the held rate of R55. The counter stands still while power is off. -/
def coreCycle (s : State) : State :=
  if s.rst.mode = .OFF then s
  else
    { s with tt := { s.tt with now := (((s.tt.now : Int) + 40960 + s.tt.turn).toNat),
                               slewLeft := s.tt.slewLeft - s.tt.slew, ratePart := s.tt.drift.2 }
             jr := s.jr.ageStep ((40960 + s.tt.turn).toNat) }

end Sys2Proof.Machine
end

