-- ==== Sys2Proof/Machine/JournalStore.lean ====
section
/-! DEFINITION. The Journal unit's shared operations: buffered evidence records (R569, R572), the queue of NAND operations run
one at a time (R560), and the blocks that writes go to (R563 to R566, R571, R575 to R578). -/
namespace Sys2Proof.Machine

/-- Bytes a record takes in a page (R569). -/
def JRec.size (r : JRec) : Nat := 16 + ceilDiv r.payload.length 8 * 8

/-- Bytes of records a page holds (R569). -/
def pageRoom : Nat := 4056

/-- A record with its header, as stored (R569). -/
def JRec.bytes (r : JRec) : List Byte :=
  let h := le 2 r.type ++ le 2 0 ++ le 4 r.payload.length ++ le 4 r.number
  padTo 8 (h ++ le 4 (crc32c (h ++ r.payload)) ++ r.payload)

/-! ### Blocks -/

/-- The last block of the journal pool by density (R563). -/
def JR.lastBlock (j : JR) : Nat := if j.density = 0 then 2047 else if j.density = 1 then 4095 else 8191

/-- Is block `b` free for the pool? -/
def JR.isFree (j : JR) (b : Nat) : Bool :=
  !(j.bad.contains b || j.evBlocks.contains b || j.meterBlocks.contains b || b == j.haltBlock)

def JR.poolBlocks (j : JR) : Nat := j.lastBlock + 1 - 452

/-- Free blocks of the pool, the one reserved for the HALT record among them (R564, R567). -/
def JR.freeBlocks (j : JR) : Nat :=
  j.poolBlocks - ((j.bad.filter fun b => decide (452 ≤ b)).length + j.evBlocks.length + j.meterBlocks.length)

/-- The store has been found, and is used; one that has failed is used as far as good blocks are left (R577). -/
def JR.usable (j : JR) : Bool := j.state == .READY || j.state == .FAILED

/-- The lowest-numbered free pool block never erased, searching `fuel` blocks from `b`. -/
def JR.unused (j : JR) : (fuel b : Nat) → Option Nat
  | 0, _ => none
  | n + 1, b => if j.isFree b && !(Tbl.has j.erases b) then some b else j.unused n (b + 1)

/-- The erased blocks of the pool that are free. -/
def JR.freeErased (j : JR) : List (Nat × Nat) := j.erases.filter fun e => decide (452 ≤ e.1) && j.isFree e.1

/-- Of two blocks with their erase counts, the one that `better` prefers. -/
def pick (better : Nat → Nat → Bool) (best : Option (Nat × Nat)) (e : Nat × Nat) : Option (Nat × Nat) :=
  match best with
  | none => some e
  | some b => if better e.2 b.2 then some e else some b

/-- The free block with the lowest erase count (R578). -/
def JR.takeBlock (j : JR) : Option Nat :=
  match j.unused j.poolBlocks 452 with
  | some b => some b
  | none => (j.freeErased.foldl (pick fun a b => decide (a < b)) none).map (·.1)

/-- The free block with the highest erase count (R578). -/
def JR.mostErased (j : JR) : Option Nat := (j.freeErased.foldl (pick fun a b => decide (b < a)) none).map (·.1)

/-- The good block after `b` in a rotation over `n` blocks from `lo`. -/
def JR.goodAfter (j : JR) (lo n : Nat) : (fuel b : Nat) → Option Nat
  | 0, _ => none
  | k + 1, b =>
    let c := if lo + n ≤ b + 1 then lo else b + 1
    if j.bad.contains c then j.goodAfter lo n k c else some c

/-- Where the next write goes. -/
inductive Ground where
  /-- the page is at hand -/
  | ready
  /-- this block is erased first; the journal's lists once it is taken -/
  | erase (b : Nat) (j : JR)
  /-- no good block is left (R577) -/
  | lost
  /-- evidence_hold keeps every evidence block (R575) -/
  | held
  deriving DecidableEq, Repr

/-- A block for the pool's journals: when the free blocks would fall below 32, the meter journal's oldest (R575). -/
def JR.fresh (j : JR) (take : Nat → JR → JR) : Ground :=
  if j.freeBlocks ≤ 32 then
    match j.meterBlocks with
    | b :: rest => .erase b (take b { j with meterBlocks := rest })
    | [] => match j.takeBlock with
      | some b => .erase b (take b j)
      | none => .lost
  else match j.takeBlock with
    | some b => .erase b (take b j)
    | none => .lost

/-- The block that an operation at the head writes to. -/
def JR.ground (j : JR) (o : JOp) : Ground :=
  match o with
  | .program 3 _ _ =>
    if j.evBlocks ≠ [] ∧ j.evFill < 64 then .ready
    else if 128 ≤ j.evBlocks.length then
      match j.hold, j.evBlocks with
      | false, b :: rest => .erase b { j with evBlocks := rest ++ [b], evFill := 0 }
      | _, _ => .held
    else j.fresh fun b j => { j with evBlocks := j.evBlocks ++ [b], evFill := 0 }
  | .program 4 _ _ =>
    if j.meterBlocks ≠ [] ∧ j.meterFill < 64 then .ready
    else j.fresh fun b j => { j with meterBlocks := j.meterBlocks ++ [b], meterFill := 0 }
  | .program _ _ _ | .more _ _ =>
    if j.cfgFill < 64 then .ready
    else match j.goodAfter 436 16 16 j.cfgBlock with
      | some b => .erase b { j with cfgBlock := b, cfgFill := 0 }
      | none => .lost
  | .anchor =>
    if j.anchorFill < 64 then .ready
    else match j.goodAfter 0 4 4 j.anchorBlock with
      | some b => .erase b { j with anchorBlock := b, anchorFill := 0 }
      | none => .lost
  | .refresh src wear =>
    let dst := if 452 ≤ src then (if wear then j.mostErased else j.takeBlock)
      else if 436 ≤ src then j.goodAfter 436 16 16 j.cfgBlock else none
    match dst, j.queue with
    | some b, _ :: rest => .erase b { j with queue := .copy src b :: rest }
    | _, _ => .lost
  | _ => .ready

/-- Records numbered from `n` on (R569). -/
def numbered (n : Nat) (l : List JRec) : List JRec := l.mapIdx fun i r => { r with number := (n + i) % 2 ^ 32 }

/-! ### The queue -/

/-- Add an operation behind those queued. -/
def JR.push (j : JR) (o : JOp) : JR := { j with queue := j.queue ++ [o] }

/-- Is the operation a program or erase pulse? -/
def JOp.isPulse : JOp → Bool
  | .program _ _ _ | .more _ _ | .anchor | .erase _ | .slot _ _ _ | .refresh _ _ | .copy _ _ => true
  | .read | .answer _ _ _ => false

/-- The commands of which an operation is a part, by opcode. -/
def JOp.owners : JOp → List Nat
  | .program 2 _ _ | .more _ _ => [0x0106]
  | .program 3 _ _ => [0x0907]
  | .anchor => [0x0908, 0x0A02, 0x0A06, 0x0A08]
  | .slot _ _ d => if d.isEmpty then [0x0A04] else [0x0A03]
  | _ => []

/-- The first queued answer to a command of these opcodes is one of failure. -/
def failAnswer (ops : List Nat) : List JOp → List JOp
  | [] => []
  | .answer op h f :: l => if ops.contains op then .answer op h true :: l else .answer op h f :: failAnswer ops l
  | o :: l => o :: failAnswer ops l

/-- A JOURNAL_MARK that fails leaves the state it found (R498): the records buffered before it are buffered again, without its own. -/
def JR.unmark (j : JR) (o : JOp) : JR :=
  match o, j.queue.drop 1 with
  | .program 3 _ recs, .answer 0x0907 _ _ :: _ =>
    { j with evBuf := recs.dropLast ++ j.evBuf, evSince := if recs.dropLast.isEmpty then j.evSince else some 0 }
  | _, _ => j

/-- The operation at the head cannot be carried out: it is lost, and its command fails. For want of a good block the store has failed;
the anchor and a copy are done without (R566, R577). -/
def JR.lose (j : JR) (o : JOp) (failed : Bool) : JR :=
  { j.unmark o with queue := failAnswer o.owners (j.queue.drop 1), state := if failed then .FAILED else j.state }

/-- May the unit start operations: it has found the store, is idle, and no device reset is deferred (R544, R560)? -/
def State.journalIdle (s : State) : Bool :=
  s.jr.current.isNone && s.rst.deferred.isNone && s.rst.mode != .OFF && s.jr.usable

/-- Start what stands at the head of the queue. An answer there waits for the control cores; in HALT only reads start (R574). -/
def State.journalRun : (fuel : Nat) → State → State
  | 0, s => s
  | n + 1, s =>
    let j := s.jr
    match j.queue with
    | [] => s
    | .answer _ _ _ :: _ => s
    | .read :: rest => { s with jr := { j with current := some .read, queue := rest } }
    | o :: rest =>
      if s.rst.mode = .HALT then s
      else match j.ground o with
        | .ready => { s with jr := { j with current := some o, queue := rest, pulse := some (s.ns + 1000000) } }
        | .erase b j => { s with jr := { j with current := some (.erase b), pulse := some (s.ns + 8000000) } }
        | .lost => State.journalRun n { s with jr := j.lose o (o != .anchor && match o with | .refresh _ _ => false | _ => true) }
        | .held => State.journalRun n { s with jr := j.lose o false }

def State.journalStart (s : State) : State := if s.journalIdle then s.journalRun (s.jr.queue.length + 1) else s

/-- An operation is queued; none where the part was refused (R559). -/
def State.journalPush (s : State) (o : JOp) : State :=
  if s.jr.state = .UNSUPPORTED then { s with jr := { s.jr with queue := failAnswer o.owners s.jr.queue } }
  else ({ s with jr := s.jr.push o }).journalStart

/-- Operations are queued together with the answer that follows them, and then begun. -/
def State.journalPushAll (s : State) (l : List JOp) : State :=
  ({ s with jr := { s.jr with queue := s.jr.queue ++ l } }).journalStart

/-! ### Evidence records (R569, R572, R575) -/

/-- Queue the buffered evidence page. -/
def State.evidencePage (s : State) : State :=
  if s.jr.evBuf.isEmpty then s
  else ({ s with jr := { s.jr with evBuf := [], evSince := none } }).journalPush (.program 3 0 s.jr.evBuf)

/-- Evidence blocks are full under evidence_hold: records are discarded. -/
def JR.evidenceFull (j : JR) : Bool := j.hold && decide (128 ≤ j.evBlocks.length) && decide (64 ≤ j.evFill)

/-- Write a record to the evidence journal. It gets its number when its page is programmed (R569). -/
def State.evidenceRecord (s : State) (type : Nat) (payload : List Byte) : State :=
  if s.jr.evidenceFull then s.evidence 0x50058
  else
    let r : JRec := { type := type, number := 0, payload := payload }
    let s := if pageRoom < sumNat (s.jr.evBuf.map JRec.size) + r.size then s.evidencePage else s
    { s with jr := { s.jr with evBuf := s.jr.evBuf ++ [r], evSince := some (s.jr.evSince.getD s.ns) } }

/-- Evidence records that wait to be programmed. -/
def JOp.evidence : JOp → List JRec
  | .program 3 _ l => l
  | _ => []

/-- At HALT what is queued is dropped, evidence records among it for the HALT record's page (R574). -/
def JR.halted (j : JR) : JR := { j with queue := [], evBuf := j.queue.flatMap (·.evidence) ++ j.evBuf }

/-- Cut records into pages. -/
def pageCut : List JRec → List JRec → Nat → List (List JRec)
  | [], page, _ => if page.isEmpty then [] else [page]
  | r :: l, page, used =>
    if page ≠ [] ∧ pageRoom < used + r.size then page :: pageCut l [r] r.size else pageCut l (page ++ [r]) (used + r.size)

end Sys2Proof.Machine
end

