-- ==== Sys2Proof/Machine/Operands.lean ====
section
/-! DEFINITION. The formats that the units read and build: cell headers (R140 to R144), parcel headers and their checks (R145 to
R148), answers (R328), control train bodies (R102), window keys and the op values of R325. -/
namespace Sys2Proof.Machine

/-! ### Cell headers (R140) -/

/-- The fields of a cell header but for hcrc. -/
structure CellHdr where
  escape : Bool
  dateline : Bool
  index : Nat
  tag : Nat
  kind : Nat
  vc : Nat
  dest : Nat
  deriving DecidableEq, Repr

/-- The header word without hcrc, bits [55:0]. -/
def CellHdr.low (h : CellHdr) : Nat :=
  h.dest + at_ h.vc 21 + at_ h.kind 24 + at_ h.tag 28 + at_ h.index 44 + at_ (b2n h.dateline) 54 + at_ (b2n h.escape) 55

/-- The header with its CRC over bytes 0 to 6 (R142). -/
def CellHdr.encode (h : CellHdr) : BitVec 64 := BitVec.ofNat 64 (h.low + at_ (crc8 (le 7 h.low)) 56)

end Sys2Proof.Machine

namespace Sys2Proof

open Machine

def WireCell.h (c : WireCell) : CellHdr :=
  let v := c.hdr.toNat
  { escape := bit v 55, dateline := bit v 54, index := bits v 53 44, tag := bits v 43 28, kind := bits v 27 24,
    vc := bits v 23 21, dest := bits v 20 0 }

def WireCell.crcOk (c : WireCell) : Bool := crc8 (le 7 c.hdr.toNat) == bits c.hdr.toNat 63 56

/-- The conditions of R143 under which a router discards a cell. -/
def WireCell.bad (c : WireCell) : Bool :=
  let h := c.h
  !c.crcOk || decide (8 ≤ h.kind) || (h.escape && decide (4 ≤ h.vc)) || (!h.escape && decide (h.vc < 4))
    || (h.kind == 6 && (h.dest / 4096 != 0 || !(h.vc == 0 || h.vc == 1 || h.vc == 6)))
    || ((h.kind == 4 || h.kind == 5) && !(h.vc == 2 || h.vc == 3 || h.vc == 5))

end Sys2Proof

namespace Sys2Proof.Machine

def mkCell (h : CellHdr) (payload : List Byte) : WireCell := { hdr := h.encode, payload := fitTo 64 payload }

/-- The cell as it leaves on its next hop: vc, escape and dateline set, hcrc recomputed (R142). -/
def QCell.wire (q : QCell) : WireCell :=
  { q.cell with hdr := ({ q.cell.h with vc := q.vc, escape := q.esc, dateline := q.dateline } : CellHdr).encode }

/-! ### Locations and endpoint ids (R32) -/

def epLoc (e : Nat) : Nat := e / 32 % 65536
def epAtt (e : Nat) : Nat := e % 32
def locX (l : Nat) : Nat := l / 4096 % 16
def locY (l : Nat) : Nat := l / 256 % 16
def locZ (l : Nat) : Nat := l / 16 % 16
def locRouter (l : Nat) : Nat := l % 16
def locStation (l : Nat) : Nat := l / 16

/-! ### Parcels (R145 to R148) -/

/-- Cells of a parcel of `l` data bytes (R145). -/
def parcelCells (l : Nat) : Nat := ceilDiv (l + 28) 64

/-- The common part of a parcel header and its area (R147, R148). -/
structure ParcelHdr where
  sendTime : Nat
  length : Nat
  seq : Nat
  op : Nat
  roleGen : Nat
  flow : Nat
  area : List Byte
  deriving DecidableEq, Repr

def ParcelHdr.bytes (h : ParcelHdr) : List Byte :=
  le 12 (h.flow + at_ h.roleGen 22 + at_ h.op 30 + at_ h.seq 36 + at_ h.length 48 + at_ (h.sendTime % 2 ^ 32) 64)
    ++ fitTo 12 h.area

def ParcelHdr.ofBytes (b : List Byte) : ParcelHdr :=
  let v := rd b 0 12
  { flow := bits v 21 0, roleGen := bits v 29 22, op := bits v 35 30, seq := bits v 47 36, length := bits v 63 48,
    sendTime := bits v 95 64, area := fitTo 12 (b.drop 12) }

/-- The byte stream of a parcel: header, data, zero padding and the check (R145, R146). -/
def parcelStream (h : ParcelHdr) (data : List Byte) : List Byte :=
  let n := parcelCells h.length
  let body := fitTo (64 * n - 4) (h.bytes ++ data)
  body ++ le 4 (crc32c body)

/-- Cell kind of index `i` of a unicast parcel of `n` cells (R141). -/
def unicastKind (i n : Nat) : Nat := if n = 1 then 3 else if i = 0 then 0 else if i + 1 = n then 2 else 1

/-- Cut a stream into cells. `single` is the tag a one-cell parcel carries (R144, R155). -/
def streamCells (mcast : Bool) (vc dest tag single n : Nat) : (fuel i : Nat) → List Byte → List WireCell
  | 0, _, _ => []
  | f + 1, i, st =>
    mkCell { escape := decide (vc < 4), dateline := false, index := i, tag := if n = 1 && !mcast then single else tag,
             kind := if mcast then 6 else unicastKind i n, vc := vc, dest := dest } (st.take 64)
      :: streamCells mcast vc dest tag single n f (i + 1) (st.drop 64)

/-- The cells of a unicast parcel on `vc` for endpoint `dest`. -/
def parcelBuild (vc dest tag single : Nat) (h : ParcelHdr) (data : List Byte) : List WireCell :=
  let n := parcelCells h.length
  streamCells false vc dest tag single n n 0 (parcelStream h data)

/-- The cells of a multicast parcel. -/
def mcastBuild (vc group tag : Nat) (h : ParcelHdr) (data : List Byte) : List WireCell :=
  let n := parcelCells h.length
  streamCells true vc group tag tag n n 0 (parcelStream h data)

end Sys2Proof.Machine

namespace Sys2Proof

open Machine

/-- The parcel header that a head or SINGLE cell's payload starts with. -/
def WireCell.parcel (c : WireCell) : ParcelHdr := ParcelHdr.ofBytes c.payload

end Sys2Proof

namespace Sys2Proof.Machine

/-- Does a complete stream pass its check, non-zero padding failing it (R146)? -/
def streamOk (length : Nat) (st : List Byte) : Bool :=
  let m := 64 * parcelCells length - 4
  crc32c (st.take m) == rd st m 4 && ((st.take m).drop (24 + length)).all (· == 0#8)

/-! The op values (R325; 12_baler.md; 11_roundhouse.md; 10_matching.md). -/
def opPUT : Nat := 0x01
def opPUT_ELIDED : Nat := 0x02
def opGET_REQ : Nat := 0x03
def opATOMIC : Nat := 0x04
def opGET_RESP : Nat := 0x20
def opSIGNAL : Nat := 0x21
def opCOLL_UP : Nat := 0x22
def opCOLL_DOWN : Nat := 0x23
def opMCAST_REPAIR : Nat := 0x24
def opMCAST_PUT : Nat := 0x25
def opCLOSE : Nat := 0x27
def opOPEN : Nat := 0x3F

/-- Class Response (R325): GET_RESP and COLL_DOWN travel on the response VCs. -/
def opResponse (op : Nat) : Bool := op == opGET_RESP || op == opCOLL_DOWN

/-! ### Answers (R328) -/

structure AnswerCell where
  /-- true for a NACK -/
  nack : Bool
  dest : Nat
  tag : Nat
  flow : Nat
  fn : Nat
  gen : Nat
  /-- flags of an ACK, kind of a NACK -/
  code : Nat
  seq : Nat
  subtype : Nat
  /-- d of an ACK, detail of a NACK -/
  value : Nat
  openFlow : Nat
  grantBase : Nat
  grantCount : Nat
  result : Nat
  member : Nat
  mcast : Bool
  deriving DecidableEq, Repr

def AnswerCell.blank : AnswerCell :=
  { nack := false, dest := 0, tag := 0, flow := 0, fn := 0, gen := 0, code := 0, seq := 0, subtype := 0, value := 0,
    openFlow := 0, grantBase := 0, grantCount := 0, result := 0, member := 0, mcast := false }

def AnswerCell.payload (a : AnswerCell) : List Byte :=
  le 4 a.flow ++ le 2 a.fn ++ le 1 a.gen ++ le 1 a.code ++ le 2 a.seq ++ le 2 a.subtype ++ le 4 a.value
    ++ le 4 a.openFlow ++ le 2 a.grantBase ++ le 1 a.grantCount ++ le 1 0 ++ le 8 a.result ++ le 4 a.member
    ++ le 1 (b2n a.mcast)

/-- The single cell on the adaptive response VC (R328, R143). -/
def AnswerCell.cell (a : AnswerCell) : WireCell :=
  mkCell { escape := false, dateline := false, index := 0, tag := a.tag, kind := if a.nack then 5 else 4, vc := 5,
           dest := a.dest } a.payload

/-- Are the fields that an answer leaves unused zero, and its flags and count in range (R7, R328)? -/
def AnswerCell.usedOk (a : AnswerCell) : Bool :=
  (if a.nack then a.openFlow == 0 && a.grantBase == 0 && a.grantCount == 0 && a.result == 0
   else a.subtype == 0 && decide (a.code < 4) && decide (a.grantCount ≤ 64) && (bit a.code 0 || a.openFlow == 0)
     && (bit a.code 1 || a.result == 0))
    && (a.mcast || a.member == 0)

def AnswerCell.ofCell (c : WireCell) : AnswerCell :=
  let p := c.payload
  { nack := c.h.kind == 5, dest := c.h.dest, tag := c.h.tag, flow := rd p 0 4 % 2 ^ 22, fn := rd p 4 2 % 2048,
    gen := rd p 6 1, code := rd p 7 1, seq := rd p 8 2 % 4096, subtype := rd p 10 2, value := rd p 12 4,
    openFlow := rd p 16 4 % 2 ^ 22, grantBase := rd p 20 2, grantCount := rd p 22 1, result := rd p 24 8,
    member := rd p 32 4, mcast := bit (rd p 36 1) 0 }

/-! NACK kinds (R337). -/
def nackCHECK : Nat := 0x01
def nackSTALE_ROLE : Nat := 0x02
def nackFUNCTION_RESET : Nat := 0x03
def nackPORT_RESET : Nat := 0x04
def nackRETRY_AFTER : Nat := 0x05
def nackRESOURCE : Nat := 0x06
def nackACCESS : Nat := 0x07
def nackNO_FLOW : Nat := 0x08
def nackBAD_OP : Nat := 0x09
def nackNO_COUNTER : Nat := 0x0A

/-! ### Control train bodies (R102) -/

/-- A TIME body: times in units of 2^-16 ns. -/
structure TimeBody where
  tx : Nat
  reply : Bool
  noRoot : Bool
  hops : Nat
  rootLoc : Nat
  rootPri : Nat
  exchange : Nat
  rx : Nat
  rootSeq : Nat
  deriving DecidableEq, Repr

def TimeBody.bytes (t : TimeBody) : List Byte :=
  fitTo 64 (le 8 (t.tx / unit) ++ le 2 (t.tx % unit) ++ le 1 (b2n t.reply + 2 * b2n t.noRoot) ++ le 1 t.hops
    ++ le 2 t.rootLoc ++ le 1 t.rootPri ++ le 1 t.exchange ++ le 8 (t.rx / unit) ++ le 2 (t.rx % unit)
    ++ le 4 t.rootSeq)

def TimeBody.ofBytes (b : List Byte) : TimeBody :=
  let fl := rd b 10 1
  { tx := rd b 0 8 * unit + rd b 8 2, reply := bit fl 0, noRoot := bit fl 1, hops := rd b 11 1, rootLoc := rd b 12 2,
    rootPri := rd b 14 1, exchange := rd b 15 1, rx := rd b 16 8 * unit + rd b 24 2, rootSeq := rd b 26 4 }

def Hello.bytes (x : Hello) : List Byte :=
  fitTo 64 (le 2 x.location ++ le 1 x.port ++ le 1 x.role ++ [x.good, x.failed] ++ le 1 (b2n x.resume) ++ le 1 x.rate
    ++ le 2 x.incarnation ++ le 2 x.peerIncarnation ++ le 2 x.rxExpected ++ le 2 x.sidingBase ++ le 2 x.txNext
    ++ le 2 x.flight)

def Hello.ofBytes (b : List Byte) : Hello :=
  { location := rd b 0 2, port := rd b 2 1, role := rd b 3 1, good := BitVec.ofNat 8 (rd b 4 1),
    failed := BitVec.ofNat 8 (rd b 5 1), resume := bit (rd b 6 1) 0, rate := rd b 7 1, incarnation := rd b 8 2,
    peerIncarnation := rd b 10 2, rxExpected := rd b 12 2, sidingBase := rd b 14 2, txNext := rd b 16 2,
    flight := rd b 18 2 }

/-- The low and high nibbles of bytes, in order. -/
def nibbles : List Byte → List Nat
  | [] => []
  | b :: t => b.toNat % 16 :: b.toNat / 16 :: nibbles t

def Summary.ofBytes (b : List Byte) : Summary :=
  { poolFree := rd b 0 2, vcFree := ((b.drop 2).take 8).map (·.toNat), congestion := nibbles ((b.drop 10).take 32),
    upMap := BitVec.ofNat 64 (rd b 42 8) }

/-- Are all bytes from `o` on zero (R102: bytes not listed are reserved)? -/
def zeroFrom (b : List Byte) (o : Nat) : Bool := (b.drop o).all (· == 0#8)

end Sys2Proof.Machine

namespace Sys2Proof

open Machine

/-- A train header's 8 bytes (R98). -/
def TrainHdr.bytes (t : TrainHdr) : List Byte :=
  le 8 (t.seq.toNat + at_ t.ackSeq.toNat 16 + at_ t.xoffMap.toNat 32 + at_ t.kind 40 + at_ t.ackKind 44 + at_ t.cells 46
    + at_ (b2n t.replay) 50 + at_ t.reserved 51)

/-- The 72 bytes of a cell as a train carries it (R98). -/
def WireCell.bytes (c : WireCell) : List Byte := le 8 c.hdr.toNat ++ c.payload

/-- A train without its CRC field: header, then cells or body (R98). -/
def trainBody (t : TrainHdr) (cells : List WireCell) (body : List Byte) : List Byte :=
  t.bytes ++ cells.flatMap WireCell.bytes ++ body

/-- The CRC field of a train: CRC-32C over header and body in transmission order (R103). -/
def trainCrc (t : TrainHdr) (cells : List WireCell) (body : List Byte) : Nat := crc32c (trainBody t cells body)

/-- The whole train on the wire (R98). -/
def trainWire (t : TrainHdr) (cells : List WireCell) (body : List Byte) : List Byte :=
  trainBody t cells body ++ le 4 (trainCrc t cells body)

/-- Does a train as received pass its CRC (R103)? The rows of received trains stand for those that do; TRAIN_CRC_FAIL for the others. -/
def trainPasses (wire : List Byte) : Bool :=
  decide (12 ≤ wire.length) && crc32c (wire.take (wire.length - 4)) == rd wire (wire.length - 4) 4

end Sys2Proof
end

