-- ==== Sys2Proof/Machine/Junction.lean ====
section
/-! DEFINITION. The Junction: pool admission and storage (R112, R164, R165), route computation (R166 to R179), detours, multicast
(R180 to R183), queue placement at the egresses (R186, R187) and rerouting at a flush (R123). -/
namespace Sys2Proof.Machine

/-! ### Capacities (R66, R97, R211) -/

/-- C of a fabric port by rate step; step 3 from the standby rate of about 6.25 GB/s. -/
def rateCap (rate : Nat) : Nat := if rate = 0 then 2777 else if rate = 1 then 2083 else if rate = 2 then 1388 else 86

/-- C of a port: zero outside UP and STANDBY (R121). -/
def State.portCap (s : State) (p : Nat) : Nat :=
  match (s.port p).state with
  | .UP => rateCap (s.port p).rate
  | .STANDBY => 86
  | _ => 0

/-- Raw rate of a PCIe speed code, in tenths of GT/s. -/
def speedTenths (code : Nat) : Nat :=
  if code = 1 then 25 else if code = 2 then 50 else if code = 3 then 80 else if code = 4 then 160
  else if code = 5 then 320 else if code = 6 then 640 else 0

/-- C of an attachment at its trained rate (R211). -/
def State.attCap (s : State) (a : Nat) : Nat :=
  let x := s.att a
  if x.state == .UP || x.state == .SLOW then x.width * speedTenths x.speed * 125 / 10 / 72 else 0

/-- C of egress `e` (R185). -/
def State.egressCap (s : State) (e : Nat) : Nat := if e < 64 then s.portCap e else s.attCap (e - 64)

/-- Reservable limit of egress `e` (R66); zero for a fabric port outside UP (R121, R535). -/
def State.egressLimit (s : State) (e : Nat) : Nat :=
  if e < 64 ∧ (s.port e).state ≠ .UP then 0 else s.egressCap e * s.tt.fraction / 100

/-! ### Storage (R112, R164, R165) -/

/-- Every cell that is stored: queued at an egress, or waiting for the control cores. -/
def State.queued (s : State) : List QCell := s.sb.egresses.flatMap (fun e => e.2.cells) ++ s.cc.controlIn

/-- Distinct buffers among queued cells that satisfy `f`: copies of one multicast cell count once. -/
def countBufs (cs : List QCell) (f : QCell → Bool) : Nat :=
  ((cs.filter f).foldl (fun l q => insertNat q.buf l) []).length

/-- Cells recorded in the reassembly entries of an engine. -/
def Engine.reasmCells (e : Engine) : Nat :=
  sumNat (e.tags.map fun t => match t.2.entry with | some r => r.cells.length | none => 0)
    + sumNat (e.mreasm.map fun r => r.2.cells.length)

/-- Cells parked for flow contexts (R347). -/
def Engine.parkedCells (e : Engine) : Nat :=
  sumNat (e.parked.map fun p => match p.2.2 with | .parcel x => x.cells | .answer _ => 1)

/-- Pool space in use, in cells: stored in the pool, recorded for reassembly, or parked. -/
def State.poolCells (s : State) : Nat :=
  countBufs s.queued (fun q => q.place == .pool)
    + sumNat (s.engines.map fun e => e.2.reasmCells + e.2.parkedCells)

/-- The shared pool in bytes: 176 MiB less retired banks (R164, R508). -/
def State.poolTotal (s : State) : Nat := (176 - s.jn.banksGone.length) * 1048576

/-- JN_POOL_FREE, KiB rounded down. -/
def State.poolFreeKib (s : State) : Nat := (s.poolTotal - s.poolCells * 72) / 1024

def setAside : Nat := 16 * 1048576

/-- F of R164: free pool space outside the set-aside; VC6 and VC7 cells fill the set-aside first. -/
def State.poolF (s : State) : Nat :=
  let sched := countBufs s.queued (fun q => q.place == .pool && decide (6 ≤ q.cell.h.vc)) * 72
  let other := s.poolCells * 72 - sched
  s.poolTotal - setAside - other - (sched - setAside)

/-- Pool space held by (ingress, VC), in cells. -/
def State.poolHeld (s : State) (ing : Ingress) (vc : Nat) : Nat :=
  countBufs s.queued (fun q => q.place == .pool && q.ingress == ing && q.cell.h.vc == vc)

/-- Does the pool admit a cell of `vc` from `ing` (R164)? -/
def State.poolAdmits (s : State) (ing : Ingress) (vc : Nat) : Bool :=
  if 6 ≤ vc then decide (s.poolCells * 72 + 72 ≤ s.poolTotal)
  else decide (s.poolHeld ing vc * 72 * 8 < s.jn.alpha * s.poolF)

/-- Cells of VC `vc` in a port's reserve (32 KiB, R110). -/
def State.reserveUsed (s : State) (p vc : Nat) : Nat :=
  countBufs s.queued (fun q => q.place == .reserve && q.ingress == .port p && q.cell.h.vc == vc)

/-- Cells in a port's headroom (512 KiB). -/
def State.headroomUsed (s : State) (p : Nat) : Nat :=
  countBufs s.queued (fun q => q.place == .headroom && q.ingress == .port p)

/-- The place an arriving or injected cell is stored in, none where it finds no room (R112, R164). -/
def State.storeAt (s : State) (ing : Ingress) (vc : Nat) : Option Place :=
  match ing with
  | .port p =>
    if s.reserveUsed p vc * 72 + 72 ≤ 32768 then some .reserve
    else if s.poolAdmits ing vc then some .pool
    else if s.headroomUsed p * 72 + 72 ≤ 524288 then some .headroom
    else none
  | _ => if s.poolAdmits ing vc then some .pool else none

/-- The xoff_map of a port with the bits cleared that R113 clears: 16 KiB of the VC's reserve free and the pool admitting it. -/
def State.xoffKept (s : State) (p : Nat) : BitVec 8 :=
  BitVec.ofNat 8 (sumNat ((List.range 6).map fun v =>
    if (s.port p).xoffOut.getLsbD v && !(decide (s.reserveUsed p v * 72 + 16384 ≤ 32768) && s.poolAdmits (.port p) v)
    then 2 ^ v else 0))

/-- Clear xoff_map bits after buffer space has been freed (R113). -/
def State.refreshXoff (s : State) : State :=
  { s with ports := s.ports.map fun e =>
      if e.2.xoffOut = 0#8 then e else (e.1, { e.2 with xoffOut := s.xoffKept e.1 }) }

/-! ### Routes (R166 to R170) -/

/-- (b - a) mod n. -/
def offsetOf (a b n : Nat) : Nat := (b + n - a % n) % n

/-- Productive directions of a dimension: bit 0 plus, bit 1 minus (R167). -/
def productiveDirs (o n : Nat) : Nat := if o = 0 then 0 else if 2 * o < n then 1 else if n < 2 * o then 2 else 3

def JN.size (j : JN) (dim : Nat) : Nat := if dim = 0 then j.nx else if dim = 1 then j.ny else j.nz
def JN.datelineOf (j : JN) (dim : Nat) : Nat :=
  if dim = 0 then j.datelineX else if dim = 1 then j.datelineY else j.datelineZ
def locDim (l dim : Nat) : Nat := if dim = 0 then locX l else if dim = 1 then locY l else locZ l

/-- Directions computed from the topology towards a location's station. -/
def JN.dirs (j : JN) (l dim : Nat) : Nat :=
  productiveDirs (offsetOf (locDim j.location dim) (locDim l dim) (j.size dim)) (j.size dim)

/-- The station lies in the configured torus. -/
def JN.inTorus (j : JN) (st : Nat) : Bool :=
  decide (locX (st * 16) < j.nx) && decide (locY (st * 16) < j.ny) && decide (locZ (st * 16) < j.nz)

/-- JN_ROUTE_s: the entry ROUTE_ENTRY_SET wrote, or the one the topology gives (R166, R167). -/
def JN.route (j : JN) (st : Nat) : Route :=
  if !j.topology || !j.inTorus st then { valid := false, dx := 0, dy := 0, dz := 0 }
  else Tbl.getD j.routes st
    { valid := true, dx := j.dirs (st * 16) 0, dy := j.dirs (st * 16) 1, dz := j.dirs (st * 16) 2 }

def Route.dir (r : Route) (dim : Nat) : Nat := if dim = 0 then r.dx else if dim = 1 then r.dy else r.dz

/-- The line role of a direction (LK_ROLE). -/
def lineRole (dim : Nat) (plus : Bool) : Nat := 4 + 2 * dim + b2n (!plus)

/-- Bundles are named by line role 4-9, or by 16 + j for the local links to router j. -/
def State.bundle (s : State) (b : Nat) : List Nat :=
  (List.range 64).filter fun p =>
    let x := s.port p
    if b < 16 then x.role == b
    else (x.role == 1 || x.role == 2) && x.peer == locStation s.location * 16 + (b - 16)

/-- The bundle a port belongs to; 255 for none. -/
def State.portBundle (s : State) (p : Nat) : Nat :=
  let x := s.port p
  if 4 ≤ x.role ∧ x.role ≤ 9 then x.role
  else if (x.role = 1 ∨ x.role = 2) ∧ x.peer / 16 = locStation s.location then 16 + x.peer % 16
  else 255

/-- A productive port: UP and not draining towards DISABLED (R121, R132, R168). -/
def State.productive (s : State) (p : Nat) : Bool := (s.port p).state == .UP && (s.port p).drain.isNone

/-- A port that may carry a cell of `vc`: VC7 also passes in STANDBY (R133, R535). -/
def State.carries (s : State) (vc p : Nat) : Bool := s.productive p || (vc == 7 && (s.port p).state == .STANDBY && (s.port p).drain.isNone)

/-- The bundle the escape path takes next towards `dest`: X, Y, Z, then the local link; none at the destination router (R174). -/
def State.escapeBundle (s : State) (dest : Nat) : Option Nat :=
  let r := s.jn.route (dest / 512)
  let line := fun dim => if r.dir dim = 0 then none else some (lineRole dim (r.dir dim % 2 == 1))
  match line 0, line 1, line 2 with
  | some b, _, _ => some b
  | none, some b, _ => some b
  | none, none, some b => some b
  | none, none, none =>
    if locRouter (epLoc dest) = locRouter s.location then none else some (16 + locRouter (epLoc dest))

/-- Every productive bundle of a cell for `dest` (R168). -/
def State.bundles (s : State) (dest : Nat) : List Nat :=
  let r := s.jn.route (dest / 512)
  let line := fun dim =>
    (if r.dir dim % 2 = 1 then [lineRole dim true] else []) ++ (if 2 ≤ r.dir dim then [lineRole dim false] else [])
  line 0 ++ line 1 ++ line 2
    ++ (if locRouter (epLoc dest) = locRouter s.location then [] else [16 + locRouter (epLoc dest)])

/-- Cells of VC0-VC5 queued at an egress (R169). -/
def State.adaptiveQ (s : State) (e : Nat) : Nat := ((s.egress e).cells.filter fun q => decide (q.vc < 6)).length

/-- The level of R169. -/
def State.congestion (s : State) (e : Nat) : Nat := minN 15 (s.adaptiveQ e / 128)

/-- The ports of a line role in the standard plan (R30), by which the partner's levels are read. -/
def stdPorts (role : Nat) : List Nat := (List.range 8).map fun i => 16 + 8 * (role - 4) + i

/-- Highest level that port p's partner last reported over the ports of a line role. -/
def State.partnerLevel (s : State) (p role : Nat) : Nat :=
  match (s.port p).summary with
  | some m => maxList ((stdPorts role).map fun q => m.congestion.getD q 0)
  | none => 0

/-- Ld(p) of R170 for a cell whose next line bundle is `next`. -/
def State.downLevel (s : State) (p : Nat) (next : Option Nat) : Nat :=
  let role := (s.port p).role
  if 4 ≤ role then s.partnerLevel p role
  else match next with
    | some b => if b < 16 then s.partnerLevel p b else 0
    | none => 0

/-- The score of R170. -/
def State.score (s : State) (dest p : Nat) : Nat :=
  s.adaptiveQ p + s.jn.downWeight * s.downLevel p (s.escapeBundle dest)

/-- The port of least score, ties broken from the rotating pointer on (R170). -/
def pickPort (turn : Nat) (score : Nat → Nat) : List Nat → Option Nat
  | [] => none
  | p :: t =>
    match pickPort turn score t with
    | none => some p
    | some q =>
      if score p < score q ∨ (score p = score q ∧ (p + 64 - turn % 64) % 64 < (q + 64 - turn % 64) % 64) then some p
      else some q

/-- The bit a cell holds in `dateline` after a hop on a port of role `role` (R175). -/
def State.hopDateline (s : State) (ing : Ingress) (had : Bool) (role : Nat) : Bool :=
  if 4 ≤ role ∧ role ≤ 9 then
    let dim := (role - 4) / 2
    let own := locDim s.location dim
    let c := s.jn.datelineOf dim
    let within := match ing with
      | .port p => decide (4 ≤ (s.port p).role ∧ (s.port p).role ≤ 9 ∧ ((s.port p).role - 4) / 2 = dim)
      | _ => false
    let crosses := if role % 2 = 0 then (own + 1) % s.jn.size dim == c else own == c
    (within && had) || crosses
  else false

/-- The next hop of a cell. -/
structure Hop where
  egress : Nat
  vc : Nat
  esc : Bool
  dateline : Bool
  detour : Bool
  deriving DecidableEq, Repr

/-- Is a VC of class Response? -/
def vcResponse (vc : Nat) : Bool := vc == 2 || vc == 3 || vc == 5

def State.hop (s : State) (ing : Ingress) (h : CellHdr) (p vc : Nat) (esc detour : Bool) : Hop :=
  { egress := p, vc := vc, esc := esc, dateline := s.hopDateline ing h.dateline (s.port p).role, detour := detour }

/-- The hop on the escape path, on the escape VC that its dateline bit selects (R174, R175). -/
def State.escapeHop (s : State) (ing : Ingress) (h : CellHdr) : Option Hop :=
  match s.escapeBundle h.dest with
  | none => none
  | some b =>
    match pickPort s.jn.turn s.adaptiveQ ((s.bundle b).filter s.productive) with
    | none => none
    | some p =>
      let x := s.hop ing h p 0 true false
      some { x with vc := (if vcResponse h.vc then 2 else 0) + b2n x.dateline }

/-- A detour to router j and its score (R171): over the local port, with j's level on the bundle needed next. -/
def State.detourScore (s : State) (dest p : Nat) : Nat :=
  let lvl := match s.escapeBundle dest with
    | some b => if b < 16 then s.partnerLevel p b else 0
    | none => 0
  s.adaptiveQ p + s.jn.downWeight * lvl + s.jn.detourPenalty

/-- Productive local ports to other routers j of the station, j not the destination's index. -/
def State.detourPorts (s : State) (dest : Nat) : List Nat :=
  (List.range 64).filter fun p =>
    s.productive p && decide (16 ≤ s.portBundle p ∧ s.portBundle p < 32 ∧ s.portBundle p - 16 ≠ locRouter (epLoc dest)
      ∧ s.portBundle p - 16 ≠ locRouter s.location)

/-- Does router j, behind local port p, report the bundle that `dest` needs as up (R172)? -/
def State.reportsUp (s : State) (dest p : Nat) : Bool :=
  match (s.port p).summary with
  | none => false
  | some m =>
    match s.escapeBundle dest with
    | some b => if b < 16 then (stdPorts b).any fun q => m.upMap.getLsbD q else m.upMap.getLsbD (b - 16)
    | none => false

/-- Did the cell come over a local port (R173)? -/
def State.fromLocal (s : State) : Ingress → Bool
  | .port p => decide (16 ≤ s.portBundle p ∧ s.portBundle p < 32)
  | _ => false

/-- The fault detour of R172; a chunk parcel takes none (R407). -/
def State.faultDetour (s : State) (ing : Ingress) (h : CellHdr) (vc : Nat) : Option Hop :=
  if s.fromLocal ing || ing == .cores then none
  else
    (pickPort s.jn.turn (s.detourScore h.dest) ((s.detourPorts h.dest).filter (s.reportsUp h.dest))).map fun p =>
      s.hop ing h p vc false true

/-- A HELD port of a bundle the cell needs, where it may wait (R172); none that LINK_DISABLE drains (R132). -/
def State.heldHop (s : State) (ing : Ingress) (h : CellHdr) (vc : Nat) (bs : List Nat) : Option Hop :=
  (pickPort s.jn.turn s.adaptiveQ
    ((bs.flatMap s.bundle).filter fun p => (s.port p).state == .HELD && (s.port p).drain.isNone)).map fun p => s.hop ing h p vc false false

/-- The hop of a cell on an adaptive VC (R168 to R176): the best productive port, the escape path where every one is XOFFed, an
injection detour, a fault detour, or a HELD port. -/
def State.adaptiveHop (s : State) (ing : Ingress) (h : CellHdr) (wait : Bool) : Option Hop :=
  let vc := if vcResponse h.vc then 5 else 4
  let ports := ((s.bundles h.dest).flatMap s.bundle).filter s.productive
  match pickPort s.jn.turn (s.score h.dest) ports with
  | some p =>
    let inj := match ing with | .engine _ => s.jn.detourEn | _ => false
    let det := if inj then pickPort s.jn.turn (s.detourScore h.dest) (s.detourPorts h.dest) else none
    let plain := s.hop ing h p vc false false
    match det with
    | some d => if s.detourScore h.dest d < s.score h.dest p then some (s.hop ing h d vc false true)
                else if ports.all (fun q => (s.port q).xoffIn.getLsbD vc) then some ((s.escapeHop ing h).getD plain)
                else some plain
    | none =>
      if ports.all (fun q => (s.port q).xoffIn.getLsbD vc) then some ((s.escapeHop ing h).getD plain) else some plain
  | none =>
    match s.faultDetour ing h vc with
    | some x => some x
    | none => if wait then s.heldHop ing h vc (s.bundles h.dest) else none

/-- Active reservations for a destination (R187). -/
def State.activeFor (s : State) (kind dest : Nat) : List (Nat × Reservation) :=
  s.tt.resv.filter fun r => !r.2.suspended && r.2.destKind == kind && r.2.dest == dest

/-- The hop of a unicast cell on VC6 or VC7 over the bundle of its escape path, without VC change at datelines (R177, R179). -/
def State.fixedHop (s : State) (ing : Ingress) (h : CellHdr) (timetable : Bool) : Option Hop :=
  match s.escapeBundle h.dest with
  | none => none
  | some b =>
    let ports := (s.bundle b).filter (s.carries h.vc)
    let charged := ports.filter fun p => (s.activeFor 0 h.dest).any fun r => r.2.ports.contains p
    let pick :=
      if timetable && charged ≠ [] then pickPort s.jn.turn (fun _ => 0) charged
      else pickPort s.jn.turn s.adaptiveQ ports
    pick.map fun p => s.hop ing h p h.vc false false

/-! ### Classification and queue placement (R74, R80, R186, R187) -/

/-- What is known of a cell when it is queued: the function that injects it, whether the bucket of R72 demoted it, and the ladder
place of its reservation when it is a timetable cell. -/
structure Inject where
  fn : Option Nat
  demoted : Bool
  ladder : Option (Nat × Nat × Nat)
  deriving DecidableEq, Repr

def Inject.transit : Inject := { fn := none, demoted := false, ladder := none }
def Inject.ofFn (f : Nat) : Inject := { fn := some f, demoted := false, ladder := none }

/-- The ladder order of R71 as a key: lower comes first. -/
def ladderKey (id : Nat) (r : Reservation) : Nat × Nat × Nat := (7 - r.rank, r.installTime, id)

def ladderLt (a b : Nat × Nat × Nat) : Bool :=
  decide (a.1 < b.1) || (a.1 == b.1 && (decide (a.2.1 < b.2.1) || (a.2.1 == b.2.1 && decide (a.2.2 < b.2.2))))

/-- The highest-placed of a list of reservations. -/
def topLadder : List (Nat × Reservation) → Option (Nat × Nat × Nat)
  | [] => none
  | r :: t =>
    match topLadder t with
    | none => some (ladderKey r.1 r.2)
    | some k => if ladderLt (ladderKey r.1 r.2) k then some (ladderKey r.1 r.2) else some k

/-- The bundle a reservation's cells arrive on along a dimension whose path between routers `a` and `d` has offset N/2, where both
directions are productive and R167 lets the entry be narrowed to either: 40 + the dimension stands for both lines. -/
def eitherLine (dim : Nat) : Nat := 40 + dim

/-- The bundle a reservation's cells arrive on at this router, from its pinned path (R68, R174, R187); 255 at its source. -/
def State.resvIngress (s : State) (r : Reservation) : Nat :=
  if r.destKind = 1 then
    match Tbl.get? s.jn.mcast r.dest with
    | some m => if m.ingress < 64 then s.portBundle m.ingress else 255
    | none => 255
  else
    let o := s.location
    let a := epLoc r.source
    let d := epLoc r.dest
    let line := fun dim =>
      let dirs := productiveDirs (offsetOf (locDim a dim) (locDim d dim) (s.jn.size dim)) (s.jn.size dim)
      if dirs = 3 then eitherLine dim else lineRole dim (dirs != 1)
    if o = a then 255
    else if locRouter o = locRouter a then if locZ o ≠ locZ a then line 2 else if locY o ≠ locY a then line 1 else line 0
    else 16 + locRouter a

/-- Keys of the aggregate buckets that a VC6 cell which arrived on a port may draw on: its bundle's, and that of the cells which arrive on
either line of the dimension. -/
def State.aggKeys (s : State) (p : Nat) (h : CellHdr) : List (Nat × Nat × Nat) :=
  let b := s.portBundle p
  let dest := (if h.kind = 6 then 1 else 0, if h.kind = 6 then h.dest % 4096 else h.dest)
  (b, dest) :: if 4 ≤ b ∧ b ≤ 9 then [(eitherLine ((b - 4) / 2), dest)] else []

def assocGet {α : Type} (k : Nat × Nat × Nat) : List ((Nat × Nat × Nat) × α) → Option α
  | [] => none
  | (a, v) :: t => if a = k then some v else assocGet k t

def assocPut {α : Type} (k : Nat × Nat × Nat) (v : α) : List ((Nat × Nat × Nat) × α) → List ((Nat × Nat × Nat) × α)
  | [] => [(k, v)]
  | (a, w) :: t => if a = k then (a, v) :: t else (a, w) :: assocPut k v t

/-- The place of a timetable cell whose reservation is no longer active: behind every reservation of the ladder. -/
def ladderLast : Nat × Nat × Nat := (8, 0, 65536)

/-- Classify a VC6 cell that arrived on a port: an aggregate bucket gives it a place in the timetable service while it holds at
least 1 (R187), that of the highest of the bucket's reservations (R74). -/
def State.classify (s : State) (p : Nat) (h : CellHdr) : State × Inject :=
  match (s.aggKeys p h).find? fun k => decide (0 < (assocGet k s.tt.agg).getD 0) with
  | some k =>
    let ladder := topLadder ((s.activeFor k.2.1 k.2.2).filter fun r => s.resvIngress r.2 == k.1)
    ({ s with tt := { s.tt with agg := assocPut k ((assocGet k s.tt.agg).getD 0 - 1) s.tt.agg } },
     { Inject.transit with ladder := some (ladder.getD ladderLast) })
  | none => (s, Inject.transit)

/-- The queue that SB_LEVEL_MAP gives for a level. -/
def SB.levelQueue (b : SB) (level : Nat) : Queue :=
  let v := bits b.levelMap.toNat (8 * level + 4) (8 * level)
  if v = 0x12 then .sq 2 else if v = 0x13 then .sq 3 else .wq (v % 16)

/-- A function's effective level (R200). -/
def Sched.level (x : Sched) : Nat := maxN x.baseLevel x.inherited

def Sched.initial (baseLevel : Nat) : Sched :=
  let pol : Policer := { enable := false, action := 0, cir := 0, pir := 0, cbs := 1024, pbs := 1024, tc := 0, tp := 0 }
  { baseLevel := baseLevel, laneEn := false, share := 256, dwq := 8, inherited := 0, minRate := 0, maxRate := 0xFFFFF,
    minBucket := 0, maxBucket := 0, lane := pol, strict := pol, weighted := pol }

def State.sched (s : State) (f : Nat) : Sched :=
  match s.fn? f with
  | some x => x.sched
  | none => Sched.initial 0

/-- A priority-lane cell at egress `e`: the port's policer admits it to SQ0, or it is moved to SQ1 and counted (R80). -/
def State.policeLane (s : State) (e : Nat) : State × Queue :=
  let x := s.egress e
  let used := if x.lane.1 = s.tickNo then x.lane.2 else 0
  if used < s.egressCap e * 5 / 100 then (s.setEgress e { x with lane := (s.tickNo, used + 1) }, .sq 0)
  else (s.tally (0x83000 + 8 * e), .sq 1)

/-- The queue of a cell at egress `e`, with the port policer of R80 for priority-lane cells (R186). -/
def State.placeQueue (s : State) (e : Nat) (ing : Ingress) (vc : Nat) (inj : Inject) : State × Queue :=
  if vc = 6 then
    match inj.ladder with
    | some _ => (s, .timetable)
    | none => s.policeLane e
  else if vc = 7 then (s, .sq 1)
  else match inj.fn with
    | some f => (s, if inj.demoted then .wq (s.sched f).dwq else s.sb.levelQueue (s.sched f).level)
    | none =>
      match ing with
      | .port p => (s, .wq (bits s.sb.transitMap.toNat (4 * (s.port p).role + 3) (4 * (s.port p).role)))
      | _ => (s, s.sb.levelQueue 0)

/-- Queue a cell at an egress under a hop. -/
def State.enqueue (s : State) (c : WireCell) (ing : Ingress) (place : Place) (buf : Nat) (inj : Inject) (x : Hop) : State :=
  let (s, q) := s.placeQueue x.egress ing x.vc inj
  let e := s.egress x.egress
  let qc : QCell :=
    { cell := c, vc := x.vc, esc := x.esc, dateline := x.dateline, buf := buf, queue := q, place := place, ingress := ing,
      arrived := s.ns, ladder := inj.ladder.getD (0, 0, 0) }
  let s := s.setEgress x.egress { e with cells := e.cells ++ [qc] }
  let s := if x.detour then s.tally 0x100028 else s
  { s with jn := { s.jn with turn := if x.egress < 64 then (x.egress + 1) % 64 else s.jn.turn } }

/-- The ejection hop to attachment `a`: the cell keeps its VC and bits. -/
def ejectHop (h : CellHdr) (a : Nat) : Hop :=
  { egress := 64 + a, vc := h.vc, esc := h.escape, dateline := h.dateline, detour := false }

/-- Does the routing table lead to the cell's destination? -/
def State.routed (s : State) (h : CellHdr) : Bool := (s.jn.route (h.dest / 512)).valid && decide (locRouter (epLoc h.dest) < s.jn.routers)

/-- Is a unicast cell of VC6 moved to VC4, because its bundle has no port that carries it (R178)? -/
def State.leavesLane (s : State) (ing : Ingress) (h : CellHdr) (timetable : Bool) : Bool :=
  s.routed h && epLoc h.dest != s.location && h.vc == 6 && (s.fixedHop ing h timetable).isNone

/-- Where a unicast cell goes. None: discarded as unroutable. -/
def State.routeUnicast (s : State) (ing : Ingress) (h : CellHdr) (timetable : Bool) : Option Hop :=
  if !s.routed h then none
  else if epLoc h.dest = s.location then if s.assigned (epAtt h.dest) then some (ejectHop h (epAtt h.dest)) else none
  else if h.vc = 7 then
    match s.fixedHop ing h false with
    | some x => some x
    | none => (s.escapeBundle h.dest).bind fun b => s.heldHop ing h 7 [b]
  else if h.vc = 6 then
    match s.fixedHop ing h timetable with
    | some x => some x
    | none => s.adaptiveHop ing { h with vc := 4 } true
  else s.adaptiveHop ing h true

/-- The copies of a multicast cell (R182, R183): hops, and the copies that are dropped. -/
def State.routeMcast (s : State) (ing : Ingress) (h : CellHdr) (m : McastEntry) : List Hop × Nat :=
  let fab := (List.range 64).filterMap fun p =>
    if m.mask.getLsbD p then
      some ((if s.productive p then some p
             else pickPort s.jn.turn (fun _ => 0) ((s.bundle (s.portBundle p)).filter s.productive)).map fun q =>
        let x := s.hop ing h q h.vc (decide (h.vc < 4)) false
        if h.vc = 6 then x else { x with vc := b2n x.dateline })
    else none
  let host := (List.range 32).filterMap fun a =>
    if m.mask.getLsbD (64 + a / 2) && (a % 2 == 0 || (s.hostPort (a / 2)).split == 1) then
      some (if s.hasEngine a && Tbl.has (s.engine a).members (h.dest % 4096) then some (ejectHop h a) else none)
    else none
  let all := fab ++ host
  (all.filterMap id, (all.filter (·.isNone)).length)

/-- A CONTROL cell for this router waits, stored, for the control cores (R112, R487). -/
def State.takeControl (s : State) (c : WireCell) (ing : Ingress) (place : Place) (buf : Nat) : State :=
  let q : QCell :=
    { cell := c, vc := c.h.vc, esc := c.h.escape, dateline := c.h.dateline, buf := buf, queue := .sq 1, place := place, ingress := ing,
      arrived := s.ns, ladder := (0, 0, 0) }
  { s with cc := { s.cc with controlIn := s.cc.controlIn ++ [q] } }

/-- Store and queue a cell that has been accepted by R143. The Bool says that a cell of VC0-VC5 found no room at all. -/
def State.takeCell (s : State) (ing : Ingress) (c : WireCell) (inj : Inject) : State × Bool :=
  let h := c.h
  if !s.jn.topology then (s.evidence 0x100034, false)
  else
    match s.storeAt ing h.vc with
    | none => if 6 ≤ h.vc then (s.evidence 0x100040, false) else (s, true)
    | some place =>
      let buf := s.jn.nextBuf
      let s := { s with jn := { s.jn with nextBuf := buf + 1 } }
      let s := match ing, place with
        | .port p, .headroom => if h.vc < 6 then s.modPort p fun x => { x with xoffOut := x.xoffOut ||| (1#8 <<< h.vc) } else s
        | _, _ => s
      if h.kind = 7 ∧ epLoc h.dest = s.location then (s.takeControl c ing place buf, false)
      else if h.kind = 6 then
        match Tbl.get? s.jn.mcast (h.dest % 4096) with
        | none => (s.evidence 0x100038, false)
        | some m =>
          let right := match ing with | .port p => m.ingress == p | _ => m.ingress == 0x7F
          if right then
            let (hops, lost) := s.routeMcast ing h m
            ((hops.foldl (fun s x => s.enqueue c ing place buf inj x) s).evidences 0x100038 lost, false)
          else (s.evidence 0x100038, false)
      else
        let moved := s.leavesLane ing h inj.ladder.isSome
        let s := if moved then s.tally 0x100020 else s
        match s.routeUnicast ing h inj.ladder.isSome with
        | none => (s.evidence 0x100034, false)
        | some x =>
          (s.enqueue c ing place buf (if moved then { inj with ladder := none } else inj) x, false)

/-- A cell that arrived on port `p`: R143, classification and storage. The Bool says that it found no room (R136). -/
def State.portCell (s : State) (p : Nat) (c : WireCell) : State × Bool :=
  if c.bad then (s.evidence 0x100030, false)
  else if c.h.vc = 6 then
    match s.classify p c.h with
    | (s, inj) => s.takeCell (.port p) c inj
  else s.takeCell (.port p) c Inject.transit

/-- A cell that engine `n` injects for function `f` (R202: cells_tx), the pool admitting it. -/
def State.inject (s : State) (n f : Nat) (c : WireCell) (inj : Inject) : State :=
  if s.alive ∧ (s.storeAt (.engine n) c.h.vc).isSome then ((s.meter f 0 1).takeCell (.engine n) c inj).1 else s

/-- A cell that the control cores or the Token unit send on VC7. -/
def State.injectControl (s : State) (c : WireCell) : State :=
  if s.alive then (s.takeCell .cores c Inject.transit).1 else s

/-! ### Escape and flush (R123, R176) -/

/-- Remove the element at a position. -/
def removeAt {α : Type} : Nat → List α → List α
  | _, [] => []
  | 0, _ :: t => t
  | n + 1, a :: t => a :: removeAt n t

/-- The bundle that a cell's path needs at port `p`: that of its escape path, or for a multicast copy that of the port its mask names
(R174, R177, R179, R182). -/
def State.neededBundle (s : State) (p : Nat) (q : QCell) : Nat :=
  if q.cell.h.kind = 6 then s.portBundle p else (s.escapeBundle q.cell.h.dest).getD 255

/-- The hop a cell of a flushed port takes instead (R123). -/
def State.rerouteHop (s : State) (p : Nat) (q : QCell) : Option Hop :=
  if q.vc = 4 ∨ q.vc = 5 then s.adaptiveHop q.ingress q.cell.h false
  else
    (pickPort s.jn.turn s.adaptiveQ ((s.bundle (s.neededBundle p q)).filter fun x => s.productive x && x != p)).map fun x =>
      { egress := x, vc := q.vc, esc := q.esc, dateline := q.dateline, detour := false }

/-- Queue a cell again at another egress, in the queue it held; a priority-lane cell passes the policer of its new port (R80, R186). -/
def State.requeue (s : State) (q : QCell) (x : Hop) : State :=
  let lane := q.vc == 6 && x.vc == 6 && q.queue != .timetable
  let (s, k) := if lane then s.policeLane x.egress else (s, q.queue)
  let e := s.egress x.egress
  let s := s.setEgress x.egress
    { e with cells := e.cells ++ [{ q with vc := x.vc, esc := x.esc, dateline := x.dateline, queue := k }] }
  if x.detour then s.tally 0x100028 else s

/-- Reroute or discard cells of port `p` (R123). -/
def State.flushCells (s : State) (p : Nat) : List QCell → State
  | [] => s
  | q :: t =>
    match s.rerouteHop p q with
    | some x => (s.requeue q x).flushCells p t
    | none => (s.evidence (lkBase p + 0x74)).flushCells p t

/-- R176: the adaptive cell at a position of an egress moves to its escape path once it has waited escape_wait. -/
def State.escapeMove (s : State) (e position : Nat) : State :=
  let x := s.egress e
  match x.cells[position]? with
  | none => s
  | some q =>
    if (q.vc = 4 ∨ q.vc = 5) ∧ e < 64 ∧ q.arrived + s.jn.escapeWait * 64 ≤ s.ns then
      match s.escapeHop q.ingress q.cell.h with
      | some h => (s.setEgress e { x with cells := removeAt position x.cells }).requeue q h
      | none => s
    else s

end Sys2Proof.Machine
end

