-- ==== Sys2Proof/Machine/Timetable.lean ====
section
/-! DEFINITION. Reservations on this router: charges and limits (R66, R69), moves, suspensions and re-admissions (R84 to R88), and
the synchronisation state with its at-risk flags (R59). -/
namespace Sys2Proof.Machine

/-- The peak a reservation charges (R69). -/
def Reservation.charge (r : Reservation) : Nat := 8 * r.rate + r.burst

/-- The egresses it charges, numbered as in R185. -/
def Reservation.egresses (r : Reservation) : List Nat := r.ports ++ r.atts.map (· + 64)

/-- Sum of active charges on egress `e`, leaving out reservation `but`. -/
def State.chargedBut (s : State) (e but : Nat) : Nat :=
  sumNat (s.tt.resv.map fun r => if !r.2.suspended && r.1 != but && r.2.egresses.contains e then r.2.charge else 0)

/-- Sum of active charges on egress `e` (R83). -/
def State.charged (s : State) (e : Nat) : Nat := s.chargedBut e 65536

def State.over (s : State) (e : Nat) : Bool := decide (s.egressLimit e < s.charged e)

/-- Does reservation `id` fit on every one of these egresses beside the others? -/
def State.fits (s : State) (id : Nat) (r : Reservation) (es : List Nat) : Bool :=
  es.all fun e => decide (s.chargedBut e id + r.charge ≤ s.egressLimit e)

def State.setResv (s : State) (id : Nat) (r : Reservation) : State :=
  { s with tt := { s.tt with resv := Tbl.put s.tt.resv id r } }

def ladderInsert (x : Nat × Reservation) : List (Nat × Reservation) → List (Nat × Reservation)
  | [] => [x]
  | y :: t => if ladderLt (ladderKey x.1 x.2) (ladderKey y.1 y.2) then x :: y :: t else y :: ladderInsert x t

/-- Reservations in ladder order (R71). -/
def ladderSort (l : List (Nat × Reservation)) : List (Nat × Reservation) := l.foldr ladderInsert []

/-- Replace a port in a list. -/
def replacePort (p q : Nat) (l : List Nat) : List Nat := l.map fun x => if x = p then q else x

/-- Another link of port p's bundle that has room for the reservation (R84). -/
def State.otherLink (s : State) (id : Nat) (r : Reservation) (p : Nat) : Option Nat :=
  (s.bundle (s.portBundle p)).find? fun q => q != p && !r.ports.contains q && s.fits id r [q]

/-- Raise a suspension event at the functions of this router that the reservation names, and at this router's manager when it is
the source's or the destination's router (R87, R521). A multicast reservation names no destination function: its events rise at the source
alone (DESIGN CHOICE). -/
def State.resvEvent (s : State) (ev id : Nat) (r : Reservation) (e : Nat) : State :=
  let s := if epLoc r.source = s.location then s.raise ev (some r.sourceFn) (id + e * 65536) else s
  if r.destKind = 0 ∧ epLoc r.dest = s.location then s.raise ev (some r.destFn) (id + e * 65536) else s

/-- Suspend a reservation for want of room on egress `e`, or by FORCE of FUNCTION_DISABLE on function `by_` (R85, R239). -/
def State.suspendResv (s : State) (id e : Nat) (by_ : Option Nat) : State :=
  match Tbl.get? s.tt.resv id with
  | none => s
  | some r =>
    let s := s.setResv id { r with suspended := true, forced := match by_ with | some f => insertNat f r.forced | none => r.forced }
    if r.suspended then s else s.resvEvent 0x020 id r e

/-- Move reservations off a port above its limit, in ladder order (R84). Of a multicast reservation the charge moves; its copies go on
leaving by the ports of the group's mask (R182), which no rule changes (DESIGN CHOICE). -/
def State.relieve (s : State) (ids : List Nat) (p : Nat) : State :=
  ids.foldl (fun s id =>
    match Tbl.get? s.tt.resv id with
    | some r =>
      if s.over p && r.ports.contains p && !r.suspended then
        match s.otherLink id r p with
        | some q => s.setResv id { r with ports := replacePort p q r.ports }
        | none => s
      else s
    | none => s) s

/-- Suspend in reverse ladder order while a charged egress is above its limit (R85, R86). -/
def State.suspendOver (s : State) (ids : List Nat) : State :=
  ids.foldl (fun s id =>
    match Tbl.get? s.tt.resv id with
    | some r =>
      if r.suspended then s
      else match r.egresses.find? s.over with
        | some e => s.suspendResv id e none
        | none => s
    | none => s) s

/-- The ports a suspended reservation could charge now: its own, or another link of the bundle for a single port. -/
def State.readmitPorts (s : State) (id : Nat) (r : Reservation) : Option (List Nat) :=
  if s.fits id r r.egresses then some r.ports
  else match r.ports with
    | [p] => if s.fits id r (r.atts.map (· + 64)) then (s.otherLink id r p).map fun q => [q] else none
    | _ => none

/-- Re-admit suspended reservations in ladder order while they fit (R85, R88). -/
def State.readmit (s : State) (ids : List Nat) : State :=
  ids.foldl (fun s id =>
    match Tbl.get? s.tt.resv id with
    | some r =>
      if r.suspended && r.forced.isEmpty then
        match s.readmitPorts id r with
        | some ps =>
          let r := { r with suspended := false, ports := ps }
          (s.setResv id r).resvEvent 0x021 id r (r.egresses.headD 0)
        | none => s
      else s
    | none => s) s

/-- Apply R84, R85 and R88 after limits or charges have changed. -/
def State.rebalance (s : State) : State :=
  if s.tt.resv.isEmpty then s
  else
    let ids := (ladderSort s.tt.resv).map (·.1)
    let s := (List.range 64).foldl (fun s p => if s.over p then s.relieve ids p else s) s
    (s.suspendOver ids.reverse).readmit ids

/-- Enter a synchronisation state; UNSYNC and ACQUIRING flag every reservation at risk, LOCKED and ROOT clear the flags (R59). -/
def State.setSync (s : State) (y : SyncState) : State :=
  let flag : Option Bool := match y with
    | .UNSYNC | .ACQUIRING => some true
    | .LOCKED | .ROOT => some false
    | .HOLDOVER => none
  let resv := match flag with
    | some b => s.tt.resv.map fun r => (r.1, { r.2 with atRisk := b })
    | none => s.tt.resv
  { s with tt := { s.tt with sync := y, resv := resv } }

/-- Does the block of a TT_LAG index handle a reservation: the Signal Box and the Timetable unit every one, an engine or a fabric port those
charged at it? -/
def handledBy (i : Nat) (r : Reservation) : Bool :=
  if i ≤ 1 then true else if 64 ≤ i then r.ports.contains (i - 64) else if 32 ≤ i then r.atts.contains (i - 32) else false

/-- Is a reservation at risk: by the synchronisation state, or by a lagging block that handles it (R59, R63)? -/
def State.resvAtRisk (s : State) (r : Reservation) : Bool :=
  r.atRisk || (s.lag 0).fault || (s.lag 1).fault || r.ports.any (fun p => (s.lag (64 + p)).fault)
    || r.atts.any (fun a => (s.lag (32 + a)).fault)

end Sys2Proof.Machine
end

