-- ==== Sys2Proof/Machine/Collector.lean ====
section
/-! DEFINITION. The Fault collector's shared operations: sources and severities (R506, R507), latching and records (R508, R510,
R513), and the entry into HALT (R537, R538, R250). Replies (R478). -/
namespace Sys2Proof.Machine

/-! ### Status codes and replies -/

/-- Values of R17. -/
def statusCode : Status → Nat
  | .OK => 0 | .BUSY => 1 | .CAPACITY => 2 | .UNIT_ABSENT => 3 | .BAD_PACKET => 4 | .BAD_PARAM => 5
  | .NOT_PERMITTED => 6 | .STALE => 7 | .TIMEOUT => 8 | .FAILED => 9 | .UNKNOWN_OPCODE => 10 | .BAD_VERSION => 11
  | .NOT_FOUND => 12 | .EXISTS => 13 | .WRONG_MODE => 14 | .BAD_SIGNATURE => 15

/-- A reply: its 16-byte header and payload (R478). -/
def replyBytes (opcode seq : Nat) (st : Status) (detail : Nat) (payload : List Byte) : List Byte :=
  le 2 opcode ++ le 2 0 ++ le 4 seq ++ le 2 (statusCode st) ++ le 2 payload.length ++ le 4 detail ++ payload

/-- A reply cut to the space the transport allows, with the truncated flag set (R479). -/
def cutReply (space : Nat) (b : List Byte) : List Byte :=
  if b.length ≤ space then b else (patch b 2 (le 2 1)).take space

/-! ### Sources -/

def severityCode : Severity → Nat
  | .LOG => 0 | .CONTAIN => 1 | .DEGRADE => 2 | .HALT => 3

def severityOfCode (n : Nat) : Severity := if n = 0 then .LOG else if n = 1 then .CONTAIN else if n = 2 then .DEGRADE else .HALT

/-- Default severity and Allowed column of a source; none for a reserved source (R506). -/
def faultRow (n : Nat) : Option (Severity × List Severity) :=
  if n < 64 then some (.LOG, [.LOG, .HALT])
  else if n < 176 then some (.CONTAIN, [.CONTAIN, .DEGRADE, .HALT])
  else if n < 208 then some (.CONTAIN, [.CONTAIN, .HALT])
  else if n < 336 then (if 5 ≤ n - 208 ∧ n - 208 ≤ 31 then none else some (.DEGRADE, [.LOG, .DEGRADE, .HALT]))
  else if n = 336 then some (.LOG, [.LOG, .HALT])
  else if n = 337 then some (.LOG, [.LOG])
  else if n = 338 then some (.DEGRADE, [.LOG, .DEGRADE, .HALT])
  else if n ≤ 342 then some (.HALT, [.HALT])
  else if n = 343 then some (.LOG, [.LOG])
  else if n ≤ 349 then some (.HALT, [.HALT])
  else if n = 350 then some (.LOG, [.LOG, .HALT])
  else if n = 351 then some (.HALT, [.HALT])
  else if n = 352 then some (.LOG, [.LOG])
  else if n = 353 then some (.LOG, [.LOG, .HALT])
  else if n = 354 then some (.HALT, [.LOG, .HALT])
  else if n ≤ 356 then some (.HALT, [.HALT])
  else none

/-- The source belongs to an absent unit and never asserts (R506). -/
def State.faultAbsent (s : State) (n : Nat) : Bool :=
  if 128 ≤ n ∧ n < 160 then !s.hasEngine (n - 128)
  else if 160 ≤ n ∧ n < 176 then !s.hasHostPort (n - 160)
  else if 176 ≤ n ∧ n < 208 then !s.hasEngine (n - 176)
  else if n = 210 then !s.hasUnit 51
  else if n = 211 then !s.hasUnit 50
  else if n = 212 then !(s.hasUnit 53 || s.hasUnit 54)
  else if 240 ≤ n ∧ n < 272 then !s.hasEngine (n - 240)
  else if n = 342 ∨ n = 343 then !(s.hasUnit 48 || s.hasUnit 49)
  else if n = 344 then !s.hasUnit 48
  else if n = 345 then !s.hasUnit 49
  else if n = 346 then !s.hasUnit 50
  else if n = 347 then !s.hasUnit 51
  else if n = 348 then !s.hasUnit 52
  else if n = 349 then !(s.hasUnit 53 || s.hasUnit 54)
  else false

/-- The severity in force of a source (R507). -/
def State.severity (s : State) (n : Nat) : Severity :=
  Tbl.getD s.fc.severity n (match faultRow n with | some r => r.1 | none => .LOG)

/-- FC_FSW_w. -/
def State.fsw (s : State) (w : Nat) : Nat :=
  sumNat ((List.range 32).map fun b => if s.fc.latched.contains (32 * w + b) then 2 ^ b else 0)

/-- FC_SEV_r; a reserved source reads LOG. -/
def State.sev (s : State) (r : Nat) : Nat :=
  sumNat ((List.range 16).map fun j => severityCode (s.severity (16 * r + j)) * 4 ^ j)

/-- FC_STATUS. -/
def State.fcStatus (s : State) : Nat :=
  at_ (b2n s.fc.selfFault) 31 + at_ (b2n s.jr.hold) 30 + at_ s.fc.failedWord 16

/-- Latch an assertion with the severity applied: bit, repeats, record, journal and FAULT_LATCHED (R508, R510, R513). Reserved and
absent sources never assert, and after a self-fault nothing latches (R514). -/
def State.latchFault (s : State) (i : FaultInfo) (applied : Severity) (selfFault : Bool) : State :=
  let again := s.fc.latched.contains i.source
  let s := if again then s.evidence 0x10130 else s
  let s := { s with fc := { s.fc with latched := insertNat i.source s.fc.latched } }
  let s :=
    if again ∧ Tbl.get? s.fc.recordFrame i.source = some s.frame then s
    else
      let rc := le 8 s.ns ++ le 2 i.source ++ le 1 (severityCode applied) ++ le 1 (b2n again + 2 * b2n selfFault)
        ++ le 2 i.inst ++ le 2 0 ++ le 8 i.address ++ le 4 i.syndrome ++ le 4 (s.fsw (i.source / 32))
      ({ s with fc := { s.fc with last := rc.take 16, recordFrame := Tbl.put s.fc.recordFrame i.source s.frame } }).evidenceRecord
        1 rc
  s.raise 0x001 none (i.source + severityCode applied * 65536)

/-- Does an assertion of this source count at all? -/
def State.asserts (s : State) (n : Nat) : Bool :=
  (faultRow n).isSome && !s.faultAbsent n && !s.fc.selfFault && s.rst.mode != .OFF

/-- Entry into HALT (R537, R538, R250): every host port whose link is up reports the fatal error for its PF, HALT_N goes low, the
watchdog stops, MODE_SET and the other commands in progress are abandoned, those over MCTP answered FAILED. -/
def State.enterHalt (s : State) : State :=
  if s.rst.mode == .HALT || s.rst.mode == .OFF then s
  else
    let fatal := (List.range 32).flatMap fun a =>
      if (s.fn? a).isSome && ((s.att a).state == .UP || (s.att a).state == .SLOW) then
        [Output.aer a .internalFatal, Output.errFatal a] else []
    let answers := (s.cc.waiting ++ s.cc.pause.toList).filterMap fun w => match w.hdr.src with
      | .mctp eid tag => some (Output.mctp eid tag (replyBytes w.opcode w.hdr.seq .FAILED 0 []))
      | _ => none
    { s with
      out := s.out ++ fatal ++ answers ++ [.haltN true]
      cc := { s.cc with waiting := [], pause := none, takeover := none, held := [], forwards := [] }
      jr := s.jr.halted
      rst := { s.rst with mode := .HALT, watchdog := false, haltAt := s.ns, haltRecorded := false } }

/-- A fault that a block raises in the course of its own work: latched, and HALT when its severity says so. -/
def State.fault (s : State) (i : FaultInfo) : State :=
  if s.asserts i.source then
    let sev := s.severity i.source
    let s := s.latchFault i sev false
    if sev = .HALT then s.enterHalt else s
  else s

/-- A fault with nothing but its source to report. -/
def State.faultOf (s : State) (n : Nat) : State := s.fault { source := n, inst := 0, address := 0, syndrome := 0 }

end Sys2Proof.Machine
end

