-- ==== Sys2Proof/Machine/Links.lean ====
section
/-! DEFINITION. Fabric links: exposure (R116), entries into HELD, FLUSHED and DISABLED (R121, R123, R132), acknowledgement and
replay (R104 to R109), partner violations (R136 to R139), lane changes (R128 to R131), and the trains a port sends. -/
namespace Sys2Proof.Machine

/-! ### Rates, lanes and exposure -/

/-- Link rate by rate step, in quarter bytes per ns: 200, 150, 100 and about 6.25 GB/s (R97). -/
def rateQuarters (step : Nat) : Nat := if step = 0 then 800 else if step = 1 then 600 else if step = 2 then 400 else 25

/-- E of R116, in bytes rounded down. -/
def exposure (step f : Nat) : Nat := rateQuarters step * (2 * f + 920) / 4

def exposureLimit : Nat := 524288

def lanesOf (step : Nat) : Nat := if step = 0 then 8 else if step = 1 then 6 else if step = 2 then 4 else 1

/-- The rate step that a number of active lanes runs at. -/
def stepOf (lanes : Nat) : Nat := if lanes = 8 then 0 else if lanes = 6 then 1 else if lanes = 4 then 2 else 3

/-- Does a number of lanes make a rate step of R97? -/
def isStep (lanes : Nat) : Bool := lanes == 8 || lanes == 6 || lanes == 4 || lanes == 1

/-- The lowest-numbered `n` lanes of a mask (R97). -/
def lowestLanes (n : Nat) (good : BitVec 8) : BitVec 8 :=
  BitVec.ofNat 8 (sumNat ((((List.range 8).filter fun i => good.getLsbD i).take n).map fun i => 2 ^ i))

/-- The highest rate step not above `from_` (that is, not numbered below it) that R116 and a number of good lanes allow. -/
def bestStep (from_ good f : Nat) : Option Nat :=
  [0, 1, 2].find? fun st => decide (from_ ≤ st) && decide (lanesOf st ≤ good) && decide (exposure st f ≤ exposureLimit)

/-- 2f + 920 of a port, with the flight in use. -/
def Port.round (x : Port) : Nat := 2 * x.fCurrent + 920

/-! ### Leaving UP -/

/-- Bytes of a DATA train of `n` cells in the siding (R98, R109). -/
def trainBytes (n : Nat) : Nat := 12 + 72 * n

/-- Every cell that stands at a port: in its siding, chosen for its next trains, and queued. -/
def State.portCells (s : State) (p : Nat) : List QCell :=
  let x := s.port p
  x.siding.flatMap (·.cells) ++ x.txReady ++ (s.egress p).cells

/-- R123 for the cells of a port, and its siding emptied. -/
def State.emptyPort (s : State) (p : Nat) : State :=
  let cells := s.portCells p
  let s := s.setEgress p { s.egress p with cells := [] }
  let s := s.modPort p fun x => { x with siding := [], txReady := [], replay := [], sidingBase := x.txNext }
  (s.flushCells p cells).refreshXoff

/-- A port leaves the state in which it carries cells; limits fall (R84). -/
def State.portState (s : State) (p : Nat) (st : LinkState) : State :=
  (s.modPort p fun x => { x with state := st }).rebalance

/-- What a port forgets when it stops carrying trains. -/
def Port.stopped (x : Port) : Port :=
  { x with nakAt := none, nakDue := false, nakCounts := [], change := none, hello := none, exchanges := 0,
           exchange := none, locked := false, xoffIn := 0#8, notice := none, overExposed := 0,
           graceDeadline := none }

/-- Entry into HELD (R120, R121). -/
def State.enterHeld (s : State) (p cause : Nat) : State :=
  if (s.port p).state != .UP then s
  else
    let s := s.modPort p fun x =>
      { x.stopped with lastCause := cause, graceDeadline := some (s.ns + x.grace * 1000), flushed := false,
                       trainSince := s.ns, replay := [] }
    let s := (s.portState p .HELD).evidence (lkBase p + 0x78)
    s.raise 0x041 none (p + cause * 256)

/-- Entry into FLUSHED: R123, a new incarnation and fault LINK_DOWN. -/
def State.enterFlushed (s : State) (p : Nat) : State :=
  let s := s.modPort p fun x =>
    { x.stopped with flushed := true, trainSince := s.ns, incarnation := (x.incarnation + 1) % 65536 }
  ((s.portState p .FLUSHED).emptyPort p).faultOf p

/-- The end of the steps of R132: what is left is handled as R123 handles cells, the incarnation advances, and the port is
DISABLED. -/
def State.endDisable (s : State) (p cause : Nat) : State :=
  let s := s.modPort p fun x =>
    { x.stopped with lastCause := cause, incarnation := (x.incarnation + 1) % 65536, active := 0#8, drain := none }
  (s.portState p .DISABLED).emptyPort p

/-- Begin the steps of R132: the port is unproductive from now on, and drained within 1 ms. -/
def State.beginDisable (s : State) (p cause : Nat) : State :=
  if (s.port p).state == .DISABLED || (s.port p).drain.isSome then s
  else (s.modPort p fun x => { x with drain := some (s.ns + 1000000, cause) }).rebalance

/-- TRAINING begins (R119). -/
def State.beginTraining (s : State) (p : Nat) : State :=
  (s.modPort p fun x => { x.stopped with trainSince := s.ns, active := 0#8 }).portState p .TRAINING

/-- The reset of a fabric port alone: a flush as R123, its fault LINK_DOWN among it, then TRAINING (R245, R508, R556). -/
def State.flushAndTrain (s : State) (p cause : Nat) : State :=
  let s := s.modPort p fun x => { x with incarnation := (x.incarnation + 1) % 65536, lastCause := cause }
  ((s.beginTraining p).emptyPort p).faultOf p

/-! ### Roles (R126, R623) -/

/-- Do two roles match (R126)? -/
def rolesMatch (a b : Nat) : Bool :=
  if a = 0 ∨ b = 0 then false
  else if a = 3 ∨ b = 3 then true
  else if a ≤ 2 then decide (b ≤ 2)
  else decide (b ≥ 4 ∧ b ≤ 9 ∧ (a - 4) / 2 = (b - 4) / 2 ∧ a ≠ b)

/-- Does the partner's HELLO match LK_ROLE? -/
def Port.partnerMatches (x : Port) (h : Hello) : Bool :=
  (x.peer == 0xFFFF || x.peer == h.location) && rolesMatch x.role h.role

/-- A role and peer take effect: a port in UP is compared with its partner's last HELLO (R623). `last` is that HELLO. A mismatch records
cause 0x7, the flush following a command (DESIGN CHOICE: LK_HISTORY names no cause for it). -/
def State.applyRole (s : State) (p role peer : Nat) (last : Option Hello) : State :=
  let s := s.modPort p fun x => { x with role := role, peer := peer }
  if (s.port p).state == .UP then
    match last with
    | some h =>
      if (s.port p).partnerMatches h then s.rebalance
      else (s.beginDisable p 7).raise 0x045 none (p + h.location * 65536)
    | none => s.rebalance
  else s

/-! ### Partner violations (R136 to R139) -/

/-- Write an entry to the violation log (R517, R519). -/
def State.logViolation (s : State) (p code seq header count : Nat) : State :=
  if s.jr.hold && decide (256 ≤ s.fc.holdWritten) then s.evidence 0x10138
  else
    let e := le 8 s.ns ++ le 1 p ++ le 1 code ++ le 2 seq ++ le 8 header ++ le 1 (minN count 255) ++ List.replicate 11 0#8
    { s with fc := { s.fc with
        vLog := Tbl.put s.fc.vLog (s.fc.vHead % 256) e
        vHead := (s.fc.vHead + 1) % 2 ^ 32
        holdWritten := if s.jr.hold then s.fc.holdWritten + 1 else s.fc.holdWritten } }

/-- One violation of port p's partner by a train of this header. -/
def State.violation (s : State) (p code : Nat) (th : TrainHdr) : State :=
  let x := s.port p
  let n := (if x.violFrame.1 = s.frame then x.violFrame.2 else 0) + 1
  let header := ofLe th.bytes
  let s := s.modPort p fun x => { x with violFrame := (s.frame, n), notice := some (code, th.seq.toNat, header) }
  let s := (s.evidence (lkBase p + 0x70)).logViolation p code th.seq.toNat header n
  if n = 16 ∧ x.state = .UP then (s.enterHeld p 4).raise 0x046 none p else s

/-! ### Acknowledgement, loss and replay -/

/-- Free the siding trains below sequence number `upTo` (R104). -/
def Port.free (x : Port) (upTo : Nat) : Port :=
  let n := (upTo + 65536 - x.sidingBase) % 65536
  if n ≤ (x.txNext + 65536 - x.sidingBase) % 65536 then
    { x with siding := x.siding.filter (fun t => decide (n ≤ (t.seq + 65536 - x.sidingBase) % 65536)),
             replay := x.replay.filter (fun q => decide (n ≤ (q + 65536 - x.sidingBase) % 65536)),
             sidingBase := upTo }
  else x

/-- Does acknowledging up to `upTo` (exclusive) name a train never sent (R136): one ahead of tx_next, or more trains back than have been
released since the link came up fresh? -/
def Port.neverSent (x : Port) (upTo : Nat) : Bool :=
  let ahead := (upTo + 65536 - x.txNext) % 65536
  if ahead = 0 then false else if ahead < 32768 then true else decide (x.sentTrains < 65536 - ahead)

/-- A request to replay from `q` (R107, R108). -/
def State.replayFrom (s : State) (p q : Nat) : State :=
  let x := s.port p
  let counts := if x.nakFrame = s.frame then x.nakCounts else []
  let n := Tbl.getD counts q 0 + 1
  let s := s.modPort p fun x => { x with nakFrame := s.frame, nakCounts := Tbl.put counts q n }
  if n = 8 ∧ x.state = .UP then s.enterHeld p 3
  else
    let recent := x.siding.any fun t => t.seq == q && decide (s.ns < t.released + x.round) && decide (0 < t.released)
    if recent then s
    else s.modPort p fun x =>
      { x with replay := (x.siding.filter fun t =>
          decide ((q + 65536 - x.sidingBase) % 65536 ≤ (t.seq + 65536 - x.sidingBase) % 65536)).map (·.seq) }

/-- The acknowledgement and xoff_map of a good train's header (R104, R113 to R115). -/
def State.headerFields (s : State) (p : Nat) (th : TrainHdr) (nakHere : Bool) : State :=
  let s := s.modPort p fun x => { x with xoffIn := th.xoffMap }
  let x := s.port p
  let upTo := if th.ackKind = 1 then (th.ackSeq.toNat + 1) % 65536 else th.ackSeq.toNat
  if th.ackKind = 0 then s
  else if th.ackKind = 3 ∨ x.neverSent upTo then s.violation p 5 th
  else
    let s := s.modPort p fun x => x.free upTo
    if th.ackKind = 2 ∧ nakHere then s.replayFrom p th.ackSeq.toNat else s

/-- Ask for a replay from rx_expected, unless a request is already outstanding (R106). -/
def State.askReplay (s : State) (p reason : Nat) : State :=
  if (s.port p).nakAt.isSome then s
  else s.modPort p fun x => { x with nakAt := some s.ns, nakReason := reason, nakDue := true }

/-! ### Sending trains -/

/-- Does the port release trains at all? -/
def State.sends (s : State) (p : Nat) : Bool :=
  s.alive && !((s.port p).state == .DISABLED || (s.port p).state == .TRAINING)

/-- Put a train on the wire, its CRC field computed (R98, R103). -/
def State.emitTrain (s : State) (p : Nat) (th : TrainHdr) (cells : List WireCell) (body : List Byte) : State :=
  s.emit (.train p th cells body (trainCrc th cells body))

/-- Release one train, its header carrying the current acknowledgement and xoff_map (R98 to R100). Outside UP and STANDBY, where no DATA
train can be acknowledged, ack_kind is NONE with ack_seq 0 (DESIGN CHOICE: R100 does not say). -/
def State.sendTrain (s : State) (p kind seq : Nat) (replay : Bool) (cells : List WireCell) (body : List Byte) : State :=
  let x := s.port p
  let active := x.state == .UP || x.state == .STANDBY
  let th : TrainHdr :=
    { reserved := 0, replay := replay, cells := cells.length,
      ackKind := if !active then 0 else if x.nakDue then 2 else 1, kind := kind, xoffMap := x.xoffOut,
      ackSeq := if !active then 0#16
        else BitVec.ofNat 16 (if x.nakDue then x.rxExpected else x.rxExpected + 65535), seq := BitVec.ofNat 16 seq }
  let s := s.modPort p fun x => { x with lastRelease := s.ns, nakDue := if active then false else x.nakDue }
  s.emitTrain p th cells body

/-- Release a control train: it carries the next unused sequence number (R99). -/
def State.sendControl (s : State) (p kind : Nat) (body : List Byte) : State :=
  s.sendTrain p kind (s.port p).txNext false [] body

/-- The LANE_CHANGE body (R102). -/
def laneBody (step : Nat) (failed active : BitVec 8) (change : Nat) : List Byte :=
  fitTo 64 (le 1 step ++ [failed, active] ++ le 1 change)

/-- Start a lane change with REQUEST (R129). -/
def State.requestLanes (s : State) (p : Nat) (failed active : BitVec 8) (restore exposure : Bool) : State :=
  let n := ((s.port p).changeNo + 1) % 256
  let s := s.modPort p fun x =>
    { x with changeNo := n,
             change := some { failed := failed, active := active, change := n, deadline := s.ns + 500000, lastSent := s.ns,
                              restore := restore, exposure := exposure, accepted := false } }
  s.sendControl p 4 (laneBody 1 failed active n)

/-- The lane that STANDBY runs on has gone bad: the lowest-numbered good lane takes its place through the handshake, LANE_CHANGE trains
passing in STANDBY (R133). With no good lane left R134 flushes the port. -/
def State.standbyLane (s : State) (p : Nat) (failed : BitVec 8) : State :=
  let x := s.port p
  if x.active &&& failed == 0#8 || failed == 0xFF#8 then s else s.requestLanes p failed (lowestLanes 1 (~~~ failed)) false false

/-- Lanes go bad (R128): degrade to the rate that the good lanes and the flight of HANDSHAKE allow (R116), none above the present one, or
HELD. -/
def State.badLanes (s : State) (p : Nat) (lanes : BitVec 8) (cause : Nat) : State :=
  let x := s.port p
  let failed := x.failed ||| lanes
  let good := popcount8 (~~~ failed)
  if (x.state != .UP && x.state != .STANDBY) || lanes &&& ~~~ x.failed == 0#8 then s
  else
    let s := s.modPort p fun x => { x with failed := failed }
    if x.state == .STANDBY then s.standbyLane p failed
    else match bestStep x.rate good x.fHandshake with
      | some st => s.requestLanes p failed (lowestLanes (lanesOf st) (~~~ failed)) false false
      | none => s.enterHeld p cause

/-- The HELLO a port sends (R102, R122). -/
def State.helloOf (s : State) (p : Nat) : Hello :=
  let x := s.port p
  { location := s.location, port := p, role := x.role, good := x.good &&& ~~~ x.failed, failed := x.failed,
    resume := x.state == .HELD, rate := 0, incarnation := x.incarnation, peerIncarnation := x.peerIncarnation,
    rxExpected := x.rxExpected, sidingBase := x.sidingBase, txNext := x.txNext, flight := x.fHandshake }

/-- A port in its handshake: HANDSHAKE, or HELD or FLUSHED once its lanes have locked again (R119). -/
def Port.shaking (x : Port) : Bool :=
  x.state == .HANDSHAKE || ((x.state == .HELD || x.state == .FLUSHED) && x.locked)

/-- May the handshake that ends HELD resume with continuity (R122)? -/
def State.resumes (s : State) (p : Nat) (h : Hello) : Bool :=
  let x := s.port p
  x.state == .HELD && h.resume && h.peerIncarnation == x.incarnation && x.peerIncarnation == h.incarnation
    && (match x.graceDeadline with | some d => decide (s.ns < d) | none => false)
    && decide ((h.rxExpected + 65536 - x.sidingBase) % 65536 ≤ (x.txNext + 65536 - x.sidingBase) % 65536)

/-- The link comes up at a rate step, with continuity or fresh (R122, R124). A port in HELD that comes up fresh applies R123 first; the
incarnation offered in this handshake stands (DEDUCED). -/
def State.linkUp (s : State) (p : Nat) (h : Hello) (st : LinkState) (step : Nat) : State :=
  let x := s.port p
  let cont := s.resumes p h
  let failed := x.failed ||| h.failed
  let both := x.good &&& h.good &&& ~~~ failed
  let s := if !cont && x.state == .HELD then (s.emptyPort p).faultOf p else s
  let s := s.modPort p fun x =>
    let x :=
      if cont then
        let y := x.free h.rxExpected
        { y with replay := y.siding.map (·.seq) }
      else { x with txNext := 0, sidingBase := 0, rxExpected := 0, siding := [], replay := [], sentTrains := 0 }
    { x with rate := step, active := lowestLanes (lanesOf step) both, peerIncarnation := h.incarnation,
             fCurrent := x.fHandshake, lastGood := s.ns, lastRelease := s.ns, nakAt := none, nakDue := false,
             nakCounts := [], xoffIn := 0#8, change := none, overExposed := 0, graceDeadline := none, locked := true,
             flushed := false, answered := none }
  s.portState p st

end Sys2Proof.Machine
end

