-- ==== Sys2Proof/Machine/FabricTime.lean ====
section
/-! DEFINITION. Fabric time over the links and its root (R44 to R59): the choice of a parent, corrections, the time-exchange trains,
and the events of the Timetable unit. -/
namespace Sys2Proof.Machine

open Sys2Proof

/-- A root as it is compared: priority, then location (R52). -/
def rootLt (a b : Nat × Nat) : Bool := decide (a.1 < b.1) || (a.1 == b.1 && decide (a.2 < b.2))

/-- root_seq `a` comes after `b`: the 32-bit number wraps, so a difference of 1 to 2^31 - 1 counts as an advance (DEDUCED: R52 gives no
wrap rule). -/
def seqAfter (a b : Nat) : Bool := decide (0 < (a + 2 ^ 32 - b) % 2 ^ 32 ∧ (a + 2 ^ 32 - b) % 2 ^ 32 < 2 ^ 31)

/-- The later of two root sequence numbers. -/
def laterSeq (a b : Nat) : Nat := if seqAfter a b then a else b

/-- When a port's offer ends if root_seq does not advance (R52). -/
def RootOffer.ends (o : RootOffer) : Nat := o.advanced + 100000

/-- A port offers a root while its announcements carry one and root_seq has advanced within 100 µs (R52). -/
def State.offers (s : State) (x : Port) : Option RootOffer :=
  match x.offer with
  | some o => if !o.noRoot && decide (s.ns < o.ends) then some o else none
  | none => none

/-- Better parent: best root, then smallest p, then lowest port (R52). -/
def parentLt (a b : Nat × RootOffer) : Bool :=
  let ra := (a.2.priority, a.2.location)
  let rb := (b.2.priority, b.2.location)
  rootLt ra rb || (ra == rb && (decide (a.2.hops < b.2.hops) || (a.2.hops == b.2.hops && decide (a.1 < b.1))))

def bestParent : List (Nat × RootOffer) → Option (Nat × RootOffer)
  | [] => none
  | x :: t =>
    match bestParent t with
    | none => some x
    | some y => if parentLt x y then some x else some y

/-- The ports that offer a root now. -/
def State.candidates (s : State) : List (Nat × RootOffer) :=
  s.ports.filterMap fun e => (s.offers e.2).map fun o => (e.1, o)

/-- This router as a root. -/
def State.ownRoot (s : State) : Nat × Nat := (s.tt.priority, s.location)

/-- A root better than this router is offered. -/
def State.betterOffered (s : State) : Bool :=
  s.candidates.any fun c => rootLt (c.2.priority, c.2.location) s.ownRoot

/-- Is what port announces a root better than this router? -/
def State.isBetter (s : State) (o : RootOffer) : Bool := !o.noRoot && rootLt (o.priority, o.location) s.ownRoot

/-- When the last offer of a better root ended (R56): the ends of those that still stand at a port, or of one replaced since. -/
def State.betterEnded (s : State) : Nat :=
  s.ports.foldl (fun n e => match e.2.offer with
    | some o => if s.isBetter o then maxN n o.ends else n
    | none => n) s.tt.noBetterSince

/-- This router announces itself as root, from its own time and the highest root_seq heard (R56, R58). -/
def State.announce (s : State) : State :=
  ({ s with tt := { s.tt with announcing := true, joining := false, yielded := false, hops := 0, parent := 0,
                              rootPriority := s.tt.priority, rootLocation := s.location, offset := 0, slewLeft := 0,
                              rootSeq := laterSeq s.tt.heardSeq s.tt.rootSeq } }).setSync .ROOT

/-- Choose the time parent again after what a port offers has changed (R52, R55, R57). -/
def State.chooseParent (s : State) : State :=
  if s.tt.announcing && !s.betterOffered then s
  else
    let t := s.tt
    match bestParent s.candidates with
    | some (p, o) =>
      let s := { s with tt := { t with announcing := false, yielded := t.yielded || (t.announcing && t.role == .ROOT),
                                       parent := p, hops := o.hops + 1, rootPriority := o.priority,
                                       rootLocation := o.location } }
      if t.sync == .UNSYNC || t.sync == .HOLDOVER || t.sync == .ROOT then
        ({ s with tt := { s.tt with goodExchanges := 0 } }).setSync .ACQUIRING
      else s
    | none =>
      if t.sync == .LOCKED || t.sync == .ACQUIRING || t.sync == .ROOT then
        let s := { s with tt := { t with announcing := false, holdoverSince := s.ns, slewLeft := 0, goodExchanges := 0 } }
        (s.setSync .HOLDOVER).raise 0x013 none 0
      else s

/-- Step fabric time; the tick-driven blocks restart on the boundary (R47, R53). -/
def State.stepTime (s : State) (now : Nat) : State :=
  { s with tt := { s.tt with now := now, slewLeft := 0, lags := [] } }

/-- The rate that takes off the offset of one exchange before the next, 8 ticks later, within 200 ppm (R53, R55). -/
def disciplined (offset : Int) : Int := if offset > 102400 then 102400 else if offset < -102400 then -102400 else offset

/-- A router in role ROOT that joined a running root announces itself once it is LOCKED (R58). -/
def State.joined (s : State) : State :=
  if s.tt.role = .ROOT ∧ s.tt.joining ∧ s.tt.sync = .LOCKED then s.announce else s

/-- A TIME_SET_SECONDS value takes effect; a value that still waited for an edge is superseded (R47). -/
def State.setSeconds (s : State) (seconds : Nat) : State :=
  let s := s.stepTime (seconds * 1000000000 * unit)
  { s with tt := { s.tt with pendingSeconds := none } }

/-- A measured offset to the parent: step once in BRINGUP, slew otherwise, and follow the state table (R53, R58). -/
def State.correct (s : State) (offset : Int) : State :=
  let near := decide (offset ≤ 40 * (unit : Int)) && decide (-(40 * (unit : Int)) ≤ offset)
  let s := { s with tt := { s.tt with offset := satSigned 16 (offset / 4096) } }
  let s :=
    if s.rst.mode = .BRINGUP ∧ !s.tt.stepped then
      ({ s with tt := { s.tt with stepped := true } }).stepTime (((s.tt.now : Int) + offset).toNat)
    else { s with tt := { s.tt with slewLeft := offset, slewMax := 8, rate := disciplined offset } }
  if near then
    let n := s.tt.goodExchanges + 1
    let s := { s with tt := { s.tt with goodExchanges := n } }
    if 8 ≤ n ∧ s.tt.sync = .ACQUIRING then (s.setSync .LOCKED).joined else s
  else
    let s := { s with tt := { s.tt with goodExchanges := 0 } }
    if s.tt.sync = .LOCKED then s.setSync .ACQUIRING else s

/-- root_seq that this router announces: its own as root, otherwise what it last heard from its parent (R52). -/
def State.announcedSeq (s : State) : Nat :=
  if s.tt.announcing then s.tt.rootSeq
  else match (s.port s.tt.parent).offer with
    | some o => o.seq
    | none => 0

/-- A TIME body of this router (R52, R102). -/
def State.timeBody (s : State) (reply : Bool) (exchange rx : Nat) : TimeBody :=
  let noRoot := s.tt.sync == .UNSYNC || s.tt.sync == .HOLDOVER
  { tx := s.tt.now, reply := reply, noRoot := noRoot, hops := s.tt.hops, rootLoc := s.tt.rootLocation,
    rootPri := s.tt.rootPriority, exchange := exchange, rx := rx, rootSeq := if noRoot then 0 else s.announcedSeq }

/-- Interval between the time exchanges of a port: 8 ticks in UP and STANDBY, every tick in its handshake (R51, R101). -/
def Port.timeEvery (x : Port) : Nat := if x.state == .UP || x.state == .STANDBY then 8000 else 1000

/-- May the port exchange time now? -/
def State.exchanges (s : State) (p : Nat) : Bool :=
  s.alive && decide (p < 64)
    && ((s.port p).state == .UP || (s.port p).state == .STANDBY || (s.port p).shaking)

/-- TIME_EXCHANGE_SEND (R51): a request; the root advances root_seq. -/
def execTimeExchangeSend (port : Nat) (s : State) : Host.Outcome State Fault Refusal :=
  let x := s.port port
  let due := match x.lastTimeSend with
    | some t => decide (t + x.timeEvery ≤ s.ns)
    | none => true
  if s.exchanges port && due then
    let s := if s.tt.announcing then { s with tt := { s.tt with rootSeq := (s.tt.rootSeq + 1) % 2 ^ 32 } } else s
    let n := (x.exchangeNo + 1) % 256
    let s := s.modPort port fun x =>
      { x with exchangeNo := n, exchange := some (n, s.tt.now), lastTimeSend := some s.ns }
    .next (s.sendControl port 2 (s.timeBody false n 0).bytes)
  else .next s

/-- A port's offer after a TIME train: its root_seq has advanced where it is later than the one last announced of the same root, or of
a root not announced there before (R52). A no_root train keeps the last number, so that a stale one does not count after it. -/
def State.offerAfter (s : State) (o : Option RootOffer) (b : TimeBody) : Option RootOffer :=
  if b.noRoot then o.map fun o => { o with noRoot := true }
  else
    let advanced := match o with
      | some o => if o.location != b.rootLoc || seqAfter b.rootSeq o.seq then s.ns else o.advanced
      | none => s.ns
    some { location := b.rootLoc, priority := b.rootPri, seq := b.rootSeq, hops := b.hops, noRoot := false, advanced := advanced }

/-- What a TIME train announces of its root (R52, R56). -/
def State.noteOffer (s : State) (p : Nat) (b : TimeBody) : State :=
  if 20 < b.hops then s
  else
    let o := (s.port p).offer
    let ended := match o with
      | some o => if s.isBetter o then maxN s.tt.noBetterSince (minN s.ns o.ends) else s.tt.noBetterSince
      | none => s.tt.noBetterSince
    let heard := if b.noRoot then s.tt.heardSeq else laterSeq b.rootSeq s.tt.heardSeq
    let s := { s with tt := { s.tt with noBetterSince := ended, heardSeq := heard } }
    s.modPort p fun x => { x with offer := s.offerAfter o b }

/-- The flight in use follows the measurement: taken over in a handshake, smoothed by an eighth otherwise. -/
def Port.measured (x : Port) (f : Nat) : Port :=
  if x.shaking then { x with fHandshake := f, fCurrent := f, exchanges := x.exchanges + 1 }
  else { x with fCurrent := if x.fCurrent ≤ f then x.fCurrent + (f - x.fCurrent) / 8 else x.fCurrent - (x.fCurrent - f) / 8 }

/-- The four timestamps of a finished exchange (R51). -/
def State.exchangeDone (s : State) (p t1 : Nat) (b : TimeBody) : State :=
  let t2 : Int := b.rx
  let t3 : Int := b.tx
  let t4 : Int := s.tt.now
  let delay : Int := ((t4 - t1) - (t3 - t2)) / 2
  let offset : Int := ((t2 - t1) + (t3 - t4)) / 2
  let s := s.modPort p fun x => { x.measured (delay / (unit : Int)).toNat with exchange := none }
  if !s.tt.announcing && s.tt.parent == p && (s.tt.sync == .ACQUIRING || s.tt.sync == .LOCKED) then s.correct offset else s

/-- A TIME train's body, once the train has passed its checks. -/
def State.timeTrain (s : State) (p : Nat) (body : List Byte) : State :=
  let b := TimeBody.ofBytes body
  let s := (s.noteOffer p b).chooseParent
  if b.reply then
    match (s.port p).exchange with
    | some (n, t1) => if n = b.exchange then s.exchangeDone p t1 b else s
    | none => s
  else s.sendControl p 2 (s.timeBody true b.exchange s.tt.now).bytes

/-- ROOT_OFFER_TIMEOUT (R52, R55): root_seq of a port has stood still for 100 µs, so that it offers its root no longer. -/
def execRootOfferTimeout (port : Nat) (s : State) : Host.Outcome State Fault Refusal :=
  match (s.port port).offer with
  | some o =>
    if s.alive && !o.noRoot && decide (o.ends ≤ s.ns) then .next s.chooseParent else .next s
  | none => .next s

/-- HOLDOVER_EXPIRY (R55): 5 ms in HOLDOVER. -/
def execHoldoverExpiry (s : State) : Host.Outcome State Fault Refusal :=
  if s.alive && s.tt.sync == .HOLDOVER && decide (s.tt.holdoverSince + 5000000 ≤ s.ns) then
    .next ((s.setSync .UNSYNC).faultOf 336)
  else .next s

/-- BACKUP_TAKEOVER (R56): 1 ms without a better root. -/
def execBackupTakeover (s : State) : Host.Outcome State Fault Refusal :=
  if s.alive && s.tt.role == .BACKUP && !s.tt.announcing && !s.betterOffered
      && decide (s.betterEnded + 1000000 ≤ s.ns) then
    .next s.announce
  else .next s

/-- The phase error at a PPS edge: fabric time less the nearest second, in units of 2^-16 ns. -/
def ppsError (now : Nat) : Int :=
  let m := 1000000000 * unit
  let r := now % m
  if 2 * r < m then (r : Int) else (r : Int) - (m : Int)

/-- PPS_EDGE (R47, R49): the edge applies a waiting TIME_SET_SECONDS, or the root slews towards it. A value waits until an edge in
BRINGUP, through a change of pps_en or of the role, until a later value takes its place; it is dropped when BRINGUP ends (DESIGN CHOICE:
R47 does not say). -/
def execPpsEdge (s : State) : Host.Outcome State Fault Refusal :=
  if s.alive && s.tt.ppsEn && s.tt.role == .ROOT then
    let s := { s with tt := { s.tt with ppsLast := some s.ns } }
    match s.tt.pendingSeconds with
    | some sec =>
      let s := s.setSeconds sec
      .next { s with tt := { s.tt with phase := 0, ppsLast := some s.ns } }
    | none =>
      if s.tt.announcing then
        let e := ppsError s.tt.now
        let ns := e / (unit : Int)
        let s := { s with tt := { s.tt with phase := satSigned 16 ns, slewLeft := -e, slewMax := 2 } }
        .next (if e > 1000 * (unit : Int) ∨ e < -(1000 * (unit : Int)) then s.raise 0x012 none (ofSigned 32 ns) else s)
      else .next s
  else .next s

end Sys2Proof.Machine
end

