-- ==== Sys2Proof/Machine/Trains.lean ====
section
/-! DEFINITION. The trains a port receives and releases (R98 to R109, R133 to R139) and the state table of a fabric port (R119 to R131). -/
namespace Sys2Proof.Machine

open Sys2Proof

/-! ### Receiving -/

/-- Does anything a partner sends reach this port? -/
def State.hears (s : State) (p : Nat) : Bool :=
  s.alive && decide (p < 64) && ((s.port p).state == .UP || (s.port p).state == .STANDBY || (s.port p).shaking)

/-- A good train: its acknowledgement and xoff_map count in UP and STANDBY; elsewhere a reserved ack_kind alone is answered (R136). -/
def State.goodTrain (s : State) (p : Nat) (th : TrainHdr) (nakHere : Bool) : State :=
  if (s.port p).state == .UP || (s.port p).state == .STANDBY then s.headerFields p th nakHere
  else if th.ackKind = 3 then s.violation p 5 th
  else s

/-- A train that passes its CRC has been decoded, whatever is wrong with it (R120, R134). -/
def State.decoded (s : State) (p : Nat) : State := s.modPort p fun x => { x with lastGood := s.ns }

/-- The checks of a control train that has passed its CRC, in the order of R136, and then its effect `k`. `reserved` and `bad` say
that the body has a reserved field set or a value out of range. -/
def State.controlTrain (s : State) (p kind : Nat) (th : TrainHdr) (reserved bad nakHere : Bool) (k : State → State) : State :=
  if !s.hears p then s
  else
    let s := s.decoded p
    if 9 ≤ th.kind then s.violation p 1 th
    else if th.kind ≠ kind then s
    else if th.reserved ≠ 0 ∨ reserved then s.violation p 2 th
    else if th.cells ≠ 0 then s.violation p 3 th
    else if bad then s.violation p 8 th
    else k (s.goodTrain p th nakHere)

/-- Deliver the cells of an accepted DATA train to the Junction (R111, R133, R136). -/
def State.deliverCells (s : State) (p : Nat) (th : TrainHdr) (standby : Bool) : List WireCell → State
  | [] => s
  | c :: t =>
    if standby && c.h.vc != 7 then (s.violation p 7 th).deliverCells p th standby t
    else
      let was := (s.port p).xoffOut.getLsbD c.h.vc
      match s.portCell p c with
      | (s, true) => (if was then s.violation p 6 th else s).deliverCells p th standby t
      | (s, false) => s.deliverCells p th standby t

/-- DATA_TRAIN_RECEIVE (R105, R106, R622). -/
def execDataTrainReceive (port : Nat) (th : TrainHdr) (cells : List WireCell) (s : State) :
    Host.Outcome State Fault Refusal :=
  let up := (s.port port).state == .UP
  let standby := (s.port port).state == .STANDBY
  if !s.hears port || !(up || standby) then .next s
  else if 9 ≤ th.kind then .next ((s.decoded port).violation port 1 th)
  else if th.kind ≠ 0 then .next (s.decoded port)
  else if th.reserved ≠ 0 then .next (((s.decoded port).violation port 2 th).askReplay port 1)
  else if th.cells = 0 ∨ 8 < th.cells then .next (((s.decoded port).violation port 3 th).askReplay port 1)
  else
    let s := (s.decoded port).headerFields port th true
    let d := (th.seq.toNat + 65536 - (s.port port).rxExpected) % 65536
    if d = 0 then
      let s := s.modPort port fun x => { x with rxExpected := (x.rxExpected + 1) % 65536, nakAt := none, nakDue := false }
      .next ((s.tally (lkBase port + 0x48)).deliverCells port th standby cells)
    else if d < 16384 then .next (s.askReplay port 2)
    else if d < 49152 then .next ((s.violation port 4 th).askReplay port 4)
    else .next (s.tally (lkBase port + 0x60))

/-- TRAIN_CRC_FAIL (R106): the train is counted, and a failed DATA train is asked for again. -/
def execTrainCrcFail (port : Nat) (isData : Bool) (s : State) : Host.Outcome State Fault Refusal :=
  if s.hears port then
    let s := s.evidence (lkBase port + 0x68)
    .next (if isData && ((s.port port).state == .UP || (s.port port).state == .STANDBY) then s.askReplay port 1 else s)
  else .next s

/-- FEC_UNCORRECTABLE (R96): the codewords are counted; the DATA trains that overlap them are asked for again. -/
def execFecUncorrectable (port codewords dataTrains : Nat) (s : State) : Host.Outcome State Fault Refusal :=
  if s.hears port then
    let s := s.evidences (lkBase port + 0x6C) codewords
    .next (if 0 < dataTrains ∧ ((s.port port).state = .UP ∨ (s.port port).state = .STANDBY) then s.askReplay port 3 else s)
  else .next s

/-- IDLE_TRAIN_RECEIVE (R104). -/
def execIdleTrainReceive (port : Nat) (th : TrainHdr) (s : State) : Host.Outcome State Fault Refusal :=
  .next (s.controlTrain port 1 th false false true fun s => s)

/-- Is a value of a TIME body out of range: a request's rx_time and rx_frac are zero, and so is root_seq with no_root (R102, R136)? -/
def timeBad (body : List Byte) : Bool :=
  (!bit (rd body 10 1) 0 && rd body 16 10 != 0) || (bit (rd body 10 1) 1 && rd body 26 4 != 0)

/-- TIME_TRAIN_RECEIVE (R51, R52). -/
def execTimeTrainReceive (port : Nat) (th : TrainHdr) (body : List Byte) (s : State) : Host.Outcome State Fault Refusal :=
  .next (s.controlTrain port 2 th (decide (4 ≤ rd body 10 1) || zeroFrom body 30 == false) (timeBad body) true
    fun s => s.timeTrain port body)

/-- NAK_TRAIN_RECEIVE (R104, R107). -/
def execNakTrainReceive (port : Nat) (th : TrainHdr) (body : List Byte) (s : State) : Host.Outcome State Fault Refusal :=
  .next (s.controlTrain port 3 th (zeroFrom body 3 == false) (decide (rd body 2 1 = 0 ∨ 4 < rd body 2 1)) false fun s =>
    if (s.port port).state == .UP || (s.port port).state == .STANDBY then s.replayFrom port (rd body 0 2) else s)

/-- VIOLATION_TRAIN_RECEIVE (R138): the notice asks for nothing. -/
def execViolationTrainReceive (port : Nat) (th : TrainHdr) (body : List Byte) (s : State) :
    Host.Outcome State Fault Refusal :=
  .next (s.controlTrain port 5 th (zeroFrom body 12 == false) (decide (rd body 0 1 = 0 ∨ 8 < rd body 0 1)) true
    fun s => s)

/-- Is a value of a SUMMARY body out of range: more free pool than the 176 MiB of R164, or more of a reserve than its 32 KiB (R102, R136)? -/
def summaryBad (body : List Byte) : Bool :=
  decide (2816 < rd body 0 2) || ((body.drop 2).take 8).any fun b => decide (128 < b.toNat)

/-- SUMMARY_TRAIN_RECEIVE (R169); SUMMARY does not pass in STANDBY (R133), where it only shows that the partner is there (R134). -/
def execSummaryTrainReceive (port : Nat) (th : TrainHdr) (body : List Byte) (s : State) :
    Host.Outcome State Fault Refusal :=
  .next (if s.hears port && (s.port port).state == .STANDBY then s.decoded port
    else s.controlTrain port 6 th (zeroFrom body 50 == false) (summaryBad body) true fun s =>
      if (s.port port).state == .UP then s.modPort port fun x => { x with summary := some (Summary.ofBytes body) } else s)

/-- KEEPALIVE_TRAIN_RECEIVE (R134). -/
def execKeepaliveTrainReceive (port : Nat) (th : TrainHdr) (body : List Byte) (s : State) :
    Host.Outcome State Fault Refusal :=
  .next (s.controlTrain port 7 th (zeroFrom body 4 == false) (decide (63 < rd body 2 1 ∨ 5 < rd body 3 1)) true fun s => s)

/-- HELLO_TRAIN_RECEIVE (R102, R126). -/
def execHelloTrainReceive (port : Nat) (th : TrainHdr) (body : List Byte) (s : State) : Host.Outcome State Fault Refusal :=
  .next (s.controlTrain port 8 th (decide (2 ≤ rd body 6 1) || zeroFrom body 20 == false)
    (decide (63 < rd body 2 1 ∨ 9 < rd body 3 1 ∨ 3 < rd body 7 1)) true fun s =>
      s.modPort port fun x => { x with hello := some (Hello.ofBytes body) })

/-- Both ends have sent REQUEST (R130): each takes the other's as its ACCEPT, and the union of the two requests' masks. The lanes are
those of the slower of the two proposals that the union still supports. -/
def State.crossLanes (s : State) (p : Nat) (c : LaneChange) (failed active : BitVec 8) : State :=
  let union := c.failed ||| failed
  let good := popcount8 (~~~ union)
  let st := if (s.port p).state = .STANDBY then (if good = 0 then none else some 3)
    else bestStep (maxN (stepOf (popcount8 c.active)) (stepOf (popcount8 active))) good 0
  match st with
  | some st =>
    s.modPort p fun x =>
      { x with change := some { c with accepted := true, failed := union, active := lowestLanes (lanesOf st) (~~~ union) } }
  | none => s.enterHeld p 5

/-- Does this end refuse a REQUEST (R131): the union leaves too few good lanes, or the step does not meet R116 with the flight of
HANDSHAKE? A mask whose lane count makes no rate step of R97 is refused too (DESIGN CHOICE: R131 does not say). -/
def Port.refusesLanes (x : Port) (union active : BitVec 8) : Bool :=
  let need := popcount8 active
  decide (popcount8 (~~~ union) < need) || !isStep need || decide (exposureLimit < exposure (stepOf need) x.fHandshake)

/-- The answer to a LANE_CHANGE REQUEST (R129 to R131). -/
def State.answerLanes (s : State) (p : Nat) (failed active : BitVec 8) (n : Nat) : State :=
  let x := s.port p
  let union := x.failed ||| failed
  match x.change with
  | some c => if c.accepted then s else s.crossLanes p c failed active
  | none =>
    if x.refusesLanes union active then
      let s := s.modPort p fun x => { x with answered := some (n, 3, x.failed, active) }
      s.sendControl p 4 (laneBody 3 x.failed active n)
    else
      let new := lowestLanes (popcount8 active) (~~~ union)
      let s := s.modPort p fun x =>
        { x with answered := some (n, 2, x.failed, new),
                 change := some { failed := x.failed, active := new, change := n, deadline := s.ns + 500000, lastSent := s.ns,
                                  restore := false, exposure := false, accepted := true } }
      s.sendControl p 4 (laneBody 2 x.failed new n)

/-- Is a change number newer than the last one answered (R131)? The 8-bit number wraps: a difference of 1 to 127 modulo 256 counts as newer
(DESIGN CHOICE). -/
def newerChange (n last : Nat) : Bool := decide (0 < (n + 256 - last) % 256 ∧ (n + 256 - last) % 256 < 128)

/-- A REFUSE (R131): a degrade leads to HELD with cause 0x5; a restore, and a change of the one lane of STANDBY, are given up. -/
def State.refusedLanes (s : State) (p : Nat) (c : LaneChange) : State :=
  if c.restore || (s.port p).state == .STANDBY then s.modPort p fun x => { x with change := none } else s.enterHeld p 5

/-- A LANE_CHANGE body, once its train has passed its checks (R129 to R131, R133). -/
def State.laneTrain (s : State) (p : Nat) (step : Nat) (failed active : BitVec 8) (n : Nat) : State :=
  let x := s.port p
  if x.state ≠ .UP ∧ x.state ≠ .STANDBY then s
  else if step = 1 then
    match x.answered with
    | some (m, st, f, a) => if newerChange n m then s.answerLanes p failed active n else s.sendControl p 4 (laneBody st f a m)
    | none => s.answerLanes p failed active n
  else
    match x.change with
    | some c =>
      if c.accepted || c.change != n then s
      else if step = 2 then
        s.modPort p fun x =>
          { x with change := some { c with accepted := true, active := active } }
      else s.refusedLanes p c
    | none => s

/-- LANE_CHANGE_TRAIN_RECEIVE (R129 to R131). -/
def execLaneChangeTrainReceive (port : Nat) (th : TrainHdr) (body : List Byte) (s : State) :
    Host.Outcome State Fault Refusal :=
  .next (s.controlTrain port 4 th (zeroFrom body 4 == false) (decide (rd body 0 1 = 0 ∨ 3 < rd body 0 1)) true fun s =>
    s.laneTrain port (rd body 0 1) (BitVec.ofNat 8 (rd body 1 1)) (BitVec.ofNat 8 (rd body 2 1)) (rd body 3 1))

/-! ### Releasing -/

/-- The cells of the next DATA train: up to 8, none on a VC the partner has XOFFed (R115), only VC7 in STANDBY (R133). -/
def Port.nextCells (x : Port) : List QCell :=
  (x.txReady.filter fun q =>
    (decide (6 ≤ q.vc) || !x.xoffIn.getLsbD q.vc) && (x.state == .UP || q.vc == 7)).take 8

/-- Remove listed cells, each once. -/
def removeCells : List QCell → List QCell → List QCell
  | [], l => l
  | q :: t, l => removeCells t (l.erase q)

/-- The siding holds one more train of `n` cells, and fewer than 16,384 trains are unacknowledged (R109). -/
def Port.sidingRoom (x : Port) (n : Nat) : Bool :=
  decide (sumNat (x.siding.map fun t => trainBytes t.cells.length) + trainBytes n ≤ 524288)
    && decide ((x.txNext + 65536 - x.sidingBase) % 65536 < 16384)

/-- May a train of the siding be released again: in STANDBY only one whose cells are all on VC7 (R133)? A replayed train is released
whole, cells of a VC that was XOFFed since its first release among them (DESIGN CHOICE: R115 does not speak of replays). -/
def Port.replays (x : Port) (t : SidingTrain) : Bool := x.state == .UP || t.cells.all fun q => q.vc == 7

/-- Release a train of the siding again (R107). -/
def State.releaseReplay (s : State) (p q : Nat) : State :=
  let x := s.port p
  match (x.siding.find? fun t => t.seq == q).filter x.replays with
  | none => s.modPort p fun x => { x with replay := x.replay.drop 1 }
  | some t =>
    let s := s.modPort p fun x =>
      { x with replay := x.replay.drop 1,
               siding := x.siding.map fun y => if y.seq = q then { y with released := s.ns } else y }
    ((s.tally (lkBase p + 0x40)).tally (lkBase p + 0x50)).sendTrain p 0 q true (t.cells.map (·.wire)) []

/-- Release a new DATA train (R98, R99). -/
def State.releaseData (s : State) (p : Nat) (cells : List QCell) : State :=
  let q := (s.port p).txNext
  let s := s.modPort p fun x =>
    { x with txReady := removeCells cells x.txReady, txNext := (q + 1) % 65536, sentTrains := x.sentTrains + 1,
             siding := x.siding ++ [{ seq := q, cells := cells, released := s.ns }] }
  (s.tally (lkBase p + 0x40)).sendTrain p 0 q false (cells.map (·.wire)) []

/-- TRAIN_RELEASE (R100, R107, R109, R138): a replay, then cells, then a violation notice, then a NAK in STANDBY, else IDLE. In HALT
the port releases only IDLE trains with xoff_map 0xFF, for 100 µs (R537). -/
def execTrainRelease (port : Nat) (s : State) : Host.Outcome State Fault Refusal :=
  let x := s.port port
  if 64 ≤ port ∨ !(x.state == .UP || x.state == .STANDBY) then .next s
  else if s.rst.mode = .HALT then
    if s.ns < s.rst.haltAt + 100000 then
      .next (s.emitTrain port
        { reserved := 0, replay := false, cells := 0, ackKind := 1, kind := 1, xoffMap := 0xFF#8,
          ackSeq := BitVec.ofNat 16 (x.rxExpected + 65535), seq := BitVec.ofNat 16 x.txNext } [] [])
    else .next s
  else if !s.alive then .next s
  else
    let data := if x.change.isSome then [] else x.nextCells
    match if x.change.isSome then [] else x.replay with
    | q :: _ => .next (s.releaseReplay port q)
    | [] =>
      if data ≠ [] ∧ x.sidingRoom data.length then .next (s.releaseData port data)
      else match x.notice with
        | some (code, seq, header) =>
          if x.noticeTick = some s.tickNo then .next (s.sendControl port 1 [])
          else
            let n := if x.violFrame.1 = s.frame then x.violFrame.2 else 0
            let s := s.modPort port fun x => { x with notice := none, noticeTick := some s.tickNo }
            .next (s.sendControl port 5 (fitTo 64 (le 1 code ++ le 1 (minN n 255) ++ le 2 seq ++ le 8 header)))
        | none =>
          if x.nakDue && x.state == .STANDBY then
            .next (s.sendControl port 3 (fitTo 64 (le 2 x.rxExpected ++ le 1 x.nakReason)))
          else .next (s.sendControl port 1 [])

/-- Two levels to a byte (R102). -/
def packNibbles : List Nat → List Byte
  | a :: b :: t => BitVec.ofNat 8 (a + 16 * b) :: packNibbles t
  | [a] => [BitVec.ofNat 8 a]
  | [] => []

/-- SUMMARY_SEND (R101, R102, R169): every tick in UP. -/
def execSummarySend (port : Nat) (s : State) : Host.Outcome State Fault Refusal :=
  let x := s.port port
  let due := match x.lastSummary with | some t => decide (t + 1000 ≤ s.ns) | none => true
  if s.alive && decide (port < 64) && x.state == .UP && due then
    let free := (List.range 8).map fun v => BitVec.ofNat 8 ((32768 - s.reserveUsed port v * 72) / 256)
    let up := sumNat ((List.range 64).map fun p => if (s.port p).state = .UP then 2 ^ p else 0)
    let body := fitTo 64 (le 2 (s.poolFreeKib / 64) ++ free ++ packNibbles ((List.range 64).map s.congestion) ++ le 8 up)
    .next ((s.modPort port fun x => { x with lastSummary := some s.ns }).sendControl port 6 body)
  else .next s

/-- HELLO_SEND (R101): every tick of a handshake. -/
def execHelloSend (port : Nat) (s : State) : Host.Outcome State Fault Refusal :=
  let x := s.port port
  let due := match x.lastHello with | some t => decide (t + 1000 ≤ s.ns) | none => true
  if s.alive && decide (port < 64) && x.shaking && due then
    .next ((s.modPort port fun x => { x with lastHello := some s.ns }).sendControl port 8 (s.helloOf port).bytes)
  else .next s

/-- Values of R530. -/
def modeCode : Mode → Nat
  | .OFF => 0 | .BRINGUP => 1 | .SERVICE => 2 | .DRAIN => 3 | .HEATH => 4 | .HALT => 5

/-- KEEPALIVE_SEND (R101, R133): every 8 ticks in STANDBY. -/
def execKeepaliveSend (port : Nat) (s : State) : Host.Outcome State Fault Refusal :=
  let x := s.port port
  let due := match x.lastHello with | some t => decide (t + 8000 ≤ s.ns) | none => true
  if s.alive && decide (port < 64) && x.state == .STANDBY && due then
    .next ((s.modPort port fun x => { x with lastHello := some s.ns }).sendControl port 7
      (fitTo 64 (le 2 s.location ++ le 1 port ++ le 1 (modeCode s.rst.mode))))
  else .next s

/-- LANE_CHANGE_RESEND (R101): an unanswered REQUEST after 10 µs. -/
def execLaneChangeResend (port : Nat) (s : State) : Host.Outcome State Fault Refusal :=
  match (s.port port).change with
  | some c =>
    if s.alive && !c.accepted && decide (c.lastSent + 10000 ≤ s.ns) then
      .next ((s.modPort port fun x => { x with change := some { c with lastSent := s.ns } }).sendControl port 4
        (laneBody 1 c.failed c.active c.change))
    else .next s
  | none => .next s

/-- NAK_REPEAT_TIMEOUT (R106): the request is repeated after 2f + 920 ns. -/
def execNakRepeatTimeout (port : Nat) (s : State) : Host.Outcome State Fault Refusal :=
  let x := s.port port
  match x.nakAt with
  | some t =>
    if s.alive && decide (t + x.round ≤ s.ns) then
      .next (s.modPort port fun x => { x with nakAt := some s.ns, nakDue := true })
    else .next s
  | none => .next s

/-! ### The state table -/

/-- LANES_LOCKED (R119): HANDSHAKE begins, or the handshake within HELD or FLUSHED. -/
def execLanesLocked (port : Nat) (lanes : BitVec 8) (s : State) : Host.Outcome State Fault Refusal :=
  let x := s.port port
  let s' := s.modPort port fun x => { x with locked := true, good := lanes, failed := ~~~ lanes, exchanges := 0, hello := none }
  if !s.alive || decide (64 ≤ port) then .next s
  else if x.state = .TRAINING then .next (s'.portState port .HANDSHAKE)
  else if (x.state = .HELD ∨ x.state = .FLUSHED) ∧ !x.locked then .next s'
  else .next s

/-- TRAINING_TIMEOUT (R119): 100 ms without lock restart TRAINING. -/
def execTrainingTimeout (port : Nat) (s : State) : Host.Outcome State Fault Refusal :=
  let x := s.port port
  if s.alive && decide (port < 64) && x.state == .TRAINING && decide (x.trainSince + 100000000 ≤ s.ns) then
    .next ((s.modPort port fun x => { x with trainSince := s.ns }).raise 0x040 none port)
  else .next s

/-- HANDSHAKE_COMPLETE (R117, R122 to R126): the role check, the rate choice and the way the link comes up. Both ends judge R116 by the
larger of the two flights, the partner's from its HELLO, so that they agree. Where the good lanes support no step either, the link goes to
STANDBY with LINK_TOO_LONG as well (DESIGN CHOICE: R117 speaks of R116 alone). -/
def execHandshakeComplete (port : Nat) (s : State) : Host.Outcome State Fault Refusal :=
  let x := s.port port
  match x.hello with
  | none => .next s
  | some h =>
    if !s.alive || decide (64 ≤ port) || !x.shaking || decide (x.exchanges < 8) then .next s
    else if !x.partnerMatches h then
      let s := (s.modPort port fun x => x.stopped).portState port .DISABLED
      .next ((s.emptyPort port).raise 0x045 none (port + h.location * 65536))
    else
      let good := popcount8 (x.good &&& h.good &&& ~~~ (x.failed ||| h.failed))
      let f := maxN x.fHandshake h.flight
      match bestStep h.rate good f with
      | some st =>
        if s.rst.mode = .HEATH then .next (s.linkUp port h .STANDBY 3) else .next (s.linkUp port h .UP st)
      | none =>
        let s := s.linkUp port h .STANDBY 3
        .next (s.raise 0x043 none (port + exposure 2 f * 65536))

/-- NO_GOOD_TRAIN_TIMEOUT (R120). -/
def execNoGoodTrainTimeout (port : Nat) (s : State) : Host.Outcome State Fault Refusal :=
  if s.alive && decide (port < 64) && decide ((s.port port).lastGood + 10000 ≤ s.ns) then .next (s.enterHeld port 2)
  else .next s

/-- GRACE_EXPIRY (R123). -/
def execGraceExpiry (port : Nat) (s : State) : Host.Outcome State Fault Refusal :=
  match (s.port port).graceDeadline with
  | some d =>
    if s.alive && decide (port < 64) && (s.port port).state == .HELD && decide (d ≤ s.ns) then .next (s.enterFlushed port)
    else .next s
  | none => .next s

/-- LANE_LOCK_LOSS (R128). -/
def execLaneLockLoss (port : Nat) (lanes : BitVec 8) (s : State) : Host.Outcome State Fault Refusal :=
  if s.alive && decide (port < 64) then .next (s.badLanes port lanes 1) else .next s

/-- LANE_ERROR_RATE_CHECK (R128): the lanes whose error ratio over the frame exceeded 10^-4. HELD, where it follows, records cause 0x1
(DESIGN CHOICE: LK_HISTORY has no cause for the error ratio). -/
def execLaneErrorRateCheck (port : Nat) (lanes : BitVec 8) (s : State) : Host.Outcome State Fault Refusal :=
  if s.alive && decide (port < 64) then .next (s.badLanes port lanes 1) else .next s

/-- LANE_CHANGE_TIMEOUT (R129): 500 µs after the request; in STANDBY, which R129 does not send to HELD, the change is given up. -/
def execLaneChangeTimeout (port : Nat) (s : State) : Host.Outcome State Fault Refusal :=
  match (s.port port).change with
  | some c =>
    if s.alive && decide (port < 64) && decide (c.deadline ≤ s.ns) then
      .next (if (s.port port).state == .STANDBY then s.modPort port fun x => { x with change := none } else s.enterHeld port 5)
    else .next s
  | none => .next s

/-- LANE_CHANGE_COMPLETE (R129, R130): both ends run on the new lanes; LINK_DEGRADED, and R84 applies. One lane is the rate step of
STANDBY, where the port then is. -/
def execLaneChangeComplete (port : Nat) (s : State) : Host.Outcome State Fault Refusal :=
  let x := s.port port
  match x.change with
  | some c =>
    if s.alive && decide (port < 64) && (x.state == .UP || x.state == .STANDBY) && c.accepted then
      let s := s.modPort port fun x =>
        { x with change := none, active := c.active, failed := c.failed, rate := stepOf (popcount8 c.active),
                 overExposed := 0,
                 state := if stepOf (popcount8 c.active) = 3 then .STANDBY else x.state }
      .next (s.rebalance.raise 0x042 none (port + c.active.toNat * 256))
    else .next s
  | none => .next s

/-- EXPOSURE_CHECK (R118): once per frame; after three excesses in a row the rate steps down by one, from step 2 to the one lane of
step 3. -/
def execExposureCheck (port : Nat) (s : State) : Host.Outcome State Fault Refusal :=
  let x := s.port port
  if !s.alive || decide (64 ≤ port) || x.state != .UP || x.exposureFrame == some s.frame then .next s
  else if exposure x.rate x.fCurrent ≤ exposureLimit then
    .next (s.modPort port fun x => { x with overExposed := 0, exposureFrame := some s.frame })
  else
    let s := s.modPort port fun x => { x with overExposed := x.overExposed + 1, exposureFrame := some s.frame }
    if 3 ≤ x.overExposed + 1 ∧ x.rate < 3 ∧ x.change.isNone then
      let st := x.rate + 1
      let s := s.modPort port fun x => { x with overExposed := 0 }
      .next ((s.requestLanes port x.failed (lowestLanes (lanesOf st) (~~~ x.failed)) false true).raise 0x044 none
        (port + st * 256))
    else .next s

/-- STANDBY_KEEPALIVE_LOSS (R134). -/
def execStandbyKeepaliveLoss (port : Nat) (s : State) : Host.Outcome State Fault Refusal :=
  if s.alive && decide (port < 64) && (s.port port).state == .STANDBY && decide ((s.port port).lastGood + 100000 ≤ s.ns) then
    .next ((s.modPort port fun x => { x with lastCause := 6 }).enterFlushed port)
  else .next s

/-- ESCAPE_WAIT_EXPIRY (R176). -/
def execEscapeWaitExpiry (egress position : Nat) (s : State) : Host.Outcome State Fault Refusal :=
  if s.alive then .next (s.escapeMove egress position) else .next s

end Sys2Proof.Machine
end

