-- ==== Sys2Proof/Machine/SignalBox.lean ====
section
/-! DEFINITION. The Signal Box (05_signal_box.md): egress scheduling, injection grants, policers and shapers, live changes, and the
meters' snapshots and samples. -/
namespace Sys2Proof.Machine

open Sys2Proof

/-! ### Egress scheduling (R188, R189, R192) -/

/-- Has engine `n` room for one more ejected cell of `vc` (R188)? -/
def State.ejectFree (s : State) (n vc : Nat) : Bool :=
  decide (((s.engine n).ejected.filter fun c => c.h.vc == vc).length < Config.ejectRoom vc + 1)

/-- May a cell of `vc` leave egress `e` now: the port carries it and the partner has not XOFFed its VC, bits 6 and 7 apart, or the engine has
room for it (R114, R115, R133, R188)? A fabric port degraded by its lag takes no cell of a best-effort VC (R63). -/
def State.mayLeave (s : State) (e vc : Nat) : Bool :=
  if e < 64 then
    let x := s.port e
    (x.state == .UP || (x.state == .STANDBY && vc == 7)) && (decide (6 ≤ vc) || !s.lagging (64 + e)) && (decide (6 ≤ vc) || !x.xoffIn.getLsbD vc)
  else s.hasEngine (e - 64) && !(s.engine (e - 64)).degraded && s.ejectFree (e - 64) vc

/-- Has the port's next train room for a cell (R98)? -/
def State.trainRoom (s : State) (e : Nat) : Bool := !decide (e < 64) || decide ((s.port e).txReady.length < 8)

/-- Position of the first cell of a queue that may leave. -/
def State.firstOf (s : State) (e : Nat) (q : Queue) : Option Nat :=
  (s.egress e).cells.findIdx? fun c => c.queue == q && s.mayLeave e c.vc

/-- The better of two positions by a strict order on cells, the earlier one among equals. -/
def bestBy (lt : QCell → QCell → Bool) : List (Nat × QCell) → Option (Nat × QCell)
  | [] => none
  | x :: t =>
    match bestBy lt t with
    | none => some x
    | some y => if lt y.2 x.2 then some y else some x

/-- Timetable service: the highest-placed cell that may leave, the oldest among equals (R74). -/
def State.firstTimetable (s : State) (e : Nat) : Option Nat :=
  (bestBy (fun a b => ladderLt a.ladder b.ladder)
    ((((s.egress e).cells.mapIdx fun i c => (i, c)).filter fun c => c.2.queue == .timetable && s.mayLeave e c.2.vc))).map (·.1)

/-- The end of a visit: an empty queue's deficit is clamped to its burst, and the pointer goes on (R192). -/
def Egress.leaveQueue (x : Egress) (d : Nat) : Egress :=
  let q := x.pointer
  let d := if x.cells.any (fun c => c.queue == .wq q) then d else minN d (x.b q)
  { x with visiting := false, deficit := x.deficit.set q d, pointer := (q + 1) % 16 }

/-- The visit of egress `e` ends once its queue has less than one cell's credit or is no longer eligible (R192). -/
def State.endVisit (s : State) (e : Nat) : State :=
  let x := s.egress e
  let d := x.deficit.getD x.pointer 0
  if x.visiting && (d == 0 || (s.firstOf e (.wq x.pointer)).isNone) then s.setEgress e (x.leaveQueue d) else s

/-- Deficit round robin of R192 from the pointer on, over at most `fuel` visits: the position of the cell to send, and the
egress with the pointer and deficits as that send leaves them. None: a whole pass sends nothing and changes nothing. -/
def State.roundRobin (s : State) (e : Nat) : (fuel : Nat) → Egress → Option (Nat × Egress)
  | 0, _ => none
  | fuel + 1, x =>
    let q := x.pointer
    let d := x.deficit.getD q 0 + (if x.visiting then 0 else x.q q)
    match (if 1 ≤ d then s.firstOf e (.wq q) else none) with
    | some i => some (i, { x with visiting := true, deficit := x.deficit.set q (d - 1) })
    | none => s.roundRobin e fuel (x.leaveQueue d)

/-- The cell an egress sends next, by the order of R189, and the egress's weighted state after it. -/
def State.selectCell (s : State) (e : Nat) : Option (Nat × Egress) :=
  let x := s.egress e
  match s.firstTimetable e with
  | some i => some (i, x)
  | none =>
    match [0, 1, 2, 3].findSome? fun n => s.firstOf e (.sq n) with
    | some i => some (i, x)
    | none => s.roundRobin e 17 x

/-- Take the cell at a position of egress `e` and send it: to the port's next train, or to the engine. A hop taken on the escape path
is counted (R176); a weighted queue's visit may end with it (R192). -/
def State.sendSelected (s : State) (e i : Nat) (x : Egress) : State :=
  match x.cells[i]? with
  | none => s
  | some c =>
    let s := s.setEgress e { x with cells := removeAt i x.cells }
    let s := if e < 64 ∧ c.esc then s.tally 0x100020 else s
    let s := if e < 64 then s.modPort e fun p => { p with txReady := p.txReady ++ [c] }
      else s.modEngine (e - 64) fun n => { n with ejected := n.ejected ++ [c.wire] }
    let s := match c.queue with | .wq _ => s.endVisit e | _ => s
    s.refreshXoff

/-- EGRESS_CELL_SELECT (R189, R192). -/
def execEgressCellSelect (egress : Nat) (s : State) : Host.Outcome State Fault Refusal :=
  if s.alive ∧ egress < 96 ∧ s.trainRoom egress then
    match s.selectCell egress with
    | some (i, x) => .next (s.sendSelected egress i x)
    | none => .next (s.endVisit egress)
  else .next s

/-! ### Classes of parcels -/

/-- op_flags of an operation (R308, R309, R350); zero where its area has none. -/
def Op.flags (o : Op) : Nat :=
  match o.area with
  | .put a | .get a | .putWithSignal a => a.opFlags
  | .mcastPut a => a.opFlags
  | .atomic a => a.opFlags
  | .send a => a.opFlags
  | .recv a => a.opFlags
  | _ => 0

/-- The highest-placed reservation that satisfies `f`, active ones first. -/
def State.findResv (s : State) (f : Reservation → Bool) : Option (Nat × Reservation) :=
  let l := ladderSort (s.tt.resv.filter fun r => f r.2)
  match l.find? fun r => !r.2.suspended with
  | some r => some r
  | none => l.head?

/-- The reservation that function `f` of this router holds for a destination function (R308). -/
def State.resvUnicast (s : State) (f endpoint dstFn : Nat) : Option (Nat × Reservation) :=
  match s.fn? f with
  | none => none
  | some x => s.findResv fun r =>
      r.destKind == 0 && r.source == s.endpoint x.att && r.sourceFn == f && r.dest == endpoint && r.destFn == dstFn

/-- The reservation it holds for a multicast group (R353). -/
def State.resvGroup (s : State) (f group : Nat) : Option (Nat × Reservation) :=
  match s.fn? f with
  | none => none
  | some x => s.findResv fun r => r.destKind == 1 && r.source == s.endpoint x.att && r.sourceFn == f && r.dest == group

/-- The class of a function's best-effort cells: strict where its level maps to SQ2 or SQ3 (R190, R200). -/
def State.levelClass (s : State) (f : Nat) : Class :=
  match s.sb.levelQueue (s.sched f).level with
  | .sq _ => .strict
  | _ => .weighted

/-- The class a parcel asks a grant for, by its operation's op_flags and the reservation it would use. -/
def State.parcelClass (s : State) (f flags : Nat) (resv : Bool) : Class :=
  if bit flags 1 && resv then .timetable
  else if bit flags 2 && (s.sched f).laneEn then .lane
  else s.levelClass f

def State.opFlags (s : State) (place : Option Nat) : Nat :=
  match place.bind (Tbl.get? s.ops) with
  | some o => o.flags
  | none => 0

/-! ### Policers (R195, R197) -/

def classIndex : Class → Nat
  | .timetable => 3 | .lane => 0 | .strict => 1 | .weighted => 2

def Sched.policer (x : Sched) : Class → Policer
  | .lane => x.lane
  | .strict => x.strict
  | _ => x.weighted

def Sched.setPolicer (x : Sched) (c : Class) (p : Policer) : Sched :=
  match c with
  | .lane => { x with lane := p }
  | .strict => { x with strict := p }
  | .weighted => { x with weighted := p }
  | .timetable => x

/-- Two-rate three-colour marking of a packet of `n` cells, colour-blind (R195): 0 green, 1 yellow, 2 red. -/
def Policer.mark (p : Policer) (n : Nat) : Nat × Policer :=
  if !p.enable then (0, p)
  else if p.tp < 256 * n then (2, p)
  else if p.tc < 256 * n then (1, { p with tp := p.tp - 256 * n })
  else (0, { p with tp := p.tp - 256 * n, tc := p.tc - 256 * n })

/-- Meter `n` cells of function `f` in class `c`. Timetable cells are never policed. -/
def State.meterParcel (s : State) (f : Nat) (c : Class) (n : Nat) : Nat × State :=
  match c, s.fn? f with
  | .timetable, _ | _, none => (0, s)
  | c, some x =>
    let r := (x.sched.policer c).mark n
    (r.1, s.setFn f { x with sched := x.sched.setPolicer c r.2 })

/-- Are yellow parcels held: is JN_POOL_FREE below yellow_pool_mib (R197)? -/
def State.yellowHeld (s : State) : Bool := decide (s.poolFreeKib < s.sb.yellowMib * 1024)

/-- Refill of a tick (R195). -/
def Policer.refill (p : Policer) : Policer :=
  { p with tc := minN (p.tc + p.cir) (256 * p.cbs), tp := minN (p.tp + p.pir) (256 * p.pbs) }

/-- Refill of a tick (R195, R196). -/
def Sched.refill (x : Sched) : Sched :=
  { x with minBucket := minN (x.minBucket + x.minRate) (x.minRate + 64 * 256)
           maxBucket := minN (x.maxBucket + x.maxRate) (x.maxRate + 64 * 256)
           lane := x.lane.refill, strict := x.strict.refill, weighted := x.weighted.refill }

/-! ### Live changes (R207) -/

/-- A policer with new settings, its buckets clamped; a newly enabled one starts full (R198, R207). -/
def Policer.change (p : Policer) (enable : Bool) (action cir pir cbs pbs : Nat) : Policer :=
  { enable := enable, action := action, cir := cir, pir := pir, cbs := cbs, pbs := pbs,
    tc := if enable && !p.enable then 256 * cbs else minN p.tc (256 * cbs),
    tp := if enable && !p.enable then 256 * pbs else minN p.tp (256 * pbs) }

def State.modSched (s : State) (f : Nat) (g : Sched → Sched) : State := s.modFn f fun x => { x with sched := g x.sched }

/-- The deficit of an empty queue is clamped to its burst (R207). -/
def Egress.clamp (x : Egress) (q : Nat) : Egress :=
  if x.cells.any (fun c => c.queue == .wq q) then x
  else { x with deficit := x.deficit.set q (minN (x.deficit.getD q 0) (x.b q)) }

def State.applyChange (s : State) : SbChange → State
  | .sched f base lane share dwq =>
    s.modSched f fun x => { x with baseLevel := base, laneEn := lane, share := share, dwq := dwq }
  | .shaper f lo hi =>
    s.modSched f fun x =>
      { x with minRate := lo, maxRate := hi, minBucket := minN x.minBucket (lo + 64 * 256),
               maxBucket := minN x.maxBucket (hi + 64 * 256) }
  | .policer f c en act cir pir cbs pbs =>
    s.modSched f fun x =>
      let cl : Class := if c = 0 then .lane else if c = 1 then .strict else .weighted
      x.setPolicer cl ((x.policer cl).change en act cir pir cbs pbs)
  | .weight e q quantum burst =>
    let x := s.egress e
    s.setEgress e
      (({ x with quantum := Tbl.put x.quantum q quantum, burst := Tbl.put x.burst q burst } : Egress).clamp q)
  | .map level transit =>
    { s with sb := { s.sb with levelMap := BitVec.ofNat 64 level, transitMap := BitVec.ofNat 64 transit } }
  | .yellow mib => { s with sb := { s.sb with yellowMib := mib } }
  | .inherited f l => s.modSched f fun x => { x with inherited := l }

/-- Apply the changes that waited for this boundary. -/
def State.applyChanges (s : State) : State :=
  s.sb.changes.foldl State.applyChange { s with sb := { s.sb with changes := [] } }

/-- Leave a change for the next boundary. -/
def State.pushChange (s : State) (c : SbChange) : State := { s with sb := { s.sb with changes := s.sb.changes ++ [c] } }

/-! ### Grants (R194) -/

/-- Cells of a parcel that ask for a grant: those left of it, or all of it once it is due and its data is at hand. -/
def OutParcel.asks (p : OutParcel) : Nat :=
  if p.left ≠ [] then p.left.length
  else match p.due, p.data with
    | true, some d => parcelCells d.length
    | _, _ => 0

def McastOut.asks (m : McastOut) : Nat :=
  if m.left ≠ [] then m.left.length
  else match m.released == 0, m.data with
    | true, some d => parcelCells d.length
    | _, _ => 0

/-- Parcels of a source flow that are outstanding: released and not answered. -/
def SrcFlow.outstanding (x : SrcFlow) : List OutParcel := x.parcels.filter fun p => p.sendings != 0

/-- The lowest sequence number neither acknowledged nor finally failed, or the next unused one (R319). -/
def SrcFlow.lowest (x : SrcFlow) : Nat :=
  match x.parcels with
  | [] => x.nextSeq
  | p :: t => t.foldl (fun m q => if (x.nextSeq + 4096 - q.seq) % 4096 > (x.nextSeq + 4096 - m) % 4096 then q.seq else m) p.seq

/-- Cells outstanding on a flow (R331). -/
def SrcFlow.inFlight (x : SrcFlow) : Nat := sumNat (x.outstanding.map (·.cells))

/-- May a parcel leave, its data at hand: window, congestion window and atomics (R149, R316, R331, R344)? An OPEN may: R336 sends it
before the parcels that still count as outstanding (DEDUCED). -/
def SrcFlow.lets (x : SrcFlow) (p : OutParcel) : Bool :=
  if p.sendings ≠ 0 ∨ p.op = opOPEN then true
  else
    decide ((p.seq + 4096 - x.lowest) % 4096 < 2048)
      && (x.outstanding.isEmpty || decide (x.inFlight + p.cells ≤ x.cwnd))
      && (p.op != opATOMIC || decide (x.atomics.length < 64))

/-- Is the flow in a state that lets the parcel leave? An OPEN always may; a CLOSE while the flow closes; others while it is open. -/
def SrcFlow.stateLets (x : SrcFlow) (p : OutParcel) : Bool :=
  p.op == opOPEN || x.state == .OPEN || (x.state == .CLOSING && p.op == opCLOSE)

/-- Does colour hold a parcel back this tick (R197)? -/
def State.heldByColour (s : State) (c : Option Nat) : Bool := c == some 2 || (c == some 1 && s.yellowHeld)

/-- What a parcel or an answer asks a grant for: the reservation it would use where its class is timetable. -/
structure Demand where
  fn : Nat
  cls : Class
  cells : Nat
  vc : Nat
  resv : Option Nat
  deriving DecidableEq, Repr

/-- The class of an item and the reservation that its cells would take. -/
def State.demandOf (s : State) (f flags cells vc : Nat) (resv : Option (Nat × Reservation)) : Demand :=
  let c := s.parcelClass f flags resv.isSome
  { fn := f, cls := c, cells := cells, vc := vc, resv := if c = .timetable then resv.map (·.1) else none }

/-- The class of answers: best effort at the function's level (R186). -/
def State.answerDemand (s : State) (a : OutAnswer) : Demand :=
  { fn := a.fn, cls := s.levelClass a.fn, cells := a.cells.length, vc := 5, resv := none }

/-- What engine `n` has ready: cells of its flows' parcels, of its multicast parcels and of its answers. -/
def State.demands (s : State) (n : Nat) : List Demand :=
  let e := s.engine n
  let flows := e.src.flatMap fun fl =>
    ((fl.2.parcels ++ fl.2.opening.toList).filter fun p =>
        p.asks != 0 && !s.heldByColour p.colour && (p.left ≠ [] || (fl.2.stateLets p && fl.2.lets p))).map fun p =>
      s.demandOf fl.2.fn (s.opFlags p.place) p.asks 4 (s.resvUnicast fl.2.fn fl.2.endpoint fl.2.dstFn)
  let groups := e.senders.flatMap fun g =>
    (g.2.out.filter fun m => m.asks != 0 && !s.heldByColour m.colour).map fun m =>
      s.demandOf g.2.fn (s.opFlags (some m.place)) m.asks 0 (s.resvGroup g.2.fn g.1)
  flows ++ groups ++ (e.answers.filter fun a => !s.heldByColour a.colour).map s.answerDemand

/-- Cells asked for that satisfy `f`. -/
def cellsWhere (ds : List Demand) (f : Demand → Bool) : Nat := sumNat (ds.map fun d => if f d then d.cells else 0)

/-- Cells of the demands in reservation `id` that conform in this tick (R72). -/
def State.conforming (s : State) (ds : List Demand) (id : Nat) : Nat :=
  match Tbl.get? s.tt.resv id with
  | some r => if r.suspended then 0 else minN r.bucket (cellsWhere ds fun d => d.resv == some id)
  | none => 0

/-- Reservations that the demands would take. -/
def demandResvs (ds : List Demand) : List Nat := ds.foldl (fun l d => match d.resv with | some id => insertNat id l | none => l) []

/-- Cells that conform under R72 for an engine's demands. -/
def State.timetableDemand (s : State) (ds : List Demand) : Nat := sumNat ((demandResvs ds).map (s.conforming ds))

/-- Cells that function `f` asks for in the weighted class: its weighted parcels, and the timetable cells that do not conform and are
demoted (R73). -/
def State.weightedDemand (s : State) (ds : List Demand) (f : Nat) : Nat :=
  cellsWhere ds (fun d => d.fn == f && d.cls == .weighted)
    + sumNat ((demandResvs ds).map fun id => cellsWhere ds (fun d => d.fn == f && d.resv == some id)
        - s.conforming (ds.filter fun d => d.fn == f) id)

def laneDemand (ds : List Demand) (f : Nat) : Nat := cellsWhere ds fun d => d.fn == f && d.cls == .lane
def strictDemand (ds : List Demand) (f : Nat) : Nat := cellsWhere ds fun d => d.fn == f && d.cls == .strict

/-- Cells of VC `vc` that the pool would admit from engine `n` (R164). -/
def State.poolLimit (s : State) (n vc : Nat) : Nat := (s.jn.alpha * s.poolF / 8 - s.poolHeld (.engine n) vc * 72) / 72

/-- Best-effort cells of the demands that the pool would admit. -/
def State.bestLimit (s : State) (n : Nat) (ds : List Demand) : Nat :=
  sumNat ([0, 4, 5].map fun v => minN (s.poolLimit n v) (cellsWhere ds fun d => d.vc == v && d.cls != .lane))

/-- The Signal Box holds TICK_LAG under severity DEGRADE (R199). -/
def State.sbLagging (s : State) : Bool := s.lagging 0

/-- A function with cells ready in the lane, strict and weighted classes: what it asks for in the lane and in all three, and what it has
been granted. -/
structure Share where
  fn : Nat
  lane : Nat
  want : Nat
  got : Nat
  deriving DecidableEq, Repr

/-- Steps 2 and 3 of R194 for the functions with cells ready. `pass` gives what a function may have beside what it holds; `cap` is what is
left, `best` what of it may be best effort. -/
def grantPass (pass : Share → Nat) : List Share → (cap best : Nat) → List Share × Nat × Nat
  | [], cap, best => ([], cap, best)
  | x :: t, cap, best =>
    let g := minN (minN (pass x) (x.want - x.got)) (minN cap (x.lane - x.got + best))
    let r := grantPass pass t (cap - g) (best - ((x.got + g - x.lane) - (x.got - x.lane)))
    ({ x with got := x.got + g } :: r.1, r.2)

/-- Split a function's cells over its classes in the order of R194. -/
def splitGrant (total lane strict : Nat) : FnGrant :=
  let l := minN total lane
  let st := minN (total - l) strict
  { lane := l, strict := st, weighted := total - l - st }

/-- The functions of an engine with cells ready, the strict and weighted classes left out while `lag` says so (R199). -/
def State.shares (s : State) (ds : List Demand) (lag : Bool) : List Share :=
  (ds.foldl (fun l d => insertNat d.fn l) []).map fun f =>
    let lane := laneDemand ds f
    { fn := f, lane := lane, want := lane + (if lag then 0 else strictDemand ds f + s.weightedDemand ds f), got := 0 }

/-- The grant of engine `n` for tick `tick` (R194, R199), the cells granted taken from the shaper buckets (R196). It stands beside the grants
of earlier ticks that the engine has not passed (R37). -/
def State.grantEngine (s : State) (n tick : Nat) : State :=
  let ds := s.demands n
  let lag := s.sbLagging
  let limit := minN (s.attCap n) ((s.poolTotal - s.poolCells * 72) / 72)
  let tt := minN (s.timetableDemand ds) limit
  let first := grantPass (fun x => (s.sched x.fn).minBucket / 256) (s.shares ds lag) (limit - tt) (s.bestLimit n ds)
  let ready := first.1.filter fun x => x.got < x.want
  let sum := sumNat (ready.map fun x => (s.sched x.fn).share)
  let left := first.2.1
  let second := grantPass
    (fun x => minN (if sum = 0 then 0 else left * (s.sched x.fn).share / sum) ((s.sched x.fn).maxBucket / 256 - x.got))
    first.1 left first.2.2
  let s := second.1.foldl (fun s x => s.modSched x.fn fun y =>
    { y with minBucket := y.minBucket - 256 * x.got, maxBucket := y.maxBucket - 256 * x.got }) s
  let fns : Tbl FnGrant := second.1.foldl (fun t x =>
    Tbl.put t x.fn (splitGrant x.got x.lane (if lag then 0 else strictDemand ds x.fn))) []
  let kept := (Tbl.getD s.sb.grants n []).filter fun g => decide ((s.lag (32 + n)).tick ≤ g.tick) && g.tick != tick
  { s with sb := { s.sb with grants := Tbl.put s.sb.grants n (kept ++ [{ tick := tick, timetable := tt, fns := fns }]) } }

/-- The grant in force for engine `n`: that of the tick it works in (R37, R193). -/
def State.grantNow (s : State) (n : Nat) : Grant :=
  let t := (s.lag (32 + n)).tick
  ((Tbl.getD s.sb.grants n []).find? fun g => g.tick == t).getD { tick := t, timetable := 0, fns := [] }

def FnGrant.none : FnGrant := { lane := 0, strict := 0, weighted := 0 }

def FnGrant.of (g : FnGrant) : Class → Nat
  | .lane => g.lane
  | .strict => g.strict
  | _ => g.weighted

/-- Cells of a class that function `f` may still inject on engine `n`; an engine degraded by its lag takes no strict and no weighted
cells (R63). -/
def State.granted (s : State) (n f : Nat) (c : Class) : Nat :=
  match c with
  | .timetable => (s.grantNow n).timetable
  | .lane => (Tbl.getD (s.grantNow n).fns f FnGrant.none).lane
  | c => if s.lagging (32 + n) then 0 else (Tbl.getD (s.grantNow n).fns f FnGrant.none).of c

/-- Use one cell of a grant. -/
def State.useGrant (s : State) (n f : Nat) (c : Class) : State :=
  let g := s.grantNow n
  let x := Tbl.getD g.fns f FnGrant.none
  let g := match c with
    | .timetable => { g with timetable := g.timetable - 1 }
    | .lane => { g with fns := Tbl.put g.fns f { x with lane := x.lane - 1 } }
    | .strict => { g with fns := Tbl.put g.fns f { x with strict := x.strict - 1 } }
    | .weighted => { g with fns := Tbl.put g.fns f { x with weighted := x.weighted - 1 } }
  { s with sb := { s.sb with
      grants := Tbl.put s.sb.grants n ((Tbl.getD s.sb.grants n []).map fun y => if y.tick = g.tick then g else y) } }

/-! ### The Signal Box's tick (R72, R187, R195, R196, R202, R207) -/

/-- A reservation's source bucket at a tick (R72). -/
def Reservation.refill (r : Reservation) : Reservation :=
  { r with bucket := minN (r.bucket + 8 * r.rate) (8 * r.rate + r.burst) }

/-- The aggregate buckets of a tick (R187). -/
def State.aggregates (s : State) : List ((Nat × Nat × Nat) × Nat) :=
  (s.tt.resv.filter fun r => !r.2.suspended).foldl (fun l r =>
    let k := (s.resvIngress r.2, r.2.destKind, r.2.dest)
    assocPut k ((assocGet k l).getD 0 + 8 * r.2.rate + r.2.burst) l) []

/-- Red parcels under DELAY are metered again (R197). -/
def State.remeter (s : State) (n : Nat) : State :=
  (s.engine n).src.foldl (fun s fl =>
    (fl.2.parcels ++ fl.2.opening.toList).foldl (fun s p =>
      if p.colour = some 2 then
        let c := s.parcelClass fl.2.fn (s.opFlags p.place) (s.resvUnicast fl.2.fn fl.2.endpoint fl.2.dstFn).isSome
        let r := s.meterParcel fl.2.fn c p.asks
        let mark := fun (z : OutParcel) => if z = p then { z with colour := some r.1 } else z
        r.2.modEngine n fun e => { e with src := Tbl.modify e.src fl.1 fun y =>
          { y with parcels := y.parcels.map mark, opening := y.opening.map mark } }
      else s) s) s

/-- The same for the GET_RESP parcels of an engine. -/
def State.remeterAnswers (s : State) (n : Nat) : State :=
  let r := (s.engine n).answers.foldl (fun (s, l) a =>
    if a.colour = some 2 then
      let r := s.meterParcel a.fn (s.levelClass a.fn) a.cells.length
      (r.2, l ++ [{ a with colour := some r.1 }])
    else (s, l ++ [a])) (s, ([] : List OutAnswer))
  r.1.modEngine n fun e => { e with answers := r.2 }

/-- The same for the multicast parcels of an engine. -/
def State.remeterMcast (s : State) (n : Nat) : State :=
  (s.engine n).senders.foldl (fun s g =>
    g.2.out.foldl (fun s m =>
      if m.colour = some 2 then
        let c := s.parcelClass g.2.fn (s.opFlags (some m.place)) (s.resvGroup g.2.fn g.1).isSome
        let r := s.meterParcel g.2.fn c m.asks
        r.2.modEngine n fun e => { e with senders := Tbl.modify e.senders g.1 fun y =>
          { y with out := y.out.map fun z => if z.seq = m.seq then { z with colour := some r.1 } else z } }
      else s) s) s

/-- slot_ticks of a tick (R202). -/
def State.slotTicks (s : State) : State :=
  s.tt.resv.foldl (fun s r =>
    if !r.2.suspended && epLoc r.2.source == s.location && (s.fn? r.2.sourceFn).isSome then s.meter r.2.sourceFn 3 r.2.rate
    else s) s

/-! ### Meters (R202 to R206) -/

/-- The six meters of a function. -/
def State.meters (s : State) (f : Nat) : List Nat := (List.range 6).map fun k => s.counter (meterOff f k)

/-- A meter record (R205). -/
def meterRecord (minute f gen : Nat) (created destroyed : Bool) (ms : List Nat) : List Byte :=
  le 8 minute ++ le 2 f ++ le 1 gen
    ++ le 1 (b2n (ms.any (· == 2 ^ 64 - 1)) + 2 * b2n created + 4 * b2n destroyed) ++ le 4 0 ++ ms.flatMap (le 8)

/-- Write one record to the meter ring (R206); in HEATH to the journal only (R535). -/
def State.meterRing (s : State) (rc : List Byte) : State :=
  if !s.sb.ringEnable || s.rst.mode == .HEATH then s
  else if (s.sb.ringProd + 2 ^ 32 - s.sb.ringCons) % 2 ^ 32 < 2 ^ s.sb.ringLog2 then
    let s := match s.manager with
      | some a => s.write a (s.sb.ringBase + 64 * (s.sb.ringProd % 2 ^ s.sb.ringLog2)) rc
      | none => s
    { s with sb := { s.sb with ringProd := (s.sb.ringProd + 1) % 2 ^ 32 } }
  else
    let s := s.evidence 0x80034
    if s.sb.ringFullMinute = some s.minute then s
    else ({ s with sb := { s.sb with ringFullMinute := some s.minute } }).raise 0x004 none 0

/-- The METER records of a snapshot, 63 meter records each (R569). -/
def meterPages : (fuel : Nat) → List (List Byte) → List (List Byte)
  | 0, _ => []
  | _, [] => []
  | n + 1, l => (l.take 63).flatten :: meterPages n (l.drop 63)

/-- Queue the pages of a snapshot for the meter journal (R572). -/
def State.journalMeters (s : State) (recs : List (List Byte)) : State :=
  (meterPages recs.length recs).foldl (fun s pl =>
    let r : JRec := { type := 0x10, number := 0, payload := pl }
    s.journalPush (.program 4 0 [r])) s

/-- The records of a snapshot: the functions that exist, in function order, and those destroyed in the minute just ended. -/
def State.snapshotRecords (s : State) (minute : Nat) : List (List Byte) :=
  (s.fns.map fun f => meterRecord minute f.1 (s.gen f.1) (f.2.createdMinute + 1 == minute) false (s.meters f.1))
    ++ s.sb.ghosts.map fun g => meterRecord minute g.fn g.gen (g.createdMinute + 1 == minute) true g.meters

/-- The snapshot at the Signal Box's boundary of tick `tick`: at the ticks that are multiples of 60,000,000, once for each (R204). -/
def State.snapshotAt (s : State) (tick : Nat) : State :=
  let minute := tick / 60000000
  if tick % 60000000 = 0 ∧ s.sb.lastMinute < minute then
    let recs := s.snapshotRecords minute
    (recs.foldl State.meterRing { s with sb := { s.sb with lastMinute := minute, ghosts := [] } }).journalMeters recs
  else s

/-- METER_SNAPSHOT (R204): the snapshot of the Signal Box's last boundary, where it is still to be taken. -/
def execMeterSnapshot (s : State) : Host.Outcome State Fault Refusal :=
  .next (if s.alive then s.snapshotAt (s.lag 0).tick else s)

/-- The work the Signal Box does at the boundary of tick `tick`. The snapshot comes first: it covers the ticks of lower number (R204). -/
def State.sbTick (s : State) (tick : Nat) : State :=
  let s := s.snapshotAt tick
  let s := s.applyChanges
  let s := { s with fns := Tbl.mapVal s.fns fun _ x => { x with sched := x.sched.refill } }
  let s := { s with tt := { s.tt with resv := Tbl.mapVal s.tt.resv fun _ r => r.refill } }
  let s := { s with tt := { s.tt with agg := s.aggregates } }
  let s := s.slotTicks
  (Tbl.keys s.engines).foldl (fun s n => (((s.remeter n).remeterMcast n).remeterAnswers n).grantEngine n tick) s

end Sys2Proof.Machine
end

