-- ==== Sys2Proof/Machine/Floats.lean ====
section
/-! DEFINITION. Element arithmetic of the Roundhouse (11_roundhouse.md): the element types of R397, their values, rounding (R415), the
superaccumulator and its windowed form (R411 to R414), and the folds of the other operations (R417, R419). -/
namespace Sys2Proof.Machine

/-! ### Element types (R397) -/

def tINT32 : Nat := 1
def tINT64 : Nat := 2
def tUINT32 : Nat := 3
def tUINT64 : Nat := 4
def tFP64 : Nat := 5
def tFP32 : Nat := 6
def tBF16 : Nat := 7
def tFP16 : Nat := 8
def tE4M3 : Nat := 9
def tE5M2 : Nat := 10

/-- Width of an element type in bytes; zero for a value that is none. -/
def elemWidth (t : Nat) : Nat :=
  if t = tINT64 ∨ t = tUINT64 ∨ t = tFP64 then 8
  else if t = tINT32 ∨ t = tUINT32 ∨ t = tFP32 then 4
  else if t = tBF16 ∨ t = tFP16 then 2
  else if t = tE4M3 ∨ t = tE5M2 then 1
  else 0

def isInt (t : Nat) : Bool := decide (1 ≤ t ∧ t ≤ 4)
def isSigned (t : Nat) : Bool := t == tINT32 || t == tINT64
def isFloat (t : Nat) : Bool := decide (5 ≤ t ∧ t ≤ 10)

/-- Exponent and mantissa bits of a floating type. -/
def expBits (t : Nat) : Nat :=
  if t = tFP64 then 11 else if t = tFP32 ∨ t = tBF16 then 8 else if t = tFP16 ∨ t = tE5M2 then 5 else 4
def manBits (t : Nat) : Nat :=
  if t = tFP64 then 52 else if t = tFP32 then 23 else if t = tBF16 then 7 else if t = tFP16 then 10 else if t = tE4M3 then 3 else 2

def expBias (t : Nat) : Int := ((2 ^ (expBits t - 1) : Nat) : Int) - 1

/-- The canonical NaN of R415. -/
def canonicalNan (t : Nat) : Nat :=
  if t = tFP64 then 0x7FF8000000000000 else if t = tFP32 then 0x7FC00000 else if t = tBF16 then 0x7FC0
  else if t = tFP16 then 0x7E00 else if t = tE5M2 then 0x7E else 0x7F

/-- What an encoding stands for: a finite value is (-1)^neg × m × 2^q. -/
inductive Num where
  | nan
  | inf (neg : Bool)
  | fin (neg : Bool) (m : Nat) (q : Int)
  deriving DecidableEq, Repr

/-- The value of an encoding. FP8_E4M3 has no infinity. -/
def numOf (t v : Nat) : Num :=
  let eb := expBits t
  let mb := manBits t
  let neg := bit v (eb + mb)
  let e := bits v (eb + mb - 1) mb
  let f := v % 2 ^ mb
  if t = tE4M3 ∧ e = 15 ∧ f = 7 then .nan
  else if t ≠ tE4M3 ∧ e = 2 ^ eb - 1 then (if f = 0 then .inf neg else .nan)
  else if e = 0 then .fin neg f (1 - expBias t - mb)
  else .fin neg (2 ^ mb + f) ((e : Int) - expBias t - mb)

def signBit (t : Nat) (neg : Bool) : Nat := if neg then 2 ^ (expBits t + manBits t) else 0

/-- The infinity of a sign; the canonical NaN for FP8_E4M3. -/
def infBits (t : Nat) (neg : Bool) : Nat :=
  if t = tE4M3 then canonicalNan t else signBit t neg + (2 ^ expBits t - 1) * 2 ^ manBits t

/-- n / 2^d rounded to nearest, ties to even. -/
def roundShift (n d : Nat) : Nat :=
  let q := n / 2 ^ d
  let r := 2 * (n % 2 ^ d)
  if r < 2 ^ d then q else if 2 ^ d < r then q + 1 else q + q % 2

/-- The magnitude n × 2^q, n not zero, rounded to a type: the mantissa with its hidden bit, and the exponent of its last place. -/
def roundMant (t n : Nat) (q : Int) : Nat × Int :=
  let low : Int := 1 - expBias t - manBits t
  let lsb := max ((Nat.log2 n : Int) + q - manBits t) low
  let m := if lsb ≤ q then n * 2 ^ (q - lsb).toNat else roundShift n (lsb - q).toNat
  if m = 2 ^ (manBits t + 1) then (2 ^ manBits t, lsb + 1) else (m, lsb)

/-- (-1)^neg × n × 2^q rounded once to a type, subnormals kept (R415 step 4, R417). -/
def roundTo (t : Nat) (neg : Bool) (n : Nat) (q : Int) : Nat :=
  if n = 0 then signBit t neg
  else
    let r := roundMant t n q
    if r.1 < 2 ^ manBits t then signBit t neg + r.1
    else
      let e := (r.2 + manBits t + expBias t).toNat
      let v := e * 2 ^ manBits t + (r.1 - 2 ^ manBits t)
      if 2 ^ expBits t ≤ e ∨ (t ≠ tE4M3 ∧ e = 2 ^ expBits t - 1) ∨ (t = tE4M3 ∧ e = 15 ∧ r.1 = 15) then infBits t neg
      else signBit t neg + v

/-- A NaN is written canonically (R417, R419). -/
def canonical (t v : Nat) : Nat := if isFloat t then (match numOf t v with | .nan => canonicalNan t | _ => v) else v

/-! ### Integers -/

def intOf (t v : Nat) : Int := if isSigned t then toSigned (8 * elemWidth t) v else v
def ofInt (t : Nat) (i : Int) : Nat := ofSigned (8 * elemWidth t) i

/-! ### Folds of two elements in their native encoding (R417, R419) -/

/-- The signed m × 2^q. -/
def signedMag (neg : Bool) (m : Nat) : Int := if neg then -(m : Int) else m

/-- IEEE addition of two encodings, rounded to nearest, ties to even. -/
def floatAdd (t a b : Nat) : Nat :=
  match numOf t a, numOf t b with
  | .nan, _ | _, .nan => canonicalNan t
  | .inf x, .inf y => if x = y then infBits t x else canonicalNan t
  | .inf x, _ | _, .inf x => infBits t x
  | .fin x m p, .fin y n q =>
    let low := min p q
    let sum := signedMag x (m * 2 ^ (p - low).toNat) + signedMag y (n * 2 ^ (q - low).toNat)
    if sum = 0 then signBit t (x && y) else roundTo t (decide (sum < 0)) sum.natAbs low

/-- The order of encodings that are no NaN: -0 lies below +0 (R419). -/
def floatKey (t v : Nat) : Int :=
  let top := 2 ^ (expBits t + manBits t)
  if bit v (expBits t + manBits t) then -((v % top : Nat) : Int) - 1 else ((v % top : Nat) : Int)

def elemLt (t a b : Nat) : Bool :=
  if isFloat t then decide (floatKey t a < floatKey t b) else decide (intOf t a < intOf t b)

/-- Minimum or maximum; any NaN gives the canonical NaN. -/
def elemMinMax (t : Nat) (wantMin : Bool) (a b : Nat) : Nat :=
  if isFloat t ∧ (numOf t a = .nan ∨ numOf t b = .nan) then canonicalNan t
  else if wantMin then (if elemLt t b a then b else a) else if elemLt t a b then b else a

/-- Fold of two elements: 1 SUM, 2 MIN, 3 MAX, 4 AND, 5 OR, 6 XOR. -/
def elemFold (t op a b : Nat) : Nat :=
  if op = 1 then (if isFloat t then floatAdd t a b else (a + b) % 2 ^ (8 * elemWidth t))
  else if op = 2 then elemMinMax t true a b
  else if op = 3 then elemMinMax t false a b
  else if op = 4 then a &&& b
  else if op = 5 then a ||| b
  else a ^^^ b

/-! ### The superaccumulator (R411, R412, R414) -/

/-- An element's superaccumulator entry. -/
def accOf (t v : Nat) : Elem :=
  match numOf t v with
  | .nan => .acc 0 false false true false
  | .inf neg => .acc 0 (!neg) neg false false
  | .fin neg m q => .acc (signedMag neg (m * 2 ^ (q + 160).toNat)) false false false (neg && m == 0)

/-- A is kept in 320 bits. -/
def wrapAcc (a : Int) : Int := toSigned 320 (ofSigned 320 a)

/-- Exact addition; the first three flags are ORed, all_neg_zero ANDed. -/
def accAdd : Elem → Elem → Elem
  | .acc a p m n z, .acc b q k o y => .acc (wrapAcc (a + b)) (p || q) (m || k) (n || o) (z && y)
  | x, _ => x

/-- The result at the tree root (R415). -/
def accRound (t : Nat) : Elem → Nat
  | .acc a p m n z =>
    if n || (p && m) then canonicalNan t
    else if p || m then infBits t m
    else if a = 0 then signBit t z
    else roundTo t (decide (a < 0)) a.natAbs (-160)
  | .raw v => canonical t v

/-- Number of trailing zero bits, up to `fuel`. -/
def trailingZeros : (fuel n : Nat) → Nat
  | 0, _ => 0
  | f + 1, n => if n % 2 = 1 then 0 else trailingZeros f (n / 2) + 1

def accFlags (p m n z : Bool) : Nat := 2 * b2n p + 4 * b2n m + 8 * b2n n + 16 * b2n z

/-- The 18-byte windowed form of an element and its escaped value (R413). -/
def windowed : Elem → List Byte × List Byte
  | .acc a p m n z =>
    let s := if a = 0 then 0 else trailingZeros 192 a.natAbs
    let w := a / ((2 ^ s : Nat) : Int)
    if -((2 ^ 127 : Nat) : Int) ≤ w ∧ w < ((2 ^ 127 : Nat) : Int) then
      (le 16 (ofSigned 128 w) ++ le 1 s ++ le 1 (accFlags p m n z), [])
    else (le 17 0 ++ le 1 (1 + accFlags p m n z), le 40 (ofSigned 320 a))
  | .raw _ => (le 18 0, [])

/-- Read `n` windowed elements; the escaped values follow them in element order. -/
def unwindow : (n : Nat) → List Byte → List Byte → List Elem
  | 0, _, _ => []
  | n + 1, b, esc =>
    let fl := rd b 17 1
    let e := bit fl 0
    let a : Int := if e then toSigned 320 (rd esc 0 40) else toSigned 128 (rd b 0 16) * ((2 ^ rd b 16 1 : Nat) : Int)
    Elem.acc a (bit fl 1) (bit fl 2) (bit fl 3) (bit fl 4) :: unwindow n (b.drop 18) (if e then esc.drop 40 else esc)

/-- An element that is not summed in the superaccumulator, as the value it has in the windowed form of an EXACT up chunk (R407, R413):
an integer v enters as v × 2^160. -/
def rawAcc (t v : Nat) : Elem :=
  if isInt t then .acc (intOf t v * ((2 ^ 160 : Nat) : Int)) false false false false else accOf t v

/-- The encoding back from that value, exact. -/
def accRaw (t : Nat) : Elem → Nat
  | .acc a p m n z =>
    if isInt t then ofInt t (a / ((2 ^ 160 : Nat) : Int)) else accRound t (.acc a p m n z)
  | .raw v => v

/-- Split bytes into `n` elements of width `w`. -/
def splitElems (w : Nat) : (n : Nat) → List Byte → List Nat
  | 0, _ => []
  | n + 1, b => ofLe (b.take w) :: splitElems w n (b.drop w)

end Sys2Proof.Machine
end

