-- ==== Sys2Proof/Machine/Baler.lean ====
section
/-! DEFINITION. The Baler (12_baler.md): lossless elision of PUT data (R440 to R442), and the block-float encoding and decoding of
COMPRESSED chunks (R428 to R437). -/
namespace Sys2Proof.Machine

/-! ### Elision -/

/-- Data cut into 64-byte units from its first byte on. -/
def units : (fuel : Nat) → List Byte → List (List Byte)
  | 0, _ => []
  | _, [] => []
  | n + 1, b => b.take 64 :: units n (b.drop 64)

def unitCount (length : Nat) : Nat := ceilDiv length 64

/-- Code of a unit: 0 KEEP, 1 ZERO, 2 REPEAT of the unit before it (R440, R441). -/
def unitCode (prev : Option (List Byte)) (u : List Byte) : Nat :=
  if u.all (· == 0#8) then 1
  else match prev with
    | some p => if p.take u.length = u then 2 else 0
    | none => 0

def unitCodes : Option (List Byte) → List (List Byte) → List Nat
  | _, [] => []
  | prev, u :: t => unitCode prev u :: unitCodes (some u) t

/-- Bytes of the map of `u` units. -/
def mapBytes (u : Nat) : Nat := 8 * ceilDiv u 32

/-- Four codes to a byte. -/
def packCodes : (fuel : Nat) → List Nat → List Byte
  | 0, _ => []
  | n + 1, l =>
    BitVec.ofNat 8 (l.getD 0 0 + 4 * l.getD 1 0 + 16 * l.getD 2 0 + 64 * l.getD 3 0) :: packCodes n (l.drop 4)

/-- Codes of `u` units, and what stands beyond them. -/
def mapCodes (b : List Byte) : List Nat := b.flatMap fun x => (List.range 4).map fun i => bits x.toNat (2 * i + 1) (2 * i)

/-- The KEEP units. -/
def keepUnits : List Nat → List (List Byte) → List Byte
  | c :: cs, u :: us => (if c = 0 then u else []) ++ keepUnits cs us
  | _, _ => []

/-- The packed form of data under a map (R440, R443). -/
def packWith (map data : List Byte) : List Byte :=
  le 4 data.length ++ le 4 0 ++ map ++ keepUnits (mapCodes map) (units (unitCount data.length) data)

/-- The map of a parcel's data. -/
def mapOf (data : List Byte) : List Byte :=
  packCodes (mapBytes (unitCount data.length)) (unitCodes none (units (unitCount data.length) data))

/-- The packed form and its map, where it takes fewer cells than the plain PUT (R441). -/
def elide (data : List Byte) : Option (List Byte × List Byte) :=
  let m := mapOf data
  let p := packWith m data
  if parcelCells p.length < parcelCells data.length then some (p, m) else none

/-- ZERO and REPEAT units of a map. -/
def elidedUnits (map : List Byte) : Nat := ((mapCodes map).filter fun c => c != 0).length

/-- The units that a map and the KEEP bytes stand for; none where the bytes do not match (R442). -/
def expandUnits : (length : Nat) → List Nat → (prev keep : List Byte) → Option (List Byte)
  | length, [], _, keep => if keep = [] ∧ length = 0 then some [] else none
  | length, c :: cs, prev, keep =>
    let n := minN 64 length
    let u := if c = 0 then keep.take n else if c = 1 then List.replicate n 0#8 else prev.take n
    if c = 3 ∨ (c = 0 ∧ keep.length < n) then none
    else (expandUnits (length - n) cs u (if c = 0 then keep.drop n else keep)).map fun r => u ++ r

/-- The data that PUT_ELIDED data stands for; none where R442 refuses it. -/
def expand (b : List Byte) : Option (List Byte) :=
  let original := rd b 0 4
  let u := unitCount original
  let map := (b.drop 8).take (mapBytes u)
  let codes := mapCodes map
  if original = 0 ∨ 65472 < original ∨ map.length < mapBytes u ∨ codes.headD 0 = 2 ∨ (codes.drop u).any (· != 0) then none
  else expandUnits original (codes.take u) [] (b.drop (8 + mapBytes u))

/-! ### Block-float (R428 to R434) -/

/-- k of a mode: 2 COMPRESSED_BFP8, 3 COMPRESSED_BFP16. -/
def bfpK (mode : Nat) : Nat := if mode = 2 then 6 else 14
def bfpWidth (mode : Nat) : Nat := if mode = 2 then 1 else 2
def bfpMax (mode : Nat) : Nat := 2 ^ (bfpK mode + 1) - 1

/-- floor(log2 |x|) of a superaccumulator value A × 2^-160, A not zero. -/
def accLog (a : Int) : Int := (Nat.log2 a.natAbs : Int) - 160

/-- A block's exponent (R429), of its elements' values A. -/
def blockExp (as : List Int) : Int :=
  as.foldl (fun e a => if a = 0 then e else max e (accLog a)) (-126)

/-- x / s rounded half to even, x = A × 2^-160, s = 2^(e - k): q before the clamp. -/
def quantise (k : Nat) (e a : Int) : Int :=
  let d := e - k + 160
  signedMag (decide (a < 0)) (if 0 ≤ d then roundShift a.natAbs d.toNat else a.natAbs * 2 ^ (-d).toNat)

/-- An encoded element: its field, whether the clamp acted, and whether it holds the flush marker (R430, R431). -/
def bfpField (mode : Nat) (e a : Int) : Nat × Bool × Bool :=
  let w := 8 * bfpWidth mode
  let m : Int := bfpMax mode
  let q := quantise (bfpK mode) e a
  let c := max (-m) (min m q)
  if c = 0 ∧ a ≠ 0 ∧ accLog a < -126 then (2 ^ (w - 1), false, true) else (ofSigned w c, decide (q ≠ c), false)

/-- What the Baler counts of the blocks it encodes. -/
structure BlockCounts where
  encoded : Nat
  raw : Nat
  clamped : Nat
  flushed : Nat
  deriving DecidableEq, Repr

def BlockCounts.add (a b : BlockCounts) : BlockCounts :=
  { encoded := a.encoded + b.encoded, raw := a.raw + b.raw, clamped := a.clamped + b.clamped, flushed := a.flushed + b.flushed }

def elemA : Elem → Int
  | .acc a _ _ _ _ => a
  | .raw _ => 0

def elemSpecial : Elem → Bool
  | .acc _ p m n _ => p || m || n
  | .raw _ => false

/-- One element of a raw block from a router's encoding (R432). -/
def rawElem : Elem → List Byte
  | .acc a p m n _ => le 1 (accFlags p m n false) ++ le 40 (ofSigned 320 a)
  | .raw _ => le 41 0

/-- One block. `native` gives the elements' own encodings and width at a member's encoding (R433). -/
def encodeBlock (mode : Nat) (native : Option (Nat × List Nat)) (b : List Elem) : List Byte × BlockCounts :=
  let e := blockExp (b.map elemA)
  if b.any elemSpecial || decide (127 < e) then
    (0xFF#8 :: (match native with
      | some (w, vs) => vs.flatMap (le w)
      | none => b.flatMap rawElem), { encoded := 0, raw := 1, clamped := 0, flushed := 0 })
  else
    let fs := b.map fun x => bfpField mode e (elemA x)
    (le 1 (e + 127).toNat ++ fs.flatMap (fun f => le (bfpWidth mode) f.1),
     { encoded := 1, raw := 0, clamped := (fs.filter fun f => f.2.1).length, flushed := b2n (fs.any fun f => f.2.2) })

/-- The blocks of 32 elements of a chunk (R428). -/
def encodeBlocks (mode width : Nat) : (fuel : Nat) → Option (List Nat) → List Elem → List Byte × BlockCounts
  | 0, _, _ => ([], { encoded := 0, raw := 0, clamped := 0, flushed := 0 })
  | _, _, [] => ([], { encoded := 0, raw := 0, clamped := 0, flushed := 0 })
  | n + 1, native, es =>
    let x := encodeBlock mode (native.map fun l => (width, l.take 32)) (es.take 32)
    let y := encodeBlocks mode width n (native.map fun l => l.drop 32) (es.drop 32)
    (x.1 ++ y.1, x.2.add y.2)

/-- Decode the fields of one block of `n` elements; the values, and the greatest magnitude of a field that is no marker (R434). -/
def decodeFields (mode : Nat) (e : Int) : (n : Nat) → List Byte → List Elem × Nat
  | 0, _ => ([], 0)
  | n + 1, b =>
    let w := bfpWidth mode
    let f := ofLe (b.take w)
    let marker := f == 2 ^ (8 * w - 1)
    let q : Int := if marker then 0 else toSigned (8 * w) f
    let r := decodeFields mode e n (b.drop w)
    (Elem.acc (q * ((2 ^ (e - bfpK mode + 160).toNat : Nat) : Int)) false false false false :: r.1, maxN q.natAbs r.2)

/-- One raw element of a router's encoding. -/
def decodeRaw : (n : Nat) → List Byte → List Elem
  | 0, _ => []
  | n + 1, b =>
    let fl := rd b 0 1
    Elem.acc (toSigned 320 (rd b 1 40)) (bit fl 1) (bit fl 2) (bit fl 3) false :: decodeRaw n (b.drop 41)

/-- Clear all_neg_zero: block-float carries no sign of zero (R436). -/
def noNegZero : Elem → Elem
  | .acc a p m n _ => .acc a p m n false
  | x => x

/-- Decode the blocks of a chunk of `n` elements; none where R437 discards it. `member` gives the type of the raw blocks of a
member's encoding. -/
def decodeBlocks (mode : Nat) (member : Option Nat) : (fuel n : Nat) → List Byte → Option (List Elem)
  | 0, n, b => if n = 0 ∧ b = [] then some [] else none
  | fuel + 1, n, b =>
    if n = 0 then (if b = [] then some [] else none)
    else
      let c := minN n 32
      let code := rd b 0 1
      let len := if code = 0xFF then (match member with | some t => c * elemWidth t | none => 41 * c) else c * bfpWidth mode
      let body := (b.drop 1).take len
      if b = [] ∨ code = 0 ∨ body.length < len then none
      else
        let e : Int := (code : Int) - 127
        let r := decodeFields mode e c body
        if code ≠ 0xFF ∧ -126 < e ∧ r.2 < 2 ^ bfpK mode then none
        else
          let es := if code = 0xFF then (match member with
              | some t => (splitElems (elemWidth t) c body).map (accOf t)
              | none => decodeRaw c body) else r.1
          (decodeBlocks mode member fuel (n - c) (b.drop (1 + len))).map fun t => es.map noNegZero ++ t

end Sys2Proof.Machine
end

