-- ==== Sys2Proof/Machine/Windows.lean ====
section
/-! DEFINITION. Resolving an access (R292, R293, R306), the translation caches (R300, R301), the accessed and dirty marks (R302,
R303), the window-table region (R305), and invalidations (R297). -/
namespace Sys2Proof.Machine

open Sys2Proof

/-! ### The window-table region (R305) -/

/-- Region size in MiB. -/
def State.regionMib (s : State) : Nat :=
  match s.variant with
  | .AX => 2048
  | .LX => 1024
  | .TX => 0

def slotKey (domain id : Nat) : Nat := domain * 2 ^ 24 + id

/-- Bytes of one extent's dirty bitmap (R304). -/
def bitmapBytes (length : Nat) : Nat := ceilDiv (ceilDiv (ceilDiv length 65536) 8) 64 * 64

/-- What a window occupies beside its slot: its extents, and their bitmaps. -/
def Window.allocs (w : Window) : List (Nat × Nat) :=
  if w.valid then
    (w.extentBase, 64 * w.extents.length)
      :: w.extents.filterMap fun e => e.bitmap.map fun b => (b.1, bitmapBytes e.length)
  else []

/-- Every allocated piece of the region, as offset and length. -/
def WU.allocs (w : WU) : List (Nat × Nat) :=
  (w.domains.map fun d => (d.2.base, 64 * 2 ^ d.2.log2Ids)) ++ w.slots.flatMap fun x => x.2.allocs

/-- Lowest offset at or above `at_` where `size` bytes are free. -/
def firstFit (allocs : List (Nat × Nat)) (size : Nat) : (fuel from_ : Nat) → Nat
  | 0, o => o
  | n + 1, o =>
    match allocs.find? fun a => decide (o < a.1 + a.2 ∧ a.1 < o + size) with
    | some a => firstFit allocs size n (a.1 + a.2)
    | none => o

/-- Allocate from the region; none where no free piece is large enough. -/
def State.allocate (s : State) (extra : List (Nat × Nat)) (size : Nat) : Option Nat :=
  let l := extra ++ s.wu.allocs
  let o := firstFit l size (l.length + 1) 0
  if o + size ≤ s.regionMib * 1048576 then some o else none

/-- WU_REGION_FREE. -/
def State.regionFreeKib (s : State) : Nat := (s.regionMib * 1048576 - sumNat (s.wu.allocs.map (·.2))) / 1024

/-- A context-store address of the region. -/
def regionAddr (offset : Nat) : Nat := Config.windowRegionBase % 2 ^ 32 * 1048576 + offset

/-! ### Register regions of the FN6400 (R222, R306) -/

/-- The BARs of every function: base and length. -/
def State.bars (s : State) : List (Nat × Nat) :=
  s.fns.flatMap fun f =>
    let x := f.2
    let vf := (s.att x.att).vfBar
    if x.vf = 0 then
      (if x.bar0 = 0 then [] else [(x.bar0, 67108864)]) ++ (if x.bar2 = 0 then [] else [(x.bar2, 131072)])
    else if vf = 0 then [] else [(vf + (x.vf - 1) * 131072, 131072)]

def State.hitsBar (s : State) (p : Nat × Nat) : Bool :=
  s.bars.any fun b => decide (p.1 < b.1 + b.2 ∧ b.1 < p.1 + p.2)

/-! ### Caches (R300, R301) -/

/-- The Baler's translation cache. -/
def clientBALER : Nat := 33

def cacheWindows (client : Nat) : Nat := if client < 32 then 4096 else 1024
def cacheExtents (client : Nat) : Nat := if client < 32 then 16384 else 4096

/-- A lookup treats what was recorded two or more frames ago as a miss. -/
def State.fresh (s : State) (frame : Nat) : Bool := decide (s.frame < frame + 2)

def WU.countMiss (w : WU) (client : Nat) : WU := { w with misses := Tbl.put w.misses client (Tbl.getD w.misses client 0 + 1) }

def Cached.is (c : Cached) (client domain id : Nat) : Bool := c.client == client && c.domain == domain && c.id == id

/-- Drop the first entry of a client that satisfies `f`. -/
def WU.dropOldest (w : WU) (client : Nat) (f : Cached → Bool) : WU :=
  match w.cache.find? fun c => c.client == client && f c with
  | some c => { w with cache := w.cache.filter fun x => !x.is client c.domain c.id }
  | none => w

/-- A client beyond its capacity drops its oldest entry, or the oldest that holds extents (R300). -/
def WU.trim (w : WU) (client : Nat) : WU :=
  let mine := fun (w : WU) => w.cache.filter fun c => c.client == client
  let w := if cacheWindows client < (mine w).length then w.dropOldest client fun _ => true else w
  if cacheExtents client < sumNat ((mine w).map fun c => c.extents.length) then w.dropOldest client fun c => !c.extents.isEmpty else w

def WU.entry? (w : WU) (client domain id : Nat) : Option Cached := w.cache.find? fun c => c.is client domain id

def WU.setEntry (w : WU) (c : Cached) : WU :=
  (({ w with cache := (w.cache.filter fun x => !x.is c.client c.domain c.id) ++ [c] } : WU)).trim c.client

/-- A window entry walked anew: extents of the client's earlier copy that have not aged stay as they were (R300, R301). -/
def State.rewalk (s : State) (client domain id : Nat) (w : Window) : Cached :=
  let blank : Cached := { client := client, domain := domain, id := id, window := w, frame := s.frame, extents := [] }
  match s.wu.entry? client domain id with
  | some c =>
    if c.window.gen = w.gen then
      let kept := c.extents.filter fun e => s.fresh e.2
      let exts := w.extents.mapIdx fun i e => if Tbl.has kept i then c.window.extents.getD i e else e
      { blank with window := { w with extents := exts }, extents := kept }
    else blank
  | none => blank

/-- The client's copy of an entry, walked where it is missing or aged; the table's entry where it is not valid. -/
def State.lookup (s : State) (client domain id : Nat) : State × Option Cached :=
  let held := (s.wu.entry? client domain id).filter fun c => s.fresh c.frame
  match held with
  | some c => (s, some c)
  | none =>
    let s := ({ s with wu := s.wu.countMiss client } : State).tally 0x400020
    match Tbl.get? s.wu.slots (slotKey domain id) with
    | some w =>
      if w.valid then
        let c := s.rewalk client domain id w
        ({ s with wu := s.wu.setEntry c }, some c)
      else (s, none)
    | none => (s, none)

/-- Extent `i` is held by the client; a missing or aged one is read from the table. -/
def State.holdExtent (s : State) (c : Cached) (i : Nat) : State × Cached :=
  let held := match Tbl.get? c.extents i with
    | some f => s.fresh f
    | none => false
  if held then (s, c)
  else
    let s := ({ s with wu := s.wu.countMiss c.client } : State).tally 0x400020
    let w : Window := match (Tbl.get? s.wu.slots (slotKey c.domain c.id)).bind fun w => w.extents[i]? with
      | some e => { c.window with extents := c.window.extents.set i e }
      | none => c.window
    let c := { c with window := w, extents := Tbl.put c.extents i s.frame }
    ({ s with wu := s.wu.setEntry c }, c)

/-! ### Resolving (R292, R293) -/

/-- What an access asks for: the bit of the right in the flags byte. -/
inductive Need where
  | read | write | atomic
  deriving DecidableEq, Repr

def Need.bit : Need → Nat
  | .read => 1 | .write => 2 | .atomic => 3

/-- Indices of the extents that n bytes at offset o touch. -/
def Window.touched (w : Window) (o n : Nat) : List Nat :=
  (List.range w.extents.length).filter fun i =>
    match w.extents[i]? with
    | some e => decide (o < e.offset + e.length ∧ e.offset < o + n)
    | none => false

/-- The pieces of n bytes at offset o: IOVA and length, split at extents (R293). -/
def Window.pieces (w : Window) (o n : Nat) : List (Nat × Nat) :=
  w.extents.filterMap fun e =>
    let lo := maxN o e.offset
    let hi := minN (o + n) (e.offset + e.length)
    if lo < hi then some (e.iova + (lo - e.offset), hi - lo) else none

/-- Granules of an extent that n bytes at offset o touch (R303). -/
def Extent.granules (e : Extent) (o n : Nat) : List Nat :=
  let lo := maxN o e.offset - e.offset
  let hi := minN (o + n) (e.offset + e.length) - e.offset
  if lo < hi then (List.range ((hi - 1) / 65536 - lo / 65536 + 1)).map fun k => lo / 65536 + k else []

/-- Does an access of n bytes at offset o touch the extent? -/
def Extent.touches (e : Extent) (o n : Nat) : Bool := decide (o < e.offset + e.length ∧ e.offset < o + n)

/-- The marks of a write on one extent: its dirty bit, where the client finds it clear, and with dirty_track its granules' bits. -/
def Extent.mark (e : Extent) (track seen : Bool) (o n : Nat) : Extent :=
  if e.touches o n then
    { e with dirty := e.dirty || !seen,
             bitmap := if track then e.bitmap.map fun b => (b.1, (e.granules o n).foldl (fun l g => insertNat g l) b.2)
                       else e.bitmap }
  else e

/-- The marks of an access on the table's entry, the client's copy being `c` (R302, R303). -/
def Window.mark (w c : Window) (need : Need) (o n : Nat) : Window :=
  { w with accessed := w.accessed || !c.accessed,
           extents := if need = .read then w.extents
             else w.extents.mapIdx fun i e => e.mark w.dirtyTrack ((c.extents[i]?).any (·.dirty)) o n }

/-- The client's copy with the bits that the access has set (R302). -/
def Window.seen (c : Window) (need : Need) (o n : Nat) : Window :=
  { c with accessed := true,
           extents := if need = .read then c.extents
             else c.extents.map fun e => if e.touches o n then { e with dirty := true } else e }

/-- The entry as the table holds it, its marks clear. -/
def Window.clean (w : Window) : Window := { w with accessed := false, extents := w.extents.map fun e => { e with dirty := false } }

/-- Marks take effect while the entry still has the generation the client translated with; they are then set in its copy too (R302). -/
def State.marks (s : State) (client domain id gen : Nat) (need : Need) (o n : Nat) : State :=
  match Tbl.get? s.wu.slots (slotKey domain id) with
  | some w =>
    if w.valid && w.gen == gen then
      let c := match s.wu.entry? client domain id with | some c => c.window | none => w.clean
      { s with wu := { s.wu with
          slots := Tbl.put s.wu.slots (slotKey domain id) (w.mark c need o n)
          cache := s.wu.cache.map fun x => if x.is client domain id then { x with window := x.window.seen need o n } else x } }
    else s
  | none => s

/-- The outcome of an access: its pieces, or the subtype of R292. -/
inductive Access where
  | ok (pieces : List (Nat × Nat))
  | bad (subtype : Nat)
  deriving DecidableEq, Repr

def subDOMAIN : Nat := 1
def subNO_WINDOW : Nat := 2
def subKEY : Nat := 3
def subSTALE_GEN : Nat := 4
def subRIGHTS : Nat := 5
def subBOUNDS : Nat := 6
def subALIGN : Nat := 7
def subWALK_FAULT : Nat := 8
def subCUT_OFF : Nat := 9

/-- No subtype of R292: the host gives no translation, and the operation fails as R227 says. -/
def subATS : Nat := 256

/-- An access is refused: WU_VIOLATIONS, and for a walk fault its counter and event (R306). -/
def State.refuse (s : State) (domain id sub : Nat) : State × Access :=
  let s := s.evidence 0x400038
  let s := if sub = subWALK_FAULT then (s.evidence 0x40003C).raise 0x085 none (domain + id * 65536) else s
  (s, .bad sub)

/-- Checks 4 to 8 of R292 on an entry. `key` is given for a remote access. -/
def Window.check? (w : Window) (id gen : Nat) (key : Option Nat) (remote : Bool) (need : Need) (o n align : Nat) : Option Nat :=
  if (match key with | some k => k != id + at_ w.check 24 | none => false) then some subKEY
  else if w.gen ≠ gen then some subSTALE_GEN
  else if (remote && !bit w.rights 4) || !bit w.rights need.bit then some subRIGHTS
  else if w.length < o + n then some subBOUNDS
  else if align ≠ 0 ∧ o % align ≠ 0 then some subALIGN
  else none

/-- Does the walk stay in the window-table region (R306)? -/
def State.walkInside (s : State) (d : Domain) (id : Nat) (w : Window) : Bool :=
  let size := s.regionMib * 1048576
  decide (d.base + 64 * (id + 1) ≤ size) && decide (w.extentBase + 64 * w.extents.length ≤ size)

/-- Does a function's access use ATS translation (R291)? -/
def State.atsOn (s : State) (f : Nat) : Bool := match s.fn? f with | some x => x.atsEnable | none => false

/-- The translation of a page: from the attachment's cache of 4,096 entries, or asked of the host (R208, R228); none where the host gives no
access. -/
def State.translatePage (s : State) (a f page : Nat) : State × Option Nat :=
  let x := s.att a
  match x.ats.find? fun e => e.fn == f && e.page == page with
  | some e => (s, some e.target)
  | none =>
    let t := (Config.translation s.freeCount).map fun t => t / 4096 * 4096
    let s := { s with freeCount := s.freeCount + 1 }
    match t with
    | some t =>
      let l := x.ats ++ [{ fn := f, page := page, target := t }]
      (s.setAtt a { x with ats := l.drop (l.length - 4096) }, some t)
    | none => (s, none)

/-- Pieces, each inside one page, translated one after another. -/
def State.translatePages (s : State) (a f : Nat) : List (Nat × Nat) → State × Option (List (Nat × Nat))
  | [] => (s, some [])
  | (addr, n) :: t =>
    match s.translatePage a f (addr / 4096 * 4096) with
    | (s, none) => (s, none)
    | (s, some p) =>
      match s.translatePages a f t with
      | (s, none) => (s, none)
      | (s, some l) => (s, some ((p + addr % 4096, n) :: l))

/-- The addresses that go out for the pieces of an access of function `f` (R291): translated page by page where the function has enabled
ATS. -/
def State.translate (s : State) (f : Nat) (ps : List (Nat × Nat)) : State × Option (List (Nat × Nat)) :=
  match s.fn? f with
  | some x =>
    if x.atsEnable then s.translatePages x.att f (ps.flatMap fun p => requestCuts 4096 p.1 p.2)
    else (s, some ps)
  | none => (s, some ps)

/-- The function that owns a domain. -/
def State.domainFn (s : State) (d : Nat) : Nat := match Tbl.get? s.wu.domains d with | some x => x.fn | none => 0

/-- The checks of an access of n bytes at offset o by a client (R292, checks 2 to 9), and its pieces. -/
def State.check (s : State) (client domain id gen : Nat) (key : Option Nat) (remote : Bool) (need : Need) (o n align : Nat) :
    State × Access :=
  match Tbl.get? s.wu.domains domain with
  | none => s.refuse domain id subNO_WINDOW
  | some d =>
    if 2 ^ d.log2Ids ≤ id then s.refuse domain id subNO_WINDOW
    else match s.lookup client domain id with
      | (s, none) => s.refuse domain id subNO_WINDOW
      | (s, some c) =>
        match c.window.check? id gen key remote need o n align with
        | some sub => s.refuse domain id sub
        | none =>
          let r := (c.window.touched o n).foldl (fun r i => r.1.holdExtent r.2 i) (s, c)
          let ps := r.2.window.pieces o n
          if !r.1.walkInside d id r.2.window || (!r.1.atsOn d.fn && ps.any r.1.hitsBar) then r.1.refuse domain id subWALK_FAULT
          else (r.1, .ok ps)

/-- Resolve an access: the checks of R292, the translation of R291 with the rest of check 9, and the marks of R302 and R303. -/
def State.resolve (s : State) (client domain id gen : Nat) (key : Option Nat) (remote : Bool) (need : Need) (o n align : Nat) :
    State × Access :=
  match s.check client domain id gen key remote need o n align with
  | (s, .ok ps) =>
    match s.translate (s.domainFn domain) ps with
    | (s, none) => (s, .bad subATS)
    | (s, some qs) =>
      if qs.any s.hitsBar then s.refuse domain id subWALK_FAULT else (s.marks client domain id gen need o n, .ok qs)
  | r => r

/-- Resolve a remote access by the domain its flow is bound to (check 1). -/
def State.resolveRemote (s : State) (client : Nat) (domain : Option Nat) (key gen : Nat) (need : Need) (o n align : Nat) :
    State × Access :=
  match domain with
  | none => s.refuse 0 (key % 2 ^ 24) subDOMAIN
  | some d => s.resolve client d (key % 2 ^ 24) gen (some key) true need o n align

/-- Resolve a local access in a ring's domain. -/
def State.resolveLocal (s : State) (client domain id gen : Nat) (need : Need) (o n : Nat) : State × Access :=
  s.resolve client domain id gen none false need o n 0

/-- The check of a local range at acceptance, which reads and writes nothing (R312): none, or the subtype. -/
def State.checkLocal (s : State) (client domain id gen : Nat) (need : Need) (o n : Nat) : State × Option Nat :=
  match s.check client domain id gen none false need o n 0 with
  | (s, .ok _) => (s, none)
  | (s, .bad sub) => (s, some sub)

/-! ### Invalidation (R297) -/

/-- Every cache flushes the window's entry and extents. -/
def WU.flush (w : WU) (domain id : Nat) : WU :=
  { w with cache := w.cache.filter fun c => !(c.domain == domain && c.id == id) }

/-- The tag is released: QUARANTINE for 2 frames (R151). -/
def Tag.release (t : Tag) (now : Nat) : Tag := { t with quarantine := some (now + 2000000), entry := none, nacked := false }

/-- Cut data into the writes of resolved pieces. -/
def cutWrites : List (Nat × Nat) → List Byte → List (Nat × List Byte)
  | [], _ => []
  | (a, n) :: t, bs => (a, bs.take n) :: cutWrites t (bs.drop n)

end Sys2Proof.Machine
end

