-- ==== Sys2Proof/Machine/Rings.lean ====
section
/-! DEFINITION. Rings (07_work_rings.md): counters and their mirrors, final statuses, retirement and error records, malformed
entries, the fetching of indexes and descriptors. -/
namespace Sys2Proof.Machine

open Sys2Proof

def State.modRing (s : State) (f r : Nat) (g : Ring → Ring) : State :=
  match s.ring? f r with
  | some x => s.setRing f r (g x)
  | none => s

/-! ### Completion counters (R278 to R280) -/

def State.counter? (s : State) (f c : Nat) : Option Counter := (s.fn? f).bind fun x => Tbl.get? x.counters c

def State.putCounter (s : State) (f c : Nat) (k : Counter) : State :=
  s.modFn f fun x => { x with counters := Tbl.put x.counters c k }

/-- Change a counter's value and write its mirror (R279). -/
def State.writeCounter (s : State) (f c : Nat) (k : Counter) : State :=
  let s := s.putCounter f c k
  if k.mirror = 0 then s else s.write f k.mirror (le 8 k.value)

/-- Advance a counter, modulo 2^64. -/
def State.advance (s : State) (f c n : Nat) : State :=
  match s.counter? f c with
  | some k => s.writeCounter f c { k with value := (k.value + n) % 2 ^ 64 }
  | none => s

/-- Set a counter's broken flag. -/
def State.breakCounter (s : State) (f c : Nat) : State :=
  match s.counter? f c with
  | some k => s.putCounter f c { k with broken := true }
  | none => s

/-! ### Error records and retirement (R267 to R272) -/

/-- Encoding of a final status (R270). -/
def finalCode : Final → Nat
  | .SUCCESS => 0 | .HORIZON_EXPIRED => 1 | .POLICED => 2 | .HOST_ACCESS_ERROR => 3 | .BAD_RANK => 4
  | .REMOTE_ACCESS_VIOLATION => 5 | .LOCAL_ACCESS_VIOLATION => 6 | .STALE_ROLE => 7 | .REMOTE_REFUSED => 8
  | .COLLECTIVE_FAILED => 9 | .CANCELLED => 10 | .TRUNCATED => 11 | .CHAIN_BROKEN => 12 | .UNIT_ABSENT => 13
  | .MALFORMED => 14

/-- An error record (R271). -/
def errorRecord (ring index opcode gen user : Nat) (o : Outcome) : List Byte :=
  le 4 index ++ le 2 ring ++ le 2 (finalCode o.status) ++ le 2 o.subtype ++ le 1 opcode ++ le 1 gen ++ le 4 o.detail
    ++ le 8 user ++ le 8 o.time

/-- The function's ERROR ring (R252). -/
def Fn.errorRing (x : Fn) : Option Nat := (x.rings.find? fun r => r.2.kind == 2).map (·.1)

/-- A record found the ERROR ring full: ERROR_RING_FULL, once per frame (R272). -/
def State.errorRingFull (s : State) (f r : Nat) : State :=
  match s.ring? f r with
  | some g => if g.fullFrame = some s.frame then s else (s.setRing f r { g with fullFrame := some s.frame }).raise 0x006 (some f) r
  | none => s

/-- Write an error record to the function's ERROR ring, or count it in lost (R272). -/
def State.writeError (s : State) (f : Nat) (rc : List Byte) : State :=
  match (s.fn? f).bind Fn.errorRing with
  | none => s
  | some e =>
    match s.ring? f e with
    | none => s
    | some g =>
      let s := s.writeRecord f e rc
      if g.recordLost then s.errorRingFull f e else s

/-- Advance error_tally by `n` and write it (R260, R268). -/
def State.addTally (s : State) (f r n : Nat) : State :=
  match s.ring? f r with
  | none => s
  | some g =>
    if n = 0 then s
    else
      let v := (g.tally + n) % 2 ^ 64
      (s.setRing f r { g with tally := v }).write f (g.indexAddr + 16) (le 8 v)

/-- Error records of retired entries, in ring order. -/
def State.recordErrors (s : State) (f r : Nat) : List (Nat × Entry) → State
  | [] => s
  | e :: t =>
    match e.2.outcome with
    | some o =>
      let s := if o.status = .SUCCESS then s
        else s.writeError f (errorRecord r e.1 e.2.opcode e.2.gen e.2.hdr.user o)
      s.recordErrors f r t
    | none => s.recordErrors f r t

def Entry.failed (e : Entry) : Bool := match e.outcome with | some o => o.status != .SUCCESS | none => false

/-- Do error records of a function wait for the consumer index of its ERROR ring (R272)? -/
def State.errorsWait (s : State) (f : Nat) : Bool :=
  match (s.fn? f).bind Fn.errorRing with
  | some e => (s.ring? f e).any fun g => g.held != []
  | none => false

/-- Steps 2 to 4 of R268: error_tally, done, and the ring's message. A ring of a former manager becomes UNSET when its entries have retired
(R492). -/
def State.publishNow (s : State) (f r : Nat) (u : Unpublished) : State :=
  let s := s.addTally f r u.failed
  match s.ring? f r with
  | none => s
  | some g =>
    let done := (g.done + u.retired) % 2 ^ 32
    let s := s.setRing f r { g with done := done, unpublished := none }
    let s := if u.retired = 0 then s else s.write f (g.indexAddr + 8) (le 4 done)
    let s := if g.irqEn && u.irq then s.interrupt f g.vector else s
    if g.closing && g.entries.isEmpty then s.modFn f fun x => { x with rings := Tbl.del x.rings r } else s

/-- What is to be published waits behind the error records (R268). -/
def State.publishAfter (s : State) (f r : Nat) (u : Unpublished) : State :=
  match s.ring? f r with
  | none => s
  | some g =>
    let u := match g.unpublished with
      | some v => { failed := v.failed + u.failed, retired := v.retired + u.retired, irq := v.irq || u.irq }
      | none => u
    if s.errorsWait f then s.setRing f r { g with unpublished := some u } else s.publishNow f r u

/-- The error records of a function wait no longer: what stood behind them is published. -/
def State.publishWaiting (s : State) (f : Nat) : State :=
  match s.fn? f with
  | none => s
  | some x => x.rings.foldl (fun s r => match r.2.unpublished with
    | some u => s.publishNow f r.1 u
    | none => s) s

/-- Publish the retirement of the entries `l` at the head of a ring (R268): their error records first, then the rest. -/
def State.publish (s : State) (f r : Nat) (l : List (Nat × Entry)) : State :=
  let s := (s.recordErrors f r l).modRing f r fun g => { g with entries := g.entries.drop l.length }
  s.publishAfter f r
    { failed := (l.filter fun e => e.2.failed).length, retired := l.length, irq := l.any fun e => bit e.2.hdr.flags 1 }

/-- Entries retire in ring order, each once it and every earlier entry has a final status (R267). -/
def State.retire (s : State) (f r : Nat) : State :=
  match s.ring? f r with
  | none => s
  | some g =>
    let l := g.entries.takeWhile fun e => e.2.outcome.isSome
    if !l.isEmpty then s.publish f r l
    else if g.closing && g.entries.isEmpty && g.unpublished.isNone then s.modFn f fun x => { x with rings := Tbl.del x.rings r }
    else s

/-- An entry reaches its final status: its counter advances or is marked broken, and the ring retires what it can (R280). -/
def State.final (s : State) (f r index : Nat) (o : Outcome) : State :=
  match s.ring? f r with
  | none => s
  | some g =>
    match g.entries.find? fun e => e.1 == index && e.2.outcome.isNone with
    | none => s
    | some (_, e) =>
      let s := s.setRing f r
        { g with entries := g.entries.map fun x => if x.1 = index then (x.1, { x.2 with outcome := some o }) else x }
      let s :=
        if bit e.hdr.flags 0 then
          if o.status = .SUCCESS then s.advance f e.hdr.counter 1 else s.breakCounter f e.hdr.counter
        else s
      s.retire f r

/-! ### Fetching (R261, R262, R277) -/

/-- May the ring accept entries now (R233, R263, R275, R508, R533, R534)? -/
def State.accepts (s : State) (f r : Nat) : Bool :=
  match s.fn? f, s.ring? f r with
  | some x, some g =>
    s.alive && x.state == .RUNNING && g.state == .ACTIVE && !g.closing && !s.outOfService x.att
      && ((g.kind == 0 && s.rst.mode == .SERVICE) || (g.kind == 3 && (s.rst.mode == .SERVICE || s.rst.mode == .DRAIN)))
  | _, _ => false

/-- Entries from the next unaccepted index up to the producer read. -/
def Ring.waiting (g : Ring) : Nat := (g.producer + 2 ^ 32 - g.next) % 2 ^ 32

/-- Read the next descriptors: at most 64, up to the end of the ring (R262). A producer index that broke R259 while the ring did not accept is
read again, and judged then (R273). -/
def State.fetch (s : State) (f r : Nat) : State :=
  match s.ring? f r with
  | none => s
  | some g =>
    if s.accepts f r && g.overrun.isSome then s.readIndex f r
    else if s.accepts f r && g.stalled.isNone && g.fetching.isNone && g.waiting != 0 then
      let n := minN (minN g.waiting (g.size - g.next % g.size)) 64
      (s.setRing f r { g with fetching := some ((g.next + n) % 2 ^ 32) }).dmaRead f (g.base + 64 * (g.next % g.size)) (64 * n)
        (.descriptors r g.next n) none 0
    else s

/-- The ring goes on: what was recorded for it is served (R263). -/
def State.resume (s : State) (f r : Nat) : State :=
  match s.ring? f r with
  | none => s
  | some g =>
    let s := if g.bell && g.state == .ACTIVE then (s.setRing f r { g with bell := false }).readIndex f r else s
    s.fetch f r

/-! ### Malformed entries (R273 to R276) -/

def reasonOPCODE : Nat := 1
def reasonWRONG_RING : Nat := 2
def reasonRESERVED : Nat := 3
def reasonCOUNTER : Nat := 4
def reasonAREA : Nat := 5
def reasonOVERRUN : Nat := 6

/-- A malformed entry of a ring: on a WORK ring an error record, the ring FROZEN and the function HALTED; on the ADMIN ring the
evidence record and HALT. `bytes` is the entry as read. -/
def State.malformed (s : State) (f r index reason : Nat) (bytes : List Byte) : State :=
  match s.ring? f r with
  | none => s
  | some g =>
    if g.kind = 3 then (s.evidenceRecord 3 (fitTo 64 bytes ++ le 8 reason)).enterHalt
    else
      let o : Outcome := { status := .MALFORMED, subtype := reason, detail := 0, time := s.ns }
      let s := s.writeError f (errorRecord r index (rd bytes 0 1) (s.gen f) (rd bytes 8 8) o)
      let s := s.modRing f r fun g => { g with state := .FROZEN, cause := 1 }
      let s := s.publishAfter f r { failed := 1, retired := 0, irq := false }
      s.modFn f fun x => { x with state := .HALTED, cause := 1 }

/-! ### Operations in flight (R313) -/

/-- The lowest free in-flight place; none while every place is held. -/
def State.freePlace (s : State) : Option Nat :=
  if s.ops.length < 1048576 then some (Tbl.free s.ops 1048576 0) else none

def State.engineOf (s : State) (f : Nat) : Nat := match s.fn? f with | some x => x.att | none => 32

/-- Atomics sent since the oldest unacknowledged one (R344). -/
def SrcFlow.dropAtomics (x : SrcFlow) : List Nat :=
  x.atomics.dropWhile fun q => !x.parcels.any fun p => p.seq == q && p.op == opATOMIC

/-- Parcels of a flow without those of a place at time `now`. A dropped parcel that never left gives its sequence number back. -/
def SrcFlow.dropPlace (x : SrcFlow) (now place : Nat) : SrcFlow :=
  let unsent := x.parcels.find? fun p => p.place == some place && p.sendings == 0
  let next := match unsent with
    | some p => if (p.seq + 1) % 4096 = x.nextSeq then p.seq else x.nextSeq
    | none => x.nextSeq
  let mine := x.parcels.any (fun p => p.place == some place) || x.queue.contains (Job.op place)
  let x := { x with parcels := x.parcels.filter (fun p => p.place != some place), nextSeq := next,
                    queue := x.queue.filter (fun j => j != Job.op place), lastUse := if mine then now else x.lastUse }
  { x with atomics := x.dropAtomics }

/-- A sender record without the parcels of a place; one that never left gives its number back, the tags of the others rest (R159). -/
def Sender.dropPlace (g : Sender) (now place : Nat) : Sender :=
  let next := match g.out.find? fun m => m.place == place && m.sendings == 0 with
    | some m => if (m.seq + 1) % 4096 = g.seq then m.seq else g.seq
    | none => g.seq
  { g with
    seq := next
    out := g.out.filter (fun m => m.place != place)
    resting := (g.out.filter fun m => m.place == place && m.sendings != 0).foldl (fun t m => Tbl.put t m.tag (now + 2000000)) g.resting }

/-- Response tags of parcels of a place are freed (R327). -/
def Engine.freeResponses (e : Engine) (now place : Nat) : Engine :=
  let ts := e.src.flatMap fun fl => fl.2.parcels.filterMap fun p => if p.place = some place then p.respTag else none
  { e with tags := Tbl.mapVal e.tags fun i t => if ts.contains i then t.release now else t }

/-- An operation's unsent parcels are not sent, the answers to those in flight are ignored, and its tags are free again (R338). -/
def State.dropOp (s : State) (place : Nat) (o : Op) : State :=
  let s := s.modEngine (s.engineOf o.fn) fun e =>
    let e := e.freeResponses s.ns place
    { e with
      src := Tbl.mapVal e.src fun _ fl => fl.dropPlace s.ns place
      senders := Tbl.mapVal e.senders fun _ g => g.dropPlace s.ns place }
  let s := { s with matching := Tbl.mapVal s.matching fun _ m => { m with posted := m.posted.filter (· != place) } }
  { s with cs := { s.cs with waiting := s.cs.waiting.filter (· != place) } }

/-- An operation in flight reaches its final status. -/
def State.finish (s : State) (place : Nat) (st : Final) (subtype detail : Nat) : State :=
  match Tbl.get? s.ops place with
  | none => s
  | some o =>
    let s := s.dropOp place o
    let s := { s with ops := Tbl.del s.ops place, reuse := Tbl.put s.reuse place ((Tbl.getD s.reuse place 0 + 1) % 4096) }
    let s := match o.area with
      | .wait _ _ _ => (s.modRing o.fn o.ring fun g => if g.state = RingState.WAITING then { g with state := .ACTIVE } else g)
      | _ => s
    let s := s.final o.fn o.ring o.index { status := st, subtype := subtype, detail := detail, time := s.ns }
    match o.area with
    | .wait _ _ _ => s.resume o.fn o.ring
    | _ => s

/-! ### Reads of host memory that return (R227, R235) -/

/-- The oldest DMA read of a function for a use. -/
def State.readFor (s : State) (f : Nat) (use : DmaUse → Bool) : Option (Nat × DmaRead) :=
  s.dma.find? fun d => d.2.fn == f && d.2.sent && use d.2.use

/-- A DMA read leaves the table, and one that waited for a tag is sent. -/
def State.endRead (s : State) (tag : Nat) (d : DmaRead) : State :=
  ({ s with dma := Tbl.del s.dma tag } : State).nextRead d.att

/-- The AER report of a completion error, on the function whose requester ID the read carried (R227, R612). -/
def State.reportRead (s : State) (f : Nat) : HostErr → State
  | .poison => s.emit (.aer f .poisonedTlp)
  | .timeout => s.emit (.aer f .completionTimeout)
  | .refused | .ats => s

/-- Was the read issued under an old generation, or for a function that is gone? -/
def State.staleRead (s : State) (d : DmaRead) : Bool := (s.fn? d.fn).isNone || d.gen != s.gen d.fn

/-- The records that waited for the consumer index are written while there is room; the others are lost (R272, R525). -/
def State.writeHeld (s : State) (f r : Nat) : List (List Byte) → State
  | [] => s
  | rc :: t =>
    match s.ring? f r with
    | none => s
    | some g =>
      if g.room then (s.putRecord f r g rc).writeHeld f r t
      else
        let s := s.loseRecords f r g (t.length + 1)
        if g.kind = 2 then s.errorRingFull f r else s.eventRingFull f r

/-- The records that a ring frozen by FETCH still held are lost (R272), and what stood behind them is published. -/
def State.loseHeld (s : State) (f r : Nat) (g : Ring) : State :=
  if g.held = [] then s
  else
    let s := s.loseRecords f r { g with held := [] } g.held.length
    let s := if g.kind = 2 then s.errorRingFull f r else s.eventRingFull f r
    if g.kind = 2 then s.publishWaiting f else s

/-- A read of an index block or of descriptors (`desc`) fails: retried once, then the ring is FROZEN with cause FETCH (R277). A ring that is
FROZEN already keeps its cause. -/
def State.fetchFailed (s : State) (f r : Nat) (desc : Bool) (again : State → State) : State :=
  match s.ring? f r with
  | none => s
  | some g =>
    if !(if desc then g.retriedDesc else g.retried) then
      again (s.setRing f r (if desc then { g with retriedDesc := true } else { g with retried := true }))
    else
      let idle := if desc then { g with fetching := none } else { g with reading := false, again := false }
      if g.state = .FROZEN then (s.setRing f r idle).loseHeld f r idle
      else
        let x := { idle with state := .FROZEN, cause := 2 }
        ((s.setRing f r x).loseHeld f r x).raise 0x0C0 (some f) r

/-- An index block has been read: the producer of a WORK or ADMIN ring, the consumer of the others (R258, R261, R262). A producer beyond the
limit of R259 is malformed, once the ring accepts (R273). -/
def State.indexRead (s : State) (f r p : Nat) : State :=
  match s.ring? f r with
  | none => s
  | some g =>
    let beyond := if g.size < (p + 2 ^ 32 - g.done) % 2 ^ 32 then some ((g.done + g.size) % 2 ^ 32) else none
    let overrun := match g.overrun with | some i => some i | none => beyond
    let s := s.setRing f r { g with producer := p, reading := false, retried := false, again := false, held := [],
                                    overrun := if g.kind = 1 ∨ g.kind = 2 then none else overrun }
    let s := if g.again then s.readIndex f r else s
    if g.kind = 1 ∨ g.kind = 2 then
      let s := s.writeHeld f r g.held
      if g.kind = 2 then s.publishWaiting f else s
    else match overrun with
      | some i => if s.accepts f r then s.malformed f r i reasonOVERRUN [] else s
      | none => s.fetch f r

/-- The read of an index block returns (R261, R262, R277). -/
def State.indexReturn (s : State) (tag r : Nat) (d : DmaRead) (c : Completion) : State :=
  let s := s.endRead tag d
  if s.staleRead d then s.tally (attBase d.att + 0x28)
  else match c with
    | .data bs => s.indexRead d.fn r (rd bs 0 4)
    | .error e _ =>
      (s.reportRead d.fn e).fetchFailed d.fn r false fun s => s.dmaRead d.fn d.addr 4 (.index r) none 0

/-! ### Doorbells (R261, R263, R533, R534, R536) -/

/-- TELEMETRY_WARN for sensor V_CORE_TARGET (R588, R589). -/
def State.warnCore (s : State) : State := s.raise 0x180 none 12

/-- A wake source is recorded in HEATH: SERVICE is due within 15 ms (R536), but not where VDD_CORE can no longer be set (R589). -/
def State.wakeSource (s : State) : State :=
  if s.rst.mode = .HEATH ∧ s.rst.wake = none then
    let s := { s with rst := { s.rst with wake := some (s.ns + 15000000) } }
    if s.avsStopped then s.warnCore else s
  else s

def State.dropBell (s : State) (x : Fn) : State := s.evidence (attBase x.att + 0x3C)

def State.recordBell (s : State) (f : Nat) (x : Fn) (r : Nat) : State := s.setFn f { x with bells := insertNat r x.bells }

/-- A doorbell for a ring that exists and is neither FROZEN nor written by the device. -/
def State.ringBell (s : State) (f : Nat) (x : Fn) (r : Nat) (g : Ring) : State :=
  if x.state = .FREEZING ∨ x.state = .FROZEN then s.recordBell f x r
  else if s.rst.mode = .HEATH then
    let s := s.recordBell f x r
    if g.kind = 3 ∨ s.rst.hostWake then s.wakeSource else s
  else if s.rst.mode = .DRAIN ∧ g.kind = 0 then s.recordBell f x r
  else if g.state = .WAITING then s.setRing f r { g with bell := true }
  else s.readIndex f r

/-- DOORBELL: a write of `value` to PE_DOORBELL of a function. -/
def execDoorbell (fn value : Nat) (s : State) : Host.Outcome State Fault Refusal :=
  match s.alive, s.fn? fn with
  | true, some x =>
    if x.state = .READY ∨ x.state = .RESETTING ∨ x.state = .HALTED ∨ value / 16384 ≠ 0 then .next (s.dropBell x)
    else match s.ring? fn value with
      | some g =>
        if g.state = .FROZEN ∨ g.kind = 1 ∨ g.kind = 2 then .next (s.dropBell x) else .next (s.ringBell fn x value g)
      | none => .next (s.dropBell x)
  | _, _ => .next s

/-! ### Setup actions (R252 to R257, R278) -/

/-- A setup action ends with a status (R255). -/
def State.setupEnd (s : State) (f : Nat) (st : Status) : State :=
  s.modFn f fun x => { x with setup := none, setupStatus := statusCode st }

/-- The common conditions of a setup action: ignored while busy (R257) or where the device is not served; BUSY unless RUNNING. -/
def State.setupAct (s : State) (f : Nat) (k : Fn → State) : State :=
  match s.alive, s.fn? f with
  | true, some x =>
    if x.setup.isSome then s
    else if x.state ≠ .RUNNING then s.setupEnd f .BUSY
    else k x
  | _, _ => s

/-- RING_CREATE: the setup record is read, from a 64-byte aligned address (R255). -/
def execRingCreate (fn ring : Nat) (s : State) : Host.Outcome State Fault Refusal :=
  .next (s.setupAct fn fun x =>
    if x.setupAddr % 64 ≠ 0 then s.setupEnd fn .BAD_PARAM
    else (s.setFn fn { x with setup := some { action := 1, target := ring, tag := s.nextDma } }).dmaRead fn x.setupAddr 64 .setup none 0)

/-- What the status of RING_CREATE is, given its setup record (R252 to R255, in the order of R255). -/
def State.ringCreateStatus (s : State) (f : Nat) (x : Fn) (ring : Nat) (b : List Byte) : Status :=
  let base := rd b 0 8
  let idx := rd b 8 8
  let k := rd b 16 2
  let kind := rd b 18 1
  let pd := rd b 24 2
  let rt := rd b 26 2
  if base % 4096 ≠ 0 ∨ idx % 64 ≠ 0 ∨ k < 6 ∨ 16 < k ∨ 3 < kind ∨ 1 < rd b 19 1 ∨ x.tableSize ≤ rd b 20 2 ∨ rd b 22 2 ≠ 0
      ∨ 16383 < ring ∨ (kind ≠ 0 ∧ (pd ≠ 0 ∨ rt ≠ 0)) ∨ (b.drop 28).any (· != 0#8) then .BAD_PARAM
  else if kind = 3 ∧ (s.manager ≠ some f ∨ x.rings.any fun r => r.2.kind == 3) then .NOT_PERMITTED
  else if kind = 0 ∧ ((Tbl.get? s.wu.domains pd).map (·.fn)) ≠ some f then .NOT_PERMITTED
  else if kind = 0 ∧ ((Tbl.get? s.cs.rankTables rt).map (·.fn)) ≠ some f then .NOT_PERMITTED
  else if Tbl.has x.rings ring then .EXISTS
  else if kind = 2 ∧ x.errorRing.isSome then .BUSY
  else if kind ≠ 2 ∧ x.errorRing = none then .BUSY
  else if x.ringQuota ≤ x.rings.length then .CAPACITY
  else .OK

/-- The ring that a setup record describes. -/
def ringOf (b : List Byte) : Ring :=
  { kind := rd b 18 1, base := rd b 0 8, indexAddr := rd b 8 8, log2 := rd b 16 2, irqEn := bit (rd b 19 1) 0, vector := rd b 20 2,
    pd := rd b 24 2, rankTable := rd b 26 2, state := .ACTIVE, cause := 0, producer := 0, next := 0, done := 0, tally := 0,
    entries := [], stalled := none, reading := false, again := false, fetching := none, retried := false, retriedDesc := false, overrun := none, unpublished := none, bell := false,
    closing := false, fullFrame := none, held := [] }

/-- The setup record has been read, or its read has failed (R255). -/
def State.setupReturn (s : State) (f : Nat) (c : Completion) : State :=
  match s.fn? f with
  | none => s
  | some x =>
    match x.setup with
    | none => s
    | some u =>
      match c with
      | .error e _ => (s.reportRead f e).setupEnd f .FAILED
      | .data b =>
        let st := s.ringCreateStatus f x u.target b
        let s := if st = .OK then s.setRing f u.target (ringOf b) else s
        s.setupEnd f st

/-- Is the read one of a ring's index block or of its descriptors? -/
def DmaUse.ofRing (u : DmaUse) (r : Nat) : Bool :=
  match u with
  | .index i | .descriptors i _ _ => i == r
  | _ => false

/-- No further access is made to a destroyed ring (R256): its reads that wait are dropped, those sent are not used. -/
def State.dropRingReads (s : State) (f r : Nat) : State :=
  { s with dma := (s.dma.filter fun d => !(d.2.fn == f && d.2.use.ofRing r && !d.2.sent)).map fun d =>
      if d.2.fn = f ∧ d.2.use.ofRing r then (d.1, { d.2 with use := .abandoned }) else d }

/-- RING_DESTROY (R252, R256, R277). -/
def execRingDestroy (fn ring : Nat) (s : State) : Host.Outcome State Fault Refusal :=
  .next (s.setupAct fn fun x =>
    match Tbl.get? x.rings ring with
    | none => s.setupEnd fn .NOT_FOUND
    | some g =>
      if g.entries ≠ [] ∨ g.state = .WAITING ∨ (g.kind = 2 ∧ 1 < x.rings.length) then s.setupEnd fn .BUSY
      else
        let routes := x.routes.filter fun r => r.2 != ring
        ((s.setFn fn { x with rings := Tbl.del x.rings ring, routes := routes, bells := x.bells.filter (· != ring) }).dropRingReads
          fn ring).setupEnd fn .OK)

def ringStateCode : RingState → Nat
  | .ACTIVE => 1 | .WAITING => 2 | .FROZEN => 3

/-- RING_QUERY (R255). -/
def execRingQuery (fn ring : Nat) (s : State) : Host.Outcome State Fault Refusal :=
  .next (s.setupAct fn fun x =>
    match Tbl.get? x.rings ring with
    | none => (s.setFn fn { x with setupState := 0, setupCause := 0 }).setupEnd fn .NOT_FOUND
    | some g => (s.setFn fn { x with setupState := ringStateCode g.state, setupCause := g.cause }).setupEnd fn .OK)

/-- Counters in use device-wide. -/
def State.countersUsed (s : State) : Nat := sumNat (s.fns.map fun f => f.2.counters.length)

/-- COUNTER_ALLOC (R278). -/
def execCounterAlloc (fn counter : Nat) (s : State) : Host.Outcome State Fault Refusal :=
  .next (s.setupAct fn fun x =>
    if 4095 < counter ∨ x.setupAddr % 8 ≠ 0 then s.setupEnd fn .BAD_PARAM
    else if Tbl.has x.counters counter then s.setupEnd fn .EXISTS
    else if 65536 ≤ s.countersUsed then s.setupEnd fn .CAPACITY
    else
      (s.setFn fn { x with counters := Tbl.put x.counters counter { value := 0, broken := false, mirror := x.setupAddr } }).setupEnd
        fn .OK)

/-- COUNTER_FREE (R278). -/
def execCounterFree (fn counter : Nat) (s : State) : Host.Outcome State Fault Refusal :=
  .next (s.setupAct fn fun x =>
    if 4095 < counter then s.setupEnd fn .BAD_PARAM
    else if Tbl.has x.counters counter then
      (s.setFn fn { x with counters := Tbl.del x.counters counter }).setupEnd fn .OK
    else s.setupEnd fn .NOT_FOUND)

/-- Is a WAIT's threshold reached (R281)? -/
def reached (value t : Nat) : Bool := decide ((value + 2 ^ 64 - t) % 2 ^ 64 < 2 ^ 63)

/-- What ends a WAIT now: the broken flag first, then its threshold (R281). -/
def State.waitEnds (s : State) (o : Op) : Option (Final × Nat) :=
  match o.area with
  | .wait c t _ =>
    match s.counter? o.fn c with
    | some k => if k.broken then some (.CHAIN_BROKEN, c) else if reached k.value t then some (.SUCCESS, 0) else none
    | none => none
  | _ => none

/-- A FENCE ends once every earlier entry of its ring has a final status (R314), and a NOP once they have retired (R266). -/
def State.fenceEnds (s : State) (o : Op) : Bool :=
  let before := fun (g : Ring) => (g.entries.takeWhile fun e => e.1 != o.index).all fun e => e.2.outcome.isSome
  match o.area, s.ring? o.fn o.ring with
  | .fence _, some g => before g
  | .nop _, some g => before g
  | _, _ => false

/-- The next WAIT, FENCE or NOP that can end. -/
def State.nextEnd (s : State) : Option (Nat × Final × Nat) :=
  s.ops.findSome? fun p =>
    match s.waitEnds p.2 with
    | some r => some (p.1, r.1, r.2)
    | none => if s.fenceEnds p.2 then some (p.1, .SUCCESS, 0) else none

/-- WAITs, FENCEs and NOPs that can end do so, one after the other. -/
def State.settleWaits : (fuel : Nat) → State → State
  | 0, s => s
  | n + 1, s =>
    match s.nextEnd with
    | some (p, st, d) => (s.finish p st 0 d).settleWaits n
    | none => s

end Sys2Proof.Machine
end

