-- ==== Sys2Proof/Machine/Flows.lean ====
section
/-! DEFINITION. The source side of flows (09_remote_operations.md): flow contexts and their tiers (R346, R347), flows and their opening
(R318, R319, R323), parcels cut in order (R315, R316, R374), released within window, congestion window, tags and grant (R193,
R316, R331, R344), and operations started (R312, R314). -/
namespace Sys2Proof.Machine

open Sys2Proof

/-! ### Flow contexts (R346) -/

/-- Slots of the context store for flow contexts. -/
def State.ctxSlots (s : State) : Nat := if s.variant = .AX then 4194304 else 2097152

/-- Every flow context: engine, flow, is a source flow. -/
def State.contexts (s : State) : List (Nat × Nat × Bool) :=
  s.engines.flatMap fun e => (e.2.src.map fun f => (e.1, f.1, true)) ++ e.2.dst.map fun f => (e.1, f.1, false)

def State.srcFlow? (s : State) (n fid : Nat) : Option SrcFlow := Tbl.get? (s.engine n).src fid
def State.dstFlow? (s : State) (n d : Nat) : Option DstFlow := Tbl.get? (s.engine n).dst d
def State.setSrc (s : State) (n fid : Nat) (x : SrcFlow) : State := s.modEngine n fun e => { e with src := Tbl.put e.src fid x }
def State.setDst (s : State) (n d : Nat) (x : DstFlow) : State := s.modEngine n fun e => { e with dst := Tbl.put e.dst d x }
def State.modSrc (s : State) (n fid : Nat) (f : SrcFlow → SrcFlow) : State :=
  s.modEngine n fun e => { e with src := Tbl.modify e.src fid f }
def State.modDst (s : State) (n d : Nat) (f : DstFlow → DstFlow) : State :=
  s.modEngine n fun e => { e with dst := Tbl.modify e.dst d f }

/-- Is a placement, read or atomic of a destination flow under way at its engine? -/
def Engine.works (e : Engine) (d : Nat) : Bool :=
  e.serving.any (fun j => j.flow == d) || e.atomics.any (fun j => j.flow == d) || e.placing.any fun w => w.flow.map (·.1) == some d

/-- A context is pinned while a fetch is pending, a parcel is parked for it, or a placement, read or atomic is under way. -/
def State.pinned (s : State) (k : Nat × Nat × Bool) : Bool :=
  s.cs.fetching.contains k || (s.engine k.1).parked.any (fun p => p.1 == k.2.1 && p.2.1 == k.2.2)
    || (match k.2.2, s.dstFlow? k.1 k.2.1, s.srcFlow? k.1 k.2.1 with
        | false, some d, _ => !d.busy.isEmpty || (s.engine k.1).works k.2.1
        | true, _, some f => f.parcels.any fun p => !p.reads.isEmpty
        | _, _, _ => false)

/-- Only contexts with nothing outstanding and nothing staged go to the spill area. -/
def State.idleCtx (s : State) (k : Nat × Nat × Bool) : Bool :=
  match k.2.2, s.dstFlow? k.1 k.2.1, s.srcFlow? k.1 k.2.1 with
  | false, some d, _ => d.busy.isEmpty && d.staged.isEmpty && !(s.engine k.1).works k.2.1
  | true, _, some f => f.parcels.isEmpty && f.queue.isEmpty && f.opening.isNone
  | _, _, _ => false

/-- Is a context in the spill area? -/
def CS.isSpilled (c : CS) (k : Nat × Nat × Bool) : Bool := c.spilled.any fun e => e.2 == k

/-- The place of a context in the spill area. -/
def CS.spillPlace (c : CS) (k : Nat × Nat × Bool) : Nat :=
  match c.spilled.find? fun e => e.2 == k with | some e => e.1 | none => 0

/-- Contexts that lie in the context store. -/
def State.stored (s : State) : List (Nat × Nat × Bool) :=
  s.contexts.filter fun k => !s.cs.cached.contains k && !s.cs.isSpilled k

/-- A context enters the cache in front; the least recently used unpinned one leaves a full cache (R346). -/
def State.touch (s : State) (k : Nat × Nat × Bool) : State :=
  let l := k :: s.cs.cached.filter (· != k)
  let s := { s with cs := { s.cs with cached := l, spilled := s.cs.spilled.filter (fun e => e.2 != k) } }
  if 65536 < l.length then
    match l.reverse.find? fun x => x != k && !s.pinned x with
    | some v => ({ s with cs := { s.cs with cached := l.filter (· != v) } } : State).tally 0x500120
    | none => s
  else s

/-- A context moves to the lowest free place of the spill area, under the ID of the manager's PF (R346, R612). -/
def State.spillCtx (s : State) (k : Nat × Nat × Bool) : State :=
  let i := Tbl.free s.cs.spilled s.cs.spillCapacity 0
  let image := Config.contextImage s.freeCount
  let s := { s with freeCount := s.freeCount + 1, cs := { s.cs with spilled := Tbl.put s.cs.spilled i k } }
  match s.manager with
  | some a => s.write a (s.cs.spillBase + 512 * i) (fitTo 512 image)
  | none => s

/-- Room for one more context, an idle stored one moving to the spill area where the store is full (R346). -/
def State.ctxRoom (s : State) : Option State :=
  if s.contexts.length < 65536 + s.ctxSlots + s.cs.spilled.length then some s
  else if s.cs.spillEnable && decide (s.cs.spilled.length < s.cs.spillCapacity) then
    (s.stored.find? s.idleCtx).map s.spillCtx
  else none

/-- Contexts of a function: its source flows and its destination flows. -/
def State.ctxsOf (s : State) (f : Nat) : Nat :=
  let e := s.engine (s.engineOf f)
  (e.src.filter fun x => x.2.fn == f).length + (e.dst.filter fun x => x.2.fn == f).length

/-- A context ceases to exist. -/
def State.forgetCtx (s : State) (k : Nat × Nat × Bool) : State :=
  { s with cs := { s.cs with cached := s.cs.cached.filter (· != k), spilled := s.cs.spilled.filter (fun e => e.2 != k),
                             fetching := s.cs.fetching.filter (· != k) } }

/-! ### Parcels of a source -/

/-- A parcel not yet given its sequence number, its data at hand. -/
def OutParcel.of (op : Nat) (place : Option Nat) (roleGen : Nat) (area data : List Byte) : OutParcel :=
  { seq := 0, op := op, place := place, roleGen := roleGen, area := area, offset := 0, length := 0, lead := [],
    data := some data, reads := [], pieces := [], map := none, tag := 0, respTag := none,
    cells := parcelCells data.length, left := [], sendings := 0, released := 0, timeout := none, retryAt := none, wait := 0,
    due := true, colour := none, first := none, member := 0 }

/-- Window area of a parcel (R148). -/
def windowArea (key gen offset flags : Nat) : List Byte := le 4 key ++ le 1 gen ++ le 6 offset ++ le 1 flags

/-- The parcel still to be released for the first time; parcels are cut one at a time, in order. -/
def SrcFlow.unsent (x : SrcFlow) : Option OutParcel := x.parcels.find? fun p => p.sendings == 0

/-- The OPEN of a flow (R319). It asks for 64 tags. -/
def State.openParcel (s : State) (x : SrcFlow) (roleGen : Nat) (reopen : Bool) : OutParcel :=
  let job := match Tbl.get? s.wu.domains x.domain with | some d => d.job | none => 0
  let area := le 12 (s.endpoint (s.engineOf x.fn) + at_ x.fn 21 + at_ x.dstFn 32 + at_ job 48 + at_ (b2n x.ordered) 80
    + at_ (b2n reopen) 81)
  { OutParcel.of opOPEN none roleGen area (le 1 x.gen ++ le 1 64 ++ le 6 0) with seq := x.lowest }

/-- The CLOSE of a flow (R324). -/
def closeParcel (roleGen : Nat) : OutParcel := OutParcel.of opCLOSE none roleGen [] []

/-! ### Flows of an operation (R318, R323) -/

/-- Key of a flow. -/
structure FlowKey where
  fn : Nat
  endpoint : Nat
  dstFn : Nat
  domain : Nat
  ordered : Bool
  deriving DecidableEq, Repr

def SrcFlow.key (x : SrcFlow) : FlowKey :=
  { fn := x.fn, endpoint := x.endpoint, dstFn := x.dstFn, domain := x.domain, ordered := x.ordered }

/-- The flow of a key. -/
def State.flowOf (s : State) (k : FlowKey) : Option (Nat × SrcFlow) :=
  (s.engine (s.engineOf k.fn)).src.find? fun x => x.2.key == k

/-- Is a two-sided operation ordered whatever op_flags says (R370)? -/
def Op.ordered (o : Op) : Bool :=
  match o.area with
  | .send _ | .recv _ => true
  | .mcastPut _ => false
  | _ => bit o.flags 0

def Op.key (o : Op) : FlowKey :=
  { fn := o.fn, endpoint := o.dest, dstFn := o.destFn, domain := o.domain, ordered := o.ordered }

/-- Open a flow of key `k` (R319); the jobs wait for the answer. -/
def State.newFlow (s : State) (k : FlowKey) (roleGen : Nat) (jobs : List Job) : State × Nat :=
  let n := s.engineOf k.fn
  let e := s.engine n
  let fid := Tbl.free e.src 4194304 e.nextSrc
  let saved := (s.fn? k.fn).bind fun y => y.savedFlows.find? fun v =>
    v.endpoint == k.endpoint && v.dstFn == k.dstFn && v.domain == k.domain && v.ordered == k.ordered
  let cwnd := match saved with
    | some v => v.cwnd
    | none => (match s.fn? k.fn with | some y => y.ccInit | none => 8) * 1024
  let srtt := match saved with | some v => v.srtt | none => 20000
  let s := match saved with
    | some v => s.modFn k.fn fun y => { y with savedFlows := y.savedFlows.erase v }
    | none => s
  let x : SrcFlow :=
    { fn := k.fn, endpoint := k.endpoint, dstFn := k.dstFn, domain := k.domain, ordered := k.ordered, gen := s.gen k.fn,
      roleGen := roleGen, state := .OPENING, dstFlow := 0, nextSeq := 0, queue := jobs, parcels := [], opening := none,
      tags := [], cwnd := cwnd, srtt := srtt, lastCut := none,
      timeouts := 0, atomics := [], lastUse := s.ns }
  let x := { x with opening := some (s.openParcel x roleGen false) }
  let s := s.setEngine n { e with src := Tbl.put e.src fid x, nextSrc := (fid + 1) % 4194304 }
  (s.touch (n, fid, true), fid)

/-- The least recently used flow of a function that has nothing outstanding. -/
def State.idleFlow (s : State) (f : Nat) : Option Nat :=
  (((s.engine (s.engineOf f)).src.filter fun x => x.2.fn == f && x.2.state == .OPEN && x.2.parcels.isEmpty
      && x.2.queue.isEmpty && x.2.opening.isNone).foldl
    (fun (b : Option (Nat × Nat)) x => match b with
      | none => some (x.1, x.2.lastUse)
      | some y => if x.2.lastUse < y.2 then some (x.1, x.2.lastUse) else some y) none).map (·.1)

/-- Close a flow: its CLOSE takes the next sequence number (R324). -/
def State.closeFlow (s : State) (n fid : Nat) : State :=
  s.modSrc n fid fun x =>
    { x with state := .CLOSING, nextSeq := (x.nextSeq + 1) % 4096,
             parcels := x.parcels ++ [{ closeParcel x.roleGen with seq := x.nextSeq }] }

/-! ### Cutting parcels (R315, R316, R317, R372, R374) -/

def maxParcel : Nat := 65472

/-- Length of an operation that R308 or R350 gives; zero encodes 2^32. -/
def fullLength (l : Nat) : Nat := if l = 0 then 4294967296 else l

/-- Is a SEND eager (R372)? -/
def sendEager (a : SendArea) : Bool := decide (a.length ≤ 16384) && !bit a.opFlags 4

/-- Bytes an operation sends or asks for in parcels. -/
def Op.total (o : Op) : Nat :=
  match o.area with
  | .put a | .get a | .putWithSignal a => fullLength a.length
  | .mcastPut a => fullLength a.length
  | .recv a => match o.phase with | .pulling _ _ total _ _ _ => minN total a.length | _ => 0
  | _ => 0

def State.comm? (s : State) (f c : Nat) : Option Comm := (s.fn? f).bind fun x => Tbl.get? x.comms c

/-- The send handle of an operation (R373). -/
def State.handle (s : State) (place : Nat) : Nat := place + at_ (Tbl.getD s.reuse place 0 % 4096) 20

/-- What the next parcel of an operation is: its op, area, leading data, the local range to be read for it, and whether more
parcels follow it at once. -/
structure CutPlan where
  op : Nat
  area : List Byte
  lead : List Byte
  /-- window id, generation, offset and length to be read -/
  source : Option (Nat × Nat × Nat × Nat)
  offset : Nat
  length : Nat
  /-- cells it counts against cwnd, where not its own (R331) -/
  weight : Option Nat
  last : Bool

def State.plan (s : State) (place : Nat) (o : Op) : Option CutPlan :=
  let piece := fun (total : Nat) => minN maxParcel (total - o.cut)
  match o.area with
  | .put a =>
    let m := piece (fullLength a.length)
    some { op := opPUT, area := windowArea a.remoteKey a.remoteGen (a.remoteOffset + o.cut) 0, lead := [],
           source := some (a.localId, a.localGen, a.localOffset + o.cut, m), offset := o.cut, length := m, weight := none,
           last := decide (fullLength a.length ≤ o.cut + m) }
  | .putWithSignal a =>
    if o.phase = .signalled then
      some { op := opSIGNAL, area := le 2 a.signalCounter ++ le 2 0 ++ le 8 a.signalValue, lead := [], source := none,
             offset := o.cut, length := 0, weight := none, last := true }
    else
      let m := piece (fullLength a.length)
      some { op := opPUT, area := windowArea a.remoteKey a.remoteGen (a.remoteOffset + o.cut) 0, lead := [],
             source := some (a.localId, a.localGen, a.localOffset + o.cut, m), offset := o.cut, length := m, weight := none,
             last := decide (fullLength a.length ≤ o.cut + m) }
  | .get a =>
    let m := piece (fullLength a.length)
    some { op := opGET_REQ, area := windowArea a.remoteKey a.remoteGen (a.remoteOffset + o.cut) 0, lead := le 4 m ++ le 4 0,
           source := none, offset := o.cut, length := m, weight := some (parcelCells m),
           last := decide (fullLength a.length ≤ o.cut + m) }
  | .atomic a =>
    some { op := opATOMIC, area := windowArea a.remoteKey a.remoteGen a.remoteOffset 0,
           lead := le 1 a.atomicOp ++ le 1 a.width ++ le 6 0 ++ le 8 a.operand ++ le 8 a.compare, source := none, offset := 0,
           length := 0, weight := none, last := true }
  | .send a =>
    let rank := match s.comm? o.fn a.comm with | some c => c.ownRank | none => 0
    let area := le 8 a.tag ++ le 2 a.comm ++ le 2 0
    if sendEager a then
      some { op := 0x28, area := area, lead := le 4 rank ++ le 4 0,
             source := if a.length = 0 then none else some (a.localId, a.localGen, a.localOffset, a.length), offset := 0,
             length := a.length, weight := none, last := true }
    else
      some { op := 0x29, area := area,
             lead := le 4 rank ++ le 4 (s.handle place) ++ le 4 a.length ++ le 4 0 ++ le 8 o.deadline ++ le 8 0,
             source := none, offset := 0, length := 0, weight := none, last := true }
  | .recv a =>
    match o.phase with
    | .pulling _ handle total _ _ _ =>
      let m := piece (minN total a.length)
      some { op := 0x2A, area := [], lead := le 4 handle ++ le 4 o.cut ++ le 4 m ++ le 4 0, source := none, offset := o.cut,
             length := m, weight := some (parcelCells m), last := decide (minN total a.length ≤ o.cut + m) }
    | _ => none
  | _ => none

/-- An access of an operation to a local window is refused: a violation (R270, R292), or a translation without access (R227), `off` being the
access's offset in the operation. -/
def State.localFails (s : State) (place sub window off : Nat) : State :=
  if sub = subATS then s.finish place .HOST_ACCESS_ERROR 4 off else s.finish place .LOCAL_ACCESS_VIOLATION sub window

/-- Issue the reads of resolved pieces for a parcel; the tags in order. -/
def State.readPieces (s : State) (f : Nat) (use : DmaUse) (place : Option Nat) : (offset : Nat) → List (Nat × Nat) → State × List Nat
  | _, [] => (s, [])
  | o, (a, n) :: t =>
    let tag := s.nextDma
    let r := (s.dmaRead f a n use place o).readPieces f use place (o + n) t
    (r.1, tag :: r.2)

/-- Does an operation ask for lossless elision of its data, this router's engines eliding (R308, R446)? -/
def State.elides (s : State) (o : Op) : Bool :=
  s.elideEn && (match o.area with | .put a | .putWithSignal a => bit a.opFlags 3 | _ => false)

/-- Read the data of a parcel from its operation's local range: data to be elided through the Baler's translation cache. None: the range is
refused, with the subtype. -/
def State.readSource (s : State) (n fid : Nat) (o : Op) (place seq : Nat) (src : Nat × Nat × Nat × Nat) (offset : Nat) :
    State × Option (List Nat) × Nat :=
  match s.resolveLocal (if s.elides o then clientBALER else n) o.domain src.1 src.2.1 .read src.2.2.1 src.2.2.2 with
  | (s, .bad sub) => (s, none, sub)
  | (s, .ok ps) =>
    let r := s.readPieces o.fn (.parcel n fid seq) (some place) offset ps
    (r.1, some r.2, 0)

/-- Cut the next parcel of the operation at the head of a flow's queue. -/
def State.cutOp (s : State) (n fid place : Nat) (o : Op) (x : SrcFlow) : State :=
  match s.plan place o with
  | none => s.setSrc n fid { x with queue := x.queue.drop 1 }
  | some c =>
    let seq := x.nextSeq
    let p : OutParcel :=
      { OutParcel.of c.op (some place) o.roleGen c.area c.lead with
        seq := seq, offset := c.offset, length := c.length, lead := c.lead }
    let p := match c.weight with | some w => { p with cells := w } | none => p
    let add := fun (s : State) (p : OutParcel) =>
      let s := s.modSrc n fid fun x =>
        { x with parcels := x.parcels ++ [p], nextSeq := (seq + 1) % 4096,
                 queue := if c.last then x.queue.drop 1 else x.queue, lastUse := s.ns }
      { s with ops := Tbl.modify s.ops place fun o => { o with cut := o.cut + c.length, open_ := o.open_ + 1 } }
    match c.source with
    | none => add s p
    | some src =>
      match s.readSource n fid o place seq src c.offset with
      | (s, none, sub) => s.localFails place sub src.1 c.offset
      | (s, some tags, _) =>
        add s { p with data := none, reads := tags, cells := parcelCells (c.lead.length + c.length) }

/-- Cut what can be cut on a flow: one parcel at a time waits to be released. -/
def State.pump (s : State) (n fid : Nat) : State :=
  match s.srcFlow? n fid with
  | none => s
  | some x =>
    if x.state == .OPEN && x.unsent.isNone then
      match x.queue with
      | [] => s
      | .parcel p :: t =>
        s.setSrc n fid { x with queue := t, parcels := x.parcels ++ [{ p with seq := x.nextSeq }],
                                nextSeq := (x.nextSeq + 1) % 4096, lastUse := s.ns }
      | .op place :: t =>
        match Tbl.get? s.ops place with
        | some o => s.cutOp n fid place o x
        | none => s.setSrc n fid { x with queue := t }
    else s

/-- Cut what can be cut on every flow of an engine. -/
def State.pumpEngine (s : State) (n : Nat) : State := (Tbl.keys (s.engine n).src).foldl (fun s fid => s.pump n fid) s

/-! ### Multicast parcels (R353) -/

def State.sender? (s : State) (n g : Nat) : Option Sender := Tbl.get? (s.engine n).senders g
def State.modSender (s : State) (n g : Nat) (f : Sender → Sender) : State :=
  s.modEngine n fun e => { e with senders := Tbl.modify e.senders g f }

/-- The oldest accepted MCAST_PUT of a sender record with bytes left to cut. -/
def State.mcastJob (s : State) (f g : Nat) : Option (Nat × Op) :=
  (s.ops.filter fun p => match p.2.area with
    | .mcastPut a => p.2.fn == f && a.group == g && p.2.phase == .sending && decide (p.2.cut < fullLength a.length)
    | _ => false).foldl
    (fun (b : Option (Nat × Op)) p => match b with
      | none => some p
      | some y => if p.2.deadline < y.2.deadline ∨ (p.2.cut ≠ 0 ∧ y.2.cut = 0) then some p else some y) none

/-- Oldest outstanding sequence number of a group, as a distance below the next one. -/
def Sender.span (g : Sender) : Nat := maxList (g.out.map fun m => (g.seq + 4096 - m.seq) % 4096)

/-- Cut the next multicast parcel of a group: one waits to be released, at most 64 are outstanding within 2,048 numbers. -/
def State.pumpMcast (s : State) (n gid : Nat) : State :=
  match s.sender? n gid with
  | none => s
  | some g =>
    if g.out.any (fun m => m.sendings == 0) || decide (64 ≤ g.out.length) || decide (2048 ≤ g.span) then s
    else match s.mcastJob g.fn gid with
      | none => s
      | some (place, o) =>
        match o.area with
        | .mcastPut a =>
          let m := minN maxParcel (fullLength a.length - o.cut)
          match s.resolveLocal n o.domain a.localId a.localGen .read (a.localOffset + o.cut) m with
          | (s, .bad sub) => s.localFails place sub a.localId o.cut
          | (s, .ok ps) =>
            let r := s.readPieces o.fn (.mcast n gid g.seq) (some place) o.cut ps
            let out : McastOut :=
              { seq := g.seq, place := place, offset := o.cut, length := m, data := none, reads := r.2, pieces := [], tag := 0,
                cells := parcelCells m, left := [], released := 0, timeout := none, acked := [], sendings := 0,
                colour := none }
            let s := r.1.modSender n gid fun g => { g with out := g.out ++ [out], seq := (g.seq + 1) % 4096 }
            { s with ops := Tbl.modify s.ops place fun o => { o with cut := o.cut + m, open_ := o.open_ + 1 } }
        | _ => s

def State.pumpMcasts (s : State) (n : Nat) : State := (Tbl.keys (s.engine n).senders).foldl (fun s g => s.pumpMcast n g) s

/-! ### Starting operations (R314, R323) -/

/-- Is the operation behind a FENCE of its ring that has no final status? -/
def State.fenced (s : State) (o : Op) : Bool :=
  s.ops.any fun p => match p.2.area with
    | .fence _ => p.2.fn == o.fn && p.2.ring == o.ring && decide (0 < (o.index + 2 ^ 32 - p.2.index) % 2 ^ 32)
        && decide ((o.index + 2 ^ 32 - p.2.index) % 2 ^ 32 < 2 ^ 31)
    | _ => false

def State.setOp (s : State) (place : Nat) (o : Op) : State := { s with ops := Tbl.put s.ops place o }

/-- The keys of the flows that operations of function `f` wait for. -/
def State.waitedKeys (s : State) (f : Nat) : List FlowKey :=
  ((s.cs.owed.filter fun o => o.fn == f).map
      (fun o => ({ fn := o.fn, endpoint := o.endpoint, dstFn := o.dstFn, domain := o.domain, ordered := o.ordered } : FlowKey))
    ++ s.cs.waiting.filterMap fun p => (Tbl.get? s.ops p).bind fun o => if o.fn = f then some o.key else none).eraseDups

/-- Are enough flows of the key's function closing already, one for every flow that its operations wait for (R323)? -/
def State.closingEnough (s : State) (k : FlowKey) : Bool :=
  let closing := (s.engine (s.engineOf k.fn)).src.filter fun x => x.2.fn == k.fn && x.2.state == .CLOSING
  decide (((s.waitedKeys k.fn).filter (· != k)).length + 1 ≤ closing.length)

/-- Put an operation's job on the flow of a key, opening the flow where there is none. Without a context it waits, and the least
recently used idle flow of the function is closed (R323). The result says whether it has a flow. -/
def State.onFlow (s : State) (k : FlowKey) (roleGen : Nat) (j : Job) : State × Option Nat :=
  let n := s.engineOf k.fn
  match s.flowOf k with
  | some (fid, x) =>
    if x.state = .CLOSING then (s, none)
    else ((s.setSrc n fid { x with queue := x.queue ++ [j], lastUse := s.ns }).touch (n, fid, true), some fid)
  | none =>
    let quota := match s.fn? k.fn with | some y => y.ctxQuota | none => 0
    match (if s.ctxsOf k.fn < quota then s.ctxRoom else none) with
    | some s =>
      let r := s.newFlow k roleGen [j]
      (r.1, some r.2)
    | none =>
      match (if s.closingEnough k then none else s.idleFlow k.fn) with
      | some fid => (s.closeFlow n fid, none)
      | none => (s, none)

/-- Give an operation its flow, or let it wait for one. -/
def State.route (s : State) (place : Nat) (o : Op) : State :=
  match s.onFlow o.key o.roleGen (.op place) with
  | (s, some fid) =>
    let phase := match o.phase with | .waiting => Phase.sending | p => p
    let s := s.setOp place { o with flow := some fid, phase := phase }
    let s := { s with cs := { s.cs with waiting := s.cs.waiting.filter (· != place) } }
    s.pump (s.engineOf o.fn) fid
  | (s, none) =>
    if s.cs.waiting.contains place then s else { s with cs := { s.cs with waiting := s.cs.waiting ++ [place] } }

/-- Send a parcel that belongs to no operation on the flow of a key, or keep it until there is one (R323, R618). -/
def State.sendOwn (s : State) (k : FlowKey) (p : OutParcel) : State :=
  match s.onFlow k p.roleGen (.parcel p) with
  | (s, some fid) => s.pump (s.engineOf k.fn) fid
  | (s, none) =>
    let o : Owed := { fn := k.fn, endpoint := k.endpoint, dstFn := k.dstFn, domain := k.domain, ordered := k.ordered, parcel := p }
    { s with cs := { s.cs with owed := s.cs.owed ++ [o] } }

def Owed.key (o : Owed) : FlowKey :=
  { fn := o.fn, endpoint := o.endpoint, dstFn := o.dstFn, domain := o.domain, ordered := o.ordered }

/-- A RECV that pulls a rendezvous message. -/
def Op.pulls (o : Op) : Bool := match o.phase with | .pulling _ _ _ _ _ _ => true | _ => false

/-- Does the operation send parcels on a flow of its own? -/
def Op.sends (o : Op) : Bool :=
  match o.area with
  | .put _ | .get _ | .putWithSignal _ | .atomic _ | .send _ => true
  | _ => o.pulls

/-- An accepted operation starts unless a FENCE holds it (R314). -/
def State.start (s : State) (place : Nat) : State :=
  match Tbl.get? s.ops place with
  | none => s
  | some o =>
    if (o.phase = .waiting ∨ o.pulls) ∧ o.flow = none ∧ !s.fenced o then
      match o.area with
      | .mcastPut a => (s.setOp place { o with phase := .sending }).pumpMcast (s.engineOf o.fn) a.group
      | _ => if o.sends then s.route place o else s
    else s

/-- Parcels and operations that wait for a flow are tried again in order. -/
def State.admitWaiting (s : State) : State :=
  let s := s.cs.owed.foldl (fun s o => s.sendOwn o.key o.parcel) { s with cs := { s.cs with owed := [] } }
  s.cs.waiting.foldl (fun s place =>
    match Tbl.get? s.ops place with
    | some o => if o.flow = none then s.route place o else s
    | none => s) s

/-- Has what stalled a ring of function `f` gone (R313, R381)? -/
def State.unstalls (s : State) (f : Nat) (x : Fn) : Option Stall → Bool
  | none => false
  | some .place => decide (s.ops.length < 1048576)
  | some .posted => (match Tbl.get? s.matching f with | some m => decide (m.posted.length < x.postedMax) | none => true)

/-- Rings that acceptance had stalled go on. -/
def State.unstall (s : State) : State :=
  s.fns.foldl (fun s fx =>
    fx.2.rings.foldl (fun s r =>
      if s.unstalls fx.1 fx.2 r.2.stalled then (s.modRing fx.1 r.1 fun g => { g with stalled := none }).fetch fx.1 r.1 else s) s) s

/-- After final statuses: WAITs and FENCEs end, what they held starts, and flows cut what they can; pool space freed clears XOFF bits
(R113). -/
def State.settle (s : State) : State :=
  let s := s.settleWaits s.ops.length
  let s := (Tbl.keys s.ops).foldl (fun s p => s.start p) s
  let s := s.admitWaiting
  let s := (Tbl.keys s.engines).foldl (fun s n => (s.pumpEngine n).pumpMcasts n) s
  (s.settleWaits s.ops.length).unstall.refreshXoff

/-! ### Release (R316, R331, R344) -/

/-- A tag granted to the flow that carries no parcel (R151). -/
def SrcFlow.freeTag (x : SrcFlow) : Option Nat := x.tags.find? fun t => !x.parcels.any fun p => p.tag == t

/-- The lowest tag of an engine that is FREE; tag 0 is never granted. -/
def Engine.freeTagNo (e : Engine) : Option Nat :=
  let t := Tbl.free e.tags 65536 1
  if t < 65536 then some t else none

/-- Is the parcel a request whose response needs a tag of its own engine (R316, R327)? -/
def OutParcel.asksTag (p : OutParcel) : Bool := p.op == opGET_REQ || p.op == 0x2A

/-- Where the response tag stands in the data. -/
def OutParcel.tagAt (p : OutParcel) : Nat := if p.op = opGET_REQ then 4 else 12

/-- The parcel with the tags it needs, none where one is missing. -/
def State.tagged (s : State) (n fid : Nat) (x : SrcFlow) (p : OutParcel) (bytes : List Byte) : Option (State × OutParcel) :=
  let r : Option (State × OutParcel) :=
    if p.asksTag && p.respTag.isNone then
      match (s.engine n).freeTagNo with
      | some t =>
        let s := s.modEngine n fun e =>
          { e with tags := Tbl.put e.tags t { owner := .response fid p.seq, quarantine := none, entry := none, nacked := false } }
        some (s, { p with respTag := some t, data := some (patch bytes p.tagAt (le 2 t)) })
      | none => none
    else some (s, p)
  match r with
  | none => none
  | some (s, p) =>
    if 2 ≤ parcelCells bytes.length ∧ p.tag = 0 then x.freeTag.map fun t => (s, { p with tag := t })
    else some (s, p)

/-- A parcel's timeout: max(4 × srtt, 20,000 ns), doubled at each resend (R335). -/
def SrcFlow.timeoutOf (x : SrcFlow) (p : OutParcel) : Nat :=
  match p.timeout with
  | some t => if p.sendings = 0 then maxN (4 * x.srtt) 20000 else 2 * (t - p.released)
  | none => maxN (4 * x.srtt) 20000

/-- Mark a parcel released now: its cells are built on VC4 (R319, R326, R335). -/
def State.releaseCells (s : State) (fid : Nat) (x : SrcFlow) (p : OutParcel) (bytes : List Byte) : OutParcel :=
  let area := fitTo 12 p.area
  let area := if p.sendings ≠ 0 ∧ p.op < 0x20 then patch area 11 (le 1 1) else area
  let h : ParcelHdr :=
    { sendTime := s.ns, length := bytes.length, seq := p.seq, op := p.op, roleGen := p.roleGen,
      flow := if p.op = opOPEN then fid else x.dstFlow, area := area }
  { p with left := parcelBuild 4 x.endpoint p.tag 0 h bytes, sendings := p.sendings + 1, released := s.ns,
           timeout := some (s.ns + x.timeoutOf p), due := false, first := some (p.first.getD s.ns), retryAt := none }

/-- The same cell on another VC. -/
def recell (c : WireCell) (vc : Nat) : WireCell :=
  { c with hdr := ({ c.h with vc := vc, escape := decide (vc < 4) } : CellHdr).encode }

/-- Inject one cell of a parcel of class `c` (R72, R73, R193); `low` is the VC it takes at best effort. None: it must wait. -/
def State.injectOne (s : State) (n f low : Nat) (c : Class) (resv : Option (Nat × Reservation)) (cell : WireCell) : Option State :=
  let best := fun (s : State) (c : Class) (vc : Nat) (inj : Inject) =>
    if s.granted n f c = 0 ∨ s.storeAt (.engine n) vc = none then none
    else some ((s.useGrant n f c).inject n f (recell cell vc) inj)
  match c, resv with
  | .timetable, some (id, r0) =>
    let r := Tbl.getD s.tt.resv id r0
    if r.suspended ∨ r.bucket = 0 then
      (best s .weighted low { Inject.ofFn f with demoted := true }).map fun s =>
        (s.setResv id { (Tbl.getD s.tt.resv id r) with demoted := r.demoted + 1 }).tally 0x30040
    else if s.granted n f .timetable = 0 ∨ s.storeAt (.engine n) 6 = none then none
    else
      let s := s.setResv id { r with bucket := r.bucket - 1 }
      some ((s.useGrant n f .timetable).inject n f (recell cell 6) { Inject.ofFn f with ladder := some (ladderKey id r) })
  | .lane, _ => best s .lane 6 (Inject.ofFn f)
  | c, _ => best s c low (Inject.ofFn f)

/-- Inject cells while the grant and the pool let them pass; the cells left. -/
def State.injectCells (s : State) (n f low : Nat) (c : Class) (resv : Option (Nat × Reservation)) : List WireCell → State × List WireCell
  | [] => (s, [])
  | x :: t =>
    match s.injectOne n f low c resv x with
    | some s => s.injectCells n f low c resv t
    | none => (s, x :: t)

/-- What metering says of a parcel that asks for a grant for the first time (R195, R197). -/
inductive Leave where
  | go
  | wait
  | discard (cls : Nat)

def State.colourOf (s : State) (f : Nat) (c : Class) (colour : Option Nat) (n : Nat) : State × Nat × Leave :=
  let r := match colour with
    | some k => (k, s)
    | none => s.meterParcel f c n
  let act := ((s.sched f).policer c).action
  if r.1 = 2 then (r.2, 2, if act = 1 then .discard (classIndex c) else .wait)
  else (r.2, r.1, if r.1 = 1 ∧ s.yellowHeld then .wait else .go)

def State.putParcel (s : State) (n fid : Nat) (p : OutParcel) : State :=
  s.modSrc n fid fun x =>
    if p.op = opOPEN then { x with opening := x.opening.map fun _ => p }
    else { x with parcels := x.parcels.map fun q => if q.seq = p.seq then p else q }

/-- Inject what is left of a released parcel. -/
def State.sendLeft (s : State) (n fid : Nat) (x : SrcFlow) (p : OutParcel) (c : Class) (resv : Option (Nat × Reservation)) : State :=
  let r := s.injectCells n x.fn 4 c resv p.left
  r.1.putParcel n fid { p with left := r.2 }

/-- The class a parcel goes in: a resend, and the repair of a multicast parcel, go at best effort (R77). -/
def State.outClass (s : State) (x : SrcFlow) (p : OutParcel) : Class × Option (Nat × Reservation) :=
  let resv := s.resvUnicast x.fn x.endpoint x.dstFn
  let c := s.parcelClass x.fn (s.opFlags p.place) resv.isSome
  if (1 < p.sendings ∨ p.op = opMCAST_REPAIR) ∧ c = .timetable then (s.levelClass x.fn, none) else (c, resv)

/-- Cells that went in a reservation are resent: TIMETABLE_RESENT, at most once per reservation and frame (R77). -/
def State.resentIn (s : State) (f : Nat) : Option (Nat × Reservation) → State
  | some (id, r) =>
    if r.resentFrame != some s.frame then (s.setResv id { r with resentFrame := some s.frame }).raise 0x022 (some f) id else s
  | none => s

/-- A parcel is resent: it is counted, and one that would have gone in its reservation is reported (R77, R337). -/
def State.countResend (s : State) (n : Nat) (x : SrcFlow) (p : OutParcel) : State :=
  let s := s.tally (peBase n + 0x6008)
  let s := match p.place with
    | some place => { s with ops := Tbl.modify s.ops place fun o => { o with resends := o.resends + 1 } }
    | none => s
  if bit (s.opFlags p.place) 1 && p.op != opMCAST_REPAIR then s.resentIn x.fn (s.resvUnicast x.fn x.endpoint x.dstFn) else s

def State.horizonNs (s : State) (f : Nat) : Nat := match s.fn? f with | some y => y.horizonMs * 1000000 | none => 0

/-- The deadline that bounds the resends of a parcel. -/
def State.resendLimit (s : State) (x : SrcFlow) (p : OutParcel) : Nat :=
  match p.place with
  | some place => (match Tbl.get? s.ops place with | some o => o.deadline | none => 0)
  | none => p.first.getD s.ns + s.horizonNs x.fn

/-- Would the timeout of a resend begun now end by the deadline (R91)? -/
def State.mayResend (s : State) (x : SrcFlow) (p : OutParcel) : Bool :=
  decide (s.ns + x.timeoutOf p ≤ s.resendLimit x p)

/-- Is the next sending of a parcel a resend: its own, or a repair of a multicast parcel (R91, R355)? -/
def OutParcel.isResend (p : OutParcel) : Bool := p.sendings != 0 || p.op == opMCAST_REPAIR

/-- A resend that no longer fits is not started (R91): the operation is left to its horizon, a parcel of none to its timeout. -/
def State.holdResend (s : State) (n fid : Nat) (p : OutParcel) : State :=
  s.putParcel n fid { p with due := false, retryAt := none, timeout := if p.place.isSome then none else some s.ns }

/-- Release a parcel that is due, as far as R91, R316, R331, R344 and R197 allow. It is released, and its times run, once its head cell is
injected (R335); without a grant for that cell it stays due. -/
def State.release (s : State) (n fid : Nat) (x : SrcFlow) (p : OutParcel) : State :=
  match p.data with
  | none => s
  | some bytes =>
    if !x.stateLets p || !x.lets p then s
    else if p.isResend && !s.mayResend x p then s.holdResend n fid p
    else
      let c := s.outClass x { p with sendings := p.sendings + 1 }
      match s.colourOf x.fn c.1 p.colour (parcelCells bytes.length) with
      | (s, _, .discard cls) =>
        let s := s.evidence 0x80038
        match p.place with
        | some place => s.finish place .POLICED cls (match Tbl.get? s.ops place with | some o => o.sent | none => 0)
        | none => s.putParcel n fid { p with colour := none }
      | (s, k, .wait) => s.putParcel n fid { p with colour := some k }
      | (s, k, .go) =>
        match s.tagged n fid x { p with colour := some k } bytes with
        | none => s.putParcel n fid { p with colour := some k }
        | some (s, p) =>
          let q := s.releaseCells fid x p (p.data.getD bytes)
          let r := s.injectCells n x.fn 4 c.1 c.2 q.left
          if r.2.length = q.left.length then s.putParcel n fid p
          else
          let s := match p.map with
            | some map => r.1.tally 0x700028 (elidedUnits map)
            | none => r.1
          let q := { q with left := r.2 }
          let q := if p.op = opPUT ∨ p.op = opPUT_ELIDED ∨ p.op = 0x28 then
              if q.lead.length = bytes.length then q else { q with data := none }
            else q
          let s := if p.op = opATOMIC ∧ p.sendings = 0 then s.modSrc n fid fun x => { x with atomics := x.atomics ++ [p.seq] } else s
          let s := match p.place with
            | some place => if p.sendings = 0 then { s with ops := Tbl.modify s.ops place fun o => { o with sent := o.sent + 1 } } else s
            | none => s
          let s := s.modSrc n fid fun x => { x with lastUse := s.ns }
          let s := if p.sendings = 0 then s else s.countResend n x p
          s.putParcel n fid q

/-- The parcel of a flow that a sequence number names: the OPEN while it is due. -/
def SrcFlow.named (x : SrcFlow) (seq : Nat) : Option OutParcel :=
  match x.opening with
  | some p => if p.seq = seq then some p else x.parcels.find? fun q => q.seq == seq
  | none => x.parcels.find? fun q => q.seq == seq

/-- Release a parcel or inject more of one already released. -/
def State.trySend (s : State) (n fid seq : Nat) : State :=
  match s.srcFlow? n fid with
  | none => s
  | some x =>
    match x.named seq with
    | none => s
    | some p =>
      if p.left ≠ [] then
        let c := s.outClass x p
        s.sendLeft n fid x p c.1 c.2
      else if p.due then s.release n fid x p
      else s

end Sys2Proof.Machine
end

