-- ==== Sys2Proof/Machine/Descriptors.lean ====
section
/-! DEFINITION. Descriptors (R264, R265): their 64 bytes and the reasons for which one is malformed (R273; R311, R350, R361, R398 to
R400, R481). -/
namespace Sys2Proof.Machine

open Sys2Proof

/-- Opcode of a descriptor by its area (R265). -/
def descOpcode : DescArea → Nat
  | .nop _ => 0x01 | .wait _ _ _ => 0x02 | .counterAdd _ _ => 0x03 | .put _ => 0x08 | .get _ => 0x09
  | .putWithSignal _ => 0x0A | .fence _ => 0x0B | .mcastPut _ => 0x0C | .atomic _ => 0x10 | .send _ => 0x20
  | .recv _ => 0x21 | .cancel _ => 0x22 | .collective _ => 0x30 | .command _ => 0x40

/-! ### Bytes -/

def putAreaOf (b : List Byte) : PutArea :=
  { opFlags := rd b 16 1, localGen := rd b 17 1, localId := rd b 18 3, remoteGen := rd b 21 1, remoteKey := rd b 24 4,
    length := rd b 28 4, localOffset := rd b 32 8, remoteOffset := rd b 40 8, signalCounter := rd b 48 2,
    signalValue := rd b 56 8, reserved := rd b 22 2 + at_ (rd b 50 6) 16 }

def putAreaBytes (a : PutArea) : List Byte :=
  le 1 a.opFlags ++ le 1 a.localGen ++ le 3 a.localId ++ le 1 a.remoteGen ++ le 2 a.reserved ++ le 4 a.remoteKey ++ le 4 a.length
    ++ le 8 a.localOffset ++ le 8 a.remoteOffset ++ le 2 a.signalCounter ++ le 6 (a.reserved / 65536) ++ le 8 a.signalValue

/-- The area of a descriptor of an opcode; none for a reserved opcode. -/
def areaOf (opcode : Nat) (b : List Byte) : Option DescArea :=
  if opcode = 0x01 then some (.nop (rd b 16 48))
  else if opcode = 0x02 then some (.wait (rd b 16 2) (rd b 24 8) (rd b 18 6 + at_ (rd b 32 32) 48))
  else if opcode = 0x03 then some (.counterAdd (rd b 16 8) (rd b 24 40))
  else if opcode = 0x08 then some (.put (putAreaOf b))
  else if opcode = 0x09 then some (.get (putAreaOf b))
  else if opcode = 0x0A then some (.putWithSignal (putAreaOf b))
  else if opcode = 0x0B then some (.fence (rd b 16 48))
  else if opcode = 0x0C then
    some (.mcastPut
      { opFlags := rd b 16 1, localGen := rd b 17 1, localId := rd b 18 3, group := rd b 22 2, length := rd b 28 4,
        localOffset := rd b 32 8, remoteOffset := rd b 40 8, reserved := rd b 21 1 + at_ (rd b 24 4) 8 + at_ (rd b 48 16) 40 })
  else if opcode = 0x10 then
    some (.atomic
      { opFlags := rd b 16 1, atomicOp := rd b 17 1, width := rd b 18 1, localGen := rd b 19 1, localId := rd b 20 3,
        remoteGen := rd b 23 1, remoteKey := rd b 24 4, localOffset := rd b 32 8, remoteOffset := rd b 40 8, operand := rd b 48 8,
        compare := rd b 56 8, reserved := rd b 28 4 })
  else if opcode = 0x20 then
    some (.send
      { opFlags := rd b 16 1, localGen := rd b 17 1, localId := rd b 18 3, comm := rd b 22 2, length := rd b 24 4,
        localOffset := rd b 32 8, tag := rd b 40 8, reserved := rd b 21 1 + at_ (rd b 28 4) 8 + at_ (rd b 48 16) 40 })
  else if opcode = 0x21 then
    some (.recv
      { opFlags := rd b 16 1, localGen := rd b 17 1, localId := rd b 18 3, comm := rd b 22 2, length := rd b 24 4,
        source := rd b 28 4, localOffset := rd b 32 8, tag := rd b 40 8, mask := rd b 48 8, recordOffset := rd b 56 8,
        reserved := rd b 21 1 })
  else if opcode = 0x22 then
    some (.cancel { ring := rd b 16 2, index := rd b 20 4, reserved := rd b 18 2 + at_ (rd b 24 40) 16 })
  else if opcode = 0x30 then
    some (.collective
      { kind := rd b 16 1, type := rd b 17 1, outType := rd b 18 1, redOp := rd b 19 1, mode := rd b 20 1,
        flags := rd b 21 1, group := rd b 22 2, seq := rd b 24 4, count := rd b 28 4, root := rd b 32 4, stepCounter := rd b 36 2,
        sendGen := rd b 38 1, recvGen := rd b 39 1, sendId := rd b 40 3, recvId := rd b 43 3, sendOffset := rd b 48 8,
        recvOffset := rd b 56 8, reserved := rd b 46 2 })
  else if opcode = 0x40 then
    some (.command
      { packet := rd b 16 8, reply := rd b 24 8, packetLength := rd b 32 4, replyLength := rd b 36 4,
        reserved := rd b 40 24 })
  else none

def descHdrOf (b : List Byte) : DescHdr := { flags := rd b 1 1, counter := rd b 2 2, rank := rd b 4 4, user := rd b 8 8 }

/-- Bytes 16-63 of a descriptor. -/
def areaBytes : DescArea → List Byte
  | .nop r | .fence r => le 48 r
  | .wait c t r => le 2 c ++ le 6 r ++ le 8 t ++ le 32 (r / 2 ^ 48)
  | .counterAdd a r => le 8 a ++ le 40 r
  | .put a | .get a | .putWithSignal a => putAreaBytes a
  | .mcastPut a =>
    le 1 a.opFlags ++ le 1 a.localGen ++ le 3 a.localId ++ le 1 a.reserved ++ le 2 a.group ++ le 4 (a.reserved / 2 ^ 8)
      ++ le 4 a.length ++ le 8 a.localOffset ++ le 8 a.remoteOffset ++ le 16 (a.reserved / 2 ^ 40)
  | .atomic a =>
    le 1 a.opFlags ++ le 1 a.atomicOp ++ le 1 a.width ++ le 1 a.localGen ++ le 3 a.localId ++ le 1 a.remoteGen ++ le 4 a.remoteKey
      ++ le 4 a.reserved ++ le 8 a.localOffset ++ le 8 a.remoteOffset ++ le 8 a.operand ++ le 8 a.compare
  | .send a =>
    le 1 a.opFlags ++ le 1 a.localGen ++ le 3 a.localId ++ le 1 a.reserved ++ le 2 a.comm ++ le 4 a.length
      ++ le 4 (a.reserved / 2 ^ 8) ++ le 8 a.localOffset ++ le 8 a.tag ++ le 16 (a.reserved / 2 ^ 40)
  | .recv a =>
    le 1 a.opFlags ++ le 1 a.localGen ++ le 3 a.localId ++ le 1 a.reserved ++ le 2 a.comm ++ le 4 a.length ++ le 4 a.source
      ++ le 8 a.localOffset ++ le 8 a.tag ++ le 8 a.mask ++ le 8 a.recordOffset
  | .cancel a => le 2 a.ring ++ le 2 a.reserved ++ le 4 a.index ++ le 40 (a.reserved / 65536)
  | .collective a =>
    le 1 a.kind ++ le 1 a.type ++ le 1 a.outType ++ le 1 a.redOp ++ le 1 a.mode ++ le 1 a.flags ++ le 2 a.group ++ le 4 a.seq
      ++ le 4 a.count ++ le 4 a.root ++ le 2 a.stepCounter ++ le 1 a.sendGen ++ le 1 a.recvGen ++ le 3 a.sendId ++ le 3 a.recvId
      ++ le 2 a.reserved ++ le 8 a.sendOffset ++ le 8 a.recvOffset
  | .command a =>
    le 8 a.packet ++ le 8 a.reply ++ le 4 a.packetLength ++ le 4 a.replyLength ++ le 24 a.reserved

/-- A descriptor's 64 bytes. -/
def descBytes (h : DescHdr) (a : DescArea) : List Byte :=
  le 1 (descOpcode a) ++ le 1 h.flags ++ le 2 h.counter ++ le 4 h.rank ++ le 8 h.user ++ areaBytes a

/-! ### Malformed entries (R273) -/

/-- Is an opcode allowed on a ring's kind (R265)? -/
def opcodeAllowed (kind opcode : Nat) : Bool :=
  if kind = 3 then opcode == 0x01 || opcode == 0x02 || opcode == 0x40 else opcode != 0x40

/-- An offset with bits [63:43] set. -/
def highOffset (o : Nat) : Bool := decide (2 ^ 43 ≤ o)

/-- Has the opcode a rank (R264)? -/
def areaRanked : DescArea → Bool
  | .put _ | .get _ | .putWithSignal _ | .atomic _ | .send _ => true
  | _ => false

/-- A reserved bit or field of the area is non-zero, or one that the area's table requires to be zero. -/
def areaReserved : DescArea → Bool
  | .nop r | .fence r => r != 0
  | .wait c _ r => r != 0 || decide (4096 ≤ c)
  | .counterAdd _ r => r != 0
  | .put a | .get a => a.reserved != 0 || decide (16 ≤ a.opFlags) || a.signalCounter != 0 || a.signalValue != 0
  | .putWithSignal a => a.reserved != 0 || decide (16 ≤ a.opFlags) || decide (4096 ≤ a.signalCounter)
  | .mcastPut a => a.reserved != 0 || bit a.opFlags 0 || decide (8 ≤ a.opFlags) || decide (4096 ≤ a.group)
  | .atomic a => a.reserved != 0 || decide (32 ≤ a.opFlags)
  | .send a => a.reserved != 0 || a.opFlags &&& 0xE9 != 0 || highOffset a.localOffset
  | .recv a =>
    a.reserved != 0 || decide (4 ≤ a.opFlags) || decide (2 ^ 21 ≤ a.source) || (bit a.opFlags 0 && a.source != 0)
      || highOffset a.localOffset || highOffset a.recordOffset || (!bit a.opFlags 1 && a.recordOffset != 0)
  | .cancel a => a.reserved != 0 || decide (16384 ≤ a.ring)
  | .collective a =>
    a.reserved != 0 || decide (2 ≤ a.flags) || decide (1024 ≤ a.group) || decide (2 ^ 20 ≤ a.root) || decide (4096 ≤ a.stepCounter)
      || highOffset a.sendOffset || highOffset a.recvOffset
  | .command a => a.reserved != 0

/-- Reason RESERVED. Bytes 2-3 are zero when count is 0, except for COUNTER_ADD (R264). -/
def descReserved (h : DescHdr) (a : DescArea) : Bool :=
  decide (4 ≤ h.flags) || decide (4096 ≤ h.counter)
    || (!bit h.flags 0 && h.counter != 0 && (match a with | .counterAdd _ _ => false | _ => true))
    || (if areaRanked a then decide (2 ^ 21 ≤ h.rank) else h.rank != 0)
    || areaReserved a

/-- Reason COUNTER: a counter that is named is not allocated to the function. -/
def Fn.counterMissing (x : Fn) (h : DescHdr) (a : DescArea) : Bool :=
  (bit h.flags 0 && !Tbl.has x.counters h.counter)
    || (match a with
        | .wait c _ _ => !Tbl.has x.counters c
        | .counterAdd _ _ => !Tbl.has x.counters h.counter
        | _ => false)

/-- Is a communicator one of the function's, bound as the ring is (R361)? -/
def Fn.commBad (x : Fn) (g : Ring) (c : Nat) : Bool :=
  !x.matchEn || (match Tbl.get? x.comms c with
    | some k => k.domain != g.pd || k.rankTable != g.rankTable
    | none => true)

/-- The combinations of R398. -/
def collTypeOk (a : CollArea) : Bool :=
  let sum := a.redOp == 1
  let flt := decide (1 ≤ a.redOp ∧ a.redOp ≤ 3)
  if isInt a.type then decide (1 ≤ a.redOp ∧ a.redOp ≤ 6 ∧ a.mode ≤ 1) && a.outType == a.type
  else if a.type = tFP64 then flt && a.mode == 1 && a.outType == a.type
  else if isFloat a.type then
    let compressed := (a.mode == 2 || a.mode == 3) && sum && (a.type == tFP32 || a.type == tBF16)
    flt && (
      if a.mode = 0 ∧ sum then decide (6 ≤ a.outType ∧ a.outType ≤ 10)
      else if a.mode ≤ 1 then a.outType == a.type
      else compressed && (a.outType == tFP32 || a.outType == tBF16))
  else false

def noSend (a : CollArea) : Bool := a.sendId == 0 && a.sendGen == 0 && a.sendOffset == 0
def noRecv (a : CollArea) : Bool := a.recvId == 0 && a.recvGen == 0 && a.recvOffset == 0

/-- R398, R399: `rank` is the member's group rank and `m` the size of the group. A window is named unless its fields are all zero. -/
def collOk (a : CollArea) (rank m : Nat) : Bool :=
  if a.kind = 1 then
    a.type == 0 && a.outType == 0 && a.redOp == 0 && a.mode == 0 && a.count == 0 && a.root == 0 && noSend a && noRecv a
  else
    let counted := decide (1 ≤ a.count ∧ a.count ≤ 2 ^ 31)
    if a.kind = 2 then
      counted && a.redOp == 0 && a.mode == 0 && decide (1 ≤ a.type ∧ a.type ≤ 10) && a.outType == a.type
        && (if a.root = rank then noRecv a else noSend a)
    else if a.kind = 3 then counted && collTypeOk a && (a.root == rank || noRecv a)
    else if a.kind = 4 then counted && collTypeOk a
    else if a.kind = 5 then counted && collTypeOk a && decide (a.count * m ≤ 2 ^ 31)
    else false

/-- The group of a COLLECTIVE and its member on an engine's attachment. -/
def State.groupMember (s : State) (f n g : Nat) : Option (Group × RhMember) :=
  match Tbl.get? s.rh.groups g with
  | none => none
  | some x => match Tbl.get? x.members n with
    | some m => if m.fn = f then some (x, m) else none
    | none => none

/-- Reason AREA. -/
def State.areaBad (s : State) (f : Nat) (x : Fn) (g : Ring) (h : DescHdr) : DescArea → Bool
  | .counterAdd _ _ => bit h.flags 0
  | .put a | .get a | .putWithSignal a => highOffset a.localOffset || highOffset a.remoteOffset
  | .mcastPut a =>
    highOffset a.localOffset || highOffset a.remoteOffset
      || (match s.sender? x.att a.group with | some r => r.fn != f | none => true)
  | .atomic a =>
    a.atomicOp == 0 || decide (6 < a.atomicOp) || (a.width != 4 && a.width != 8) || (a.compare != 0 && a.atomicOp != 2)
      || (a.width == 4 && (decide (2 ^ 32 ≤ a.operand) || decide (2 ^ 32 ≤ a.compare)))
      || highOffset a.localOffset || highOffset a.remoteOffset || bit a.opFlags 3 || (bit a.opFlags 4 && a.localOffset != 0)
  | .send a =>
    x.commBad g a.comm || (a.length == 0 && (a.localGen != 0 || a.localId != 0 || a.localOffset != 0))
  | .recv a =>
    x.commBad g a.comm
      || (a.length == 0 && !bit a.opFlags 1 && (a.localGen != 0 || a.localId != 0 || a.localOffset != 0))
  | .cancel _ => !x.matchEn
  | .collective a =>
    (match s.groupMember f x.att a.group with
     | some (grp, m) => !collOk a m.rank grp.size
     | none => true)
  | .command a =>
    a.packet % 8 != 0 || a.reply % 8 != 0 || decide (a.packetLength < 16) || decide (65544 < a.packetLength)
      || decide (a.replyLength < 16) || decide (65552 < a.replyLength)
  | _ => false

/-- The first reason, in the order of the table of R273, for which an entry is malformed; OPCODE is found before this. -/
def State.malformedReason (s : State) (f : Nat) (x : Fn) (g : Ring) (h : DescHdr) (a : DescArea) : Option Nat :=
  if !opcodeAllowed g.kind (descOpcode a) then some reasonWRONG_RING
  else if descReserved h a then some reasonRESERVED
  else if x.counterMissing h a then some reasonCOUNTER
  else if s.areaBad f x g h a then some reasonAREA
  else none

end Sys2Proof.Machine
end

