-- ==== Sys2Proof/Machine/Reassembly.lean ====
section
/-! DEFINITION. Reassembly at an endpoint engine (R150 to R158): ejected cells recorded by tag, complete parcels checked and handed on,
refusals answered (R328, R337), and the park buffer (R347). -/
namespace Sys2Proof.Machine

open Sys2Proof

/-! ### Answers (R328) -/

/-- Cells of an answer are injected while the grant and the pool let them pass (R193); the cells left. -/
def State.injectAnswer (s : State) (n : Nat) (a : OutAnswer) : State × List WireCell :=
  s.injectCells n a.fn 5 (s.levelClass a.fn) none a.cells

/-- Answers leave in order, as far as their colour and the grant allow (R193, R195, R197); those that stay. -/
def State.sendAnswers (s : State) (n : Nat) : List OutAnswer → State × List OutAnswer
  | [] => (s, [])
  | a :: t =>
    let m := if a.parcel then s.colourOf a.fn (s.levelClass a.fn) a.colour a.cells.length else (s, 0, .go)
    match m with
    | (s, _, .discard _) => (s.evidence 0x80038).sendAnswers n t
    | (s, k, .wait) =>
      let r := s.sendAnswers n t
      (r.1, { a with colour := some k } :: r.2)
    | (s, k, .go) =>
      let x := s.injectAnswer n a
      let r := x.1.sendAnswers n t
      (r.1, if x.2 = [] then r.2 else { a with cells := x.2, colour := if a.parcel then some k else none } :: r.2)

/-- The waiting answers of engine `n` leave under its grant. -/
def State.drainAnswers (s : State) (n : Nat) : State :=
  let r := s.sendAnswers n (s.engine n).answers
  r.1.modEngine n fun e => { e with answers := r.2 }

/-- Cells that an engine sends for function `f` outside the parcels of its flows wait for its grant (R193). Answers for a function that does
not exist go for the engine's PF. -/
def State.sendCells (s : State) (n f : Nat) (cells : List WireCell) (parcel : Bool) : State :=
  let a : OutAnswer := { fn := if (s.fn? f).isSome then f else n, cells := cells, parcel := parcel, colour := none }
  (s.modEngine n fun e => { e with answers := e.answers ++ [a] }).drainAnswers n

/-- An ACK or NACK. -/
def State.sendCell (s : State) (n f : Nat) (c : WireCell) : State := s.sendCells n f [c] false

def DstFlow.answer (x : DstFlow) (tag seq : Nat) : AnswerCell :=
  { AnswerCell.blank with dest := x.endpoint, tag := tag, flow := x.srcFlow, fn := x.srcFn, gen := x.srcGen, seq := seq }

/-- ACK a parcel (R330), with a grant of further tags (R324). -/
def State.ackGrant (s : State) (n : Nat) (x : DstFlow) (tag seq d : Nat) (result : Option Nat) (grant : List Nat) : State :=
  s.sendCell n x.fn
    ({ x.answer tag seq with
       value := d, code := (if result.isSome then 2 else 0), result := result.getD 0, grantBase := grant.headD 0,
       grantCount := grant.length } : AnswerCell).cell

/-- ACK a parcel, nothing further being granted. -/
def State.ack (s : State) (n : Nat) (x : DstFlow) (tag seq d : Nat) (result : Option Nat) : State := s.ackGrant n x tag seq d result []

/-- NACK a parcel (R337). -/
def State.nack (s : State) (n : Nat) (x : DstFlow) (tag seq kind subtype detail : Nat) : State :=
  s.sendCell n x.fn ({ x.answer tag seq with nack := true, code := kind, subtype := subtype, value := detail } : AnswerCell).cell

/-- An answer to a source whose flow this engine does not hold. -/
def Origin.answer (o : Origin) (seq : Nat) : AnswerCell :=
  { AnswerCell.blank with dest := o.endpoint, flow := o.flow, fn := o.fn, gen := o.gen, seq := seq }

/-- A back-off of 1 to 1,000 ticks that no rule states (R152, R241, R343): a free value. -/
def State.drawTicks (s : State) : Nat × State :=
  let r := s.draw
  (1 + r.1 % 1000, r.2)

/-- How a function that is not RUNNING, or that holds another generation, refuses a parcel (R156 step 2, R233, R245): the NACK's kind
and detail. -/
def State.roleRefusal (s : State) (f roleGen : Nat) : State × Option (Nat × Nat) :=
  match s.fn? f with
  | none => (s, some (nackSTALE_ROLE, s.gen f))
  | some x =>
    match x.state with
    | .RUNNING => (s, if roleGen = s.gen f then none else some (nackSTALE_ROLE, s.gen f))
    | .FREEZING | .FROZEN =>
      let r := s.drawTicks
      (r.2, some (nackRETRY_AFTER, r.1))
    | _ => (s, some (if x.resetRec.any (·.port) then nackPORT_RESET else nackFUNCTION_RESET, 0))

/-! ### Tags -/

def State.setTag (s : State) (n tag : Nat) (t : Tag) : State := s.modEngine n fun e => { e with tags := Tbl.put e.tags tag t }

/-- The function whose cells a tag's entries hold. -/
def State.tagFn (s : State) (n : Nat) : TagOwner → Option Nat
  | .flow d => (s.dstFlow? n d).map (·.fn)
  | .response f _ => (s.srcFlow? n f).map (·.fn)
  | .edge _ _ => none

def TagOwner.isResponse : TagOwner → Bool
  | .response _ _ => true
  | _ => false

/-- A stale answer (R155, R329). -/
def State.staleArrival (s : State) (n : Nat) : State := s.tally (attBase n + 0x30)

/-- A cell of nobody: a stale answer on a response tag, counted once with its first cell, a stray cell on any other (R154, R155, R329). -/
def State.strayCell (s : State) (n : Nat) (owner : Option TagOwner) (first : Bool) : State :=
  match owner with
  | some (.response _ _) => if first then s.staleArrival n else s
  | _ => s.evidence (peBase n + 0x7010)

/-- Reassembly use of an attachment is below its quota (R152, R165). -/
def State.quotaRoom (s : State) (n : Nat) : Bool :=
  decide ((s.engine n).reasmCells * 72 < Tbl.getD s.jn.quota n 64 * 65536)

/-- Does the parcel a head starts belong to the tag's owner (R155): by flow and role_gen, or for a chunk by its group? A chunk of another
epoch is the group's all the same, and R156 and R407 count it. -/
def State.owns (s : State) (n : Nat) (h : ParcelHdr) : TagOwner → Bool
  | .flow d => h.flow == d && (match s.dstFlow? n d with | some x => h.roleGen == x.gen | none => false)
  | .response f _ => h.flow == f && (match s.srcFlow? n f with | some x => h.roleGen == x.gen | none => false)
  | .edge g _ => h.flow == g

/-! ### Handing on (R156) -/

/-- A complete parcel is handed on. -/
def State.hand (s : State) (n : Nat) (mcast : Bool) (tag cells : Nat) (h : ParcelHdr) (stream : List Byte) : State :=
  let p : Parcel :=
    { mcast := mcast, tag := tag, cells := cells, flow := h.flow, roleGen := h.roleGen, op := h.op, seq := h.seq, length := h.length,
      sendTime := h.sendTime, area := h.area, data := (stream.drop 24).take h.length,
      delay := (s.ns + 2 ^ 32 - h.sendTime) % 2 ^ 32 }
  s.modEngine n fun e => { e with handed := e.handed ++ [p] }

/-- Count a reserved parcel that arrives later than D_res: every cell on VC6, no resent cell (R78). Where several reservations join the same
ends the lowest id is taken (DESIGN CHOICE: the cells do not say which). -/
def State.countLate (s : State) (resv : Reservation → Bool) (cells : List WireCell) (h : ParcelHdr) (tailAt : Nat) : State :=
  let resent := h.op < 0x20 && bit (rd h.area 11 1) 0
  if resent || cells.any (fun c => c.h.vc != 6) then s
  else match s.tt.resv.find? fun r => resv r.2 with
    | none => s
    | some (id, r) =>
      if 1500 + 350 * r.hops + r.flight < (tailAt + 2 ^ 32 - h.sendTime) % 2 ^ 32 then
        (s.setResv id { r with late := r.late + 1 }).evidence 0x30048
      else s

/-- The shape rule of R156 for a unicast parcel of n cells. -/
def shapeOk (n : Nat) (cells : Tbl WireCell) : Bool :=
  cells.all fun c => decide (c.1 < n) && (c.2.h.kind != 2 || c.1 + 1 == n)

/-- A complete parcel on a flow of this engine: shape, role, check, or handed on (R156). -/
def State.completeFlow (s : State) (n d tag : Nat) (h : ParcelHdr) (shape : Bool) (cells : List WireCell) (tailAt : Nat) : State :=
  match s.dstFlow? n d with
  | none => s
  | some x =>
    let stream := cells.flatMap (·.payload)
    if !shape then (s.evidence (peBase n + 0x7018)).nack n x tag h.seq nackCHECK 0 0
    else match s.roleRefusal x.fn h.roleGen with
      | (s, some (k, det)) => s.nack n x tag h.seq k 0 det
      | (s, none) =>
        if streamOk h.length stream then
          let s := s.countLate (fun r => r.destKind == 0 && r.dest == s.endpoint n && r.destFn == x.fn && r.source == x.endpoint
            && r.sourceFn == x.srcFn) cells h tailAt
          s.hand n false tag cells.length h stream
        else (s.evidence (peBase n + 0x7018)).nack n x tag h.seq nackCHECK 0 0

/-- A complete response: never answered with a NACK (R156). -/
def State.completeResponse (s : State) (n f tag : Nat) (h : ParcelHdr) (shape : Bool) (cells : List WireCell) : State :=
  let stream := cells.flatMap (·.payload)
  if !shape then s.evidence (peBase n + 0x7018)
  else match s.srcFlow? n f with
    | none => s.staleArrival n
    | some x =>
      if x.gen ≠ s.gen x.fn then s.staleArrival n
      else if streamOk h.length stream then s.hand n false tag cells.length h stream
      else s.evidence (peBase n + 0x7018)

/-- A complete chunk goes to the Roundhouse; one of another epoch is discarded (R407). -/
def State.completeChunk (s : State) (n g edge tag : Nat) (h : ParcelHdr) (shape : Bool) (cells : List WireCell) : State :=
  let stream := cells.flatMap (·.payload)
  if !shape then s.evidence (peBase n + 0x7018)
  else match Tbl.get? s.rh.groups g with
    | none => s
    | some x =>
      if h.roleGen ≠ x.epoch then s.evidence 0x600030
      else if streamOk h.length stream then
        let p : Parcel :=
          { mcast := false, tag := tag, cells := cells.length, flow := h.flow, roleGen := h.roleGen, op := h.op, seq := h.seq,
            length := h.length, sendTime := h.sendTime, area := h.area, data := (stream.drop 24).take h.length,
            delay := (s.ns + 2 ^ 32 - h.sendTime) % 2 ^ 32 }
        { s with rh := { s.rh with inbox := s.rh.inbox ++ [(edge, p)] } }
      else s.evidence (peBase n + 0x7018)

def State.completeOwned (s : State) (n tag : Nat) (owner : TagOwner) (h : ParcelHdr) (shape : Bool) (cells : List WireCell)
    (tailAt : Nat) : State :=
  match owner with
  | .flow d => s.completeFlow n d tag h shape cells tailAt
  | .response f _ => s.completeResponse n f tag h shape cells
  | .edge g e => s.completeChunk n g e tag h shape cells

/-! ### Cells of two or more (R152, R153) -/

/-- Record a cell in an entry; a complete one is taken from the tag, and a head of another owner frees it (R153, R155, R156). -/
def State.recordCell (s : State) (n tag : Nat) (t : Tag) (r : Reasm) (c : WireCell) : State :=
  let i := c.h.index
  if Tbl.has r.cells i then s.tally (peBase n + 0x7008)
  else
    let s := match s.tagFn n t.owner with | some f => s.meter f 1 1 | none => s
    let r : Reasm := { cells := Tbl.put r.cells i c, last := s.ns, tailAt := if c.h.kind = 2 then s.ns else r.tailAt }
    let t := { t with nacked := false }
    match Tbl.get? r.cells 0 with
    | none => s.setTag n tag { t with entry := some r }
    | some head =>
      let h := head.parcel
      let k := parcelCells h.length
      if i = 0 ∧ !s.owns n h t.owner then (s.setTag n tag { t with entry := none }).strayCell n (some t.owner) true
      else if (List.range k).all fun j => Tbl.has r.cells j then
        (s.setTag n tag { t with entry := none }).completeOwned n tag t.owner h (shapeOk k r.cells) (r.cells.map (·.2)) r.tailAt
      else s.setTag n tag { t with entry := some r }

/-- A cell that may not open an entry: discarded, and the flow told once (R152). -/
def State.refuseCell (s : State) (n tag : Nat) (t : Tag) : State :=
  let s := s.evidence (peBase n + 0x701C)
  match t.owner with
  | .flow d =>
    match t.nacked, s.dstFlow? n d with
    | false, some x =>
      let r := s.drawTicks
      (r.2.setTag n tag { t with nacked := true }).nack n x tag x.base nackRETRY_AFTER 0 r.1
    | _, _ => s
  | _ => s

def State.taggedCell (s : State) (n : Nat) (c : WireCell) : State :=
  let tag := c.h.tag
  match Tbl.get? (s.engine n).tags tag with
  | none => s.strayCell n none true
  | some t =>
    if t.quarantine.isSome then s.strayCell n (some t.owner) (c.h.index == 0)
    else match t.entry with
      | some r => s.recordCell n tag t r c
      | none =>
        let free := match t.owner with | .edge _ _ => true | _ => false
        if free || s.quotaRoom n then s.recordCell n tag t { cells := [], last := s.ns, tailAt := s.ns } c
        else s.refuseCell n tag t

/-! ### SINGLE cells (R155) -/

def isTaggedSingle (op : Nat) : Bool := op == opGET_RESP || op == opCOLL_UP || op == opCOLL_DOWN

/-- A SINGLE that names a tag: complete at once, its tag's state unchanged. -/
def State.taggedSingle (s : State) (n : Nat) (c : WireCell) (h : ParcelHdr) : State :=
  match Tbl.get? (s.engine n).tags c.h.tag with
  | none => s.strayCell n none true
  | some t =>
    if t.quarantine.isSome || !s.owns n h t.owner then s.strayCell n (some t.owner) true
    else
      let s := match s.tagFn n t.owner with | some f => s.meter f 1 1 | none => s
      s.completeOwned n c.h.tag t.owner h (parcelCells h.length == 1) [c] s.ns

/-- Source of an OPEN (R148, R319). -/
def openOrigin (h : ParcelHdr) (c : WireCell) : Origin :=
  { endpoint := rd h.area 0 4 % 2 ^ 21, fn := rd h.area 0 4 / 2 ^ 21, flow := h.flow, gen := rd c.payload 24 1 }

def openDstFn (h : ParcelHdr) : Nat := rd h.area 4 2 % 2048

/-- An answer of engine `n` to an origin, sent for function `f`. -/
def State.nackOrigin (s : State) (n f : Nat) (o : Origin) (seq kind detail : Nat) : State :=
  s.sendCell n f ({ o.answer seq with nack := true, code := kind, value := detail } : AnswerCell).cell

/-- An OPEN: role and check, or handed on. A destination function of another attachment is none of this engine's. -/
def State.openSingle (s : State) (n : Nat) (c : WireCell) (h : ParcelHdr) : State :=
  let o := openOrigin h c
  let f := openDstFn h
  if parcelCells h.length ≠ 1 then (s.evidence (peBase n + 0x7018)).nackOrigin n f o h.seq nackCHECK 0
  else
    let r := if s.engineOf f = n then s.roleRefusal f h.roleGen else (s, some (nackSTALE_ROLE, s.gen f))
    match r with
    | (s, some (k, det)) => s.nackOrigin n f o h.seq k det
    | (s, none) =>
      let s := s.meter f 1 1
      if streamOk h.length c.payload then s.hand n false 0 1 h c.payload
      else (s.evidence (peBase n + 0x7018)).nackOrigin n f o h.seq nackCHECK 0

/-- A SINGLE of a flow; one of a flow not held is answered where the engine knows whose the id was (R322, R324). -/
def State.flowSingle (s : State) (n : Nat) (c : WireCell) (h : ParcelHdr) : State :=
  match s.dstFlow? n h.flow with
  | some x =>
    (s.meter x.fn 1 1).completeFlow n h.flow 0 h (parcelCells h.length == 1) [c] s.ns
  | none =>
    match Tbl.get? (s.engine n).gone h.flow with
    | none => s.evidence (peBase n + 0x7010)
    | some o =>
      if !streamOk h.length c.payload then s
      else if h.op = opCLOSE then s.sendCell n (n) ((o.answer h.seq) : AnswerCell).cell
      else s.nackOrigin n n o h.seq nackNO_FLOW 0

/-! ### Multicast cells (R158) -/

/-- A multicast answer of a member (R354). -/
def Member.answer (m : Member) (group seq : Nat) : AnswerCell :=
  { AnswerCell.blank with dest := m.sender, flow := group, fn := m.senderFn, seq := seq, member := m.index, mcast := true }

/-- A MULTICAST cell at an engine (R158); a copy whose member record is gone is dropped as R183 says. -/
def State.mcastCell (s : State) (n : Nat) (c : WireCell) : State :=
  let group := c.h.dest % 4096
  let key := group * 65536 + c.h.tag
  let e := s.engine n
  match Tbl.get? e.members group with
  | none => s.evidence 0x100038
  | some m =>
    let old := Tbl.get? e.mreasm key
    if old.isNone ∧ 1024 ≤ e.mreasm.length then s.evidence (peBase n + 0x701C)
    else
      let r := old.getD { cells := [], last := s.ns, tailAt := s.ns }
      if Tbl.has r.cells c.h.index then s.tally (peBase n + 0x7008)
      else
        let s := s.meter m.fn 1 1
        let tail := r.cells.all fun x => decide (x.1 < c.h.index)
        let r : Reasm := { cells := Tbl.put r.cells c.h.index c, last := s.ns, tailAt := if tail then s.ns else r.tailAt }
        let free := fun (s : State) => s.modEngine n fun e => { e with mreasm := Tbl.del e.mreasm key }
        let keep := s.modEngine n fun e => { e with mreasm := Tbl.put e.mreasm key r }
        match Tbl.get? r.cells 0 with
        | none => keep
        | some head =>
          let h := head.parcel
          let k := parcelCells h.length
          if rd h.area 0 4 % 2 ^ 21 ≠ m.sender ∨ rd h.area 0 4 / 2 ^ 21 ≠ m.senderFn then
            (free s).evidence (peBase n + 0x7010)
          else if (List.range k).all fun j => Tbl.has r.cells j then
            let cells := r.cells.map (·.2)
            let stream := cells.flatMap (·.payload)
            if r.cells.all (fun c => decide (c.1 < k)) && streamOk h.length stream then
              let s := (free s).countLate (fun x => x.destKind == 1 && x.dest == group && x.source == m.sender
                && x.sourceFn == m.senderFn) cells h r.tailAt
              s.hand n true c.h.tag cells.length h stream
            else
              ((free s).evidence (peBase n + 0x7018)).sendCell n m.fn
                ({ m.answer group h.seq with nack := true, code := nackCHECK, tag := c.h.tag } : AnswerCell).cell
          else keep

/-! ### The rows -/

/-- The oldest ejected cell that satisfies `f`, and the engine without it. -/
def Engine.takeCell (e : Engine) (f : WireCell → Bool) : Option (WireCell × Engine) :=
  (e.ejected.find? f).map fun c => (c, { e with ejected := e.ejected.erase c })

/-- A data cell: not an answer, not CONTROL. -/
def isDataCell (c : WireCell) : Bool := decide (c.h.kind < 4) || c.h.kind == 6

/-- What an engine does with one ejected cell. -/
def State.reasmCell (s : State) (n : Nat) (c : WireCell) : State :=
  if c.h.kind = 6 then s.mcastCell n c
  else if c.h.kind = 3 then
    let h := c.parcel
    if isTaggedSingle h.op then s.taggedSingle n c h
    else if h.op = opOPEN then s.openSingle n c h
    else s.flowSingle n c h
  else s.taggedCell n c

/-- Is engine `n` at work? -/
def State.engineWorks (s : State) (n : Nat) : Bool := s.alive && s.hasEngine n && s.rst.mode != .HEATH

/-- REASM_CELL_RECEIVE (R152 to R156, R158): the oldest ejected data cell. -/
def execReasmCellReceive (pe : Nat) (s : State) : Host.Outcome State Fault Refusal :=
  match s.engineWorks pe, (s.engine pe).takeCell isDataCell with
  | true, some (c, e) => .next (((s.setEngine pe e).reasmCell pe c).refreshXoff)
  | _, _ => .next s

/-- REASM_ENTRY_TIMEOUT (R157): an entry with no cell for 4 frames is freed. -/
def execReasmEntryTimeout (pe tag : Nat) (mcast : Bool) (s : State) : Host.Outcome State Fault Refusal :=
  let e := s.engine pe
  let due := fun (r : Reasm) => decide (r.last + 4000000 ≤ s.ns)
  if !s.engineWorks pe then .next s
  else if mcast then
    match Tbl.get? e.mreasm tag with
    | some r =>
      if due r then .next ((s.setEngine pe { e with mreasm := Tbl.del e.mreasm tag }).evidence (peBase pe + 0x7014)).refreshXoff
      else .next s
    | none => .next s
  else
    match Tbl.get? e.tags tag with
    | some t =>
      match t.entry with
      | some r =>
        if due r then .next ((s.setTag pe tag { t with entry := none }).evidence (peBase pe + 0x7014)).refreshXoff else .next s
      | none => .next s
    | none => .next s

/-- TAG_QUARANTINE_EXPIRY (R151): after 2 frames the tag is FREE. -/
def execTagQuarantineExpiry (pe tag : Nat) (s : State) : Host.Outcome State Fault Refusal :=
  match s.engineWorks pe, (Tbl.get? (s.engine pe).tags tag).bind (·.quarantine) with
  | true, some u =>
    if u ≤ s.ns then .next (s.modEngine pe fun e => { e with tags := Tbl.del e.tags tag }) else .next s
  | _, _ => .next s

/-! ### The park buffer (R347) -/

/-- Bytes of the park buffer in use. -/
def State.parkUsed (s : State) : Nat := sumNat (s.engines.map fun e => e.2.parkedCells * 72)

/-- A parcel or answer whose context is not cached waits while the context is fetched. The result says whether there was room. -/
def State.park (s : State) (n id : Nat) (isSource : Bool) (item : Parked) (cells : Nat) : State × Bool :=
  if 4194304 < s.parkUsed + cells * 72 then (s, false)
  else
    let k := (n, id, isSource)
    let fetch := !s.cs.fetching.contains k
    let s := s.modEngine n fun e => { e with parked := e.parked ++ [(id, isSource, item)] }
    let s := { s with cs := { s.cs with fetching := if fetch then s.cs.fetching ++ [k] else s.cs.fetching,
                                        parkPeak := maxN s.cs.parkPeak (ceilDiv s.parkUsed 1024) } }
    match fetch && s.cs.isSpilled k, s.manager with
    | true, some a => (s.dmaRead a (s.cs.spillBase + 512 * s.cs.spillPlace k) 512 (.spill n id isSource) none 0, true)
    | _, _ => (s, true)

/-- Is a context in the on-die cache? -/
def State.isCached (s : State) (n id : Nat) (isSource : Bool) : Bool := s.cs.cached.contains (n, id, isSource)

end Sys2Proof.Machine
end

