-- ==== Sys2Proof/Machine/Target.lean ====
section
/-! DEFINITION. The destination side of flows (09_remote_operations.md): OPEN (R319 to R322), sequence and duplicates (R339), placement
and its ACK (R35, R297), GET (R327), atomics (R342 to R345), SIGNAL, CLOSE (R324), multicast members (R354) and repairs (R355). -/
namespace Sys2Proof.Machine

open Sys2Proof

/-! ### Sequence (R339) -/

/-- The numbers at the head of a done map leave it as base passes them. -/
def advanceBase : (fuel : Nat) → (base : Nat) → List Nat → Nat × List Nat
  | 0, b, l => (b, l)
  | n + 1, b, l => if l.contains b then advanceBase n ((b + 1) % 4096) (l.filter (· != b)) else (b, l)

/-- How a completed parcel is classified. -/
inductive SeqClass where
  | fresh | busy | again
  deriving DecidableEq, Repr

def classifySeq (base : Nat) (done busy : List Nat) (seq : Nat) : SeqClass :=
  let k := (seq + 4096 - base) % 4096
  if 2048 ≤ k ∨ done.contains seq then .again else if busy.contains seq then .busy else .fresh

/-- Base and done map once a number is done; one that base has passed already changes nothing. -/
def seqFinish (base : Nat) (done : List Nat) (seq : Nat) : Nat × List Nat :=
  if (seq + 4096 - base) % 4096 < 2048 ∧ !done.contains seq then advanceBase 2048 base (seq :: done) else (base, done)

/-- A sequence number is done; a final NACK kept for an earlier parcel of the same number goes. -/
def DstFlow.finish (x : DstFlow) (seq : Nat) : DstFlow :=
  let r := seqFinish x.base x.done seq
  { x with base := r.1, done := r.2, busy := x.busy.filter (· != seq), finals := x.finals.filter fun y => y.1 != seq }

def Member.finish (m : Member) (seq : Nat) : Member :=
  let r := seqFinish m.base m.done seq
  { m with base := r.1, done := r.2, busy := m.busy.filter (· != seq) }

def State.seqDone (s : State) (n d seq : Nat) : State := s.modDst n d fun x => x.finish seq

/-- A refusal after which the parcel may come again: it is not done. -/
def State.refuseParcel (s : State) (n d : Nat) (tag seq kind detail : Nat) : State :=
  match s.dstFlow? n d with
  | none => s
  | some x => (s.setDst n d { x with busy := x.busy.filter (· != seq) }).nack n x tag seq kind 0 detail

/-- A final NACK: it settles the parcel's place in the flow, and is repeated when the parcel comes again. -/
def State.refuseFinal (s : State) (n d : Nat) (tag seq kind subtype detail : Nat) : State :=
  match s.dstFlow? n d with
  | none => s
  | some x =>
    let y := x.finish seq
    let s := s.setDst n d { y with finals := (seq, kind, subtype, detail) :: y.finals.take 2047 }
    s.nack n x tag seq kind subtype detail

/-- A contiguous run of at most `want` free tags from `t` on, tag 0 excepted. -/
def Engine.runLength (e : Engine) : (fuel t : Nat) → Nat
  | 0, _ => 0
  | n + 1, t => if t < 65536 ∧ !Tbl.has e.tags t then e.runLength n (t + 1) + 1 else 0

def Engine.freeRun (e : Engine) (want : Nat) : Option (List Nat) :=
  e.freeTagNo.map fun t => (List.range (e.runLength want t)).map fun i => t + i

/-- The tags that an ACK grants a flow further: those that go on its run, while it holds fewer than it asked for (R320, R324). -/
def Engine.further (e : Engine) (x : DstFlow) : List Nat :=
  match x.tags.getLast? with
  | some t => (List.range (e.runLength (x.want - x.tags.length) (t + 1))).map fun i => t + 1 + i
  | none => []

/-- Grant tags of engine n to flow d. -/
def Engine.grantFlowTags (e : Engine) (d : Nat) (ts : List Nat) : Engine :=
  { e with tags := ts.foldl (fun l i => Tbl.put l i { owner := .flow d, quarantine := none, entry := none, nacked := false }) e.tags }

/-- A parcel is done, and acknowledged; its ACK grants further tags where the flow holds fewer than its OPEN asked for (R150, R324). -/
def State.acceptParcel (s : State) (n d : Nat) (tag seq delay : Nat) (result : Option Nat) : State :=
  match s.dstFlow? n d with
  | none => s
  | some x =>
    let ts := (s.engine n).further x
    let y := x.finish seq
    let s := (s.setDst n d { y with tags := y.tags ++ ts }).modEngine n fun e => e.grantFlowTags d ts
    s.ackGrant n x tag seq delay result ts

/-- A remote access has failed (R349). Where the host gave no translation the parcel is not done and not answered: its source sends it
again. -/
def State.violated (s : State) (n d : Nat) (tag seq sub window : Nat) : State :=
  match s.dstFlow? n d with
  | none => s
  | some x =>
    if sub = subATS then s.setDst n d { x with busy := x.busy.filter (· != seq) }
    else
    let s := if x.violFrame = some s.frame then s
      else (s.setDst n d { x with violFrame := some s.frame }).raise 0x0C2 (some x.fn)
        (x.endpoint + at_ x.srcFn 21 + at_ window 32 + at_ sub 56)
    s.refuseFinal n d tag seq nackACCESS sub window

/-- A parcel whose reserved fields are not zero, or that R337 names: BAD_OP. -/
def State.badOp (s : State) (n d : Nat) (p : Parcel) : State := s.refuseFinal n d p.tag p.seq nackBAD_OP 0 p.seq

/-! ### OPEN (R319 to R322) -/

/-- The destination function's domain that has the job number (R285). -/
def State.domainByJob (s : State) (f job : Nat) : Option Nat :=
  if job = 0 then none else (s.wu.domains.find? fun d => d.2.fn == f && d.2.job == job).map (·.1)

/-- The answer to an OPEN. -/
def State.openAnswer (s : State) (n : Nat) (d : Nat) (x : DstFlow) (seq delay : Nat) : State :=
  s.sendCell n x.fn
    ({ x.answer 0 seq with
       value := delay, code := 1, openFlow := d, grantBase := x.tags.headD 0, grantCount := x.tags.length } : AnswerCell).cell

/-- An OPEN that is not served now (R321). -/
def State.refuseOpen (s : State) (n f : Nat) (o : Origin) (seq : Nat) : State :=
  let s := s.evidence (peBase n + 0x602C)
  let s := if (s.engine n).quotaFrame = some s.frame then s
    else (s.modEngine n fun e => { e with quotaFrame := some s.frame }).raise 0x0C1 (some f) 0
  s.nackOrigin n f o seq nackRETRY_AFTER 16

/-- Create a destination flow and answer its OPEN. -/
def State.createFlow (s : State) (n f : Nat) (o : Origin) (p : Parcel) (ordered : Bool) (job : Nat) : State :=
  let want := maxN 1 (minN 64 (rd p.data 1 1))
  let quota := match s.fn? f with | some y => y.ctxQuota | none => 0
  match (if s.ctxsOf f < quota then s.ctxRoom else none), (s.engine n).freeRun want with
  | some s, some tags =>
    let e := s.engine n
    let d := Tbl.free e.dst 4194304 e.nextDst
    let x : DstFlow :=
      { endpoint := o.endpoint, srcFn := o.fn, srcFlow := o.flow, srcGen := o.gen, fn := f, gen := s.gen f,
        domain := s.domainByJob f job, ordered := ordered, base := p.seq, done := [], busy := [], tags := tags, staged := [],
        results := [], finals := [], violFrame := none, want := want }
    let s := s.setEngine n
      ({ e with dst := Tbl.put e.dst d x, nextDst := (d + 1) % 4194304, gone := Tbl.del e.gone d } : Engine) |>.modEngine n
        fun e => e.grantFlowTags d tags
    (s.touch (n, d, false)).openAnswer n d x p.seq p.delay
  | _, _ => s.refuseOpen n f o p.seq

/-- An OPEN of a flow whose context is not cached waits for it, or is refused (R347). -/
def State.parkOpen (s : State) (n d f : Nat) (o : Origin) (p : Parcel) : State :=
  match s.park n d false (.parcel p) p.cells with
  | (s, true) => s
  | (s, false) =>
    (s.evidence 0x500128).nackOrigin n f o p.seq nackRETRY_AFTER (if s.cs.isSpilled (n, d, false) then 4 else 1)

/-- An OPEN (R319 to R322, R347): a flow already held is answered with its id and grant. One that was handed on before its function was cut
off, or froze, is refused (R235, R241). -/
def State.carryOpen (s : State) (n : Nat) (p : Parcel) : State :=
  let v := rd p.area 0 12
  let o : Origin := { endpoint := bits v 20 0, fn := bits v 31 21, flow := p.flow, gen := rd p.data 0 1 }
  let f := bits v 42 32
  match s.roleRefusal f p.roleGen with
  | (s, some (k, det)) => s.nackOrigin n f o p.seq k det
  | (s, none) =>
  match (s.engine n).dst.find? fun x => x.2.endpoint == o.endpoint && x.2.srcFn == o.fn && x.2.srcFlow == o.flow
      && x.2.srcGen == o.gen && x.2.fn == f with
  | some (d, x) => if s.isCached n d false then (s.touch (n, d, false)).openAnswer n d x p.seq p.delay else s.parkOpen n d f o p
  | none =>
    if bits v 47 43 ≠ 0 ∨ bits v 95 82 ≠ 0 ∨ p.data.length ≠ 8 ∨ rd p.data 2 6 ≠ 0 then
      s.nackOrigin n f o p.seq nackBAD_OP p.seq
    else if bit v 81 then s.nackOrigin n f o p.seq nackNO_FLOW 0
    else if s.rst.mode = .DRAIN then s.nackOrigin n f o p.seq nackRETRY_AFTER 16
    else s.createFlow n f o p (bit v 80) (bits v 79 48)

/-! ### Placement (R35, R291 to R298) -/

/-- Place data in a remote window of a flow's domain: translated now, issued and acknowledged at ACK_SEND. -/
def State.placeFlow (s : State) (n client d : Nat) (x : DstFlow) (p : Parcel) (data : List Byte) : State :=
  let key := rd p.area 0 4
  let gen := rd p.area 4 1
  let off := rd p.area 5 6
  match s.resolveRemote client x.domain key gen .write off data.length 0 with
  | (s, .bad sub) => s.violated n d p.tag p.seq sub (key % 2 ^ 24)
  | (s, .ok ps) =>
    let w : Placing :=
      { client := client, fn := x.fn, domain := x.domain.getD 0, window := key % 2 ^ 24, winGen := gen, offset := off, data := data,
        writes := cutWrites ps data, cut := false, redo := false, flow := some (d, p.seq), member := none, tag := p.tag,
        delay := p.delay }
    s.modEngine n fun e => { e with placing := e.placing ++ [w] }

/-- Are the reserved bits of a Window area zero (R148, R326)? -/
def windowAreaOk (area : List Byte) : Bool := decide (rd area 5 6 < 2 ^ 43) && decide (rd area 11 1 < 2)

def State.carryPut (s : State) (n d : Nat) (x : DstFlow) (p : Parcel) : State :=
  if windowAreaOk p.area then s.placeFlow n n d x p p.data else s.badOp n d p

/-- An elided parcel is expanded and placed by the Baler, through its own translation cache (R300, R442). -/
def State.carryElided (s : State) (n d : Nat) (x : DstFlow) (p : Parcel) : State :=
  if !windowAreaOk p.area || rd p.data 4 4 != 0 then s.badOp n d p
  else match expand p.data with
    | some data => s.placeFlow n clientBALER d x p data
    | none => (s.evidence 0x700040).badOp n d p

/-! ### GET (R327) -/

/-- Read host memory for a response; the job goes on when its reads have returned. -/
def State.serve (s : State) (n d fn : Nat) (seq tag delay : Nat) (place : Option Nat) (offset : Nat) (pieces : List (Nat × Nat)) :
    State :=
  let r := s.readPieces fn (.response n d seq) place offset pieces
  let job : Serving := { flow := d, seq := seq, tag := tag, delay := delay, reads := r.2, pieces := [] }
  r.1.modEngine n fun e => { e with serving := (e.serving.filter fun j => !(j.flow == d && j.seq == seq)) ++ [job] }

def State.carryGet (s : State) (n d : Nat) (x : DstFlow) (p : Parcel) : State :=
  let len := rd p.data 0 4
  if !windowAreaOk p.area || p.data.length != 8 || len == 0 || decide (65472 < len) || rd p.data 6 2 != 0 then s.badOp n d p
  else
    let key := rd p.area 0 4
    match s.resolveRemote n x.domain key (rd p.area 4 1) .read (rd p.area 5 6) len 0 with
    | (s, .bad sub) => s.violated n d p.tag p.seq sub (key % 2 ^ 24)
    | (s, .ok ps) => s.serve n d x.fn p.seq (rd p.data 4 2) p.delay none 0 ps

/-- The response is sent, and its request is done. -/
def State.respond (s : State) (n d : Nat) (j : Serving) : State :=
  match s.dstFlow? n d with
  | none => s
  | some x =>
    let data := j.reads.flatMap fun t => Tbl.getD j.pieces t []
    let h : ParcelHdr :=
      { sendTime := s.ns, length := data.length, seq := j.seq, op := opGET_RESP, roleGen := x.srcGen, flow := x.srcFlow,
        area := le 4 j.delay }
    (s.setDst n d (x.finish j.seq)).sendCells n x.fn (parcelBuild 5 x.endpoint j.tag j.tag h data) true

/-- A piece of a response has been read. -/
def State.servePiece (s : State) (n d seq tag : Nat) (bytes : List Byte) : State :=
  match (s.engine n).serving.find? fun j => j.flow == d && j.seq == seq && j.reads.contains tag with
  | none => s
  | some j =>
    let k := { j with pieces := Tbl.put j.pieces tag bytes }
    let others := (s.engine n).serving.filter (· != j)
    if k.reads.all fun t => Tbl.has k.pieces t then
      (s.modEngine n fun e => { e with serving := others }).respond n d k
    else s.modEngine n fun e => { e with serving := others ++ [k] }

/-- A read for a response has failed: the request stays not done, and its source asks again. -/
def State.serveFails (s : State) (n d seq : Nat) : State :=
  (s.modEngine n fun e => { e with serving := e.serving.filter fun j => !(j.flow == d && j.seq == seq) }).modDst n d fun x =>
    { x with busy := x.busy.filter (· != seq) }

/-! ### Atomics (R342 to R345) -/

/-- The new value of an atomic (R309). -/
def atomicResult (op width operand compare old : Nat) : Nat :=
  let m := 2 ^ (8 * width)
  if op = 1 then (old + operand) % m
  else if op = 2 then (if old = compare % m then operand % m else old)
  else if op = 3 then operand % m
  else if op = 4 then (old &&& operand) % m
  else if op = 5 then (old ||| operand) % m
  else (old ^^^ operand) % m

/-- The marks of an atomic, before a request of it is handed to the host port (R302, R303). -/
def State.markAtomic (s : State) (n : Nat) (j : AtomicJob) : State := s.marks n j.domain j.window j.winGen .atomic j.offset j.width

/-- Issue an atomic whose address is free. -/
def State.issueAtomic (s : State) (n fn : Nat) (j : AtomicJob) : State :=
  let k := { j with dma := some s.nextDma }
  let s := s.markAtomic n j
  let s := s.modEngine n fun e => { e with atomics := e.atomics.map fun y => if y = j then k else y }
  if j.pcie then s.dmaRead fn j.addr j.width (.atomicOp n j.flow j.seq j.op j.width j.operand j.compare) none 0
  else s.dmaRead fn j.addr j.width (.atomic n j.flow j.seq) none 0

/-- An atomic that carries out on an address which none before it holds is issued (R342). -/
def State.startAtomic (s : State) (n : Nat) (word : Nat) : State :=
  match (s.engine n).atomics.find? fun j => j.addr / 8 == word with
  | some j =>
    match j.dma, s.dstFlow? n j.flow with
    | none, some x => s.issueAtomic n x.fn j
    | _, _ => s
  | none => s

def State.carryAtomic (s : State) (n d : Nat) (x : DstFlow) (p : Parcel) : State :=
  let op := rd p.data 0 1
  let width := rd p.data 1 1
  if !windowAreaOk p.area || p.data.length != 24 || op == 0 || decide (6 < op) || (width != 4 && width != 8)
      || rd p.data 2 6 != 0 then s.badOp n d p
  else
    let key := rd p.area 0 4
    match s.resolveRemote n x.domain key (rd p.area 4 1) .atomic (rd p.area 5 6) width width with
    | (s, .bad sub) => s.violated n d p.tag p.seq sub (key % 2 ^ 24)
    | (s, .ok ps) =>
      let addr := (ps.head?.map (·.1)).getD 0
      let enabled := match s.fn? x.fn with | some y => y.atomicEnable | none => false
      let j : AtomicJob :=
        { flow := d, seq := p.seq, delay := p.delay, addr := addr, domain := x.domain.getD 0, window := key % 2 ^ 24,
          winGen := rd p.area 4 1, offset := rd p.area 5 6, op := op, width := width, operand := rd p.data 8 8,
          compare := rd p.data 16 8, dma := none, pcie := enabled && decide (op ≤ 3) }
      (s.modEngine n fun e => { e with atomics := e.atomics ++ [j] }).startAtomic n (addr / 8)

/-- The old value of an atomic has returned: it is executed, cached and answered (R345). -/
def State.atomicDone (s : State) (n d seq : Nat) (bytes : List Byte) : State :=
  match (s.engine n).atomics.find? fun j => j.flow == d && j.seq == seq, s.dstFlow? n d with
  | some j, some x =>
    let old := ofLe (bytes.take j.width)
    let s := s.modEngine n fun e => { e with atomics := e.atomics.filter (· != j) }
    let s := if j.pcie then s else (s.markAtomic n j).write x.fn j.addr (le j.width (atomicResult j.op j.width j.operand j.compare old))
    let s := s.modDst n d fun x => { x with results := ((seq, old) :: x.results.filter fun r => r.1 != seq).take 64 }
    (s.acceptParcel n d 0 seq j.delay (some old)).startAtomic n (j.addr / 8)
  | _, _ => s

/-- The read of an atomic has failed: it has not been executed, and may come again. -/
def State.atomicFails (s : State) (n d seq : Nat) : State :=
  match (s.engine n).atomics.find? fun j => j.flow == d && j.seq == seq with
  | some j =>
    let s := s.modEngine n fun e => { e with atomics := e.atomics.filter (· != j) }
    (s.modDst n d fun x => { x with busy := x.busy.filter (· != seq) }).startAtomic n (j.addr / 8)
  | none => s

/-- An atomic not issued yet whose translation was taken back: it is translated again from the table, or fails with CUT_OFF (R297, R298). -/
def State.redoAtomic (s : State) (n : Nat) (j : AtomicJob) : State :=
  match s.resolve n j.domain j.window j.winGen none true .atomic j.offset j.width j.width with
  | (s, .ok ps) =>
    let addr := (ps.head?.map (·.1)).getD 0
    (s.modEngine n fun e => { e with atomics := e.atomics.map fun y => if y = j then { y with addr := addr } else y }).startAtomic n (addr / 8)
  | (s, .bad sub) =>
    (s.modEngine n fun e => { e with atomics := e.atomics.filter (· != j) }).violated n j.flow 0 j.seq
      (if sub = subATS then subATS else subCUT_OFF) j.window

/-- An atomic not issued yet is cut off by a revocation (R297, R298). -/
def State.cutAtomic (s : State) (n : Nat) (j : AtomicJob) : State :=
  (s.modEngine n fun e => { e with atomics := e.atomics.filter (· != j) }).violated n j.flow 0 j.seq subCUT_OFF j.window

/-- Atomics of an engine that are not issued yet and satisfy `f` lose their translation. -/
def State.redoAtomics (s : State) (n : Nat) (revoke : Bool) (f : AtomicJob → Bool) : State :=
  ((s.engine n).atomics.filter fun j => j.dma.isNone && f j).foldl (fun s j => if revoke then s.cutAtomic n j else s.redoAtomic n j) s

/-! ### SIGNAL and CLOSE (R324, R325) -/

def State.carrySignal (s : State) (n d : Nat) (x : DstFlow) (p : Parcel) : State :=
  let c := rd p.area 0 2
  if 4096 ≤ c ∨ rd p.area 2 2 ≠ 0 ∨ p.data ≠ [] then s.badOp n d p
  else if (s.counter? x.fn c).isNone then s.refuseFinal n d p.tag p.seq nackNO_COUNTER 0 c
  else (s.advance x.fn c (rd p.area 4 8)).acceptParcel n d p.tag p.seq p.delay none

/-- A destination flow ceases to exist: its tags go to QUARANTINE, its jobs end. -/
def State.dropDst (s : State) (n d : Nat) : State :=
  let s := s.modEngine n fun e =>
    { e with
      dst := Tbl.del e.dst d
      tags := Tbl.mapVal e.tags fun _ t => if t.owner = .flow d ∧ t.quarantine = none then t.release s.ns else t
      serving := e.serving.filter fun j => j.flow != d
      atomics := e.atomics.filter fun j => j.flow != d
      handed := e.handed.filter fun p => !(p.flow == d && !p.mcast && p.op != opOPEN && p.op != opGET_RESP)
      parked := e.parked.filter fun p => !(p.1 == d && !p.2.1)
      placing := e.placing.filter fun w => (w.flow.map (·.1)) != some d }
  s.forgetCtx (n, d, false)

/-- A CLOSE, all of whose area is zero and which has no data (R324, R325). -/
def State.carryClose (s : State) (n d : Nat) (x : DstFlow) (p : Parcel) : State :=
  if rd p.area 0 12 ≠ 0 ∨ p.data ≠ [] then s.badOp n d p
  else
  let s := s.acceptParcel n d p.tag p.seq p.delay none
  let o : Origin := { endpoint := x.endpoint, fn := x.srcFn, flow := x.srcFlow, gen := x.srcGen }
  (s.dropDst n d).modEngine n fun e => { e with gone := Tbl.put e.gone d o }

/-! ### Multicast members (R354, R355) -/

def State.member? (s : State) (n g : Nat) : Option Member := Tbl.get? (s.engine n).members g
def State.setMember (s : State) (n g : Nat) (m : Member) : State := s.modEngine n fun e => { e with members := Tbl.put e.members g m }

/-- Send a multicast answer. -/
def State.memberAnswer (s : State) (n g : Nat) (m : Member) (tag seq : Nat) (nack : Bool) (code subtype value : Nat) : State :=
  s.sendCell n m.fn
    ({ m.answer g seq with nack := nack, tag := tag, code := code, subtype := subtype, value := value } : AnswerCell).cell

/-- A write into a member's window, resolved through its record (R354): checks 2, 3, 5, 6 as a remote write, and 7. A window that has been
revoked since the record was set fails with STALE_GEN (R352), reopened or not. -/
def State.placeMember (s : State) (n g : Nat) (m : Member) (off seq tag delay : Nat) (data : List Byte)
    (flow : Option (Nat × Nat)) : State × Option Nat :=
  let old := match Tbl.get? s.wu.slots (slotKey m.domain m.window) with | some w => w.gen != m.gen | none => false
  match (if old then s.refuse m.domain m.window subSTALE_GEN else s.resolve n m.domain m.window m.gen none true .write off data.length 0) with
  | (s, .bad sub) => (s, some sub)
  | (s, .ok ps) =>
    let w : Placing :=
      { client := n, fn := m.fn, domain := m.domain, window := m.window, winGen := m.gen, offset := off, data := data,
        writes := cutWrites ps data, cut := false, redo := false, flow := flow, member := some (g, seq), tag := tag, delay := delay }
    ((s.setMember n g { m with busy := m.busy ++ [seq] }).modEngine n fun e => { e with placing := e.placing ++ [w] }, none)

/-- The event of R349 for a member, once per frame. -/
def State.memberViolated (s : State) (n g : Nat) (m : Member) (sub : Nat) : State :=
  if m.violFrame = some s.frame then s
  else (s.setMember n g { m with violFrame := some s.frame }).raise 0x0C2 (some m.fn)
    (m.sender + at_ m.senderFn 21 + at_ m.window 32 + at_ sub 56)

/-- A multicast parcel at a member. -/
def State.carryMcast (s : State) (n : Nat) (p : Parcel) : State :=
  let g := p.flow % 4096
  match s.member? n g with
  | none => s.evidence (peBase n + 0x7010)
  | some m =>
    match s.roleRefusal m.fn (s.gen m.fn) with
    | (s, some (k, det)) => s.memberAnswer n g m p.tag p.seq true k 0 det
    | (s, none) =>
      match classifySeq m.base m.done m.busy p.seq with
      | .busy => s
      | .again => s.memberAnswer n g m p.tag p.seq false 0 0 p.delay
      | .fresh =>
        let off := rd p.area 4 6
        if p.op ≠ opMCAST_PUT ∨ 2 ^ 43 ≤ off ∨ 2 ≤ rd p.area 10 1 ∨ rd p.area 11 1 ≠ 0 then s.memberAnswer n g m p.tag p.seq true nackBAD_OP 0 p.seq
        else match s.placeMember n g m off p.seq p.tag p.delay p.data none with
          | (s, none) => s
          | (s, some sub) =>
            if sub = subATS then s
            else (s.memberViolated n g m sub).memberAnswer n g m p.tag p.seq true nackACCESS sub m.window

/-- A repair: handled against the done map of the record, answered on its flow. -/
def State.carryRepair (s : State) (n d : Nat) (x : DstFlow) (p : Parcel) : State :=
  let g := rd p.area 0 2
  let seq := rd p.area 2 2
  let off := rd p.area 4 6
  if 4096 ≤ g ∨ 4096 ≤ seq ∨ 2 ^ 43 ≤ off ∨ rd p.area 10 1 ≠ 1 ∨ rd p.area 11 1 ≠ 0 then s.badOp n d p
  else match s.member? n g with
    | none => s.badOp n d p
    | some m =>
      if m.sender ≠ x.endpoint ∨ m.senderFn ≠ x.srcFn ∨ m.fn ≠ x.fn then s.badOp n d p
      else match classifySeq m.base m.done m.busy seq with
        | .busy => s.modDst n d fun x => { x with busy := x.busy.filter (· != p.seq) }
        | .again => s.acceptParcel n d p.tag p.seq p.delay none
        | .fresh =>
          match s.placeMember n g m off seq p.tag p.delay p.data (some (d, p.seq)) with
          | (s, none) => s
          | (s, some sub) => s.violated n d p.tag p.seq sub m.window

/-! ### The end of a placement (R35, R298) -/

/-- Hand writes of a placement to the host port, their marks set before (R303, R304). -/
def State.handWrites (s : State) (w : Placing) (l : List (Nat × List Byte)) : State :=
  let n := sumNat (l.map fun x => x.2.length)
  l.foldl (fun s x => s.write w.fn x.1 x.2) (s.marks w.client w.domain w.window w.winGen .write w.offset n)

/-- Step 3 of R297 for one placement: some of its writes have been handed to the host port, the others are cancelled, to be translated again
or not at all. The Nat counts those cancelled. -/
def State.cutPlacing (s : State) (revoke : Bool) (w : Placing) : State × Placing × Nat :=
  let k := s.draw.1 % (w.writes.length + 1)
  let l := w.writes.take k
  let n := sumNat (l.map fun x => x.2.length)
  let rest := w.writes.length - k
  (s.draw.2.handWrites w l,
    if rest = 0 then { w with writes := [] }
    else { w with writes := [], cut := revoke, redo := !revoke, offset := w.offset + n, data := w.data.drop n }, rest)

/-- The writes of a placement, translated again where an invalidation cancelled them (R298): none where it is cut off, or the subtype of R227
where the host gives no translation. -/
def State.placeWrites (s : State) (w : Placing) : State × (List (Nat × List Byte) ⊕ Nat) :=
  if w.cut then (s, .inr subCUT_OFF)
  else if w.redo then
    match s.resolve w.client w.domain w.window w.winGen none true .write w.offset w.data.length 0 with
    | (s, .ok ps) => (s, .inl (cutWrites ps w.data))
    | (s, .bad sub) => (s, .inr (if sub = subATS then subATS else subCUT_OFF))
  else (s, .inl w.writes)

/-- The last posted write of a placement is issued: the parcel is done and acknowledged. -/
def State.endPlacing (s : State) (n : Nat) (w : Placing) : State :=
  match s.placeWrites w with
  | (s, .inr sub) =>
    let s := match w.member with
      | some (g, q) => s.modEngine n fun e => { e with members := Tbl.modify e.members g fun m => { m with busy := m.busy.filter (· != q) } }
      | none => s
    match w.flow, w.member with
    | some (d, q), _ => s.violated n d w.tag q sub w.window
    | none, some (g, q) =>
      match s.member? n g with
      | some m => if sub = subATS then s else (s.memberViolated n g m sub).memberAnswer n g m w.tag q true nackACCESS sub w.window
      | none => s
    | none, none => s
  | (s, .inl ws) =>
    let s := s.handWrites w ws
    let s := match w.member with
      | some (g, q) => s.modEngine n fun e => { e with members := Tbl.modify e.members g fun m => m.finish q }
      | none => s
    match w.flow, w.member with
    | some (d, q), _ => s.acceptParcel n d w.tag q w.delay none
    | none, some (g, q) =>
      match s.member? n g with
      | some m => s.memberAnswer n g m w.tag q false 0 0 w.delay
      | none => s
    | none, none => s

end Sys2Proof.Machine
end

