-- ==== Sys2Proof/Machine/Matching.lean ====
section
/-! DEFINITION. Two-sided messages (10_matching.md): the lists and their match order (R364 to R368), arrivals and refusals (R378 to
R380), delivery (R374 to R377), pulls at the source (R374, R375), and the acceptance of RECV and CANCEL. -/
namespace Sys2Proof.Machine

open Sys2Proof

/-! NACK kinds of R379. -/
def nackNO_COMM : Nat := 0x20
def nackBAD_ENVELOPE : Nat := 0x21
def nackMSG_GONE : Nat := 0x22
def nackNO_MATCH_CONTEXT : Nat := 0x23
def subMSG_ABORTED : Nat := 0x24

def opMSG_EAGER : Nat := 0x28
def opMSG_RTS : Nat := 0x29
def opMSG_GET : Nat := 0x2A
def opMSG_FIN : Nat := 0x2B

def State.lists (s : State) (f : Nat) : MatchLists := Tbl.getD s.matching f { posted := [], unexpected := [] }
def State.setLists (s : State) (f : Nat) (m : MatchLists) : State := { s with matching := Tbl.put s.matching f m }

/-! ### Rank tables (R160, R163) -/

/-- A valid rank-table entry: endpoint, function and generation. -/
structure Rank where
  endpoint : Nat
  fn : Nat
  gen : Nat
  deriving DecidableEq, Repr

/-- The entry of a rank, or the subtype of BAD_RANK (R270). -/
def State.rank (s : State) (table r : Nat) : Rank ⊕ Nat :=
  match Tbl.get? s.cs.rankTables table with
  | none => .inr 1
  | some t =>
    if t.size ≤ r then .inr 1
    else
      let v := (Tbl.getD t.entries r 0#64).toNat
      if bit v 63 then .inl { endpoint := bits v 20 0, fn := bits v 31 21, gen := bits v 39 32 } else .inr 2

/-! ### Matching (R365) -/

/-- Does a message match a receive? -/
def recvTakes (a : RecvArea) (comm rank tag : Nat) : Bool :=
  a.comm == comm && (bit a.opFlags 0 || a.source == rank) && (tag ^^^ a.tag) &&& a.mask == 0

def Op.recvArea (o : Op) : Option RecvArea := match o.area with | .recv a => some a | _ => none

/-- The first posted receive that takes a message, in posting order (R366). -/
def State.firstPosted (s : State) (f comm rank tag : Nat) : Option Nat :=
  (s.lists f).posted.find? fun p => match (Tbl.get? s.ops p).bind Op.recvArea with
    | some a => recvTakes a comm rank tag
    | none => false

/-- The first unexpected message that a receive takes, in arrival order (R367). -/
def State.firstUnexpected (s : State) (f : Nat) (a : RecvArea) : Option Nat :=
  (s.lists f).unexpected.findIdx? fun u => recvTakes a u.comm u.rank u.tag

/-! ### Delivery (R374 to R377) -/

/-- Write a receive record (R377): none, or the subtype of a local violation. -/
def State.writeReceiveRecord (s : State) (o : Op) (a : RecvArea) (rank tag total delivered time : Nat) (rndv : Bool) :
    State × Option Nat :=
  if !bit a.opFlags 1 then (s, none)
  else
    let rc := le 4 rank ++ le 2 a.comm ++ le 1 (b2n rndv + 2 * b2n (decide (delivered < total))) ++ le 1 0 ++ le 8 tag ++ le 4 total
      ++ le 4 delivered ++ le 8 time
    match s.resolveLocal (s.engineOf o.fn) o.domain a.localId a.localGen .write a.recordOffset 32 with
    | (s, .ok ps) => ((cutWrites ps rc).foldl (fun s w => s.write o.fn w.1 w.2) s, none)
    | (s, .bad sub) => (s, some sub)

/-- A RECV ends after its data is placed: its record, then SUCCESS or TRUNCATED (R376). -/
def State.endRecv (s : State) (place : Nat) (o : Op) (a : RecvArea) (rank tag total time : Nat) (rndv : Bool) : State :=
  let n := minN total a.length
  match s.writeReceiveRecord o a rank tag total n time rndv with
  | (s, some sub) => s.localFails place sub a.localId 0
  | (s, none) => if n < total then s.finish place .TRUNCATED 0 n else s.finish place .SUCCESS 0 0

/-- Place message bytes in a RECV's buffer: none, or the subtype of a local violation. -/
def State.placeLocal (s : State) (o : Op) (a : RecvArea) (offset : Nat) (data : List Byte) : State × Option Nat :=
  if data = [] then (s, none)
  else match s.resolveLocal (s.engineOf o.fn) o.domain a.localId a.localGen .write (a.localOffset + offset) data.length with
    | (s, .ok ps) => ((cutWrites ps data).foldl (fun s w => s.write o.fn w.1 w.2) s, none)
    | (s, .bad sub) => (s, some sub)

/-- Deliver eager data into a RECV. -/
def State.deliverEager (s : State) (place : Nat) (o : Op) (a : RecvArea) (u : Unexpected) (data : List Byte) : State :=
  match s.placeLocal o a 0 (data.take a.length) with
  | (s, some sub) => s.localFails place sub a.localId 0
  | (s, none) => s.endRecv place o a u.rank u.tag data.length s.ns false

/-- Send a MSG_FIN on the flow of a RECV's pulls. -/
def State.sendFin (s : State) (o : Op) (handle outcome delivered : Nat) : State :=
  let p := OutParcel.of opMSG_FIN none o.roleGen [] (le 4 handle ++ le 1 outcome ++ le 3 0 ++ le 4 delivered ++ le 4 0)
  s.sendOwn o.key p

/-- The last piece of a rendezvous message has been placed. -/
def State.pulled (s : State) (place : Nat) (o : Op) (a : RecvArea) : State :=
  match o.phase with
  | .pulling _ handle total rank tag time =>
    let n := minN total a.length
    (s.sendFin o handle (b2n (decide (n < total))) n).endRecv place o a rank tag total time true
  | _ => s

/-- Begin the pull of an announced message (R374, R387): on the flow to the message's source, with the generation it came from. -/
def State.beginPull (s : State) (place : Nat) (o : Op) (a : RecvArea) (u : Unexpected) : State :=
  let o := { o with
    phase := .pulling 0 u.handle u.length u.rank u.tag s.ns, dest := u.endpoint, destFn := u.srcFn, roleGen := u.srcGen }
  let s := s.setOp place o
  if minN u.length a.length = 0 then s.pulled place o a else s

/-- A message is delivered into a RECV. -/
def State.deliverTo (s : State) (place : Nat) (u : Unexpected) : State :=
  match Tbl.get? s.ops place with
  | none => s
  | some o =>
    match o.area with
    | .recv a =>
      match u.data with
      | some d => s.deliverEager place o a u d
      | none => s.beginPull place o a u
    | _ => s

/-! ### Arrival (R366, R369, R378) -/

/-- The message a MSG_EAGER or MSG_RTS parcel carries (R372); none where its reserved fields are not zero. -/
def messageOf (x : DstFlow) (p : Parcel) : Option Unexpected :=
  let rank := rd p.data 0 4
  if rd p.area 10 2 ≠ 0 ∨ 2 ^ 21 ≤ rank then none
  else if p.op = opMSG_EAGER then
    if p.data.length < 8 ∨ rd p.data 4 4 ≠ 0 then none
    else some
      { comm := rd p.area 8 2, rank := rank, tag := rd p.area 0 8, data := some (p.data.drop 8), length := p.data.length - 8,
        handle := 0, deadline := 0, endpoint := x.endpoint, srcFn := x.srcFn, srcGen := x.srcGen }
  else if p.data.length ≠ 32 ∨ rd p.data 12 4 ≠ 0 ∨ rd p.data 24 8 ≠ 0 then none
  else some
    { comm := rd p.area 8 2, rank := rank, tag := rd p.area 0 8, data := none, length := rd p.data 8 4, handle := rd p.data 4 4,
      deadline := rd p.data 16 8, endpoint := x.endpoint, srcFn := x.srcFn, srcGen := x.srcGen }

/-- Is a communicator's domain the one a flow is bound to? A flow bound to none stands for job number 0 (R285, R286). -/
def State.commDomainOk (s : State) (x : DstFlow) (c : Comm) : Bool :=
  match x.domain with
  | some d => c.domain == d
  | none => (match Tbl.get? s.wu.domains c.domain with | some d => d.job == 0 | none => false)

/-- Checks 1 to 3 of R378: the NACK's kind and detail. -/
def State.envelope (s : State) (x : DstFlow) (u : Unexpected) : Option (Nat × Nat) :=
  match s.fn? x.fn with
  | none => some (nackNO_MATCH_CONTEXT, 0)
  | some f =>
    if !f.matchEn then some (nackNO_MATCH_CONTEXT, 0)
    else match Tbl.get? f.comms u.comm with
      | none => some (nackNO_COMM, u.comm)
      | some c =>
        if !s.commDomainOk x c then some (nackNO_COMM, u.comm)
        else match s.rank c.rankTable u.rank with
          | .inl r => if r.endpoint = u.endpoint ∧ r.fn = u.srcFn then none else some (nackBAD_ENVELOPE, u.rank)
          | .inr _ => some (nackBAD_ENVELOPE, u.rank)

/-- Bytes of unexpected data a function holds. -/
def MatchLists.bytes (m : MatchLists) : Nat := sumNat (m.unexpected.map fun u => match u.data with | some d => d.length | none => 0)

/-- Check 4 of R378: room on the unexpected list. -/
def State.unexpectedRoom (s : State) (f : Nat) (u : Unexpected) : Bool :=
  match s.fn? f with
  | none => false
  | some x =>
    let m := s.lists f
    decide (m.unexpected.length < x.unexpectedMax)
      && (u.data.isNone || decide (m.bytes + u.length ≤ x.unexpectedKib * 1024))

/-- RESOURCE (R380). -/
def State.refuseResource (s : State) (n d f : Nat) (p : Parcel) : State :=
  let s := s.evidence (peBase n + 0x5020)
  match s.fn? f with
  | none => s
  | some x =>
    let s := if x.unexpectedFullFrame = some s.frame then s
      else (s.setFn f { x with unexpectedFullFrame := some s.frame }).raise 0x0C3 (some f) 0
    s.refuseParcel n d p.tag p.seq nackRESOURCE x.backoff

/-- A MSG_EAGER or MSG_RTS is carried out. -/
def State.carryMessage (s : State) (n d : Nat) (x : DstFlow) (p : Parcel) : State :=
  match messageOf x p with
  | none => s.badOp n d p
  | some u =>
    match s.envelope x u with
    | some (k, det) => (s.evidence (peBase n + 0x5024)).refuseFinal n d p.tag p.seq k 0 det
    | none =>
      let count := fun (s : State) => s.tally (peBase n + (if u.data.isSome then 0x5008 else 0x5010))
      match s.firstPosted x.fn u.comm u.rank u.tag with
      | some place =>
        let m := s.lists x.fn
        let s := (count s).setLists x.fn { m with posted := m.posted.filter (· != place) }
        (s.deliverTo place u).acceptParcel n d p.tag p.seq p.delay none
      | none =>
        if s.unexpectedRoom x.fn u then
          let m := s.lists x.fn
          let s := ((count s).tally (peBase n + 0x5018)).setLists x.fn { m with unexpected := m.unexpected ++ [u] }
          s.acceptParcel n d p.tag p.seq p.delay none
        else s.refuseResource n d x.fn p

/-! ### Pulls at the source (R373 to R376) -/

/-- The live rendezvous SEND of a function that a handle names. -/
def State.sendOf (s : State) (f handle : Nat) : Option (Nat × Op × SendArea) :=
  let place := handle % 2 ^ 20
  match Tbl.get? s.ops place with
  | none => none
  | some o =>
    match o.area with
    | .send a => if o.fn = f ∧ s.handle place = handle ∧ !sendEager a then some (place, o, a) else none
    | _ => none

/-- A MSG_GET at the SEND's engine. -/
def State.carryMsgGet (s : State) (n d : Nat) (x : DstFlow) (p : Parcel) : State :=
  let handle := rd p.data 0 4
  let off := rd p.data 4 4
  let len := rd p.data 8 4
  if rd p.area 0 12 ≠ 0 ∨ p.data.length ≠ 16 ∨ rd p.data 14 2 ≠ 0 ∨ len = 0 ∨ 65472 < len then s.badOp n d p
  else match s.sendOf x.fn handle with
    | none => s.refuseFinal n d p.tag p.seq nackMSG_GONE 0 handle
    | some (place, o, a) =>
      if a.length < off + len then s.badOp n d p
      else match s.resolveLocal n o.domain a.localId a.localGen .read (a.localOffset + off) len with
        | (s, .ok ps) => s.serve n d x.fn p.seq (rd p.data 12 2) p.delay (some place) off ps
        | (s, .bad sub) =>
          (s.localFails place sub a.localId off).refuseFinal n d p.tag p.seq nackMSG_GONE 0 handle

/-- A MSG_FIN ends its SEND (R376). -/
def State.carryMsgFin (s : State) (n d : Nat) (x : DstFlow) (p : Parcel) : State :=
  let handle := rd p.data 0 4
  let outcome := rd p.data 4 1
  if rd p.area 0 12 ≠ 0 ∨ p.data.length ≠ 16 ∨ 2 < outcome ∨ rd p.data 5 3 ≠ 0 ∨ rd p.data 12 4 ≠ 0 then s.badOp n d p
  else match s.sendOf x.fn handle with
    | none => s.refuseFinal n d p.tag p.seq nackMSG_GONE 0 handle
    | some (place, _, _) =>
      let s := if outcome = 2 then s.finish place .REMOTE_REFUSED subMSG_ABORTED (rd p.data 8 4) else s.finish place .SUCCESS 0 0
      s.acceptParcel n d p.tag p.seq p.delay none

/-! ### Acceptance (R363, R367, R381, R384) -/

/-- May a RECV not be accepted for want of room on the posted list (R381)? -/
def State.recvFull (s : State) (f : Nat) (x : Fn) (a : RecvArea) : Bool :=
  (s.firstUnexpected f a).isNone && decide (x.postedMax ≤ (s.lists f).posted.length)

/-- The local checks of a RECV: none, or the subtype. -/
def State.recvCheck (s : State) (o : Op) (a : RecvArea) : State × Option Nat :=
  let n := s.engineOf o.fn
  let r := if a.length = 0 then (s, none) else s.checkLocal n o.domain a.localId a.localGen .write a.localOffset a.length
  match r with
  | (s, some sub) => (s, some sub)
  | (s, none) => if bit a.opFlags 1 then s.checkLocal n o.domain a.localId a.localGen .write a.recordOffset 32 else (s, none)

/-- A RECV is accepted: it takes an unexpected message or is posted. -/
def State.acceptRecv (s : State) (place : Nat) (o : Op) (a : RecvArea) : State :=
  match s.recvCheck o a with
  | (s, some sub) => s.finish place .LOCAL_ACCESS_VIOLATION sub a.localId
  | (s, none) =>
    let m := s.lists o.fn
    match s.firstUnexpected o.fn a with
    | some i =>
      match m.unexpected[i]? with
      | some u => (s.setLists o.fn { m with unexpected := removeAt i m.unexpected }).deliverTo place u
      | none => s
    | none => (s.setOp place { o with phase := .posted }).setLists o.fn { m with posted := m.posted ++ [place] }

/-- A CANCEL: the posted RECV it names ends (R384). -/
def State.acceptCancel (s : State) (place : Nat) (o : Op) (a : CancelArea) : State :=
  let hit := (s.lists o.fn).posted.find? fun p => match Tbl.get? s.ops p with
    | some r => r.ring == a.ring && r.index == a.index
    | none => false
  let s := match hit with | some p => s.finish p .CANCELLED 0 0 | none => s
  s.finish place .SUCCESS 0 0

/-! ### Expiry (R373, R383) -/

/-- RTS_EXPIRY (R373). -/
def execRtsExpiry (fn position : Nat) (s : State) : Host.Outcome State Fault Refusal :=
  let m := s.lists fn
  match m.unexpected[position]? with
  | some u =>
    if s.alive && u.data.isNone && decide (u.deadline < s.ns) then
      .next ((s.setLists fn { m with unexpected := removeAt position m.unexpected }).evidence (peBase (s.engineOf fn) + 0x5028))
    else .next s
  | none => .next s

/-- RECV_EXPIRY (R383). -/
def execRecvExpiry (place : Nat) (s : State) : Host.Outcome State Fault Refusal :=
  match Tbl.get? s.ops place with
  | some o =>
    if s.alive && o.phase == .posted && decide (o.deadline ≤ s.ns) then .next (s.finish place .HORIZON_EXPIRED 0 0).settle
    else .next s
  | none => .next s

end Sys2Proof.Machine
end

