-- ==== Sys2Proof/Machine/Roundhouse.lean ====
section
/-! DEFINITION. The Roundhouse (11_roundhouse.md): what a chunk holds (R397 to R407), a member's contribution (R406), folds (R409 to
R419), edges and their resends (R408), placement of results and step advances (R405, R420), sequences (R402), and failure (R422 to
R426). -/
namespace Sys2Proof

open Machine

/-! ### Descriptors and chunks -/

/-- The descriptor bytes that a signature covers, with flags zero, and root zero but for BROADCAST and REDUCE (R403). -/
def CollArea.signed (a : CollArea) : List Byte :=
  (areaBytes (.collective { a with flags := 0, root := if a.kind = 2 ∨ a.kind = 3 then a.root else 0 })).take 20

def CollArea.signature (a : CollArea) : Nat := crc32c a.signed

/-- Elements of a collective over a group of m members (R405). -/
def CollArea.total (a : CollArea) (m : Nat) : Nat := if a.kind = 1 then 0 else if a.kind = 5 then a.count * m else a.count

def CollArea.chunkCount (a : CollArea) (m : Nat) : Nat := maxN 1 (ceilDiv (a.total m) 256)

/-- Elements of chunk k. -/
def CollArea.chunkElems (a : CollArea) (m k : Nat) : Nat := minN 256 (a.total m - 256 * k)

/-- Is the sum kept in a superaccumulator (R411, R412, R418)? -/
def CollArea.accumulates (a : CollArea) : Bool :=
  decide (3 ≤ a.kind) && a.redOp == 1 && isFloat a.type && (a.mode == 0 || a.mode == 2 || a.mode == 3)

/-- Does an up chunk hold elements in their native encoding: ORDERED, and BROADCAST, which forwards them unchanged? -/
def CollArea.native (a : CollArea) : Bool := a.kind == 2 || a.mode == 1

def CollArea.compressed (a : CollArea) : Bool := a.mode == 2 || a.mode == 3

/-! ### Elements on the wire (R407, R413, R418) -/

/-- Elements of an up chunk: their bytes, how many are escaped, and what the Baler counts. -/
def CollArea.encodeUp (a : CollArea) (es : List Elem) : List Byte × Nat × BlockCounts :=
  let none_ : BlockCounts := { encoded := 0, raw := 0, clamped := 0, flushed := 0 }
  if a.native then (es.flatMap fun e => le (elemWidth a.type) (accRaw a.type e), 0, none_)
  else if a.compressed then
    let r := encodeBlocks a.mode (elemWidth a.type) 8 none es
    (r.1, 0, r.2)
  else
    let ws := es.map fun e => match e with
      | .raw v => windowed (rawAcc a.type v)
      | e => windowed e
    ((ws.flatMap (·.1)) ++ ws.flatMap (·.2), (ws.filter fun w => w.2 != []).length, none_)

/-- The n elements of an up chunk; none where R437 discards it. -/
def CollArea.decodeUp (a : CollArea) (n : Nat) (b : List Byte) : Option (List Elem) :=
  if a.native then some ((splitElems (elemWidth a.type) n b).map Elem.raw)
  else if a.compressed then decodeBlocks a.mode none 9 n b
  else
    let es := unwindow n b (b.drop (18 * n))
    some (if a.accumulates then es else es.map fun e => Elem.raw (accRaw a.type e))

/-- A member's contribution as it enters the fold, and what the Baler counts (R412, R418). -/
def CollArea.contribution (a : CollArea) (n : Nat) (b : List Byte) : List Elem × BlockCounts :=
  let vs := splitElems (elemWidth a.type) n b
  if a.compressed then
    let r := encodeBlocks a.mode (elemWidth a.type) 8 (some vs) (vs.map (accOf a.type))
    ((decodeBlocks a.mode (some a.type) 9 n r.1).getD [], r.2)
  else (if a.accumulates then vs.map (accOf a.type) else vs.map Elem.raw, { encoded := 0, raw := 0, clamped := 0, flushed := 0 })

/-- Two inputs folded, element by element. -/
def CollArea.fold2 (a : CollArea) (x y : List Elem) : List Elem :=
  List.zipWith (fun p q => match p, q with
    | .raw u, .raw v => .raw (elemFold a.type a.redOp u v)
    | p, q => accAdd p q) x y

/-- What folding `n` inputs of `m` elements takes of a tick: 32-bit elements count one in ORDERED mode and two in any other (R410); an element
of another width counts by its width (DESIGN CHOICE: R410 speaks of 32-bit elements). -/
def CollArea.foldCost (a : CollArea) (n m : Nat) : Nat :=
  if a.kind ≤ 2 then 0 else ceilDiv (n * m * elemWidth a.type * (if a.mode = 1 then 1 else 2)) 4

/-- Inputs folded left to right (R414, R417, R419). -/
def CollArea.foldAll (a : CollArea) : List (List Elem) → List Elem
  | [] => []
  | x :: t => t.foldl a.fold2 x

/-- The result at the tree root (R415, R417, R436). -/
def CollArea.result (a : CollArea) (es : List Elem) : List Nat :=
  es.map fun e => match e with
    | .raw v => if a.kind = 2 then v else canonical a.outType v
    | e => accRound a.outType (if a.compressed then noNegZero e else e)

/-- Does a member contribute, and does it take a result chunk (R405)? -/
def CollArea.contributes (a : CollArea) (m : RhMember) : Bool := a.kind != 2 || a.root == m.rank
def CollArea.takes (a : CollArea) (m : RhMember) (n k : Nat) : Bool :=
  if a.kind = 1 then false
  else if a.kind = 2 then a.root != m.rank
  else if a.kind = 3 then a.root == m.rank
  else if a.kind = 5 then decide (256 * k < (m.rank + 1) * a.count ∧ m.rank * a.count < 256 * k + n)
  else true

/-- The elements of a result chunk that a member takes, and where they go in its receive range, in elements. -/
def CollArea.share (a : CollArea) (m : RhMember) (k : Nat) (es : List Nat) : Nat × List Nat :=
  if a.kind = 5 then
    let lo := m.rank * a.count
    let skip := lo - 256 * k
    (256 * k + skip - lo, (es.drop skip).take (lo + a.count - (256 * k + skip)))
  else (256 * k, es)

end Sys2Proof

namespace Sys2Proof.Machine

open Sys2Proof

/-! ### Groups, members and their collectives -/

def State.group? (s : State) (g : Nat) : Option Group := Tbl.get? s.rh.groups g
def State.setGroup (s : State) (g : Nat) (x : Group) : State := { s with rh := { s.rh with groups := Tbl.put s.rh.groups g x } }
def State.modGroup (s : State) (g : Nat) (f : Group → Group) : State :=
  { s with rh := { s.rh with groups := Tbl.modify s.rh.groups g f } }

/-- In-flight places of the accepted COLLECTIVEs of a group. -/
def State.groupOps (s : State) (g : Nat) : List (Nat × Op × CollArea) :=
  s.ops.filterMap fun p => match p.2.area with
    | .collective a => if a.group = g then some (p.1, p.2, a) else none
    | _ => none

/-- The COLLECTIVE of a member for a sequence number. -/
def State.memberOp (s : State) (g seq fn : Nat) : Option (Nat × Op × CollArea) :=
  (s.groupOps g).find? fun p => p.2.1.fn == fn && p.2.2.seq == seq

/-- The edges of a group: children by number, and 0xFF for the parent. -/
def Group.edges (x : Group) : List Nat := (if x.parent = 0xFF then [] else [0xFF]) ++ List.range x.children.length
def Group.port (x : Group) (edge : Nat) : Nat := if edge = 0xFF then x.parent else x.children.getD edge 0xFF

/-- Sources that a chunk is folded from: local members and children, in child order (R417). -/
def Group.sources (x : Group) (a : CollArea) : List Nat :=
  (x.members.filter fun m => a.contributes m.2).map (·.1) ++ (List.range x.children.length).map (· + 64)

/-- The sequence in progress has this many chunks. -/
def Group.total (x : Group) : Nat := match x.desc with | some d => d.1.chunkCount x.size | none => 0

/-! ### Edges (R393, R407, R408) -/

/-- Some port of an edge is in one of the states. -/
def State.edgeIn (s : State) (x : Group) (edge : Nat) (f : LinkState → Bool) : Bool :=
  let p := x.port edge
  f (s.port p).state || (s.bundle (s.portBundle p)).any fun q => f (s.port q).state

def State.edgeUp (s : State) (x : Group) (edge : Nat) : Bool := s.edgeIn x edge (· == .UP)
def State.edgeLost (s : State) (x : Group) (edge : Nat) : Bool := !s.edgeIn x edge fun y => y == .UP || y == .HELD

/-- The location of the router at the other end of an edge (R393). -/
def State.edgePeer (s : State) (port : Nat) : Nat :=
  let role := (s.port port).role
  if 4 ≤ role ∧ role ≤ 9 then
    let d := (role - 4) / 2
    let n := s.jn.size d
    let c := (locDim s.location d + (if role % 2 = 0 then 1 else n - 1)) % n
    s.location - locDim s.location d * 2 ^ (12 - 4 * d) + c * 2 ^ (12 - 4 * d)
  else (s.port port).peer

/-- The neighbour's anchor endpoint. -/
def State.edgeDest (s : State) (g : Nat) (x : Group) (edge : Nat) : Nat :=
  s.edgePeer (x.port edge) * 32 + Config.edgeAnchor g edge % 32

/-- Cells the Roundhouse sends: VC4 up, VC5 down, without a detour. -/
def State.sendRh (s : State) (cells : List WireCell) : State :=
  if s.alive then cells.foldl (fun s c => (s.takeCell .cores c Inject.transit).1) s else s

/-- Send a chunk parcel on its tag. -/
def State.sendChunk (s : State) (g : Nat) (x : Group) (o : EdgeOut) (slot : Nat) : State :=
  let tag := Config.edgeTag g o.edge slot % 65536
  let h : ParcelHdr :=
    { sendTime := s.ns, length := o.data.length, seq := o.chunk % 4096, op := o.op, roleGen := x.epoch, flow := g, area := o.area }
  s.sendRh (parcelBuild (if o.op = opCOLL_UP then 4 else 5) (s.edgeDest g x o.edge) tag tag h o.data)

/-- The lowest place among an edge's tags that no chunk in flight uses. -/
def Group.freeSlot (x : Group) (edge : Nat) : Option Nat :=
  (List.range x.depth).find? fun i => !x.out.any fun o => o.edge == edge && o.slot == some i

/-- Chunks waiting for a tag of their edge are sent, oldest first. -/
def State.pumpEdges (s : State) (g : Nat) : State :=
  match s.group? g with
  | none => s
  | some x =>
    x.out.foldl (fun s o =>
      match o.slot, s.group? g with
      | none, some y =>
        match y.freeSlot o.edge with
        | some i =>
          let o' := { o with slot := some i, timeout := s.ns + 20000 }
          (s.setGroup g { y with out := y.out.map fun z => if z = o then o' else z }).sendChunk g y o' i
        | none => s
      | _, _ => s) s

/-- Area of a chunk parcel (R407). -/
def chunkArea (g seq chunk notice cause : Nat) : List Byte := le 4 seq ++ le 4 chunk ++ le 2 g ++ le 1 notice ++ le 1 cause

/-- Data of a chunk parcel (R407). -/
def chunkData (signature n escapes step : Nat) (elems : List Byte) : List Byte :=
  le 4 signature ++ le 2 n ++ le 2 escapes ++ le 4 step ++ le 4 0 ++ elems

/-- A chunk waits for its edge. -/
def Group.queue (x : Group) (edge chunk op : Nat) (area data : List Byte) : Group :=
  { x with out := x.out ++ [{ edge := edge, seq := x.seq, chunk := chunk, op := op, area := area, data := data, slot := none,
                              resends := 0, timeout := 0 }] }

/-- An ACK of a chunk to the sender's anchor endpoint (R408), on the tag that the chunk came on. -/
def State.ackChunk (s : State) (g : Nat) (x : Group) (edge tag chunk : Nat) : State :=
  s.sendRh [({ AnswerCell.blank with dest := s.edgeDest g x edge, tag := tag, flow := g, gen := x.epoch, seq := chunk % 4096 }
    : AnswerCell).cell]

/-- The chunk in flight that an ACK names. -/
def Group.acked (x : Group) (g : Nat) (a : AnswerCell) : Option EdgeOut :=
  x.out.find? fun o => match o.slot with
    | some i => a.gen == x.epoch && a.seq == o.chunk % 4096 && a.tag == Config.edgeTag g o.edge i % 65536
    | none => false

/-- An ACK that answers a chunk of a group whose anchor is engine n: the state without that chunk in flight. -/
def State.chunkAcked (s : State) (n : Nat) (a : AnswerCell) : Option State :=
  match s.group? a.flow with
  | none => none
  | some x =>
    if x.anchor ≠ n ∨ a.nack ∨ a.mcast ∨ a.code ≠ 0 ∨ a.fn ≠ 0 then none
    else (x.acked a.flow a).map fun o => (s.setGroup a.flow { x with out := x.out.filter (· != o) }).pumpEdges a.flow

/-! ### Failure (R422 to R425) -/

/-- A COLLECTIVE of a failed group ends. -/
def State.endFailed (s : State) (p : Nat × Op × CollArea) (step : Nat) : State :=
  let s := if bit p.2.2.flags 0 then s.breakCounter p.2.1.fn p.2.2.stepCounter else s
  s.finish p.1 .COLLECTIVE_FAILED 0 step

/-- Queue the fail notice on an edge. -/
def Group.notice (x : Group) (g cause step edge : Nat) : Group :=
  x.queue edge 0 (if edge = 0xFF then opCOLL_UP else opCOLL_DOWN) (chunkArea g x.seq 0 1 cause) (chunkData 0 0 0 step [])

/-- The group enters FAILED; `came` is the edge that a notice came from. -/
def State.failGroup (s : State) (g cause : Nat) (came : Option Nat) : State :=
  match s.group? g with
  | none => s
  | some x =>
    if x.state = 3 then s
    else
      let step := if x.desc.isSome then x.step else 0
      let x : Group := { x with state := 3, cause := cause, step := step, desc := none, chunks := [], downs := [], out := [],
                                reads := [], reading := [], later := [] }
      let x := (x.edges.filter fun e => some e != came).foldl (fun x e => x.notice g cause step e) x
      let s := ((s.setGroup g x).pumpEdges g).evidence 0x600034
      let s := s.raise 0x100 none (g + at_ cause 16 + at_ step 32)
      (s.groupOps g).foldl (fun s p => s.endFailed p step) s

def causeMEMBER : Nat := 1
def causeEDGE : Nat := 2
def causeHORIZON : Nat := 3
def causeMISMATCH : Nat := 4
def causeNOTICE : Nat := 5
def causeCOMMAND : Nat := 6

/-- A member function is reset, disabled, destroyed or halted: its groups fail (R422, R426). -/
def State.memberLost (s : State) (f : Nat) : State :=
  (s.rh.groups.filter fun x => x.2.members.any fun m => m.2.fn == f).foldl (fun s x => s.failGroup x.1 causeMEMBER none) s

/-! ### Contributions (R405, R406) -/

/-- An input of a chunk arrives. -/
def Group.putInput (x : Group) (k : Nat) (i : ChunkIn) : Group :=
  match x.chunks.find? fun c => c.index == k with
  | some c => { x with chunks := x.chunks.map fun y => if y = c then { c with inputs := c.inputs ++ [i] } else y }
  | none => { x with chunks := x.chunks ++ [{ index := k, inputs := [i] }] }

def State.countBlocks (s : State) (c : BlockCounts) : State :=
  (((s.tally 0x700010 c.encoded).tally 0x700018 c.raw).tally 0x700020 c.clamped).evidences 0x700038 c.flushed

/-- Read a member's contribution to chunk k (R406); a refused window fails the group. -/
def State.readMember (s : State) (g : Nat) (x : Group) (att k : Nat) (o : Op) (a : CollArea) : State :=
  let w := elemWidth a.type
  let n := a.chunkElems x.size k
  match s.resolveLocal 32 o.domain a.sendId a.sendGen .read (a.sendOffset + 256 * w * k) (n * w) with
  | (s, .bad _) => s.failGroup g causeMEMBER none
  | (s, .ok ps) =>
    let r := s.readPieces o.fn (.collective g att k) none 0 ps
    r.1.modGroup g fun x =>
      { x with reads := Tbl.put x.reads att (k + 1),
               reading := x.reading ++ [{ att := att, chunk := k, tags := r.2, pieces := [] }] }

/-- A local member's next chunk is contributed, or its read begins, while the store has a slot for it (R392). -/
def State.contributeOne (s : State) (g att : Nat) : State :=
  match s.group? g with
  | none => s
  | some x =>
    match x.desc, Tbl.get? x.members att with
    | some (d, sig), some m =>
      let k := Tbl.getD x.reads att 0
      match s.memberOp g x.seq m.fn with
      | some (_, o, a) =>
        if a.signature ≠ sig then s.failGroup g causeMISMATCH none
        else if s.fenced o then s
        else if !d.contributes m || decide (x.total ≤ k) || decide (x.upNext + x.depth ≤ k) then s
        else if d.kind = 1 then
          s.setGroup g { x.putInput k { src := att, elems := [], tag := 0, folded := false } with reads := Tbl.put x.reads att (k + 1) }
        else s.readMember g x att k o a
      | none => s
    | _, _ => s

/-- Every local member contributes what it can. -/
def State.contribute (s : State) (g : Nat) : State :=
  match s.group? g with
  | none => s
  | some x => (Tbl.keys x.members).foldl (fun s att => (List.range x.depth).foldl (fun s _ => s.contributeOne g att) s) s

/-- A piece of a contribution has been read (R406). -/
def State.memberPiece (s : State) (g att k tag : Nat) (bytes : List Byte) : State :=
  match s.group? g with
  | none => s
  | some x =>
    match x.desc, x.reading.find? fun r => r.att == att && r.chunk == k && r.tags.contains tag with
    | some (d, _), some r =>
      let r' := { r with pieces := Tbl.put r.pieces tag bytes }
      if r'.tags.all fun t => Tbl.has r'.pieces t then
        let c := d.contribution (d.chunkElems x.size k) (r'.tags.flatMap fun t => Tbl.getD r'.pieces t [])
        let x := { x with reading := x.reading.filter (· != r) }
        (s.setGroup g (x.putInput k { src := att, elems := c.1, tag := 0, folded := false })).countBlocks c.2
      else s.setGroup g { x with reading := x.reading.map fun y => if y = r then r' else y }
    | _, _ => s

/-! ### Results (R405, R420) -/

/-- Place a result chunk at one member, and advance its step counter (R420): false where its window refuses the write. -/
def State.placeAt (s : State) (o : Op) (a : CollArea) (m : RhMember) (k : Nat) (es : List Nat) : State × Bool :=
  let w := elemWidth a.outType
  let sh := a.share m k es
  let bytes := sh.2.flatMap (le w)
  match s.resolveLocal 32 o.domain a.recvId a.recvGen .write (a.recvOffset + sh.1 * w) bytes.length with
  | (s, .bad _) => (s, false)
  | (s, .ok ps) =>
    let s := (cutWrites ps bytes).foldl (fun s x => s.write o.fn x.1 x.2) s
    (if bit a.flags 0 then s.advance o.fn a.stepCounter 1 else s, true)

def State.setDown (s : State) (g : Nat) (y : Down) : State :=
  s.modGroup g fun x => { x with downs := x.downs.map fun z => if z.index = y.index then y else z }

/-- Place a result chunk at the local members that need it and whose COLLECTIVE has been accepted. -/
def State.placeDown (s : State) (g k : Nat) : State :=
  match s.group? g with
  | none => s
  | some x =>
    x.members.foldl (fun s m =>
      match s.group? g with
      | none => s
      | some x =>
        match x.desc, x.downs.find? fun y => y.index == k with
        | some (d, _), some y =>
          match s.memberOp g x.seq m.2.fn with
          | some (_, o, a) =>
            if y.done || y.placed.contains m.1 || !d.takes m.2 (d.chunkElems x.size k) k then s
            else match s.placeAt o a m.2 k y.elems with
              | (s, true) => s.setDown g { y with placed := y.placed ++ [m.1] }
              | (s, false) => s.failGroup g causeMEMBER none
          | none => s
        | _, _ => s) s

/-- Has a result chunk been placed at every member that needs it, and sent to every child? -/
def Group.downDone (x : Group) (d : CollArea) (y : Down) : Bool :=
  x.members.all (fun m => !d.takes m.2 (d.chunkElems x.size y.index) y.index || y.placed.contains m.1)
    && !x.out.any fun o => o.op == opCOLL_DOWN && o.seq == x.seq && o.chunk == y.index && o.slot.isNone

/-- Result chunks that are done are acknowledged, and the step passes them (R408). -/
def State.closeDowns (s : State) (g : Nat) : State :=
  match s.group? g with
  | none => s
  | some x =>
    match x.desc with
    | none => s
    | some (d, _) =>
      let fin := x.downs.filter fun y => !y.done && x.downDone d y
      let downs := x.downs.map fun y => if fin.contains y then { y with elems := [], owed := none, done := true } else y
      let step := (List.range (downs.length + 1)).foldl
        (fun k _ => if downs.any (fun y => y.index == k && y.done) then k + 1 else k) x.step
      let s := s.setGroup g { x with downs := downs.filter (fun y => decide (step ≤ y.index)), step := step }
      fin.foldl (fun s y => match y.owed with | some t => s.ackChunk g x 0xFF t y.index | none => s) s

/-- A result chunk is at this router: sent to every child, and placed. -/
def State.deliverDown (s : State) (g k : Nat) (es : List Nat) (owed : Option Nat) : State :=
  match s.group? g with
  | none => s
  | some x =>
    match x.desc with
    | none => s
    | some (d, sig) =>
      let data := chunkData sig es.length 0 0 (es.flatMap (le (elemWidth d.outType)))
      let x := { x with downs := x.downs ++ [{ index := k, elems := es, placed := [], owed := owed, done := false }] }
      let x := (List.range x.children.length).foldl (fun x e => x.queue e k opCOLL_DOWN (chunkArea g x.seq k 0 0) data) x
      ((s.setGroup g x).pumpEdges g).placeDown g k

/-! ### Folds (R409, R417, R418) -/

/-- Inputs that can be folded now: all of a chunk that has them all, and outside ORDERED mode each one that has come. -/
def Group.foldable (x : Group) (d : CollArea) (c : Chunk) : Bool :=
  d.mode != 1 || (x.sources d).all fun i => c.inputs.any fun y => y.src == i

/-- What the Roundhouse folds in a tick, in 32-bit elements of ORDERED mode (R410). -/
def foldBudget : Nat := 256000

/-- Fold what a chunk holds, as far as the tick allows (R410): each input is counted and, a child's, acknowledged (R408). -/
def State.foldChunk (s : State) (g : Nat) (x : Group) (d : CollArea) (c : Chunk) : State :=
  let new := c.inputs.filter fun i => !i.folded
  let cost := d.foldCost new.length (d.chunkElems x.size c.index)
  if !x.foldable d c || decide (s.rh.budget < cost) then s
  else
    let s := { s with rh := { s.rh with budget := s.rh.budget - cost } }
    let c' : Chunk := { c with inputs := c.inputs.map fun i => { i with folded := true } }
    let s := s.modGroup g fun x => { x with chunks := x.chunks.map fun y => if y.index = c.index then c' else y }
    let s := if d.kind = 2 then s
      else (s.tally 0x600010 new.length).tally 0x600018 (new.length * d.chunkElems x.size c.index)
    new.foldl (fun s i => if 64 ≤ i.src then s.ackChunk g x (i.src - 64) i.tag c.index else s) s

/-- Has every source of a chunk come? A BROADCAST chunk has one, wherever it comes from (R405). -/
def Group.complete (x : Group) (d : CollArea) (c : Chunk) : Bool :=
  if d.kind = 2 then c.inputs.any (·.folded)
  else (x.sources d).all fun i => c.inputs.any fun y => y.src == i && y.folded

/-- Inputs in child order. -/
def Chunk.ordered (c : Chunk) (srcs : List Nat) : List (List Elem) :=
  srcs.filterMap fun i => (c.inputs.find? fun y => y.src == i).map (·.elems)

/-- A complete chunk is sent up, or at the tree root rounded and released, in order (R405, R409, R415). -/
def State.passUp (s : State) (g : Nat) (x : Group) (d : CollArea) (sig : Nat) (c : Chunk) : State :=
  let k := x.upNext
  let es := d.foldAll (c.ordered ((x.members.map (·.1)) ++ (List.range x.children.length).map (· + 64)))
  let x := { x with upNext := k + 1, chunks := x.chunks.filter fun y => y.index != k }
  if x.parent = 0xFF then (s.setGroup g x).deliverDown g k (d.result es) none
  else
    let b := d.encodeUp es
    let s := (s.tally 0x600020 b.2.1).countBlocks b.2.2
    (s.setGroup g (x.queue 0xFF k opCOLL_UP (chunkArea g x.seq k 0 0) (chunkData sig es.length b.2.1 0 b.1))).pumpEdges g

/-- Pass up every chunk that is complete and in order. The tree root keeps to the store's slots (R392). -/
def State.passAll (s : State) (g : Nat) : (fuel : Nat) → State
  | 0 => s
  | n + 1 =>
    match s.group? g with
    | none => s
    | some x =>
      match x.desc, x.chunks.find? fun c => c.index == x.upNext with
      | some (d, sig), some c =>
        if x.complete d c && (x.parent != 0xFF || decide (x.upNext < x.step + x.depth)) then (s.passUp g x d sig c).passAll g n
        else s
      | _, _ => s

/-! ### Chunks that arrive (R407, R408) -/

/-- An up chunk of the sequence in progress, from a child. -/
def State.takeUp (s : State) (g edge : Nat) (x : Group) (d : CollArea) (sig : Nat) (p : Parcel) : State :=
  let k := rd p.area 4 4
  let n := rd p.data 4 2
  let old := (x.chunks.find? fun c => c.index == k).bind fun c => c.inputs.find? fun i => i.src == 64 + edge
  match decide (k < x.upNext), old with
  | true, _ => s.ackChunk g x edge p.tag k
  | false, some i => if i.folded then s.ackChunk g x edge p.tag k else s
  | false, none =>
    if rd p.data 0 4 ≠ sig then s.failGroup g causeMISMATCH none
    else if n ≠ d.chunkElems x.size k ∨ x.total ≤ k then (if d.compressed then s.evidence 0x70003C else s)
    else match d.decodeUp n (p.data.drop 16) with
      | some es => s.setGroup g (x.putInput k { src := 64 + edge, elems := es, tag := p.tag, folded := false })
      | none => s.evidence 0x70003C

/-- A down chunk of the sequence in progress, from the parent. -/
def State.takeDown (s : State) (g : Nat) (x : Group) (d : CollArea) (sig : Nat) (p : Parcel) : State :=
  let k := rd p.area 4 4
  match decide (k < x.step), x.downs.find? fun y => y.index == k with
  | true, _ => s.ackChunk g x 0xFF p.tag k
  | false, some y => if y.done then s.ackChunk g x 0xFF p.tag k else s
  | false, none =>
    if rd p.data 0 4 ≠ sig then s.failGroup g causeMISMATCH none
    else if rd p.data 4 2 ≠ d.chunkElems x.size k ∨ x.total ≤ k then s
    else s.deliverDown g k (splitElems (elemWidth d.outType) (d.chunkElems x.size k) (p.data.drop 16)) (some p.tag)

/-- A chunk of a sequence that has not started here waits; a copy of one that waits already is dropped. -/
def Group.keepLater (x : Group) (edge : Nat) (p : Parcel) : Group :=
  if x.later.any fun y => y.1 == edge && y.2.op == p.op && rd y.2.area 0 8 == rd p.area 0 8 then x
  else { x with later := x.later ++ [(edge, p)] }

/-- Are the reserved fields of a chunk parcel zero, and what only a fail notice, or only an EXACT up chunk, carries (R7, R407)? -/
def chunkOk (p : Parcel) : Bool :=
  let notice := rd p.area 10 1 == 1
  decide (p.flow < 1024) && rd p.area 8 2 == p.flow && decide (rd p.area 10 1 < 2) && (notice || (rd p.area 11 1 == 0 && rd p.data 8 4 == 0))
    && decide (16 ≤ p.data.length) && rd p.data 12 4 == 0 && (p.op == opCOLL_UP || rd p.data 6 2 == 0)

/-- A chunk parcel that an anchor engine has handed over. One whose reserved fields are not zero is discarded, and not acknowledged (R7; the
consequence is a DESIGN CHOICE: R407 states none). -/
def State.takeChunk (s : State) (edge : Nat) (p : Parcel) : State :=
  let g := p.flow % 1024
  match s.group? g with
  | none => s
  | some x =>
    if !chunkOk p then s
    else if p.roleGen ≠ x.epoch then s.evidence 0x600030
    else if bit (rd p.area 10 1) 0 then (s.ackChunk g x edge p.tag p.seq).failGroup g causeNOTICE (some edge)
    else if x.state = 3 then s
    else if rd p.area 0 4 < x.seq then s.ackChunk g x edge p.tag p.seq
    else match x.desc with
      | some (d, sig) =>
        if rd p.area 0 4 ≠ x.seq then s.setGroup g (x.keepLater edge p)
        else if edge = 0xFF then s.takeDown g x d sig p
        else s.takeUp g edge x d sig p
      | none => s.setGroup g (x.keepLater edge p)

/-! ### Sequences (R395, R402, R405) -/

/-- The descriptor that starts the group's next sequence here: a local member's; at a router without members, the one that a chunk's
signature stands for. -/
def State.startingDesc (s : State) (g : Nat) (x : Group) : Option (CollArea × Nat) :=
  match x.members.findSome? fun m => s.memberOp g x.seq m.2.fn with
  | some (_, _, a) => some (a, a.signature)
  | none =>
    if x.members ≠ [] then none
    else
      (x.later.find? fun y => rd y.2.area 0 4 == x.seq).bind fun y =>
        let sig := rd y.2.data 0 4
        match areaOf 0x30 (List.replicate 16 0#8 ++ fitTo 20 (Config.signedDescriptor sig) ++ List.replicate 28 0#8) with
        | some (.collective a) => some (a, sig)
        | _ => none

/-- The group becomes ACTIVE; the chunks that waited for this sequence are taken. -/
def State.startSeq (s : State) (g : Nat) : State :=
  match s.group? g with
  | none => s
  | some x =>
    if x.state ≠ 1 then s
    else match s.startingDesc g x with
      | none => s
      | some d =>
        let now := x.later.filter fun y => rd y.2.area 0 4 == x.seq
        let s := s.setGroup g { x with state := 2, desc := some d, later := x.later.filter fun y => rd y.2.area 0 4 != x.seq }
        now.foldl (fun s y => s.takeChunk y.1 y.2) s

/-- The last chunk is done: the members' COLLECTIVEs end, and the group is READY for the next sequence. -/
def State.endSeq (s : State) (g : Nat) (x : Group) : State :=
  let ops := (s.groupOps g).filter fun p => p.2.2.seq == x.seq
  let s := s.setGroup g { x with state := 1, seq := (x.seq + 1) % 2 ^ 32, step := 0, desc := none, upNext := 0, chunks := [],
                                 downs := [], reads := [], reading := [] }
  ops.foldl (fun s p => s.finish p.1 .SUCCESS 0 0) s

/-- What a group does in a tick (R409): contributions, folds, chunks up and results down, and the next sequence. A Roundhouse degraded by
its lag takes no new contributions and starts no sequence (R63). -/
def State.groupTick (s : State) (g : Nat) : State :=
  let s := if s.lagging 2 then s else (s.startSeq g).contribute g
  match s.group? g with
  | none => s
  | some x =>
    match x.desc with
    | none => s
    | some (d, _) =>
      let s := x.chunks.foldl (fun s c => s.foldChunk g x d c) s
      let s := (s.passAll g x.depth).pumpEdges g
      let s := x.downs.foldl (fun s y => s.placeDown g y.index) s
      let s := s.closeDowns g
      match s.group? g with
      | none => s
      | some x => if x.state = 2 ∧ x.desc.isSome ∧ x.total ≤ x.step then
          (if s.lagging 2 then s.endSeq g x else (s.endSeq g x).startSeq g)
        else s

/-- An edge with no port UP or HELD fails its group (R422). -/
def State.checkEdges (s : State) (g : Nat) : State :=
  match s.group? g with
  | none => s
  | some x => if x.edges.any (s.edgeLost x) then s.failGroup g causeEDGE none else s

/-- The Roundhouse's tick. -/
def State.rhTick (s : State) : State :=
  if s.rst.mode = .HEATH then s
  else
    let s := { s with rh := { s.rh with budget := foldBudget } }
    ((Tbl.keys s.rh.groups).foldl (fun s g => (s.checkEdges g).groupTick g) s).settle

/-! ### The rows -/

/-- The Roundhouse takes the oldest chunk parcel of an op that anchor engine `pe` handed over. -/
def State.nextChunk (s : State) (pe op : Nat) : Option ((Nat × Parcel) × State) :=
  (s.rh.inbox.find? fun y => y.2.op == op && (match s.group? (y.2.flow % 1024) with
    | some x => x.anchor == pe
    | none => true)).map fun y => (y, { s with rh := { s.rh with inbox := s.rh.inbox.erase y } })

/-- What the Roundhouse does with a chunk at once: it is staged for the next tick's folds, a result is placed and sent on. -/
def State.chunkArrives (s : State) (edge : Nat) (p : Parcel) : State :=
  let g := p.flow % 1024
  let s := s.takeChunk edge p
  ((if s.lagging 2 then s else s.startSeq g).closeDowns g).settle

/-- COLL_UP_RECEIVE (R407, R408). -/
def execCollUpReceive (pe : Nat) (s : State) : Host.Outcome State Fault Refusal :=
  match s.engineWorks pe, s.nextChunk pe opCOLL_UP with
  | true, some (y, s) => .next (s.chunkArrives y.1 y.2)
  | _, _ => .next s

/-- COLL_DOWN_RECEIVE (R405, R407, R420). -/
def execCollDownReceive (pe : Nat) (s : State) : Host.Outcome State Fault Refusal :=
  match s.engineWorks pe, s.nextChunk pe opCOLL_DOWN with
  | true, some (y, s) => .next (s.chunkArrives y.1 y.2)
  | _, _ => .next s

/-- May a chunk be resent, a wait of `wait` ns to follow: every local COLLECTIVE that it serves has its deadline after that (R91)? -/
def State.chunkMay (s : State) (g : Nat) (o : EdgeOut) (wait : Nat) : Bool :=
  (s.groupOps g).all fun p => p.2.2.seq != o.seq || decide (s.ns + wait ≤ p.2.1.deadline)

/-- A chunk's wait has ended: it is resent, or its resends are spent (R408). A HELD edge makes it wait on (R422), and none
follows that would outlast a deadline (R91). -/
def State.chunkTimeout (s : State) (g : Nat) (x : Group) (o : EdgeOut) (slot : Nat) : State :=
  let keep := fun (o' : EdgeOut) => s.setGroup g { x with out := x.out.map fun z => if z = o then o' else z }
  if !s.edgeUp x o.edge then keep { o with timeout := s.ns + 20000 * 2 ^ o.resends }
  else if 8 ≤ o.resends then (s.setGroup g { x with out := x.out.filter (· != o) }).failGroup g causeEDGE none
  else if !s.chunkMay g o (20000 * 2 ^ (o.resends + 1)) then s
  else
    ((keep { o with resends := o.resends + 1, timeout := s.ns + 20000 * 2 ^ (o.resends + 1) }).tally 0x600028).sendChunk g x o slot

/-- CHUNK_RESEND_TIMEOUT (R408). -/
def execChunkResendTimeout (group edge chunk : Nat) (s : State) : Host.Outcome State Fault Refusal :=
  match s.alive && s.rst.mode != .HEATH, s.group? group with
  | true, some x =>
    match x.out.find? fun o => o.edge == edge && o.chunk == chunk && o.slot.isSome && decide (o.timeout ≤ s.ns) with
    | some o => .next (s.chunkTimeout group x o (o.slot.getD 0)).settle
    | none => .next s
  | _, _ => .next s

end Sys2Proof.Machine
end

