-- ==== Sys2Proof/Machine/Source.lean ====
section
/-! DEFINITION. The source side of answers (09_remote_operations.md): congestion control (R331 to R333), acknowledgements and what they end
(R317, R327, R330, R376), NACKs (R337, R338, R379, R380, R625), timeouts and resends (R335, R336, R355, R618), multicast sending (R353),
horizons (R91), and flow contexts fetched (R347, R348). -/
namespace Sys2Proof.Machine

open Sys2Proof

/-! ### Congestion control (R332, R333, R335) -/

/-- srtt after a round trip of `rtt` ns. -/
def smooth (srtt rtt : Nat) : Nat := ((8 * (srtt : Int) + ((rtt : Int) - srtt)) / 8).toNat

/-- cwnd and the time of the last cut after an answer that acknowledges c cells with delay d. -/
def congest (y : Fn) (x : SrcFlow) (now c d : Nat) : Nat × Option Nat :=
  let cut := match x.lastCut with | some t => decide (x.srtt ≤ now - t) | none => true
  let r := if d < y.ccTarget then (x.cwnd + y.ccAlpha * 1024 * c / (16 * x.cwnd), x.lastCut)
    else if cut then
      (maxN (maxN (x.cwnd * (100 * d - y.ccBeta * (d - y.ccTarget)) / (100 * d)) (x.cwnd / 2)) 1024, some now)
    else (x.cwnd, x.lastCut)
  (minN r.1 (y.ccMax * 1024), r.2)

/-- A parcel is answered: it leaves the flow, and the answer feeds srtt and cwnd. -/
def State.acknowledge (s : State) (n fid : Nat) (x : SrcFlow) (p : OutParcel) (d : Nat) : State :=
  let x := if p.sendings = 1 then { x with srtt := smooth x.srtt (s.ns - p.released) } else x
  let w := match s.fn? x.fn with | some y => congest y x s.ns p.cells d | none => (x.cwnd, x.lastCut)
  let x := { x with
    cwnd := w.1, lastCut := w.2, timeouts := 0, lastUse := s.ns,
    parcels := if p.op = opOPEN then x.parcels else x.parcels.filter fun q => q.seq != p.seq }
  s.setSrc n fid { x with atomics := x.dropAtomics }

/-! ### Flows that end -/

/-- A source flow ceases to exist, and its response tags are freed. -/
def State.removeSrc (s : State) (n fid : Nat) : State :=
  let s := s.modEngine n fun e =>
    { e with
      src := Tbl.del e.src fid
      tags := Tbl.mapVal e.tags fun _ t => match t.owner with
        | .response f _ => if f = fid ∧ t.quarantine = none then t.release s.ns else t
        | _ => t
      parked := e.parked.filter fun p => !(p.1 == fid && p.2.1) }
  s.forgetCtx (n, fid, true)

/-- An operation that is to open its flow afresh starts from its beginning. -/
def State.restartOp (s : State) (place : Nat) : State :=
  { s with ops := Tbl.modify s.ops place fun o =>
      { o with flow := none, cut := 0, open_ := 0, delivered := 0,
               phase := match o.phase with | .sending => .waiting | .signalled => .waiting | p => p } }

/-- Places that a flow serves: of outstanding parcels, and of queued jobs. -/
def SrcFlow.places (x : SrcFlow) : List Nat :=
  ((x.parcels.filterMap (·.place)) ++ x.queue.filterMap fun j => match j with
    | .op p => some p
    | .parcel q => q.place).eraseDups

/-- A flow is discarded: the operations for which `f` gives a status end with it, the others open the flow afresh (R337, R625). -/
def State.discardFlow (s : State) (n fid : Nat) (x : SrcFlow) (f : Nat → Op → Option (Final × Nat × Nat)) : State :=
  let jobs := x.queue.filterMap fun j => match j with
    | .parcel q => if q.place.isSome then none else some q
    | .op _ => none
  let s := s.removeSrc n fid
  let s := x.places.foldl (fun s place =>
    match Tbl.get? s.ops place with
    | some o =>
      match f place o with
      | some (st, sub, det) => s.finish place st sub det
      | none => if o.sends then s.restartOp place else s
    | none => s) s
  jobs.foldl (fun s q => s.sendOwn x.key q) s

/-! ### Acknowledged parcels -/

/-- Has every byte of an operation been cut and answered? -/
def Op.complete (o : Op) : Bool := o.open_ == 0 && decide (o.total ≤ o.cut)

/-- Write an atomic's previous value to the result window (R309, R349). -/
def State.atomicResultWrite (s : State) (place : Nat) (o : Op) (a : AtomicArea) (result : Option Nat) : State :=
  match bit a.opFlags 4, result with
  | false, some v =>
    match s.resolveLocal (s.engineOf o.fn) o.domain a.localId a.localGen .write a.localOffset a.width with
    | (s, .ok ps) => ((cutWrites ps (le a.width v)).foldl (fun s w => s.write o.fn w.1 w.2) s).finish place .SUCCESS 0 0
    | (s, .bad sub) => s.localFails place sub a.localId 0
  | _, _ => s.finish place .SUCCESS 0 0

/-- The multicast parcel of a repair: its member has it (R355). -/
def State.memberHas (s : State) (n g seq member : Nat) : State :=
  match s.sender? n g with
  | none => s
  | some x =>
    match x.out.find? fun m => m.seq == seq with
    | none => s
    | some m =>
      let m' := { m with acked := insertNat member m.acked }
      if m'.acked.length < x.count then
        s.modSender n g fun x => { x with out := x.out.map fun y => if y.seq = seq then m' else y }
      else
        let s := s.modSender n g fun x =>
          { x with out := x.out.filter (fun y => y.seq != seq), resting := Tbl.put x.resting m.tag (s.ns + 2000000) }
        match Tbl.get? s.ops m.place with
        | some o =>
          let o := { o with open_ := o.open_ - 1 }
          let s := s.setOp m.place o
          let total := match o.area with | .mcastPut a => fullLength a.length | _ => 0
          if o.open_ = 0 ∧ total ≤ o.cut then s.finish m.place .SUCCESS 0 0 else s
        | none => s

/-- A SIGNAL takes its place in a flow's queue: in front, but behind an operation that has been cut in part, whose parcels take consecutive
numbers (R316, R317). -/
def State.signalQueue (s : State) (place : Nat) : List Job → List Job
  | .op q :: t => if (match Tbl.get? s.ops q with | some o => o.cut != 0 | none => false) then .op q :: .op place :: t else .op place :: .op q :: t
  | l => .op place :: l

/-- What the acknowledgement of a parcel does for its operation. -/
def State.opAcked (s : State) (n fid place : Nat) (p : OutParcel) (result : Option Nat) : State :=
  match Tbl.get? s.ops place with
  | none => s
  | some o =>
    if p.op = opMCAST_REPAIR then s.memberHas n (rd p.area 0 2) (rd p.area 2 2) p.member
    else
      let o := { o with open_ := o.open_ - 1 }
      let s := s.setOp place o
      match o.area with
      | .putWithSignal _ =>
        if o.phase = .signalled then s.finish place .SUCCESS 0 0
        else if o.complete then
          (s.setOp place { o with phase := .signalled }).modSrc n fid fun x => { x with queue := s.signalQueue place x.queue }
        else s
      | .atomic a => s.atomicResultWrite place o a result
      | .send a => if sendEager a then s.finish place .SUCCESS 0 0 else s
      | .recv _ => s
      | _ => if o.complete then s.finish place .SUCCESS 0 0 else s

/-- An OPEN or reopen is answered: the flow has its destination id and its tags (R320). -/
def State.opened (s : State) (n fid : Nat) (a : AnswerCell) : State :=
  s.modSrc n fid fun x =>
    { x with opening := none, dstFlow := a.openFlow, tags := (List.range a.grantCount).map fun i => a.grantBase + i,
             state := if x.parcels.any fun p => p.op == opCLOSE then .CLOSING else .OPEN }

/-- Tags granted in an ACK other than the answer to an OPEN join those of the flow, up to 64 (R150, R324). -/
def SrcFlow.grant (x : SrcFlow) (a : AnswerCell) : SrcFlow :=
  if bit a.code 0 then x
  else { x with tags := (((List.range a.grantCount).map fun i => a.grantBase + i).foldl
    (fun l t => if l.contains t then l else l ++ [t]) x.tags).take 64 }

/-- An ACK of a live flow. -/
def State.flowAck (s : State) (n fid : Nat) (x : SrcFlow) (a : AnswerCell) : State :=
  match (if bit a.code 0 then x.opening.filter fun p => p.seq == a.seq else x.parcels.find? fun p => p.seq == a.seq) with
  | none => s
  | some p =>
    if p.sendings = 0 then s
    else
      let s := s.acknowledge n fid (x.grant a) p a.value
      if p.op = opOPEN then s.opened n fid a
      else if p.op = opCLOSE then s.removeSrc n fid
      else match p.place with
        | some place => s.opAcked n fid place p (if bit a.code 1 then some a.result else none)
        | none => s

/-- The live source flow that an answer names (R329). -/
def State.answered (s : State) (n : Nat) (a : AnswerCell) : Option SrcFlow :=
  (s.srcFlow? n a.flow).filter fun x => x.fn == a.fn && x.gen == a.gen

/-- An answer whose context is not cached waits for it, or is discarded (R347). -/
def State.parkAnswer (s : State) (n fid : Nat) (c : WireCell) : State :=
  match s.park n fid true (.answer c) 1 with
  | (s, true) => s
  | (s, false) => s.evidence (peBase n + 0x6030)

/-! ### Resends (R91, R336, R618) -/

/-- The local range that a parcel's data is read from again. -/
def OutParcel.source (p : OutParcel) : DescArea → Option (Nat × Nat × Nat × Nat)
  | .put a | .putWithSignal a => some (a.localId, a.localGen, a.localOffset + p.offset, p.length)
  | .send a => some (a.localId, a.localGen, a.localOffset, a.length)
  | _ => none

/-- Read a parcel's data again for a resend (R443). -/
def State.reread (s : State) (n fid : Nat) (p : OutParcel) (place : Nat) (o : Op) : State :=
  match p.source o.area with
  | none => s
  | some src =>
    match s.readSource n fid o place p.seq src p.offset with
    | (s, none, sub) => s.localFails place sub src.1 p.offset
    | (s, some tags, _) => s.putParcel n fid { p with reads := tags, pieces := [] }

/-- A parcel that belongs to no operation is given up (R618): a flow whose CLOSE is given up is freed, one whose OPEN is, is opened
afresh. -/
def State.giveUp (s : State) (n fid : Nat) (x : SrcFlow) (p : OutParcel) : State :=
  if p.op = opOPEN then s.discardFlow n fid x fun _ _ => none
  else if p.op = opCLOSE then s.removeSrc n fid
  else s.modSrc n fid fun x => { x with parcels := x.parcels.filter fun q => q.seq != p.seq }

/-- Resend a parcel, or leave it to its horizon where no resend fits. -/
def State.resend (s : State) (n fid : Nat) (x : SrcFlow) (p : OutParcel) : State :=
  if s.mayResend x p then
    let p := { p with due := true, retryAt := none, left := [] }
    let s := s.putParcel n fid p
    match p.data, p.place with
    | none, some place =>
      match Tbl.get? s.ops place with
      | some o => if p.reads.any (fun t => !Tbl.has p.pieces t) then s else s.reread n fid p place o
      | none => s
    | _, _ => s.trySend n fid p.seq
  else if p.place.isSome then s.putParcel n fid { p with timeout := none, due := false, retryAt := none }
  else s.giveUp n fid x p

/-! ### NACKs (R337 to R338, R379, R380, R625) -/

/-- The status that a final NACK gives. -/
def finalOf (kind subtype value seq : Nat) : Final × Nat × Nat :=
  if kind = nackSTALE_ROLE then (.STALE_ROLE, 0, value)
  else if kind = nackACCESS then (.REMOTE_ACCESS_VIOLATION, subtype, value)
  else if kind = nackNO_FLOW then (.REMOTE_REFUSED, nackNO_FLOW, 0)
  else if kind = nackNO_COUNTER ∨ kind = nackNO_COMM ∨ kind = nackBAD_ENVELOPE ∨ kind = nackMSG_GONE then (.REMOTE_REFUSED, kind, value)
  else if kind = nackNO_MATCH_CONTEXT then (.REMOTE_REFUSED, kind, 0)
  else (.REMOTE_REFUSED, nackBAD_OP, seq)

/-- Do parcels of a place on this flow carry a generation: those cut, and those queued that are parcels already (R625)? -/
def SrcFlow.carries (x : SrcFlow) (place gen : Nat) : Bool :=
  x.parcels.any (fun q => q.place == some place && q.roleGen == gen)
    || x.queue.any fun j => match j with | .parcel q => q.place == some place && q.roleGen == gen | .op _ => false

/-- The member whose repair stands on the flow for a place (R356). -/
def SrcFlow.repairMember (x : SrcFlow) (place : Nat) : Nat :=
  match x.parcels.find? fun q => q.place == some place && q.op == opMCAST_REPAIR with
  | some q => q.member
  | none => (x.queue.findSome? fun j => match j with
      | .parcel q => if q.place = some place ∧ q.op = opMCAST_REPAIR then some q.member else none
      | .op _ => none).getD 0

/-- A final NACK to the OPEN of a flow ends the operations whose parcels carry the generation that the OPEN carried (R625); the detail for
a repair is its member. -/
def State.openRefused (s : State) (n fid : Nat) (x : SrcFlow) (p : OutParcel) (a : AnswerCell) : State :=
  let st := finalOf a.code a.subtype a.value a.seq
  s.discardFlow n fid x fun place o =>
    match o.area with
    | .mcastPut _ => if x.carries place p.roleGen then some (st.1, st.2.1, x.repairMember place) else none
    | _ => if o.roleGen = p.roleGen then some st else none

/-- A final NACK to a parcel of an open flow. -/
def State.parcelRefused (s : State) (n fid : Nat) (x : SrcFlow) (p : OutParcel) (a : AnswerCell) : State :=
  let st := finalOf a.code a.subtype a.value a.seq
  if a.code = nackNO_FLOW then
    s.discardFlow n fid x fun place o =>
      match o.area with
      | .mcastPut _ => if x.parcels.any (fun q => q.place == some place) then some (st.1, st.2.1, x.repairMember place) else none
      | _ => if o.cut != 0 || x.parcels.any (fun q => q.place == some place) then some st else none
  else match p.place with
    | some place => s.finish place st.1 st.2.1 (if p.op = opMCAST_REPAIR then p.member else st.2.2)
    | none => s.giveUp n fid x p

/-- RESOURCE: the wait is the detail's the first time, then doubles, up to 1,000 ticks (R380). -/
def OutParcel.backOff (p : OutParcel) (now detail : Nat) : OutParcel :=
  let w := minN 1000 (if p.wait = 0 then detail else 2 * p.wait)
  { p with wait := w, retryAt := some (now + 1000 * w, true) }

/-- A NACK for a parcel that is outstanding. -/
def State.parcelNacked (s : State) (n fid : Nat) (x : SrcFlow) (p : OutParcel) (a : AnswerCell) : State :=
  let x := { x with timeouts := 0 }
  let s := s.setSrc n fid x
  if a.code = nackCHECK then s.resend n fid x p
  else if a.code = nackFUNCTION_RESET ∨ a.code = nackPORT_RESET then s
  else if a.code = nackRETRY_AFTER then s.putParcel n fid { p with retryAt := some (s.ns + 1000 * a.value, false) }
  else if a.code = nackRESOURCE then s.putParcel n fid (p.backOff s.ns a.value)
  else if p.op = opOPEN then s.openRefused n fid x p a
  else s.parcelRefused n fid x p a

/-- May a NACK of this kind answer an OPEN (R321, R322, R337)? -/
def nackOfOpen (kind : Nat) : Bool :=
  [nackCHECK, nackSTALE_ROLE, nackFUNCTION_RESET, nackPORT_RESET, nackRETRY_AFTER, nackNO_FLOW, nackBAD_OP].contains kind

/-- The parcel that a NACK names: by its tag where it has one, a RETRY_AFTER of a refused cell by the tag alone (R152); else by its
sequence number, an OPEN that waits before a SINGLE of the same number where the kind may answer it (DEDUCED: their NACKs look alike). -/
def SrcFlow.nacked (x : SrcFlow) (a : AnswerCell) : Option OutParcel :=
  let p := if a.tag ≠ 0 then x.parcels.find? fun p => p.tag == a.tag && (a.code == nackRETRY_AFTER || p.seq == a.seq)
    else if nackOfOpen a.code then x.named a.seq
    else x.parcels.find? fun p => p.seq == a.seq
  p.filter fun p => p.sendings != 0

def State.flowNack (s : State) (n fid : Nat) (x : SrcFlow) (a : AnswerCell) : State :=
  match x.nacked a with
  | some p => s.parcelNacked n fid x p a
  | none => s

/-! ### Multicast senders (R353 to R356) -/

/-- A tag of the group that is free (R159). -/
def Sender.freeTag (g : Sender) (now : Nat) : Nat :=
  let used := (g.out.filter fun m => m.sendings != 0).map fun m => (m.tag, ())
  Tbl.free (((g.resting.filter fun r => decide (now < r.2)).map fun r => (r.1, ())) ++ used) 65536 0

/-- Header of a multicast parcel (R353). -/
def State.mcastHeader (s : State) (g : Sender) (gid : Nat) (m : McastOut) (offset : Nat) : ParcelHdr :=
  { sendTime := s.ns, length := m.length, seq := m.seq, op := opMCAST_PUT, roleGen := 0, flow := gid,
    area := le 4 (s.endpoint (s.engineOf g.fn) + at_ g.fn 21) ++ le 6 (offset + m.offset) ++ le 2 0 }

def State.putMcast (s : State) (n gid : Nat) (m : McastOut) : State :=
  s.modSender n gid fun g => { g with out := g.out.map fun y => if y.seq = m.seq then m else y }

/-- Inject what is left of a multicast parcel. -/
def State.mcastLeft (s : State) (n gid : Nat) (g : Sender) (m : McastOut) (c : Class) (resv : Option (Nat × Reservation)) : State :=
  let r := s.injectCells n g.fn 0 c resv m.left
  r.1.putMcast n gid { m with left := r.2 }

/-- Release a multicast parcel whose data is at hand. -/
def State.mcastRelease (s : State) (n gid : Nat) (g : Sender) (m : McastOut) (data : List Byte) (offset : Nat) (c : Class)
    (resv : Option (Nat × Reservation)) : State :=
  match s.colourOf g.fn c m.colour (parcelCells data.length) with
  | (s, _, .discard cls) =>
    (s.evidence 0x80038).finish m.place .POLICED cls (match Tbl.get? s.ops m.place with | some o => o.sent | none => 0)
  | (s, k, .wait) => s.putMcast n gid { m with colour := some k }
  | (s, k, .go) =>
    let tag := g.freeTag s.ns
    let m0 := m
    let m := { m with
      colour := some k, tag := tag, sendings := 1, released := s.ns, timeout := some (s.ns + maxN (4 * g.srtt) 20000),
      left := mcastBuild 0 gid tag (s.mcastHeader g gid m offset) data }
    let r := s.injectCells n g.fn 0 c resv m.left
    if r.2.length = m.left.length then s.putMcast n gid { m0 with colour := some k }
    else
      let s := { r.1 with ops := Tbl.modify r.1.ops m.place fun o => { o with sent := o.sent + 1 } }
      s.putMcast n gid { m with left := r.2 }

/-- Release or go on with a multicast parcel. -/
def State.sendMcast (s : State) (n gid seq : Nat) : State :=
  match s.sender? n gid with
  | none => s
  | some g =>
    match g.out.find? fun m => m.seq == seq with
    | none => s
    | some m =>
      let resv := s.resvGroup g.fn gid
      let c := s.parcelClass g.fn (s.opFlags (some m.place)) resv.isSome
      if m.left ≠ [] then s.mcastLeft n gid g m c resv
      else match m.data, Tbl.get? s.ops m.place with
        | some data, some o =>
          match o.area with
          | .mcastPut a => if m.sendings = 0 then s.mcastRelease n gid g m data a.remoteOffset c resv else s
          | _ => s
        | _, _ => s

/-- Is a repair of a multicast parcel for a member still unanswered? -/
def Engine.repairing (e : Engine) (place seq member : Nat) : Bool :=
  e.src.any fun x =>
    let hit := fun (p : OutParcel) => p.op == opMCAST_REPAIR && p.place == some place && p.member == member && rd p.area 2 2 == seq
    x.2.parcels.any hit || x.2.queue.any fun j => match j with | .parcel p => hit p | .op _ => false

/-- Send a repair to one member (R355): does it have a flow to go on? -/
def State.repair (s : State) (n gid : Nat) (g : Sender) (m : McastOut) (o : Op) (i : Nat) : State × Bool :=
  match s.rank g.rankTable (g.first + i), m.data, o.area with
  | .inl r, some data, .mcastPut a =>
    if (s.engine n).repairing m.place m.seq i then (s, true)
    else
      let area := le 2 gid ++ le 2 m.seq ++ le 6 (a.remoteOffset + m.offset) ++ le 1 1 ++ le 1 0
      let p := { OutParcel.of opMCAST_REPAIR (some m.place) r.gen area data with member := i }
      let k : FlowKey := { fn := g.fn, endpoint := r.endpoint, dstFn := r.fn, domain := o.domain, ordered := false }
      match s.onFlow k r.gen (.parcel p) with
      | (s, some fid) =>
        let s := if bit o.flags 1 then s.resentIn g.fn (s.resvGroup g.fn gid) else s
        ((s.pump n fid).tally (peBase n + 0x6008), true)
      | (s, none) => (s, false)
  | _, _, _ => (s, false)

/-- The members that have not acknowledged a multicast parcel. -/
def Sender.missing (g : Sender) (m : McastOut) : List Nat := (List.range g.count).filter fun i => !m.acked.contains i

/-- A multicast parcel's timeout: repairs to the members that have not acknowledged it. -/
def State.mcastTimeout (s : State) (n gid : Nat) (g : Sender) (m : McastOut) (t : Nat) : State :=
  let s := s.tally (peBase n + 0x6010)
  match Tbl.get? s.ops m.place with
  | none => s
  | some o =>
    let wait := 2 * (t - m.released)
    if o.deadline < s.ns + wait then s.putMcast n gid { m with timeout := none }
    else
      let r := (g.missing m).foldl (fun r i =>
        let x := State.repair r.1 n gid g m o i
        (x.1, r.2 && x.2)) (s, true)
      r.1.putMcast n gid { m with timeout := if r.2 then none else some (s.ns + wait) }

/-- A member's answer (R329, R354 to R356). -/
def State.mcastAnswer (s : State) (n : Nat) (a : AnswerCell) : State :=
  match s.sender? n a.flow with
  | none => s.staleArrival n
  | some g =>
    match (g.out.find? fun m => m.seq == a.seq && m.sendings != 0).filter fun _ => g.fn == a.fn && decide (a.member < g.count) with
    | none => s.staleArrival n
    | some m =>
      if !a.nack then
        let first := !m.acked.contains a.member
        let s := if first then s.modSender n a.flow fun g => { g with srtt := smooth g.srtt (s.ns - m.released) } else s
        s.memberHas n a.flow a.seq a.member
      else if a.code = nackCHECK then
        match Tbl.get? s.ops m.place with
        | some o => (s.repair n a.flow g m o a.member).1
        | none => s
      else if a.code = nackRETRY_AFTER ∨ a.code = nackRESOURCE ∨ a.code = nackFUNCTION_RESET ∨ a.code = nackPORT_RESET then s
      else
        let st := finalOf a.code a.subtype a.value a.seq
        s.finish m.place st.1 st.2.1 a.member

/-! ### The rows of answers -/

def isAck (c : WireCell) : Bool := c.h.kind == 4
def isNack (c : WireCell) : Bool := c.h.kind == 5

/-- Is a cell a well-formed answer: what it says, and nothing else, in its payload (R7, R328)? -/
def answerOk (c : WireCell) : Bool :=
  let a := AnswerCell.ofCell c
  a.usedOk && c.payload == fitTo 64 a.payload

/-- An answer cell at its engine. One that is malformed is discarded as one that answers nothing (R7, R329; the consequence is a DESIGN
CHOICE: R328 states none). -/
def State.answerCell (s : State) (n : Nat) (c : WireCell) : State :=
  let a := AnswerCell.ofCell c
  if !answerOk c then s.staleArrival n
  else
  let s := if a.nack then s.tally (peBase n + 0x6018) else s
  match s.chunkAcked n a with
  | some s => s
  | none =>
    if a.mcast then s.mcastAnswer n a
    else match s.answered n a with
      | none => s.staleArrival n
      | some x =>
        if !s.isCached n a.flow true then s.parkAnswer n a.flow c
        else
          let s := s.touch (n, a.flow, true)
          if a.nack then s.flowNack n a.flow x a else s.flowAck n a.flow x a

/-- ACK_RECEIVE (R328 to R332): the oldest ejected ACK. -/
def execAckReceive (pe : Nat) (s : State) : Host.Outcome State Fault Refusal :=
  match s.engineWorks pe, (s.engine pe).takeCell isAck with
  | true, some (c, e) => .next ((s.setEngine pe e).answerCell pe c).settle
  | _, _ => .next s

/-- NACK_RECEIVE (R337, R338): the oldest ejected NACK. -/
def execNackReceive (pe : Nat) (s : State) : Host.Outcome State Fault Refusal :=
  match s.engineWorks pe, (s.engine pe).takeCell isNack with
  | true, some (c, e) => .next ((s.setEngine pe e).answerCell pe c).settle
  | _, _ => .next s

/-! ### GET_RESP (R327, R374) -/

/-- The oldest parcel handed on that satisfies `f`. -/
def Engine.takeHanded (e : Engine) (f : Parcel → Bool) : Option (Parcel × Engine) :=
  (e.handed.find? f).map fun p => (p, { e with handed := e.handed.erase p })

/-- A response is placed: GET data in its local window, message data in its RECV's buffer. -/
def State.responsePlaced (s : State) (place : Nat) (o : Op) (q : OutParcel) (data : List Byte) : State :=
  match o.area with
  | .get a =>
    match s.resolveLocal (s.engineOf o.fn) o.domain a.localId a.localGen .write (a.localOffset + q.offset) data.length with
    | (s, .bad sub) => s.localFails place sub a.localId q.offset
    | (s, .ok ps) =>
      let s := (cutWrites ps data).foldl (fun s w => s.write o.fn w.1 w.2) s
      let o := { o with open_ := o.open_ - 1, delivered := o.delivered + data.length }
      let s := s.setOp place o
      if o.complete then s.finish place .SUCCESS 0 0 else s
  | .recv a =>
    match s.placeLocal o a q.offset data with
    | (s, some sub) => s.localFails place sub a.localId q.offset
    | (s, none) =>
      let o := { o with open_ := o.open_ - 1, delivered := o.delivered + data.length }
      let s := s.setOp place o
      if o.complete then s.pulled place o a else s
  | _ => s

/-- A response's tag is freed (R327). -/
def State.freeTag (s : State) (n tag : Nat) : State :=
  s.modEngine n fun e => { e with tags := Tbl.modify e.tags tag fun t => t.release s.ns }

/-- A complete response at the initiator. -/
def State.response (s : State) (n : Nat) (p : Parcel) : State :=
  match s.srcFlow? n p.flow with
  | none => s.staleArrival n
  | some x =>
    if !s.isCached n p.flow true then
      (match s.park n p.flow true (.parcel p) p.cells with
       | (s, true) => s
       | (s, false) => s.evidence 0x500128)
    else match x.parcels.find? fun q => q.seq == p.seq && q.asksTag && q.respTag == some p.tag with
      | none => s.staleArrival n
      | some q =>
        let s := ((s.touch (n, p.flow, true)).acknowledge n p.flow x q (rd p.area 0 4)).freeTag n p.tag
        match q.place with
        | some place =>
          match Tbl.get? s.ops place with
          | some o => s.responsePlaced place o q p.data
          | none => s
        | none => s

/-- GET_RESP_RECEIVE (R327). -/
def execGetRespReceive (pe : Nat) (s : State) : Host.Outcome State Fault Refusal :=
  match s.engineWorks pe, (s.engine pe).takeHanded fun p => p.op == opGET_RESP with
  | true, some (p, e) => .next ((s.setEngine pe e).response pe p).settle
  | _, _ => .next s

/-! ### Sending, timeouts and back-offs -/

/-- PARCEL_SEND (R193, R316, R319, R353). -/
def execParcelSend (pe flow seq : Nat) (mcast : Bool) (s : State) : Host.Outcome State Fault Refusal :=
  if !s.engineWorks pe then .next s
  else .next (if mcast then s.sendMcast pe flow seq else s.trySend pe flow seq).settle

/-- Two timeouts in a row: an OPEN with reopen goes first (R336). -/
def State.reopen (s : State) (n fid : Nat) (x : SrcFlow) (p : OutParcel) : State :=
  let o := s.openParcel x p.roleGen true
  let s := s.setSrc n fid { x with state := .REOPENING, opening := some o, timeouts := 0 }
  let s := s.putParcel n fid { p with due := true, left := [], retryAt := none }
  let s := match p.data, p.place.bind (Tbl.get? s.ops) with
    | none, some op => s.reread n fid { p with due := true, left := [], retryAt := none } (p.place.getD 0) op
    | _, _ => s
  s.trySend n fid o.seq

/-- A parcel's timeout (R333, R335, R336). -/
def State.parcelTimeout (s : State) (n fid : Nat) (x : SrcFlow) (p : OutParcel) : State :=
  let s := s.tally (peBase n + 0x6010)
  let cut := match x.lastCut with | some t => decide (x.srtt ≤ s.ns - t) | none => true
  let x := { x with
    timeouts := x.timeouts + 1, cwnd := if cut then maxN (x.cwnd / 2) 1024 else x.cwnd, lastCut := if cut then some s.ns else x.lastCut }
  let s := s.setSrc n fid x
  if p.op ≠ opOPEN ∧ 2 ≤ x.timeouts ∧ x.opening = none ∧ s.mayResend x p then s.reopen n fid x p
  else s.resend n fid x p

/-- Has a parcel's timeout ended, no back-off and no resend being pending? -/
def OutParcel.timedOut (p : OutParcel) (now : Nat) : Bool :=
  p.retryAt.isNone && !p.due && (match p.timeout with | some t => decide (t ≤ now) | none => false)

/-- PARCEL_TIMEOUT (R335, R336, R355). -/
def execParcelTimeout (pe flow seq : Nat) (mcast : Bool) (s : State) : Host.Outcome State Fault Refusal :=
  if !s.engineWorks pe then .next s
  else if mcast then
    match s.sender? pe flow with
    | none => .next s
    | some g =>
      match g.out.find? fun m => m.seq == seq with
      | none => .next s
      | some m =>
        match m.timeout with
        | some t => if t ≤ s.ns then .next (s.mcastTimeout pe flow g m t).settle else .next s
        | none => .next s
  else
    match s.srcFlow? pe flow with
    | none => .next s
    | some x =>
      match x.named seq with
      | some p => if p.timedOut s.ns then .next (s.parcelTimeout pe flow x p).settle else .next s
      | none => .next s

/-- A back-off ends: the parcel is resent. -/
def State.backOffEnds (s : State) (n fid seq : Nat) (resource : Bool) : State :=
  match s.srcFlow? n fid with
  | none => s
  | some x =>
    match (x.named seq).filter fun p => (match p.retryAt with | some (t, k) => k == resource && decide (t ≤ s.ns) | none => false) with
    | some p => (s.resend n fid x p).settle
    | none => s

/-- RETRY_AFTER_EXPIRY (R337). -/
def execRetryAfterExpiry (pe flow seq : Nat) (s : State) : Host.Outcome State Fault Refusal :=
  .next (if s.engineWorks pe then s.backOffEnds pe flow seq false else s)

/-- RESOURCE_BACKOFF_EXPIRY (R380). -/
def execResourceBackoffExpiry (pe flow seq : Nat) (s : State) : Host.Outcome State Fault Refusal :=
  .next (if s.engineWorks pe then s.backOffEnds pe flow seq true else s)

/-- FLOW_IDLE_CLOSE (R324): nothing outstanding for 16 frames. -/
def execFlowIdleClose (pe flow : Nat) (s : State) : Host.Outcome State Fault Refusal :=
  match s.engineWorks pe, s.srcFlow? pe flow with
  | true, some x =>
    if x.state = .OPEN ∧ x.parcels = [] ∧ x.queue = [] ∧ x.opening = none ∧ x.lastUse + 16000000 ≤ s.ns then
      .next (s.closeFlow pe flow)
    else .next s
  | _, _ => .next s

/-! ### Horizons (R91, R356, R376, R385, R424) -/

/-- Members that have not acknowledged every parcel of an MCAST_PUT (R356). -/
def State.lacking (s : State) (place : Nat) (o : Op) (a : McastArea) : Nat :=
  match s.sender? (s.engineOf o.fn) a.group with
  | none => 0
  | some g =>
    if o.cut < fullLength a.length then g.count
    else ((List.range g.count).filter fun i => g.out.any fun m => m.place == place && !m.acked.contains i).length

/-- An operation reaches its deadline. -/
def State.expire (s : State) (place : Nat) (o : Op) : State :=
  match o.area with
  | .mcastPut a => s.finish place .HORIZON_EXPIRED 0 (s.lacking place o a)
  | .recv _ =>
    let s := match o.phase with
      | .pulling _ handle _ _ _ _ => s.sendFin o handle 2 o.delivered
      | _ => s
    s.finish place .HORIZON_EXPIRED 0 o.resends
  | .collective a =>
    let s := if bit a.flags 0 then s.breakCounter o.fn a.stepCounter else s
    (s.finish place .HORIZON_EXPIRED 0 o.resends).failGroup a.group causeHORIZON none
  | _ => s.finish place .HORIZON_EXPIRED 0 o.resends

/-- HORIZON_EXPIRY (R38, R91). -/
def execHorizonExpiry (place : Nat) (s : State) : Host.Outcome State Fault Refusal :=
  match Tbl.get? s.ops place with
  | some o => if s.alive && decide (o.deadline ≤ s.ns) then .next (s.expire place o).settle else .next s
  | none => .next s

/-! ### Contexts fetched (R347, R348) -/

/-- What waited for a context is taken again, ahead of what came later. -/
def Engine.unpark (e : Engine) (id : Nat) (isSource : Bool) : Engine :=
  let mine := e.parked.filter fun p => p.1 == id && p.2.1 == isSource
  let ps := mine.filterMap fun p => match p.2.2 with | .parcel q => some q | .answer _ => none
  let cs := mine.filterMap fun p => match p.2.2 with | .answer c => some c | .parcel _ => none
  { e with parked := e.parked.filter (fun p => !(p.1 == id && p.2.1 == isSource)), handed := ps ++ e.handed,
           ejected := cs ++ e.ejected }

/-- Is the context's read from the spill area still outstanding? -/
def State.spillReading (s : State) (n id : Nat) (isSource : Bool) : Bool := s.dma.any fun d => d.2.use == .spill n id isSource

/-- A context is in the cache. -/
def State.ctxFetched (s : State) (n id : Nat) (isSource : Bool) : State :=
  let s := { s with cs := { s.cs with fetching := s.cs.fetching.filter (· != (n, id, isSource)) } }
  (s.touch (n, id, isSource)).modEngine n fun e => e.unpark id isSource

/-- FLOW_CONTEXT_FETCH_COMPLETE (R347). -/
def execFlowContextFetchComplete (pe flow : Nat) (isSource : Bool) (s : State) : Host.Outcome State Fault Refusal :=
  .next (if s.engineWorks pe && s.cs.fetching.contains (pe, flow, isSource) && !s.spillReading pe flow isSource then
      s.ctxFetched pe flow isSource
    else s)

/-- A context whose read from the spill area failed is lost (R348). -/
def State.ctxLost (s : State) (n id : Nat) (isSource : Bool) : State :=
  let s := s.modEngine n fun e => e.unpark id isSource
  if isSource then
    match s.srcFlow? n id with
    | some x => s.discardFlow n id x fun _ _ => none
    | none => s
  else
    match s.dstFlow? n id with
    | some x =>
      let o : Origin := { endpoint := x.endpoint, fn := x.srcFn, flow := x.srcFlow, gen := x.srcGen }
      let s := { s with cs := { s.cs with fetching := s.cs.fetching.filter (· != (n, id, false)) } }
      let s := s.modEngine n fun e =>
        { e with dst := Tbl.del e.dst id, gone := Tbl.put e.gone id o,
                 tags := Tbl.mapVal e.tags fun _ t => if t.owner = .flow id ∧ t.quarantine = none then t.release s.ns else t }
      s.forgetCtx (n, id, false)
    | none => s

end Sys2Proof.Machine
end

