-- ==== Sys2Proof/Machine/Carry.lean ====
section
/-! DEFINITION. Parcels carried out at their destination (09_remote_operations.md, 10_matching.md): contexts parked (R347), duplicates
answered again (R339), ordering and staging (R340), the row of each op, and ACK_SEND. -/
namespace Sys2Proof.Machine

open Sys2Proof

/-- A parcel that is to be carried out now. -/
def State.carryNow (s : State) (n d : Nat) (x : DstFlow) (p : Parcel) : State :=
  if p.op = opPUT then s.carryPut n d x p
  else if p.op = opPUT_ELIDED then s.carryElided n d x p
  else if p.op = opGET_REQ then s.carryGet n d x p
  else if p.op = opATOMIC then s.carryAtomic n d x p
  else if p.op = opSIGNAL then s.carrySignal n d x p
  else if p.op = opMCAST_REPAIR then s.carryRepair n d x p
  else if p.op = opCLOSE then s.carryClose n d x p
  else if p.op = opMSG_EAGER ∨ p.op = opMSG_RTS then s.carryMessage n d x p
  else if p.op = opMSG_GET then s.carryMsgGet n d x p
  else if p.op = opMSG_FIN then s.carryMsgFin n d x p
  else s.badOp n d p

/-- Carry out a parcel of a flow that is fresh: it is busy until it is done. -/
def State.carryFresh (s : State) (n d : Nat) (x : DstFlow) (p : Parcel) : State :=
  let x := { x with busy := x.busy ++ [p.seq] }
  (s.setDst n d x).carryNow n d x p

/-- A parcel that is done already is answered again (R339, R345). -/
def State.answerAgain (s : State) (n d : Nat) (x : DstFlow) (p : Parcel) : State :=
  match x.finals.find? fun y => y.1 == p.seq with
  | some (_, kind, sub, det) => s.nack n x p.tag p.seq kind sub det
  | none =>
    if p.op = opGET_REQ then s.carryGet n d x p
    else if p.op = opMSG_GET then s.carryMsgGet n d x p
    else if p.op = opATOMIC then
      match x.results.find? fun r => r.1 == p.seq with
      | some (_, old) => (s.tally (peBase n + 0x6020)).ack n x p.tag p.seq p.delay (some old)
      | none => s.ack n x p.tag p.seq p.delay none
    else s.ack n x p.tag p.seq p.delay none

/-- Bytes of reorder staging that a function holds (R229, R340). -/
def State.stagedBytes (s : State) (n f : Nat) : Nat :=
  sumNat ((s.engine n).dst.map fun x => if x.2.fn = f then sumNat (x.2.staged.map fun p => 64 * p.cells) else 0)

/-- A parcel out of turn on an ordered flow: held, or refused for want of staging (R340). -/
def State.stage (s : State) (n d : Nat) (x : DstFlow) (p : Parcel) : State :=
  if x.staged.any (fun q => q.seq == p.seq) then s
  else
    let grant := match s.fn? x.fn with | some y => y.staging * 1048576 | none => 0
    if x.staged.length < 4 ∧ s.stagedBytes n x.fn + 64 * p.cells ≤ grant then
      s.setDst n d { x with staged := x.staged ++ [p] }
    else (s.evidence (peBase n + 0x6028)).nack n x p.tag p.seq nackRETRY_AFTER 0 1

/-- The parcels that an ordered flow held for the one now done are carried out in turn. -/
def State.unstage (s : State) (n d : Nat) : (fuel : Nat) → State
  | 0 => s
  | k + 1 =>
    match s.dstFlow? n d with
    | none => s
    | some x =>
      match x.staged.find? fun p => p.seq == x.base with
      | some p =>
        let x := { x with staged := x.staged.filter fun q => q.seq != p.seq }
        (s.carryFresh n d x p).unstage n d k
      | none => s

/-- A parcel whose context is not cached waits for it, or is refused (R347). -/
def State.parkParcel (s : State) (n d : Nat) (x : DstFlow) (p : Parcel) : State :=
  match s.park n d false (.parcel p) p.cells with
  | (s, true) => s
  | (s, false) =>
    (s.evidence 0x500128).nack n x p.tag p.seq nackRETRY_AFTER 0 (if s.cs.isSpilled (n, d, false) then 4 else 1)

/-- A complete parcel of a flow at its destination. -/
def State.carry (s : State) (n : Nat) (p : Parcel) : State :=
  let d := p.flow
  match s.dstFlow? n d with
  | none =>
    match Tbl.get? (s.engine n).gone d with
    | some o =>
      if p.op = opCLOSE then s.sendCell n n ((o.answer p.seq) : AnswerCell).cell else s.nackOrigin n n o p.seq nackNO_FLOW 0
    | none => s
  | some x =>
    if !s.isCached n d false then s.parkParcel n d x p
    else
      let s := s.touch (n, d, false)
      match s.roleRefusal x.fn p.roleGen with
      | (s, some (k, det)) => s.nack n x p.tag p.seq k 0 det
      | (s, none) =>
        match classifySeq x.base x.done x.busy p.seq with
        | .again => s.answerAgain n d x p
        | .busy => s
        | .fresh =>
          if x.ordered ∧ p.seq ≠ x.base then s.stage n d x p
          else (s.carryFresh n d x p).unstage n d 5

/-- Ops that the rows below carry out. -/
def listedOp (op : Nat) : Bool :=
  [0x01, 0x02, 0x03, 0x04, 0x20, 0x21, 0x24, 0x27, 0x28, 0x29, 0x2A, 0x2B, 0x3F].contains op

/-- The oldest unicast parcel of engine `pe` that satisfies `f` is carried out. -/
def State.carryRow (s : State) (pe : Nat) (f : Nat → Bool) : State :=
  match s.engineWorks pe, (s.engine pe).takeHanded fun p => !p.mcast && f p.op with
  | true, some (p, e) => ((s.setEngine pe e).carry pe p).settle
  | _, _ => s

/-- PUT_PARCEL_RECEIVE (R325, R35); a parcel of an op that no rule lists is answered BAD_OP here (R337). -/
def execPutParcelReceive (pe : Nat) (s : State) : Host.Outcome State Fault Refusal :=
  .next (s.carryRow pe fun op => op == opPUT || !listedOp op)

/-- PUT_ELIDED_RECEIVE (R442). -/
def execPutElidedReceive (pe : Nat) (s : State) : Host.Outcome State Fault Refusal := .next (s.carryRow pe (· == opPUT_ELIDED))

/-- GET_REQ_RECEIVE (R325, R339). -/
def execGetReqReceive (pe : Nat) (s : State) : Host.Outcome State Fault Refusal := .next (s.carryRow pe (· == opGET_REQ))

/-- ATOMIC_PARCEL_RECEIVE (R342, R345). -/
def execAtomicParcelReceive (pe : Nat) (s : State) : Host.Outcome State Fault Refusal := .next (s.carryRow pe (· == opATOMIC))

/-- SIGNAL_RECEIVE (R280, R325). -/
def execSignalReceive (pe : Nat) (s : State) : Host.Outcome State Fault Refusal := .next (s.carryRow pe (· == opSIGNAL))

/-- CLOSE_RECEIVE (R324). -/
def execCloseReceive (pe : Nat) (s : State) : Host.Outcome State Fault Refusal := .next (s.carryRow pe (· == opCLOSE))

/-- MCAST_REPAIR_RECEIVE (R355). -/
def execMcastRepairReceive (pe : Nat) (s : State) : Host.Outcome State Fault Refusal :=
  .next (s.carryRow pe (· == opMCAST_REPAIR))

/-- MSG_EAGER_RECEIVE (R366, R372, R378). -/
def execMsgEagerReceive (pe : Nat) (s : State) : Host.Outcome State Fault Refusal := .next (s.carryRow pe (· == opMSG_EAGER))

/-- MSG_RTS_RECEIVE (R366, R372, R378). -/
def execMsgRtsReceive (pe : Nat) (s : State) : Host.Outcome State Fault Refusal := .next (s.carryRow pe (· == opMSG_RTS))

/-- MSG_GET_RECEIVE (R374, R375). -/
def execMsgGetReceive (pe : Nat) (s : State) : Host.Outcome State Fault Refusal := .next (s.carryRow pe (· == opMSG_GET))

/-- MSG_FIN_RECEIVE (R375, R376). -/
def execMsgFinReceive (pe : Nat) (s : State) : Host.Outcome State Fault Refusal := .next (s.carryRow pe (· == opMSG_FIN))

/-- OPEN_RECEIVE (R319 to R322). -/
def execOpenReceive (pe : Nat) (s : State) : Host.Outcome State Fault Refusal :=
  match s.engineWorks pe, (s.engine pe).takeHanded fun p => !p.mcast && p.op == opOPEN with
  | true, some (p, e) => .next ((s.setEngine pe e).carryOpen pe p)
  | _, _ => .next s

/-- MCAST_PUT_RECEIVE (R354). -/
def execMcastPutReceive (pe : Nat) (s : State) : Host.Outcome State Fault Refusal :=
  match s.engineWorks pe, (s.engine pe).takeHanded fun p => p.mcast with
  | true, some (p, e) => .next ((s.setEngine pe e).carryMcast pe p)
  | _, _ => .next s

/-- ACK_SEND (R35, R330): the last posted write of the oldest placement is issued, and its parcel acknowledged. -/
def execAckSend (pe : Nat) (s : State) : Host.Outcome State Fault Refusal :=
  let e := s.engine pe
  match s.engineWorks pe, e.placing with
  | true, w :: t =>
    let s := (s.setEngine pe { e with placing := t }).endPlacing pe w
    .next (match w.flow with | some (d, _) => s.unstage pe d 5 | none => s).settle
  | _, _ => .next s

end Sys2Proof.Machine
end

