-- ==== Sys2Proof/Machine/Accept.lean ====
section
/-! DEFINITION. Acceptance of descriptors (R33, R262, R273 to R276, R312, R313, R381, R401, R402), one row per opcode; fetched
descriptors; and reads of host memory that return (R227). -/
namespace Sys2Proof.Machine

open Sys2Proof

/-! ### Operations accepted -/

/-- A new operation. -/
def State.newOp (s : State) (f r : Nat) (x : Fn) (g : Ring) (h : DescHdr) (a : DescArea) : Op :=
  { fn := f, ring := r, index := g.next, gen := s.gen f, hdr := h, area := a, deadline := s.ns + x.horizonMs * 1000000,
    phase := .waiting, flow := none, dest := 0, destFn := 0, roleGen := 0, domain := g.pd, cut := 0, open_ := 0, delivered := 0,
    resends := 0, sent := 0 }

/-- The accepted entry of a ring takes its place (R33, R267, R313). -/
def State.enter (s : State) (f r : Nat) (g : Ring) (place : Nat) (o : Op) : State :=
  let e : Entry := { opcode := descOpcode o.area, hdr := o.hdr, gen := o.gen, outcome := none }
  let s := s.setRing f r { g with entries := g.entries ++ [(g.next, e)], next := (g.next + 1) % 2 ^ 32 }
  (s.setOp place o).meter f 2 1

/-- The rank of an operation is looked up (R163): its destination, or BAD_RANK. -/
def State.withRank (s : State) (place : Nat) (o : Op) (table : Nat) : State :=
  match s.rank table o.hdr.rank with
  | .inl r => s.setOp place { o with dest := r.endpoint, destFn := r.fn, roleGen := r.gen }
  | .inr sub => s.finish place .BAD_RANK sub o.hdr.rank

/-- The check of an operation's local range (R312), then what follows it. -/
def State.withLocal (s : State) (place : Nat) (o : Op) (id gen : Nat) (need : Need) (off n : Nat) (k : State → State) : State :=
  match s.checkLocal (s.engineOf o.fn) o.domain id gen need off n with
  | (s, none) => k s
  | (s, some sub) => s.finish place .LOCAL_ACCESS_VIOLATION sub id

def State.beginWait (s : State) (o : Op) : State := s.modRing o.fn o.ring fun g => { g with state := .WAITING }

def State.beginCounterAdd (s : State) (place : Nat) (o : Op) (amount : Nat) : State :=
  (s.advance o.fn o.hdr.counter amount).finish place .SUCCESS 0 0

def State.beginPut (s : State) (place : Nat) (o : Op) (a : PutArea) (need : Need) (table : Nat) : State :=
  s.withLocal place o a.localId a.localGen need a.localOffset (fullLength a.length) fun s => s.withRank place o table

def State.beginMcast (s : State) (place : Nat) (o : Op) (a : McastArea) : State :=
  s.withLocal place o a.localId a.localGen .read a.localOffset (fullLength a.length) fun s => s

def State.beginAtomic (s : State) (place : Nat) (o : Op) (a : AtomicArea) (table : Nat) : State :=
  if bit a.opFlags 4 then s.withRank place o table
  else s.withLocal place o a.localId a.localGen .write a.localOffset a.width fun s => s.withRank place o table

def State.beginSend (s : State) (place : Nat) (o : Op) (a : SendArea) (table : Nat) : State :=
  if a.length = 0 then s.withRank place o table
  else s.withLocal place o a.localId a.localGen .read a.localOffset a.length fun s => s.withRank place o table

/-- Elements of a member's send range and of its receive range (R401), by R405. -/
def CollArea.ranges (a : CollArea) (rank m : Nat) : Nat × Nat :=
  if a.kind = 1 then (0, 0)
  else if a.kind = 2 then (if a.root = rank then (a.count, 0) else (0, a.count))
  else if a.kind = 3 then (a.count, if a.root = rank then a.count else 0)
  else if a.kind = 4 then (a.count, a.count)
  else (a.count * m, a.count)

/-- Elements that a COLLECTIVE adds to coll_elements (R404). -/
def CollArea.metered (a : CollArea) (rank m : Nat) : Nat := (CollArea.ranges a rank m).1

/-- The local checks of a COLLECTIVE (R401): none, or the subtype and the window. -/
def State.collCheck (s : State) (o : Op) (a : CollArea) (rank m : Nat) : State × Option (Nat × Nat) :=
  let n := s.engineOf o.fn
  let one := fun (s : State) (id gen : Nat) (need : Need) (off len : Nat) =>
    if len = 0 then (s, none)
    else match s.checkLocal n o.domain id gen need off len with
      | (s, some sub) => (s, some (sub, id))
      | (s, none) => (s, (none : Option (Nat × Nat)))
  let k := CollArea.ranges a rank m
  match one s a.sendId a.sendGen .read a.sendOffset (k.1 * elemWidth a.type) with
  | (s, some e) => (s, some e)
  | (s, none) => one s a.recvId a.recvGen .write a.recvOffset (k.2 * elemWidth a.outType)

/-- A COLLECTIVE is accepted (R401, R402, R404, R424). The step counter of one that cannot contribute is broken at once: the collective will
fail (R421; when is DEDUCED). -/
def State.beginCollective (s : State) (place : Nat) (o : Op) (a : CollArea) : State :=
  let att := s.engineOf o.fn
  match s.groupMember o.fn att a.group with
  | none => s
  | some (grp, m) =>
    let s := s.meter o.fn 4 (CollArea.metered a m.rank grp.size)
    if grp.state = 3 then s.endFailed (place, o, a) 0
    else if a.seq ≠ m.next then s.failGroup a.group causeMISMATCH none
    else
      let s := s.modGroup a.group fun x =>
        { x with members := Tbl.put x.members att { m with next := (m.next + 1) % 2 ^ 32 } }
      match s.collCheck o a m.rank grp.size with
      | (s, some (sub, id)) =>
        (if bit a.flags 0 then s.breakCounter o.fn a.stepCounter else s).finish place .LOCAL_ACCESS_VIOLATION sub id
      | (s, none) => s.setOp place { o with phase := .collective }

/-- A COMMAND is accepted: its packet is read (R482). -/
def State.beginCommand (s : State) (place : Nat) (o : Op) (a : CommandArea) : State :=
  let k := s.handle place
  let s := { s with cc := { s.cc with adminReply := Tbl.put s.cc.adminReply k (o.fn, a.reply, a.replyLength) } }
  (s.setOp place { o with phase := .reading }).dmaRead o.fn a.packet a.packetLength (.packet k) (some place) 0

/-- An accepted operation begins. -/
def State.begin_ (s : State) (place : Nat) (o : Op) (g : Ring) : State :=
  match o.area with
  | .nop _ | .fence _ => s
  | .wait _ _ _ => s.beginWait o
  | .counterAdd n _ => s.beginCounterAdd place o n
  | .put a | .putWithSignal a => s.beginPut place o a .read g.rankTable
  | .get a => s.beginPut place o a .write g.rankTable
  | .mcastPut a => s.beginMcast place o a
  | .atomic a => s.beginAtomic place o a g.rankTable
  | .send a => s.beginSend place o a g.rankTable
  | .recv a => s.acceptRecv place o a
  | .cancel a => s.acceptCancel place o a
  | .collective a => s.beginCollective place o a
  | .command a => s.beginCommand place o a

/-! ### Acceptance -/

/-- Acceptance stands still at the ring's next entry. -/
def State.stall (s : State) (f r : Nat) (w : Stall) : State :=
  s.modRing f r fun g => { g with stalled := some w }

/-- No room on the posted list (R381). -/
def State.stallPosted (s : State) (f r : Nat) (x : Fn) : State :=
  let s := s.stall f r .posted
  if x.postedFullFrame = some s.frame then s
  else (s.modFn f fun x => { x with postedFullFrame := some s.frame }).raise 0x0C4 (some f) 0

/-- Must a RECV wait for room on the posted list? -/
def State.postedFull (s : State) (f : Nat) (x : Fn) : DescArea → Bool
  | .recv a => s.recvFull f x a
  | _ => false

/-- The next entry of a ring that accepts is malformed: the ring freezes, and the function is lost to its groups (R274, R276, R426). -/
def State.badEntry (s : State) (f r : Nat) (g : Ring) (why : Nat) (raw : List Byte) : State :=
  (s.malformed f r g.next why raw).memberLost f

/-- The next entry of a ring: malformed, held back, or accepted (R33, R262). -/
def State.acceptEntry (s : State) (f r : Nat) (h : DescHdr) (a : DescArea) : State :=
  match s.fn? f, s.ring? f r with
  | some x, some g =>
    match s.malformedReason f x g h a with
    | some why => s.badEntry f r g why (descBytes h a)
    | none =>
      if s.postedFull f x a then s.stallPosted f r x
      else match s.freePlace with
        | none => s.stall f r .place
        | some place =>
          let o := s.newOp f r x g h a
          let s := (s.enter f r g place o).begin_ place o g
          s.settleWaits s.ops.length
  | _, _ => s

/-- May the ring's next entry be accepted now? -/
def State.acceptsNext (s : State) (f r : Nat) : Bool :=
  s.accepts f r && (match s.ring? f r with | some g => g.stalled.isNone && g.waiting != 0 | none => false)

/-- A descriptor at the head of a ring's unaccepted entries. -/
def State.descriptor (s : State) (f r : Nat) (h : DescHdr) (a : DescArea) : State :=
  if s.acceptsNext f r then (s.acceptEntry f r h a).settle else s

/-- NOP (R266). -/
def execNop (fn ring : Nat) (d : DescHdr) (reserved : Nat) (s : State) : Host.Outcome State Fault Refusal :=
  .next (s.descriptor fn ring d (.nop reserved))

/-- WAIT (R281). -/
def execWait (fn ring : Nat) (d : DescHdr) (counter threshold reserved : Nat) (s : State) : Host.Outcome State Fault Refusal :=
  .next (s.descriptor fn ring d (.wait counter threshold reserved))

/-- COUNTER_ADD (R617). -/
def execCounterAdd (fn ring : Nat) (d : DescHdr) (amount reserved : Nat) (s : State) : Host.Outcome State Fault Refusal :=
  .next (s.descriptor fn ring d (.counterAdd amount reserved))

/-- PUT (R308, R312). -/
def execPut (fn ring : Nat) (d : DescHdr) (a : PutArea) (s : State) : Host.Outcome State Fault Refusal :=
  .next (s.descriptor fn ring d (.put a))

/-- GET (R308, R312). -/
def execGet (fn ring : Nat) (d : DescHdr) (a : PutArea) (s : State) : Host.Outcome State Fault Refusal :=
  .next (s.descriptor fn ring d (.get a))

/-- PUT_WITH_SIGNAL (R308, R317). -/
def execPutWithSignal (fn ring : Nat) (d : DescHdr) (a : PutArea) (s : State) : Host.Outcome State Fault Refusal :=
  .next (s.descriptor fn ring d (.putWithSignal a))

/-- FENCE (R314). -/
def execFence (fn ring : Nat) (d : DescHdr) (reserved : Nat) (s : State) : Host.Outcome State Fault Refusal :=
  .next (s.descriptor fn ring d (.fence reserved))

/-- MCAST_PUT (R350, R353). -/
def execMcastPut (fn ring : Nat) (d : DescHdr) (a : McastArea) (s : State) : Host.Outcome State Fault Refusal :=
  .next (s.descriptor fn ring d (.mcastPut a))

/-- ATOMIC (R309). -/
def execAtomic (fn ring : Nat) (d : DescHdr) (a : AtomicArea) (s : State) : Host.Outcome State Fault Refusal :=
  .next (s.descriptor fn ring d (.atomic a))

/-- SEND (R361, R372). -/
def execSend (fn ring : Nat) (d : DescHdr) (a : SendArea) (s : State) : Host.Outcome State Fault Refusal :=
  .next (s.descriptor fn ring d (.send a))

/-- RECV (R362, R367). -/
def execRecv (fn ring : Nat) (d : DescHdr) (a : RecvArea) (s : State) : Host.Outcome State Fault Refusal :=
  .next (s.descriptor fn ring d (.recv a))

/-- CANCEL (R384). -/
def execCancel (fn ring : Nat) (d : DescHdr) (a : CancelArea) (s : State) : Host.Outcome State Fault Refusal :=
  .next (s.descriptor fn ring d (.cancel a))

/-- COLLECTIVE (R397, R401, R402). -/
def execCollective (fn ring : Nat) (d : DescHdr) (a : CollArea) (s : State) : Host.Outcome State Fault Refusal :=
  .next (s.descriptor fn ring d (.collective a))

/-- COMMAND (R481, R482). -/
def execCommand (fn ring : Nat) (d : DescHdr) (a : CommandArea) (s : State) : Host.Outcome State Fault Refusal :=
  .next (s.descriptor fn ring d (.command a))

/-! ### Fetched entries (R261, R262, R277) -/

/-- One fetched entry, if it is the next one of a ring that accepts. -/
def State.acceptRaw (s : State) (f r index : Nat) (b : List Byte) : State :=
  match s.acceptsNext f r, s.ring? f r with
  | true, some g =>
    if g.next ≠ index then s
    else match areaOf (rd b 0 1) b with
      | some a => s.acceptEntry f r (descHdrOf b) a
      | none => s.badEntry f r g reasonOPCODE b
  | _, _ => s

/-- Fetched entries are taken in ring order; those that are not accepted are read again later. -/
def State.acceptAll (s : State) (f r first count : Nat) (bs : List Byte) : State :=
  let s := (List.range count).foldl
    (fun s i => s.acceptRaw f r ((first + i) % 2 ^ 32) (fitTo 64 (bs.drop (64 * i)))) s
  let s := s.modRing f r fun g =>
    { g with fetching := if g.fetching = some ((first + count) % 2 ^ 32) then none else g.fetching, retriedDesc := false }
  s.settle.fetch f r

/-- Descriptors that were asked for return. -/
def State.descReturn (s : State) (tag r first count : Nat) (d : DmaRead) (c : Completion) : State :=
  let s := s.endRead tag d
  if s.staleRead d then s.tally (attBase d.att + 0x28)
  else match c with
    | .data bs => s.acceptAll d.fn r first count bs
    | .error e _ => (s.reportRead d.fn e).fetchFailed d.fn r true fun s => s.dmaRead d.fn d.addr d.len d.use none 0

/-- DESCRIPTOR_FETCH_RETURN (R262, R277). -/
def execDescriptorFetchReturn (fn ring : Nat) (c : Completion) (s : State) : Host.Outcome State Fault Refusal :=
  match s.alive, s.readFor fn fun u => (match u with | .descriptors r _ _ => r == ring | _ => false) with
  | true, some (tag, d) =>
    (match d.use with
     | .descriptors _ first count => .next (s.descReturn tag ring first count d c)
     | _ => .next s)
  | _, _ => .next s

/-- A function that an index read has brought to HALTED is lost to its groups (R275, R426). -/
def State.afterIndex (s : State) (f : Nat) : State :=
  if ((s.fn? f).map (·.state)) = some .HALTED then s.memberLost f else s

/-- PRODUCER_INDEX_READ_RETURN (R261, R262, R277). -/
def execProducerIndexReadReturn (fn ring : Nat) (c : Completion) (s : State) : Host.Outcome State Fault Refusal :=
  match s.alive, s.readFor fn fun u => u == .index ring with
  | true, some (tag, d) => .next ((s.indexReturn tag ring d c).afterIndex fn)
  | _, _ => .next s

/-- COUNTER_SET (R278): WAITs on the counter see its value. -/
def execCounterSet (fn counter : Nat) (s : State) : Host.Outcome State Fault Refusal :=
  .next (s.setupAct fn fun x =>
    if 4095 < counter then s.setupEnd fn .BAD_PARAM
    else match Tbl.get? x.counters counter with
      | none => s.setupEnd fn .NOT_FOUND
      | some k => ((s.writeCounter fn counter { k with value := x.counterValue, broken := false }).setupEnd fn .OK).settle)

/-! ### Data that returns (R227) -/

def hostErrCode : HostErr → Nat
  | .poison => 1 | .timeout => 2 | .refused => 3 | .ats => 4

/-- An operation's read has failed: HOST_ACCESS_ERROR with the offset of the failed access within the operation (R270). -/
def State.opReadFails (s : State) (d : DmaRead) (e : HostErr) (off : Nat) : State :=
  match d.place with
  | some place => s.finish place .HOST_ACCESS_ERROR (hostErrCode e) (d.offset + off)
  | none => s

/-- A parcel whose data is at hand, elided where the operation asks and the packed form takes fewer cells (R441 to R446). -/
def State.packParcel (s : State) (p : OutParcel) (bytes : List Byte) (busy : Bool) : State × OutParcel :=
  let plain := { p with data := some (p.lead ++ bytes) }
  if p.op = opPUT_ELIDED then (s, { p with data := some (packWith (p.map.getD []) bytes) })
  else if p.op = opPUT ∧ p.sendings = 0 ∧ bit (s.opFlags p.place) 3 ∧ s.elideEn then
    if busy then (s.tally 0x700030, plain)
    else match elide bytes with
      | some (packed, map) =>
        (s, { p with op := opPUT_ELIDED, map := some map, data := some packed, cells := parcelCells packed.length })
      | none => (s, plain)
  else (s, plain)

/-- A piece of a parcel's data has been read. -/
def State.parcelPiece (s : State) (n fid seq tag : Nat) (bytes : List Byte) (busy : Bool) : State :=
  match (s.srcFlow? n fid).bind fun x => x.parcels.find? fun p => p.seq == seq && p.reads.contains tag with
  | none => s
  | some p =>
    let p := { p with pieces := Tbl.put p.pieces tag bytes }
    if p.reads.all fun t => Tbl.has p.pieces t then
      let data := p.reads.flatMap fun t => Tbl.getD p.pieces t []
      let r := s.packParcel { p with reads := [], pieces := [] } data busy
      (r.1.putParcel n fid r.2).trySend n fid seq
    else s.putParcel n fid p

/-- A piece of a multicast parcel's data has been read. -/
def State.mcastPiece (s : State) (n g seq tag : Nat) (bytes : List Byte) : State :=
  match (s.sender? n g).bind fun x => x.out.find? fun m => m.seq == seq && m.reads.contains tag with
  | none => s
  | some m =>
    let m := { m with pieces := Tbl.put m.pieces tag bytes }
    if m.reads.all fun t => Tbl.has m.pieces t then
      let data := m.reads.flatMap fun t => Tbl.getD m.pieces t []
      (s.putMcast n g { m with reads := [], pieces := [], data := some data }).sendMcast n g seq
    else s.putMcast n g m

/-- The read of a pulled message's data has failed: the SEND ends, and the pull is answered MSG_GONE (R375). -/
def State.pullFails (s : State) (n d seq : Nat) (r : DmaRead) (e : HostErr) (off place : Nat) : State :=
  let handle := s.handle place
  let tag := match (s.engine n).serving.find? fun j => j.flow == d && j.seq == seq with | some j => j.tag | none => 0
  let s := (s.serveFails n d seq).opReadFails r e off
  s.refuseFinal n d tag seq nackMSG_GONE 0 handle

/-- What a completed read is for. -/
def State.readDone (s : State) (tag : Nat) (d : DmaRead) (bytes : List Byte) (busy : Bool) : State :=
  match d.use with
  | .parcel n fid seq => s.parcelPiece n fid seq tag bytes busy
  | .mcast n g seq => s.mcastPiece n g seq tag bytes
  | .response n x seq => (s.servePiece n x seq tag bytes).unstage n x 5
  | .atomic n x seq => (s.atomicDone n x seq bytes).unstage n x 5
  | .atomicOp n x seq _ _ _ _ => (s.atomicDone n x seq bytes).unstage n x 5
  | .collective g att k => s.memberPiece g att k tag bytes
  | .spill n id src => s.ctxFetched n id src
  | .setup => s.setupReturn d.fn (.data bytes)
  | .index _ | .descriptors _ _ _ | .packet _ | .blob | .abandoned => s

/-- What a failed read was for. -/
def State.readFails (s : State) (d : DmaRead) (e : HostErr) (off : Nat) : State :=
  let s := if d.use = .setup then s else s.reportRead d.fn e
  match d.use with
  | .parcel _ _ _ | .mcast _ _ _ | .packet _ => s.opReadFails d e off
  | .response n x seq =>
    (match d.place with
     | some place => s.pullFails n x seq d e off place
     | none => s.serveFails n x seq)
  | .atomic n x seq => s.atomicFails n x seq
  | .atomicOp n x seq _ _ _ _ => s.atomicFails n x seq
  | .collective g _ _ => s.failGroup g causeMEMBER none
  | .spill n id src => s.ctxLost n id src
  | .setup => s.setupReturn d.fn (.error e off)
  | .index _ | .descriptors _ _ _ | .blob | .abandoned => s

/-- A read of the spill area is made for the manager, but serves contexts of any function. -/
def State.staleData (s : State) (d : DmaRead) : Bool :=
  match d.use with
  | .spill _ _ _ => false
  | _ => s.staleRead d

/-- A completion for everything but the packets and blobs of commands. -/
def State.dataReturn (s : State) (tag : Nat) (d : DmaRead) (c : Completion) (busy : Bool) : State :=
  match d.use with
  | .index r => (s.indexReturn tag r d c).afterIndex d.fn
  | .descriptors r first count => s.descReturn tag r first count d c
  | _ =>
    let s := s.endRead tag d
    if s.staleData d then s.tally (attBase d.att + 0x28)
    else (match c with
      | .data bs => s.readDone tag d bs busy
      | .error e off => s.readFails d e off).settle

end Sys2Proof.Machine
end

