-- ==== Sys2Proof/Machine/Ticks.lean ====
section
/-! DEFINITION. Tick boundaries of the tick-driven blocks: the next boundary and the lag (R60 to R62), what lag reports (R63), and the work
that the Signal Box and the Roundhouse do at a boundary (R193, R409). -/
namespace Sys2Proof.Machine

/-- Blocks that are tick-driven and present, by TT_LAG index. -/
def State.tickBlock (s : State) (i : Nat) : Bool :=
  decide (i < 128) && !(decide (5 ≤ i) && decide (i ≤ 31)) && !s.faultAbsent (208 + i)

/-- The lag record of a block as it stands before its next boundary; a block without one is on the boundary of the tick before. -/
def State.lagBefore (s : State) (i : Nat) : Lag := Tbl.getD s.tt.lags i (Lag.on (s.tickNo - 1))

/-- The next tick boundary of a block whose work ended at `workEnd` (R61). -/
def Lag.next (l : Lag) (workEnd : Nat) : Nat :=
  maxN (if 0 < l.ns then maxN (l.boundary + 875) (1000 * (l.tick + 1)) else l.boundary + 1000) workEnd

def State.setLag (s : State) (i : Nat) (l : Lag) : State := { s with tt := { s.tt with lags := Tbl.put s.tt.lags i l } }

/-- What the lag at a new boundary reports, `before` being the lag at the boundary before it: TICK_LAG at each rise above 16,000 ns (R63). -/
def State.reportLag (s : State) (i before : Nat) (l : Lag) : State :=
  let lag := l.ns
  let tooLate := decide (1000 < lag) && !l.late
  let failed := decide (16000 < lag ∧ before ≤ 16000)
  let back := lag == 0
  let degrade := failed && s.severity (208 + i) == .DEGRADE
  let l' : Lag :=
    { l with late := !back && (l.late || tooLate), fault := !back && (l.fault || failed),
             degraded := decide (1000 < lag) && (l.degraded || degrade) }
  let s := s.setLag i l'
  let s := if tooLate then s.raise 0x010 none i else s
  let s := if failed then s.faultOf (208 + i) else s
  if back && l.fault then s.raise 0x011 none i else s

/-- The work of a block at the boundary of tick `n`. -/
def State.tickWork (s : State) (i n : Nat) : State :=
  if !s.alive then s
  else if i = 0 then (Tbl.keys s.engines).foldl State.drainAnswers (s.sbTick n)
  else if 32 ≤ i ∧ i < 64 then (s.drainAnswers (i - 32)).settleInvals (i - 32)
  else if i = 2 then s.rhTick
  else s

/-- A block reaches its next boundary. -/
def State.boundary (s : State) (i workEnd : Nat) : State :=
  let l := s.lagBefore i
  let b := l.next workEnd
  if s.ns < b then s
  else (s.reportLag i l.ns { l with boundary := b, tick := l.tick + 1 }).tickWork i (l.tick + 1)

/-- TICK_BOUNDARY (R61, R63): block `block` finished the work of its tick at `workEnd`. -/
def execTickBoundary (block workEnd : Nat) (s : State) : Host.Outcome State Fault Refusal :=
  .next (if s.rst.mode != .OFF && s.tickBlock block then s.boundary block workEnd else s)

end Sys2Proof.Machine
end

