-- ==== Sys2Proof/Machine/Tokens.lean ====
section
/-! DEFINITION. The Token unit (13_tokens.md): the token page and its rights (R447 to R452), local tokens (R453 to R462), fabric homes,
bindings, token messages and leases (R463 to R472). -/
namespace Sys2Proof.Machine

open Sys2Proof

/-! ### Tokens and waiters -/

def LocalToken.initial : LocalToken := { holder := none, lost := false, waiters := [] }
/-- A home slot after reset of its router: lost is set. -/
def Home.initial : Home :=
  { enable := false, holder := none, lost := true, waiters := [], lease := 0, granting := none, answers := [] }
def TokenRights.initial : TokenRights := { enable := false, first := 0, last := 0, pfMask := 0#32 }

def State.localToken (s : State) (t : Nat) : LocalToken := Tbl.getD s.tk.locals t LocalToken.initial
def State.setLocal (s : State) (t : Nat) (x : LocalToken) : State := { s with tk := { s.tk with locals := Tbl.put s.tk.locals t x } }
def State.home (s : State) (h : Nat) : Home := Tbl.getD s.tk.homes h Home.initial
def State.setHome (s : State) (h : Nat) (x : Home) : State := { s with tk := { s.tk with homes := Tbl.put s.tk.homes h x } }
def State.binding? (s : State) (b : Nat) : Option Binding := Tbl.get? s.tk.bindings b
def State.setBinding (s : State) (b : Nat) (x : Binding) : State :=
  { s with tk := { s.tk with bindings := Tbl.put s.tk.bindings b x } }

/-- Is a function's right to the tokens of a group given (R450)? -/
def State.tokenRight (s : State) (f : Nat) (x : Fn) (group : Nat) : Bool :=
  let r := Tbl.getD s.tk.rights group TokenRights.initial
  r.enable && (decide (r.first ≤ f ∧ f ≤ r.last) || (x.vf == 0 && decide (f < 32) && r.pfMask.getLsbD f))

/-- Every waiter entry in use (R456). -/
def TK.entries (t : TK) : List Waiter := (t.locals.flatMap fun l => l.2.waiters) ++ t.homes.flatMap fun h => h.2.waiters

/-- Is there a waiter entry for a function? -/
def State.waiterRoom (s : State) (endpoint f : Nat) : Bool :=
  let l := s.tk.entries
  decide (l.length < 4096) && decide ((l.filter fun w => w.endpoint == endpoint && w.fn == f).length < 8)

/-- Highest priority among waiters. -/
def topPriority (ws : List Waiter) : Nat := maxList (ws.map (·.priority))

/-- The waiter that is next: the highest priority, the earliest registered among equals (R457). -/
def nextWaiter (ws : List Waiter) : Option Waiter := ws.find? fun w => w.priority == topPriority ws

/-- The read value of R452. -/
def tokenValue (won lost queued : Bool) (gen fn : Nat) : Nat :=
  fn + at_ gen 16 + at_ (b2n queued) 29 + at_ (b2n lost) 30 + at_ (b2n won) 31
def valuePending : Nat := 2 ^ 28
def valueFailed : Nat := 2 ^ 27

/-! ### Priority inheritance (R460) -/

/-- The highest priority that waits on a token that a function holds. -/
def State.tokenLevel (s : State) (f : Nat) : Nat :=
  maxN (maxList (s.tk.locals.map fun l => if l.2.holder = some f then topPriority l.2.waiters else 0))
    (maxList (s.tk.bindings.map fun b => if b.2.fn = f ∧ b.2.state = .HELD then b.2.top else 0))

/-- The inherited level of a function once every waiting change has been applied. -/
def State.inheritedNext (s : State) (f : Nat) (x : Fn) : Nat :=
  s.sb.changes.foldl (fun l c => match c with
    | .inherited g k => if g = f then k else l
    | _ => l) x.sched.inherited

/-- Levels that have changed are reported to the Signal Box, which takes them at its next tick (R200). -/
def State.reportLevels (s : State) : State :=
  s.fns.foldl (fun s x =>
    if s.inheritedNext x.1 x.2 = s.tokenLevel x.1 then s else s.pushChange (.inherited x.1 (s.tokenLevel x.1))) s

/-! ### Local tokens (R453 to R462) -/

/-- What a read by `f` of a token returns while another holds it, or nobody. -/
def State.heldValue (s : State) (t : LocalToken) (f : Nat) : Nat :=
  match t.holder with
  | some g => tokenValue false false (t.waiters.any fun w => w.fn == f) (s.gen g) g
  | none => 0

/-- A read of a local token's acquire address, or of its wait alias (R454, R455): the value and the state after it. -/
def State.localRead (s : State) (f : Nat) (x : Fn) (t : Nat) (wait : Bool) : State × Nat :=
  let y := s.localToken t
  match y.holder with
  | none =>
    ((s.setLocal t { y with holder := some f, lost := false }).tally 0x60010, tokenValue true y.lost false (s.gen f) f)
  | some g =>
    if g = f then (s.setLocal t { y with lost := false }, tokenValue true y.lost false (s.gen f) f)
    else if wait && !(y.waiters.any fun w => w.fn == f) && s.waiterRoom (s.endpoint x.att) f then
      let w : Waiter := { endpoint := s.endpoint x.att, fn := f, gen := s.gen f, binding := 0, priority := x.sched.baseLevel }
      let y := { y with waiters := y.waiters ++ [w] }
      (s.setLocal t y, s.heldValue y f)
    else (s, s.heldValue y f)

/-- A local token is released: it passes to the next waiter, or is free (R457, R459). -/
def State.localRelease (s : State) (t : Nat) (lost : Bool) : State :=
  let y := s.localToken t
  match nextWaiter y.waiters with
  | some w =>
    let s := s.setLocal t { holder := some w.fn, lost := lost, waiters := y.waiters.erase w }
    (s.tally 0x60018).raise 0x140 (some w.fn) t
  | none => s.setLocal t { holder := none, lost := lost, waiters := [] }

/-- An access of the token page by a function that is RUNNING and has the right `right`; `denied` is what it meets otherwise (R449,
R451). -/
def State.tokenAccess (s : State) (f : Nat) (right : Fn → Bool) (denied : State → State) (k : Fn → State) : State :=
  match s.alive, s.fn? f with
  | true, some x => if x.state ≠ .RUNNING then denied s else if right x then k x else denied (s.evidence 0x60024)
  | _, _ => s

/-- A read of the token page, at a page offset; zero where it is denied, and aborted in HALT (R250). -/
def State.tokenRead (s : State) (f offset : Nat) (right : Fn → Bool) (k : Fn → State × Nat) : State :=
  if s.rst.mode = .HALT ∧ (s.fn? f).isSome then s.emit (.completerAbort f)
  else s.tokenAccess f right (fun s => s.emit (.value (.fn f) (0x2000 + offset) 0)) fun x =>
    ((k x).1.emit (.value (.fn f) (0x2000 + offset) (k x).2)).reportLevels

/-- A write of the token page. -/
def State.tokenWrite (s : State) (f : Nat) (right : Fn → Bool) (k : Fn → State) : State :=
  s.tokenAccess f right (fun s => s) fun x => (k x).reportLevels

/-- LOCAL_TOKEN_ACQUIRE_READ (R454). -/
def execLocalTokenAcquireRead (fn token : Nat) (s : State) : Host.Outcome State Fault Refusal :=
  .next (if 1024 ≤ token then s
    else s.tokenRead fn (8 * token) (fun x => s.tokenRight fn x (token / 16)) fun x => s.localRead fn x token false)

/-- LOCAL_TOKEN_WAIT_READ (R455, R456). -/
def execLocalTokenWaitRead (fn token : Nat) (s : State) : Host.Outcome State Fault Refusal :=
  .next (if 1024 ≤ token then s
    else s.tokenRead fn (8 * token + 4) (fun x => s.tokenRight fn x (token / 16)) fun x => s.localRead fn x token true)

/-- LOCAL_TOKEN_RELEASE_WRITE (R457, R458). -/
def execLocalTokenReleaseWrite (fn token value : Nat) (s : State) : Host.Outcome State Fault Refusal :=
  .next (if 1024 ≤ token then s
    else s.tokenWrite fn (fun x => s.tokenRight fn x (token / 16)) fun _ =>
      if value = 0 ∧ (s.localToken token).holder = some fn then s.localRelease token false else s.evidence 0x60028)

/-! ### Token messages (R465) -/

def tmACQUIRE : Nat := 1
def tmWAIT : Nat := 2
def tmCANCEL : Nat := 3
def tmRELEASE : Nat := 4
def tmRENEW : Nat := 5
def tmANSWER : Nat := 6
def tmGRANT : Nat := 7
def tmGRANT_ACK : Nat := 8

/-- The 16 bytes of a token message. -/
def tokenBytes (m : TokenMsg) : List Byte :=
  le 1 m.kind ++ le 1 m.index ++ le 1 (b2n m.lost + 2 * b2n m.won + 4 * b2n m.queued) ++ le 1 m.priority ++ le 4 m.endpoint
    ++ le 2 m.function ++ le 1 m.generation ++ le 1 m.binding ++ le 4 m.request

def tokenOf (b : List Byte) : TokenMsg :=
  { kind := rd b 0 1, index := rd b 1 1, lost := bit (rd b 2 1) 0, won := bit (rd b 2 1) 1, queued := bit (rd b 2 1) 2,
    priority := rd b 3 1, endpoint := rd b 4 4, function := rd b 8 2, generation := rd b 10 1, binding := rd b 11 1,
    request := rd b 12 4 }

/-- A CONTROL cell (R486): class, flags, fragment number, transfer number and body. -/
def State.controlCell (s : State) (loc cls flags fragment transfer : Nat) (body : List Byte) : WireCell :=
  mkCell { escape := false, dateline := false, index := 0, tag := transfer % 65536, kind := 7, vc := 7, dest := loc * 32 }
    (le 1 cls ++ le 1 flags ++ le 2 fragment ++ le 4 (s.location * 32) ++ body)

/-- Send a token message to a router (R465, R486). -/
def State.sendToken (s : State) (loc : Nat) (m : TokenMsg) : State :=
  s.injectControl (s.controlCell loc 3 3 0 m.request (tokenBytes m))

/-- A request number. -/
def State.takeRequest (s : State) : Nat × State :=
  (s.tk.nextRequest, { s with tk := { s.tk with nextRequest := (s.tk.nextRequest + 1) % 2 ^ 32 } })

/-- A message of a binding's function to its home. -/
def State.bindMsg (s : State) (b : Nat) (x : Binding) (kind request : Nat) (lost : Bool) : TokenMsg :=
  let y := s.fn? x.fn
  { kind := kind, index := x.homeIndex, lost := lost, won := false, queued := false,
    priority := (match y with | some y => y.sched.baseLevel | none => 0),
    endpoint := s.endpoint (match y with | some y => y.att | none => 0), function := x.fn, generation := x.gen, binding := b,
    request := request }

/-- Send a message that waits for no answer or whose answer is not needed. -/
def State.bindSend (s : State) (b : Nat) (x : Binding) (kind : Nat) : State :=
  let r := s.takeRequest
  r.2.sendToken x.homeLoc (s.bindMsg b x kind r.1 false)

/-- Send a RELEASE, again and again until it is acknowledged (R468). -/
def State.sendRelease (s : State) (loc : Nat) (m : TokenMsg) : State :=
  let r := s.takeRequest
  let m := { m with kind := tmRELEASE, request := r.1 }
  let s := r.2
  ({ s with tk := { s.tk with releases := Tbl.put s.tk.releases r.1 { homeLoc := loc, msg := m, sent := s.ns, wait := 50000 } } }).sendToken
    loc m

/-- A binding's hold ends with a RELEASE. -/
def State.bindRelease (s : State) (b : Nat) (x : Binding) (lost : Bool) : State :=
  (s.setBinding b { x with state := .IDLE, lost := false, top := 0, ready := none, renewing := none }).sendRelease x.homeLoc
    (s.bindMsg b x tmRELEASE 0 lost)

/-! ### Bindings read and written (R466 to R468) -/

/-- A binding of this function. -/
def State.ownBinding (s : State) (f b : Nat) : Option Binding := (s.binding? b).filter fun x => x.fn == f

/-- A read of a binding (R466, R467): the value and the state after it. -/
def State.bindRead (s : State) (b : Nat) (x : Binding) (wait : Bool) : State × Nat :=
  let give := fun (y : Binding) (v : Nat) => (s.setBinding b { y with answer := v }, v)
  if x.req.isSome then give x valuePending
  else match x.ready with
    | some v => give { x with ready := none } v
    | none =>
      if x.state = .HELD then give { x with lost := false } (tokenValue true x.lost false (s.gen x.fn) x.fn)
      else
        let kind := if wait then tmWAIT else tmACQUIRE
        let r := s.takeRequest
        let q : TokenReq := { kind := kind, request := r.1, sent := s.ns, wait := 50000, first := s.ns }
        let x := { x with gen := s.gen x.fn, state := .PENDING, req := some q, answer := valuePending }
        let s := r.2.setBinding b x
        (s.sendToken x.homeLoc (s.bindMsg b x kind r.1 false), valuePending)

/-- FABRIC_BINDING_ACQUIRE_READ (R466). -/
def execFabricBindingAcquireRead (fn binding : Nat) (s : State) : Host.Outcome State Fault Refusal :=
  .next (s.tokenRead fn (0x2000 + 8 * binding) (fun _ => (s.ownBinding fn binding).isSome) fun _ =>
    match s.ownBinding fn binding with
    | some x => s.bindRead binding x false
    | none => (s, 0))

/-- FABRIC_BINDING_WAIT_READ (R466). -/
def execFabricBindingWaitRead (fn binding : Nat) (s : State) : Host.Outcome State Fault Refusal :=
  .next (s.tokenRead fn (0x2004 + 8 * binding) (fun _ => (s.ownBinding fn binding).isSome) fun _ =>
    match s.ownBinding fn binding with
    | some x => s.bindRead binding x true
    | none => (s, 0))

/-- FABRIC_BINDING_RELEASE_WRITE (R458, R468). -/
def execFabricBindingReleaseWrite (fn binding value : Nat) (s : State) : Host.Outcome State Fault Refusal :=
  .next (s.tokenWrite fn (fun _ => (s.ownBinding fn binding).isSome) fun _ =>
    match s.ownBinding fn binding with
    | some x => if value = 0 ∧ x.state = .HELD then s.bindRelease binding x false else s.evidence 0x60028
    | none => s)

/-- A binding's registration or request is withdrawn (R458). -/
def State.bindCancel (s : State) (b : Nat) (x : Binding) : State :=
  let s := s.bindSend b x tmCANCEL
  s.setBinding b { x with state := .IDLE, req := none, renewing := none }

/-- Does a binding wait, or ask to wait? -/
def Binding.waits (x : Binding) : Bool :=
  x.state == .WAITING || (match x.req with | some q => q.kind == tmWAIT | none => false)

/-- TOKEN_WAIT_CANCEL_WRITE (R458). -/
def execTokenWaitCancelWrite (fn : Nat) (fabric : Bool) (index value : Nat) (s : State) : Host.Outcome State Fault Refusal :=
  .next (if fabric then
      s.tokenWrite fn (fun _ => (s.ownBinding fn index).isSome) fun _ =>
        match s.ownBinding fn index with
        | some x => if value ≠ 0 then s.evidence 0x60028 else if x.waits then s.bindCancel index x else s
        | none => s
    else if 1024 ≤ index then s
    else s.tokenWrite fn (fun x => s.tokenRight fn x (index / 16)) fun _ =>
      if value ≠ 0 then s.evidence 0x60028
      else
        let y := s.localToken index
        s.setLocal index { y with waiters := y.waiters.filter fun w => w.fn != fn })

/-! ### The home (R463, R466 to R471) -/

/-- The party that a message names. -/
def msgParty (m : TokenMsg) : Waiter :=
  { endpoint := m.endpoint, fn := m.function, gen := m.generation, binding := m.binding, priority := m.priority }

def Waiter.same (a b : Waiter) : Bool := a.endpoint == b.endpoint && a.fn == b.fn && a.gen == b.gen && a.binding == b.binding

def Home.heldBy (h : Home) (w : Waiter) : Bool := match h.holder with | some x => x.same w | none => false

/-- The ANSWER to a message: the home's state, and what the sender has won (R466, R470). -/
def Home.reply (h : Home) (m : TokenMsg) (lost : Bool) : TokenMsg :=
  let w := msgParty m
  { kind := tmANSWER, index := m.index, lost := lost, won := h.heldBy w, queued := h.waiters.any (·.same w),
    priority := topPriority h.waiters, endpoint := (match h.holder with | some x => x.endpoint | none => 0),
    function := (match h.holder with | some x => x.fn | none => 0),
    generation := (match h.holder with | some x => x.gen | none => 0), binding := m.binding, request := m.request }

/-- Send the answer and keep the last of each kind of request of a binding for a repeated request number (R467). -/
def State.homeReply (s : State) (i : Nat) (m : TokenMsg) (lost : Bool) : State :=
  let h := s.home i
  let a := h.reply m lost
  let k := (m.endpoint, m.binding + 256 * m.kind)
  (s.setHome i { h with answers := (k, m.request, a) :: h.answers.filter fun e => e.1 != k }).sendToken (epLoc m.endpoint) a

/-- A home's token is released: it is granted to the next waiter, or is free (R457, R468). -/
def State.homeRelease (s : State) (i : Nat) (lost : Bool) : State :=
  let h := s.home i
  match nextWaiter h.waiters with
  | none => s.setHome i { h with holder := none, lost := lost, granting := none }
  | some w =>
    let r := s.takeRequest
    let s := r.2.setHome i
      { h with holder := some w, lost := lost, waiters := h.waiters.erase w, lease := s.ns + 4000000, granting := some r.1 }
    (s.tally 0x60018).sendToken (epLoc w.endpoint)
      { kind := tmGRANT, index := i, lost := lost, won := true, queued := false,
        priority := topPriority (h.waiters.erase w), endpoint := w.endpoint, function := w.fn, generation := w.gen,
        binding := w.binding, request := r.1 }

/-- ACQUIRE or WAIT at a home (R454, R455, R469). -/
def State.homeTake (s : State) (i : Nat) (m : TokenMsg) (wait : Bool) : State :=
  let h := s.home i
  let w := msgParty m
  match h.holder with
  | none =>
    ((s.setHome i { h with holder := some w, lost := false, lease := s.ns + 4000000, granting := none }).tally 0x60010).homeReply
      i m h.lost
  | some x =>
    if x.same w then (s.setHome i { h with lost := false }).homeReply i m h.lost
    else if wait && !h.waiters.any (·.same w) && s.waiterRoom w.endpoint w.fn then
      (s.setHome i { h with waiters := h.waiters ++ [w] }).homeReply i m false
    else s.homeReply i m false

/-- The answer that a repeated request number had (R467). -/
def Home.earlier (h : Home) (m : TokenMsg) : Option TokenMsg :=
  (h.answers.find? fun e => e.1 == (m.endpoint, m.binding + 256 * m.kind) && e.2.1 == m.request).map (·.2.2)

/-- A message to a home slot in use. -/
def State.homeMsg (s : State) (m : TokenMsg) (k : Nat → State) : State :=
  let h := s.home m.index
  if 64 ≤ m.index ∨ h.enable = false then s
  else match h.earlier m with
    | some a => s.sendToken (epLoc m.endpoint) a
    | none => k m.index

/-- RELEASE at a home: by its holder only (R458, R468). -/
def State.homeReleaseMsg (s : State) (i : Nat) (m : TokenMsg) : State :=
  let s := if (s.home i).heldBy (msgParty m) then s.homeRelease i m.lost else s
  s.homeReply i m false

/-- RENEW at a home: its holder's lease runs anew (R470, R471). -/
def State.homeRenew (s : State) (i : Nat) (m : TokenMsg) : State :=
  let h := s.home i
  let s := if h.heldBy (msgParty m) then s.setHome i { h with lease := s.ns + 4000000, granting := none, lost := false } else s
  s.homeReply i m false

def State.homeCancel (s : State) (m : TokenMsg) : State :=
  if 64 ≤ m.index then s
  else
    let h := s.home m.index
    s.setHome m.index { h with waiters := h.waiters.filter fun w => !w.same (msgParty m) }

/-- GRANT_ACK at a home (R468). -/
def State.homeGranted (s : State) (m : TokenMsg) : State :=
  if 64 ≤ m.index then s
  else
    let h := s.home m.index
    if h.granting = some m.request ∧ h.heldBy (msgParty m) then
      s.setHome m.index { h with granting := none, lost := false, lease := s.ns + 4000000 }
    else s

/-- The Token unit takes the oldest message of a kind, given the location that sent it. -/
def State.tokenFrom (s : State) (kind : Nat) (k : Nat → TokenMsg → State → State) : State :=
  match s.alive, s.tk.inbox.find? fun m => m.2.kind == kind with
  | true, some m => (k m.1 m.2 { s with tk := { s.tk with inbox := s.tk.inbox.erase m } }).reportLevels
  | _, _ => s

def State.tokenMsg (s : State) (kind : Nat) (k : TokenMsg → State → State) : State := s.tokenFrom kind fun _ m s => k m s

/-- TOKEN_MSG_ACQUIRE (R454, R466). -/
def execTokenMsgAcquire (s : State) : Host.Outcome State Fault Refusal :=
  .next (s.tokenMsg tmACQUIRE fun m s => s.homeMsg m fun i => s.homeTake i m false)

/-- TOKEN_MSG_WAIT (R455, R469). -/
def execTokenMsgWait (s : State) : Host.Outcome State Fault Refusal :=
  .next (s.tokenMsg tmWAIT fun m s => s.homeMsg m fun i => s.homeTake i m true)

/-- TOKEN_MSG_CANCEL (R458, R466). -/
def execTokenMsgCancel (s : State) : Host.Outcome State Fault Refusal :=
  .next (s.tokenMsg tmCANCEL fun m s => s.homeCancel m)

/-- TOKEN_MSG_RELEASE (R468). -/
def execTokenMsgRelease (s : State) : Host.Outcome State Fault Refusal :=
  .next (s.tokenMsg tmRELEASE fun m s => s.homeMsg m fun i => s.homeReleaseMsg i m)

/-- TOKEN_MSG_RENEW (R470). -/
def execTokenMsgRenew (s : State) : Host.Outcome State Fault Refusal :=
  .next (s.tokenMsg tmRENEW fun m s => s.homeMsg m fun i => s.homeRenew i m)

/-- TOKEN_MSG_GRANT_ACK (R468). -/
def execTokenMsgGrantAck (s : State) : Host.Outcome State Fault Refusal :=
  .next (s.tokenMsg tmGRANT_ACK fun m s => s.homeGranted m)

/-! ### Answers and grants at the requester (R466 to R470) -/

/-- The answer to a read's request. -/
def State.requestAnswered (s : State) (b : Nat) (x : Binding) (q : TokenReq) (m : TokenMsg) : State :=
  if x.state = .HELD then s.setBinding b { x with req := none }
  else
    let v := tokenValue m.won m.lost m.queued m.generation m.function
    let y := { x with req := none, ready := some v, top := m.priority, renewed := q.first, renewing := none }
    s.setBinding b { y with state := if m.won then .HELD else if m.queued then .WAITING else .IDLE }

/-- The answer to the RENEW of a held binding, or to the WAIT of a waiting one. -/
def State.renewAnswered (s : State) (b : Nat) (x : Binding) (sent : Nat) (m : TokenMsg) : State :=
  let y := { x with renewing := none }
  if x.state = .HELD then
    s.setBinding b (if m.won then { y with renewed := sent, top := m.priority } else y)
  else if m.won then s.setBinding b { y with state := .HELD, renewed := sent, top := m.priority, lost := m.lost }
  else s.setBinding b { y with renewed := sent, state := if m.queued then .WAITING else .IDLE }

/-- An ANSWER at a requester's router. -/
def State.tokenAnswered (s : State) (m : TokenMsg) : State :=
  if Tbl.has s.tk.releases m.request then { s with tk := { s.tk with releases := Tbl.del s.tk.releases m.request } }
  else match s.binding? m.binding with
    | none => s
    | some x =>
      match x.req, x.renewing with
      | some q, r =>
        if q.request = m.request then s.requestAnswered m.binding x q m
        else (match r with
          | some (n, t) => if n = m.request then s.renewAnswered m.binding x t m else s
          | none => s)
      | none, some (n, t) => if n = m.request then s.renewAnswered m.binding x t m else s
      | none, none => s

/-- TOKEN_MSG_ANSWER (R466, R468, R470). -/
def execTokenMsgAnswer (s : State) : Host.Outcome State Fault Refusal :=
  .next (s.tokenMsg tmANSWER fun m s => s.tokenAnswered m)

/-- Answer a GRANT, given the home's location. -/
def State.grantAck (s : State) (x : Binding) (m : TokenMsg) : State :=
  s.sendToken x.homeLoc { m with kind := tmGRANT_ACK }

/-- Is a GRANT for this binding's function, at this home? -/
def Binding.named (x : Binding) (m : TokenMsg) : Bool := x.fn == m.function && x.homeIndex == m.index && x.gen == m.generation

/-- A GRANT at a waiter's router, from the home at `loc`: the binding becomes held; where none waits, it is released at once, without lost
(R468). -/
def State.tokenGranted (s : State) (loc : Nat) (m : TokenMsg) : State :=
  match (s.binding? m.binding).filter fun x => x.named m && x.homeLoc == loc && (x.state == .HELD || x.waits) with
  | none => s.sendRelease loc { m with lost := false, won := false, queued := false }
  | some x =>
    if x.state = .HELD then s.grantAck x m
    else
      let s := s.setBinding m.binding
        { x with state := .HELD, req := none, ready := none, lost := m.lost, top := m.priority, renewed := s.ns, renewing := none }
      (s.grantAck x m).raise 0x140 (some x.fn) (m.binding + 32768)

/-- TOKEN_MSG_GRANT (R468). -/
def execTokenMsgGrant (s : State) : Host.Outcome State Fault Refusal :=
  .next (s.tokenFrom tmGRANT fun loc m s => s.tokenGranted loc m)

/-! ### Times (R467 to R472) -/

/-- A step of the Token unit on a binding. -/
def State.onBinding (s : State) (b : Nat) (k : Binding → State) : State :=
  match s.alive, s.binding? b with
  | true, some x => (k x).reportLevels
  | _, _ => s

/-- End of the retries of a request: the function's horizon from the first read (R467). -/
def State.requestLimit (s : State) (x : Binding) (q : TokenReq) : Nat := q.first + s.horizonNs x.fn

/-- TOKEN_REQUEST_RETRY (R467): no retry whose wait would end after the horizon (R91). -/
def execTokenRequestRetry (binding : Nat) (s : State) : Host.Outcome State Fault Refusal :=
  .next (s.onBinding binding fun x =>
    match x.req with
    | some q =>
      let wait := minN (2 * q.wait) 1000000
      if q.sent + q.wait ≤ s.ns ∧ s.ns + wait ≤ s.requestLimit x q then
        let q' := { q with sent := s.ns, wait := wait }
        (s.setBinding binding { x with req := some q' }).sendToken x.homeLoc (s.bindMsg binding x q.kind q.request false)
      else s
    | none => s)

/-- TOKEN_REQUEST_FAIL (R467). -/
def execTokenRequestFail (binding : Nat) (s : State) : Host.Outcome State Fault Refusal :=
  .next (s.onBinding binding fun x =>
    match x.req with
    | some q =>
      if s.requestLimit x q ≤ s.ns then
        (s.setBinding binding { x with req := none, ready := some valueFailed, state := .FAILED }).raise 0x141 (some x.fn) binding
      else s
    | none => s)

/-- TOKEN_RELEASE_RESEND (R467, R468). -/
def execTokenReleaseResend (release : Nat) (s : State) : Host.Outcome State Fault Refusal :=
  match s.alive, Tbl.get? s.tk.releases release with
  | true, some r =>
    .next (if r.sent + r.wait ≤ s.ns then
        ({ s with tk := { s.tk with
            releases := Tbl.put s.tk.releases release { r with sent := s.ns, wait := minN (2 * r.wait) 1000000 } } }).sendToken
          r.homeLoc r.msg
      else s)
  | _, _ => .next s

/-- The send time of the last periodic message of a binding. -/
def Binding.lastSent (x : Binding) : Nat := match x.renewing with | some (_, t) => t | none => x.renewed

/-- The message that a binding sends at every frame boundary (R469, R470). -/
def State.periodic (s : State) (b : Nat) (x : Binding) (kind : Nat) : State :=
  if x.lastSent / 1000000 < s.frame then
    let r := s.takeRequest
    (r.2.setBinding b { x with renewing := some (r.1, s.ns) }).sendToken x.homeLoc (s.bindMsg b x kind r.1 false)
  else s

/-- TOKEN_RENEW_SEND (R470). -/
def execTokenRenewSend (binding : Nat) (s : State) : Host.Outcome State Fault Refusal :=
  .next (s.onBinding binding fun x => if x.state = .HELD then s.periodic binding x tmRENEW else s)

/-- TOKEN_WAIT_RESEND (R469). -/
def execTokenWaitResend (binding : Nat) (s : State) : Host.Outcome State Fault Refusal :=
  .next (s.onBinding binding fun x => if x.state = .WAITING then s.periodic binding x tmWAIT else s)

/-- A lease or a grant has run out at a home (R471). -/
def State.lapse (s : State) (h : Nat) (granting : Bool) : State :=
  let x := s.home h
  if s.alive && x.holder.isSome && x.granting.isSome == granting && decide (x.lease ≤ s.ns) then
    (s.evidence 0x60020).homeRelease h true
  else s

/-- TOKEN_LEASE_LAPSE (R471). -/
def execTokenLeaseLapse (home : Nat) (s : State) : Host.Outcome State Fault Refusal := .next (s.lapse home false)

/-- TOKEN_GRANT_LAPSE (R471). -/
def execTokenGrantLapse (home : Nat) (s : State) : Host.Outcome State Fault Refusal := .next (s.lapse home true)

/-- TOKEN_LEASE_DROP (R472): the next read returns the token's state as last known, without won. -/
def execTokenLeaseDrop (binding : Nat) (s : State) : Host.Outcome State Fault Refusal :=
  .next (s.onBinding binding fun x =>
    if x.state = .HELD ∧ x.renewed + 3000000 ≤ s.ns then
      (s.setBinding binding
        { x with state := .IDLE, lost := false, top := 0, renewing := none,
                 ready := some (tokenValue false false false (s.gen x.fn) x.fn) }).raise 0x142 (some x.fn) binding
    else s)

/-! ### A function is lost (R461) -/

/-- The local tokens of a function that is reset, disabled or destroyed are released with the lost flag, its registrations removed;
its fabric holds are released with lost, its registrations cancelled. -/
def State.tokensLost (s : State) (f : Nat) : State :=
  let s := { s with tk := { s.tk with
    locals := Tbl.mapVal s.tk.locals fun _ y => { y with waiters := y.waiters.filter fun w => w.fn != f } } }
  let s := s.tk.locals.foldl (fun s t => if t.2.holder = some f then s.localRelease t.1 true else s) s
  let s := s.tk.bindings.foldl (fun s b =>
    if b.2.fn ≠ f then s
    else if b.2.state = .HELD then s.bindRelease b.1 b.2 true
    else if b.2.waits then s.bindCancel b.1 b.2
    else s.setBinding b.1 { b.2 with state := .IDLE, req := none, ready := none }) s
  s.reportLevels

/-- Does a function hold or await a token of a group (R450)? -/
def State.usesGroup (s : State) (f group : Nat) : Bool :=
  s.tk.locals.any fun t => t.1 / 16 == group && (t.2.holder == some f || t.2.waiters.any fun w => w.fn == f)

/-- Does a function hold any token (R238)? -/
def State.holdsToken (s : State) (f : Nat) : Bool :=
  s.tk.locals.any (fun t => t.2.holder == some f) || s.tk.bindings.any fun b => b.2.fn == f && b.2.state == .HELD

end Sys2Proof.Machine
end

