-- ==== Sys2Proof/Machine/Reset.lean ====
section
/-! DEFINITION. Resets of the whole device (16_modes_reset.md): what they keep and return (R541), when they begin (R543, R544), what
RST_CAUSE and RST_RESTARTS record (R542, R545), and power (R531, R592). -/
namespace Sys2Proof.Machine

open Sys2Proof

/-- RST_STATUS.stage (R548). -/
def stageCode : BootStage → Nat
  | .STRAP => 0 | .FUSE => 1 | .PLL => 2 | .SRAM => 3 | .BOOT => 4 | .HBM => 5 | .LINKS => 6 | .CONFIG => 7 | .AWAIT => 8
  | .DONE => 15

/-! ### What is kept (R541) -/

/-- The number after the newest record of a region that the store holds. -/
def JR.numberAfter (j : JR) (region : Nat) : Nat :=
  maxList (((j.pages.filter fun p => p.region == region).flatMap (·.recs)).map (·.number + 1)) % 2 ^ 32

/-- The Journal unit after a reset: the store's contents, with the operation, queue and buffered records lost; each region goes on in
a newly erased block (R571), a block that holds a HALT record joins the evidence journal, a slot that was being staged is INVALID,
and the clocks from the last anchor (R565, R580). -/
def JR.afterReset (j : JR) : JR :=
  let j := if j.pages.any fun p => p.block == j.haltBlock then
      { j with evBlocks := j.evBlocks ++ [j.haltBlock], haltBlock := j.takeBlock.getD j.haltBlock } else j
  { j with state := .DISCOVERING, current := none, queue := [], pulse := none, evBuf := [], evSince := none, evFill := 64,
           meterFill := 64, cfgFill := 64, anchorFill := 64, evNext := j.numberAfter 3, meterNext := j.numberAfter 4, cfgNext := j.numberAfter 2,
           age := j.anchorAge, agePart := 0,
           slots := j.slots.map (fun (x : Slot) => if x.state = .STAGING then { x with state := .INVALID } else x),
           settings := [], replay := [], autoService := false, resetRecorded := false }

/-- Everything at its reset value, what R541 keeps kept; random resets are drawn anew (R220). The tags of reads go on, so that a late
completion finds none. -/
def State.reborn (s : State) : State :=
  { State.reset with
    variant := s.variant, minVer := s.minVer, jr := s.jr.afterReset
    fc := { FC.reset with repairs := s.fc.repairs, softRepairs := s.fc.softRepairs }
    nextDma := s.nextDma, freeBase := s.freeCount, freeCount := s.freeCount + 2112
    hostPorts := Tbl.mapVal (s.hostPorts.filter fun h => h.2.perst) fun _ (h : HostPort) => { HostPort.initial with perst := h.perst }
    out := s.out, pending := s.pending }

/-- Every host link goes down (R250, R541), and HALT_N is released (R554). -/
def State.linksGo (s : State) : State :=
  let up := (s.atts.filter fun a => a.2.state == .UP || a.2.state == .SLOW).map fun a => Output.linkDown a.1
  { s with out := s.out ++ up ++ (if s.rst.mode = .HALT then [.haltN false] else []) }

/-- The reset controller through a reset: the pins and the strap's resistor stay as they are. -/
def RST.through (r : RST) : RST :=
  { RST.reset with strapCode := r.strapCode, resetN := r.resetN, thermalHold := r.thermalHold, hotAt := r.hotAt }

/-- A device reset begins outside BRINGUP (R541, R542). -/
def State.wholeReset (s : State) (cause source : Nat) : State :=
  let t := s.linksGo.reborn
  { t with rst := { s.rst.through with
      cause := cause, source := source, modeAtReset := modeCode s.rst.mode, restartCause := 0, restartStage := 0xF } }

/-- A restart within BRINGUP (R545): every counter keeps its value. -/
def State.restart (s : State) (cause : Nat) : State :=
  let t := s.linksGo.reborn
  ({ t with
     ctr := s.ctr, sat := s.sat
     rst := { s.rst.through with
       cause := s.rst.cause, source := s.rst.source, modeAtReset := s.rst.modeAtReset, restartCause := cause,
       restartStage := stageCode s.rst.stage } }).evidence 0x20018

/-- A device reset begins. -/
def State.beginDeviceReset (s : State) (cause source : Nat) : State :=
  if s.rst.mode = .BRINGUP then s.restart cause else s.wholeReset cause source

/-- A reset that is due begins, unless a program or erase pulse of the journal store is in progress (R544). -/
def State.dueReset (s : State) : State :=
  match s.rst.deferred with
  | some (cause, source) => if s.jr.pulse.isSome then s else s.beginDeviceReset cause source
  | none => s

/-- A device reset is wanted; one that is deferred already stands. -/
def State.wantReset (s : State) (cause source : Nat) : State :=
  if s.rst.mode = .OFF ∨ s.rst.deferred.isSome then s else { s with rst := { s.rst with deferred := some (cause, source) } }

/-- A device reset falls due (R544). -/
def State.resetDue (s : State) (cause source : Nat) : State := (s.wantReset cause source).dueReset

/-! ### The rows of reset and power -/

/-- RESET_N_ASSERT: RESET_N has been low for 2 µs (R540, R543). -/
def execResetNAssert (s : State) : Host.Outcome State Fault Refusal :=
  if s.rst.mode = .OFF ∨ s.rst.resetN then .next s
  else .next (({ s with rst := { s.rst with resetN := true } }).resetDue 2 0)

/-- RESET_N_RELEASE: RESET_N rises, and stage STRAP begins, in which STRAP_SEL converts to `code` (R548, R551). While a reset is
deferred the pin alone changes. -/
def execResetNRelease (code : Nat) (s : State) : Host.Outcome State Fault Refusal :=
  if s.rst.mode = .OFF then .next s
  else if s.rst.mode = .BRINGUP ∧ s.rst.stage = .STRAP then
    .next { s with rst := { s.rst with resetN := false, strapCode := code % 256 } }
  else .next { s with rst := { s.rst with resetN := false } }

/-- WATCHDOG_EXPIRY (R546). -/
def execWatchdogExpiry (s : State) : Host.Outcome State Fault Refusal :=
  if s.rst.watchdog then .next (s.resetDue 3 0) else .next s

/-- THERMAL_TRIP: a die sensor reads 112 °C or more (R547). -/
def execThermalTrip (sensor : Nat) (value : Int) (s : State) : Host.Outcome State Fault Refusal :=
  if s.rst.mode = .OFF ∨ s.rst.thermalHold ∨ 8 ≤ sensor ∨ value < 1792 then .next s
  else
    let s := { s with rst := { s.rst with thermalHold := true, hotAt := s.ns } }
    let t := (s.emit (.thermTripN true)).resetDue 6 0
    .next { t with rst := { t.rst with hotAt := t.ns } }

/-- THERMAL_TRIP_RELEASE: every sensor has read below 95 °C for 1 s, so the device leaves reset and THERMTRIP_N is released (R547). -/
def execThermalTripRelease (s : State) : Host.Outcome State Fault Refusal :=
  if s.rst.mode != .OFF && s.rst.thermalHold && s.rst.deferred.isNone && decide (s.rst.hotAt + 1000000000 ≤ s.ns) then
    .next (({ s with rst := { s.rst with thermalHold := false } }).emit (.thermTripN false))
  else .next s

/-- POWER_LOSS: the device is in OFF, and the page or erase in progress stays as it is (R531, R544, R570). -/
def execPowerLoss (s : State) : Host.Outcome State Fault Refusal :=
  if s.rst.mode = .OFF then .next s
  else
    let t := s.linksGo.reborn
    .next { t with hostPorts := [], rst := { RST.reset with mode := .OFF, strapCode := s.rst.strapCode } }

/-- POWER_ON: rails and RESET_N are good, and the device leaves OFF for BRINGUP (R531, R540, R542, R592). -/
def execPowerOn (s : State) : Host.Outcome State Fault Refusal :=
  if s.rst.mode = .OFF then
    let t := s.reborn
    .next { t with rst := { RST.reset with strapCode := s.rst.strapCode } }
  else .next s

end Sys2Proof.Machine
end

