-- ==== Sys2Proof/Machine/Commands.lean ====
section
/-! DEFINITION. Commands (14_commands.md): opcodes and packets (R473 to R477, R499), the checks of R480, replies over the four
transports (R478, R479, R481 to R491), kept replies and duplicates (R491), waiting commands (R493 to R495), and the settings that
CONFIG_SAVE stores (R572). -/
namespace Sys2Proof.Machine

open Sys2Proof

/-! ### Opcodes (R499) -/

/-- What the target byte of an opcode must name (R475). -/
inductive Target where
  | any
  | unit (n : Nat)
  /-- the attachment of the function in the header -/
  | function
  /-- the attachment that parameter k names -/
  | attachment (k : Nat)
  /-- MANAGER_SET -/
  | manager
  /-- host port p, parameter 0 -/
  | hostPort
  /-- BLOCK_RESET -/
  | block
  deriving DecidableEq, Repr

/-- The array that ends a parameter area (R477): the width of an element, and how many there are. -/
inductive Tail where
  | none
  /-- `per` elements for each of the count in parameter k -/
  | counted (width per k : Nat)
  | fixed (width n : Nat)
  deriving DecidableEq, Repr

structure OpInfo where
  opcode : Nat
  target : Target
  /-- marked (fn): the header names a function (R476) -/
  fn : Bool
  /-- widths of the parameters in bytes, in layout order -/
  widths : List Nat
  tail : Tail
  deriving DecidableEq, Repr

def ops01 : List OpInfo := [
  ⟨0x0101, .any, false, [], .none⟩,
  ⟨0x0102, .any, false, [1], .none⟩,
  ⟨0x0103, .manager, false, [1], .none⟩,
  ⟨0x0104, .any, false, [], .none⟩,
  ⟨0x0105, .block, false, [1, 1], .none⟩,
  ⟨0x0106, .any, false, [4], .none⟩,
  ⟨0x0107, .any, false, [2, 2], .none⟩,
  ⟨0x0108, .unit 52, false, [1], .none⟩,
  ⟨0x0109, .any, false, [1, 2, 2, 2, 2], .none⟩,
  ⟨0x010A, .any, false, [1, 4, 4], .none⟩,
  ⟨0x010B, .any, false, [1, 4, 8], .none⟩,
  ⟨0x010C, .any, false, [2, 4], .counted 1 1 1⟩]

def ops02 : List OpInfo := [
  ⟨0x0201, .any, false, [1], .none⟩,
  ⟨0x0202, .any, false, [1], .none⟩,
  ⟨0x0203, .any, false, [1, 1, 2], .none⟩,
  ⟨0x0204, .any, false, [1, 4], .none⟩,
  ⟨0x0205, .any, false, [1], .none⟩,
  ⟨0x0206, .any, false, [1], .none⟩,
  ⟨0x0207, .any, false, [1], .none⟩,
  ⟨0x0208, .any, false, [1], .none⟩,
  ⟨0x0209, .any, false, [1, 1, 2, 2, 2], .none⟩,
  ⟨0x0210, .any, false, [1, 1, 2, 2], .none⟩,
  ⟨0x0211, .any, false, [8, 8], .none⟩,
  ⟨0x0212, .any, false, [1], .none⟩,
  ⟨0x0220, .hostPort, false, [1, 1], .none⟩]

def ops03 : List OpInfo := [
  ⟨0x0301, .any, false, [1, 1, 1, 1, 2, 1, 1, 1], .none⟩,
  ⟨0x0302, .any, false, [2, 1, 1, 1, 1], .none⟩,
  ⟨0x0303, .any, false, [2], .none⟩,
  ⟨0x0304, .any, false, [1, 1, 1, 1], .none⟩,
  ⟨0x0305, .any, false, [1], .none⟩,
  ⟨0x0306, .attachment 0, false, [1, 2], .none⟩,
  ⟨0x0307, .any, false, [2, 1, 16], .none⟩,
  ⟨0x0308, .any, false, [2], .none⟩,
  ⟨0x0309, .function, true, [2, 2, 2, 4, 4, 4], .none⟩,
  ⟨0x030A, .function, true, [2], .none⟩,
  ⟨0x030B, .function, true, [2, 2, 4, 4], .none⟩,
  ⟨0x030C, .function, true, [2], .none⟩]

def ops04 : List OpInfo := [
  ⟨0x0401, .any, false, [1, 1], .none⟩,
  ⟨0x0402, .any, false, [8], .none⟩,
  ⟨0x0403, .any, false, [1], .none⟩,
  ⟨0x0404, .any, false, [2, 2, 1, 1, 1, 1, 2, 2, 4, 4, 4, 8, 16], .none⟩,
  ⟨0x0405, .any, false, [2], .none⟩,
  ⟨0x0406, .any, false, [2], .none⟩,
  ⟨0x0407, .any, false, [], .none⟩]

def ops05 : List OpInfo := [
  ⟨0x0501, .attachment 0, false, [1, 1, 2, 2, 1, 2, 2, 4], .none⟩,
  ⟨0x0502, .function, true, [], .none⟩,
  ⟨0x0503, .function, true, [], .none⟩,
  ⟨0x0504, .function, true, [], .none⟩,
  ⟨0x0505, .function, true, [], .none⟩,
  ⟨0x0506, .function, true, [], .none⟩,
  ⟨0x0507, .function, true, [2], .none⟩,
  ⟨0x0508, .function, true, [8, 8], .none⟩,
  ⟨0x0509, .function, true, [8, 8], .none⟩,
  ⟨0x050A, .function, true, [], .none⟩,
  ⟨0x0510, .function, true, [2, 2, 1, 1, 2], .none⟩,
  ⟨0x0511, .function, true, [2, 4], .none⟩,
  ⟨0x0512, .function, true, [2], .none⟩,
  ⟨0x0513, .function, true, [1, 1, 2, 1], .none⟩,
  ⟨0x0514, .function, true, [4, 4], .none⟩,
  ⟨0x0515, .function, true, [1, 1, 1, 4, 4, 2, 2], .none⟩,
  ⟨0x0516, .function, true, [2, 1, 1, 1, 1], .none⟩,
  ⟨0x0517, .unit 48, false, [8, 4, 1], .none⟩,
  ⟨0x0520, .unit 48, false, [2, 4, 4], .counted 8 1 2⟩,
  ⟨0x0521, .unit 48, true, [2, 4], .none⟩,
  ⟨0x0522, .unit 48, false, [2], .none⟩,
  ⟨0x0530, .function, true, [1, 1, 2, 4, 4, 4], .none⟩,
  ⟨0x0531, .function, true, [2, 2, 2, 4], .none⟩,
  ⟨0x0532, .function, true, [2], .none⟩]

def ops06 : List OpInfo := [
  ⟨0x0601, .unit 50, true, [2, 1, 4], .none⟩,
  ⟨0x0602, .unit 50, false, [2], .none⟩,
  ⟨0x0603, .unit 50, false, [2, 1, 1, 4, 1], .counted 8 2 4⟩,
  ⟨0x0604, .unit 50, false, [2, 4], .none⟩,
  ⟨0x0605, .unit 50, false, [2, 4], .none⟩,
  ⟨0x0606, .unit 50, false, [2, 1, 1, 4, 1], .counted 8 1 4⟩,
  ⟨0x0607, .unit 50, false, [2, 1, 4, 8, 8], .none⟩]

def ops07 : List OpInfo := [
  ⟨0x0701, .unit 51, false, [2, 1, 1, 1, 1, 1, 4], .counted 1 1 5⟩,
  ⟨0x0702, .unit 51, false, [2], .none⟩,
  ⟨0x0703, .unit 51, true, [2, 1, 4], .none⟩,
  ⟨0x0704, .unit 51, false, [2, 1], .none⟩,
  ⟨0x0705, .unit 51, false, [2], .none⟩]

def ops08 : List OpInfo := [
  ⟨0x0801, .unit 53, false, [1, 1, 2, 2, 4], .none⟩,
  ⟨0x0802, .unit 54, false, [1, 1], .none⟩,
  ⟨0x0803, .function, true, [1, 1, 2], .none⟩,
  ⟨0x0804, .function, true, [1], .none⟩,
  ⟨0x0805, .any, false, [1, 2], .none⟩,
  ⟨0x0806, .unit 53, false, [2], .none⟩]

def ops09 : List OpInfo := [
  ⟨0x0901, .any, false, [2, 1], .none⟩,
  ⟨0x0902, .any, false, [], .none⟩,
  ⟨0x0903, .any, false, [2], .none⟩,
  ⟨0x0904, .any, true, [2, 2, 1], .none⟩,
  ⟨0x0905, .any, false, [1, 2], .none⟩,
  ⟨0x0906, .any, false, [1, 2, 4, 4], .none⟩,
  ⟨0x0907, .any, false, [], .fixed 1 48⟩,
  ⟨0x0908, .any, false, [1], .none⟩]

def ops0A : List OpInfo := [
  ⟨0x0A01, .any, false, [], .none⟩,
  ⟨0x0A02, .any, false, [1, 4], .none⟩,
  ⟨0x0A03, .any, false, [4, 4], .counted 1 1 1⟩,
  ⟨0x0A04, .any, false, [], .none⟩,
  ⟨0x0A05, .any, false, [1], .none⟩,
  ⟨0x0A06, .any, false, [1], .none⟩,
  ⟨0x0A07, .any, false, [4], .counted 1 1 0⟩,
  ⟨0x0A08, .any, false, [], .none⟩]

def ops0B : List OpInfo := [
  ⟨0x0B01, .any, false, [8, 1, 1], .none⟩,
  ⟨0x0B02, .function, true, [], .none⟩,
  ⟨0x0B03, .any, false, [], .none⟩,
  ⟨0x0B04, .any, false, [1, 2], .none⟩]

/-- The opcodes of R499. -/
def opTable : List OpInfo :=
  ops01 ++ ops02 ++ ops03 ++ ops04 ++ ops05 ++ ops06 ++ ops07 ++ ops08 ++ ops09 ++ ops0A ++ ops0B

def opInfo (opcode : Nat) : Option OpInfo := opTable.find? fun i => i.opcode == opcode

/-- A command: header, opcode, parameters and the elements of its array. -/
structure Cmd where
  h : CmdHdr
  opcode : Nat
  params : List Nat
  elems : List Nat
  deriving DecidableEq, Repr

/-- The command that a row is; none for the rows that are events. WINDOW_DIRTY's actions are numbered in the order in which R304
names them (PRESUMED). -/
def cmdOf (i : Instr) : Option Cmd :=
  match i with
  | .deviceInfo h => some ⟨h, 0x0101, [], []⟩
  | .modeSet h mode => some ⟨h, 0x0102, [mode], []⟩
  | .managerSet h attachment => some ⟨h, 0x0103, [attachment], []⟩
  | .deviceReset h => some ⟨h, 0x0104, [], []⟩
  | .blockReset h kind index => some ⟨h, 0x0105, [kind, index], []⟩
  | .configSave h flags => some ⟨h, 0x0106, [flags], []⟩
  | .pinConfigSet h pin config => some ⟨h, 0x0107, [pin, config], []⟩
  | .balerConfigSet h elideEn => some ⟨h, 0x0108, [elideEn], []⟩
  | .controlAccessSet h enableMask locations => some ⟨h, 0x0109, enableMask :: (locations.take 4 ++ List.replicate (4 - locations.length) 0), []⟩
  | .registerRead h width offset count => some ⟨h, 0x010A, [width, offset, count], []⟩
  | .registerWrite h width offset value => some ⟨h, 0x010B, [width, offset, value], []⟩
  | .commandForward h location packet => some ⟨h, 0x010C, [location, packet.length], packet.map (·.toNat)⟩
  | .linkEnable h port => some ⟨h, 0x0201, [port], []⟩
  | .linkDisable h port => some ⟨h, 0x0202, [port], []⟩
  | .linkRoleSet h port role peer => some ⟨h, 0x0203, [port, role, peer], []⟩
  | .linkGraceSet h port graceUs => some ⟨h, 0x0204, [port, graceUs], []⟩
  | .linkLanesRestore h port => some ⟨h, 0x0205, [port], []⟩
  | .linkStandby h port => some ⟨h, 0x0206, [port], []⟩
  | .linkWake h port => some ⟨h, 0x0207, [port], []⟩
  | .linkQuery h port => some ⟨h, 0x0208, [port], []⟩
  | .linkModuleSet h port lanes pre main post => some ⟨h, 0x0209, [port, lanes, pre, main, post], []⟩
  | .queueWeightSet h egress queue quantum burst => some ⟨h, 0x0210, [egress, queue, quantum, burst], []⟩
  | .queueMapSet h levelMap transitMap => some ⟨h, 0x0211, [levelMap, transitMap], []⟩
  | .signalBoxConfigSet h yellowPoolMib => some ⟨h, 0x0212, [yellowPoolMib], []⟩
  | .hostPortSplitSet h port split => some ⟨h, 0x0220, [port, split], []⟩
  | .routeTopologySet h nx ny nz routers location datelineX datelineY datelineZ => some ⟨h, 0x0301, [nx, ny, nz, routers, location, datelineX, datelineY, datelineZ], []⟩
  | .routeEntrySet h station valid dx dy dz => some ⟨h, 0x0302, [station, valid, dx, dy, dz], []⟩
  | .routeQuery h station => some ⟨h, 0x0303, [station], []⟩
  | .routeAdaptSet h detourEn downWeight detourPenalty escapeWait => some ⟨h, 0x0304, [detourEn, downWeight, detourPenalty, escapeWait], []⟩
  | .poolConfigSet h alpha => some ⟨h, 0x0305, [alpha], []⟩
  | .reasmQuotaSet h attachment quota => some ⟨h, 0x0306, [attachment, quota], []⟩
  | .multicastInstall h group ingress mask => some ⟨h, 0x0307, [group, ingress, mask], []⟩
  | .multicastRemove h group => some ⟨h, 0x0308, [group], []⟩
  | .multicastMemberSet h group domain senderFn member sender window => some ⟨h, 0x0309, [group, domain, senderFn, member, sender, window], []⟩
  | .multicastMemberClear h group => some ⟨h, 0x030A, [group], []⟩
  | .multicastSenderSet h group rankTable first count => some ⟨h, 0x030B, [group, rankTable, first, count], []⟩
  | .multicastSenderClear h group => some ⟨h, 0x030C, [group], []⟩
  | .timeConfig h role priority => some ⟨h, 0x0401, [role, priority], []⟩
  | .timeSetSeconds h seconds => some ⟨h, 0x0402, [seconds], []⟩
  | .timetableFractionSet h fraction => some ⟨h, 0x0403, [fraction], []⟩
  | .reservationInstall h id rate rank burst destKind hops sourceFn destFn source dest flight installTime egress => some ⟨h, 0x0404, [id, rate, rank, burst, destKind, hops, sourceFn, destFn, source, dest, flight, installTime, egress], []⟩
  | .reservationRemove h id => some ⟨h, 0x0405, [id], []⟩
  | .reservationQuery h id => some ⟨h, 0x0406, [id], []⟩
  | .timeQuery h => some ⟨h, 0x0407, [], []⟩
  | .functionCreate h attachment vf vectors stagingMib fabricTokens resvSlots ringQuota ctxQuota => some ⟨h, 0x0501, [attachment, vf, vectors, stagingMib, fabricTokens, resvSlots, ringQuota, ctxQuota], []⟩
  | .functionDestroy h => some ⟨h, 0x0502, [], []⟩
  | .functionEnable h => some ⟨h, 0x0503, [], []⟩
  | .functionDisable h => some ⟨h, 0x0504, [], []⟩
  | .functionReset h => some ⟨h, 0x0505, [], []⟩
  | .functionQuery h => some ⟨h, 0x0506, [], []⟩
  | .functionFreeze h limitMs => some ⟨h, 0x0507, [limitMs], []⟩
  | .functionSave h buffer bufferLength => some ⟨h, 0x0508, [buffer, bufferLength], []⟩
  | .functionRestore h blob blobLength => some ⟨h, 0x0509, [blob, blobLength], []⟩
  | .functionThaw h => some ⟨h, 0x050A, [], []⟩
  | .functionPoolSet h vectors stagingMib fabricTokens vfLimit resvSlots => some ⟨h, 0x0510, [vectors, stagingMib, fabricTokens, vfLimit, resvSlots], []⟩
  | .functionQuotaSet h ringQuota ctxQuota => some ⟨h, 0x0511, [ringQuota, ctxQuota], []⟩
  | .functionHorizonSet h horizonMs => some ⟨h, 0x0512, [horizonMs], []⟩
  | .functionSchedSet h baseLevel laneEn share dwq => some ⟨h, 0x0513, [baseLevel, laneEn, share, dwq], []⟩
  | .functionShaperSet h minRate maxRate => some ⟨h, 0x0514, [minRate, maxRate], []⟩
  | .functionPolicerSet h cls enable action cir pir cbs pbs => some ⟨h, 0x0515, [cls, enable, action, cir, pir, cbs, pbs], []⟩
  | .functionCcSet h targetNs alpha beta initParcels maxParcels => some ⟨h, 0x0516, [targetNs, alpha, beta, initParcels, maxParcels], []⟩
  | .flowSpillSet h base capacity enable => some ⟨h, 0x0517, [base, capacity, enable], []⟩
  | .rankTableWrite h table first entries => some ⟨h, 0x0520, [table, first, entries.length], entries⟩
  | .rankTableCreate h table entries => some ⟨h, 0x0521, [table, entries], []⟩
  | .rankTableDestroy h table => some ⟨h, 0x0522, [table], []⟩
  | .matchContextSet h enable log2Comms backoff postedMax unexpectedMax unexpectedKib => some ⟨h, 0x0530, [enable, log2Comms, backoff, postedMax, unexpectedMax, unexpectedKib], []⟩
  | .matchCommSet h comm rankTable domain ownRank => some ⟨h, 0x0531, [comm, rankTable, domain, ownRank], []⟩
  | .matchCommClear h comm => some ⟨h, 0x0532, [comm], []⟩
  | .domainCreate h domain log2Ids job => some ⟨h, 0x0601, [domain, log2Ids, job], []⟩
  | .domainDestroy h domain => some ⟨h, 0x0602, [domain], []⟩
  | .windowOpen h domain rights dirtyTrack id extents => some ⟨h, 0x0603, [domain, rights, dirtyTrack, id, extents.length], extents.flatMap fun e => [e.1, e.2]⟩
  | .windowRevoke h domain id => some ⟨h, 0x0604, [domain, id], []⟩
  | .windowQuery h domain id => some ⟨h, 0x0605, [domain, id], []⟩
  | .windowModify h domain rights lazy id iovas => some ⟨h, 0x0606, [domain, rights, lazy, id, iovas.length], iovas⟩
  | .windowDirtyEnable h domain id => some ⟨h, 0x0607, [domain, 0, id, 0, 0], []⟩
  | .windowDirtyDisable h domain id => some ⟨h, 0x0607, [domain, 1, id, 0, 0], []⟩
  | .windowDirtyFetch h domain id buffer bufferLength => some ⟨h, 0x0607, [domain, 2, id, buffer, bufferLength], []⟩
  | .windowDirtyClearMarks h domain id => some ⟨h, 0x0607, [domain, 3, id, 0, 0], []⟩
  | .collGroupCreate h group epoch parent anchor depth size children => some ⟨h, 0x0701, [group, epoch, parent, anchor, depth, children.length, size], children⟩
  | .collGroupDestroy h group => some ⟨h, 0x0702, [group], []⟩
  | .collMemberSet h group attachment rank => some ⟨h, 0x0703, [group, attachment, rank], []⟩
  | .collGroupReset h group epoch => some ⟨h, 0x0704, [group, epoch], []⟩
  | .collGroupQuery h group => some ⟨h, 0x0705, [group], []⟩
  | .tokenGroupRightsSet h group enable first last pfMask => some ⟨h, 0x0801, [group, enable, first, last, pfMask], []⟩
  | .tokenFabricHomeSet h slot enable => some ⟨h, 0x0802, [slot, enable], []⟩
  | .tokenFabricBind h binding homeIndex homeLoc => some ⟨h, 0x0803, [binding, homeIndex, homeLoc], []⟩
  | .tokenFabricUnbind h binding => some ⟨h, 0x0804, [binding], []⟩
  | .tokenQuery h kind index => some ⟨h, 0x0805, [kind, index], []⟩
  | .tokenForceRelease h token => some ⟨h, 0x0806, [token], []⟩
  | .faultSeveritySet h source severity => some ⟨h, 0x0901, [source, severity], []⟩
  | .faultStatusRead h => some ⟨h, 0x0902, [], []⟩
  | .faultClear h source => some ⟨h, 0x0903, [source], []⟩
  | .eventRouteSet h event ring enable => some ⟨h, 0x0904, [event, ring, enable], []⟩
  | .violationLogRead h first count => some ⟨h, 0x0905, [first, count], []⟩
  | .journalRead h region count record offset => some ⟨h, 0x0906, [region, count, record, offset], []⟩
  | .journalMark h note => some ⟨h, 0x0907, [], note.map (·.toNat)⟩
  | .evidenceHold h enable => some ⟨h, 0x0908, [enable], []⟩
  | .fwQuery h => some ⟨h, 0x0A01, [], []⟩
  | .fwStageBegin h slot length => some ⟨h, 0x0A02, [slot, length], []⟩
  | .fwStageData h offset data => some ⟨h, 0x0A03, [offset, data.length], data.map (·.toNat)⟩
  | .fwStageEnd h => some ⟨h, 0x0A04, [], []⟩
  | .fwActivate h slot => some ⟨h, 0x0A05, [slot], []⟩
  | .fwBootSlotSet h slot => some ⟨h, 0x0A06, [slot], []⟩
  | .makerProcedure h procedure => some ⟨h, 0x0A07, [procedure.length], procedure.map (·.toNat)⟩
  | .fwStageAbort h => some ⟨h, 0x0A08, [], []⟩
  | .meterRingSet h base log2Size enable => some ⟨h, 0x0B01, [base, log2Size, enable], []⟩
  | .meterRead h => some ⟨h, 0x0B02, [], []⟩
  | .telemetryRead h => some ⟨h, 0x0B03, [], []⟩
  | .telemetryThresholdSet h sensor warn => some ⟨h, 0x0B04, [sensor, warn], []⟩
  | _ => none

/-! ### Packets (R473, R477) -/

/-- A field of width w appended at the next offset that is a multiple of min(w, 8). -/
def putField (b : List Byte) (w v : Nat) : List Byte := padTo (minN w 8) b ++ le w v

def putFields : List Byte → List Nat → List Nat → List Byte
  | b, w :: ws, v :: vs => putFields (putField b w v) ws vs
  | b, _, _ => b

/-- Width of the array's elements. -/
def Tail.width : Tail → Nat
  | .none => 1
  | .counted w _ _ => w
  | .fixed w _ => w

/-- Number of elements of the array. -/
def Tail.count (t : Tail) (params : List Nat) : Nat :=
  match t with
  | .none => 0
  | .counted _ per k => per * params.getD k 0
  | .fixed _ n => n

/-- The parameter area. -/
def OpInfo.area (i : OpInfo) (params elems : List Nat) : List Byte :=
  padTo 8 (elems.foldl (fun b v => putField b i.tail.width v) (putFields [] i.widths params))

/-- The command packet; `version` and the header's other fields as R473 lays them out. -/
def Cmd.bytes (c : Cmd) : List Byte :=
  match opInfo c.opcode with
  | none => []
  | some i =>
    let a := i.area c.params c.elems
    le 2 c.opcode ++ le 2 (b2n c.h.force) ++ le 4 c.h.seq ++ le 2 a.length ++ le 1 c.h.target ++ le 1 1 ++ le 2 c.h.fn
      ++ le 2 0 ++ a

/-- Offset within the packet of the parameter after those of the widths given. -/
def fieldOffset : List Nat → Nat → Nat → Nat
  | w :: _, 0, o => ceilDiv o (minN w 8) * minN w 8
  | w :: ws, k + 1, o => fieldOffset ws k (ceilDiv o (minN w 8) * minN w 8 + w)
  | [], _, o => o

/-- Offset within the packet of parameter k of an opcode (R478 detail); for k beyond the parameters, of the array. -/
def paramAt (opcode k : Nat) : Nat :=
  match opInfo opcode with
  | some i =>
    let o := fieldOffset i.widths k 16
    if k < i.widths.length then o else ceilDiv o (minN i.tail.width 8) * minN i.tail.width 8
  | none => 16

/-- First index at which two byte strings differ. -/
def firstDiff : List Byte → List Byte → Nat → Nat
  | a :: s, b :: t, i => if a = b then firstDiff s t (i + 1) else i
  | _, _, i => i

/-! ### The checks of R480 -/

/-- Is the target right (R475)? -/
def State.targetOk (s : State) (c : Cmd) (t : Target) : Bool :=
  let p := fun k => c.params.getD k 0
  match t with
  | .any => c.h.target == 0xFF
  | .unit n => c.h.target == n
  | .function =>
    match s.fn? c.h.fn with
    | some x => c.h.target == x.att
    | none => decide (c.h.target < 32)
  | .attachment k => c.h.target == (if p k ≤ 31 then p k else 0xFF)
  | .manager => c.h.target == (if p 0 ≤ 31 then p 0 else 0xFF)
  | .hostPort => c.h.target == (if p 0 ≤ 15 then 32 + p 0 else 0xFF)
  | .block =>
    c.h.target == (if p 0 = 2 ∧ p 1 ≤ 31 then p 1 else if p 0 = 3 ∧ p 1 ≤ 15 then 32 + p 1 else 0xFF)

/-- The function field agrees with the opcode (R476). -/
def fnFieldOk (i : OpInfo) (c : Cmd) : Bool := if i.fn then decide (c.h.fn < 2048) else c.h.fn == 0xFFFF

/-- Reserved bits of parameters that are not padding: the offset of the first that is set (R7, R160, R290, R555, R572). -/
def Cmd.reservedBits (c : Cmd) : Option Nat :=
  if c.opcode = 0x0106 ∧ 2 ≤ c.params.getD 0 0 then some 16
  else if c.opcode = 0x0107 then (if 32 ≤ c.params.getD 1 0 then some (paramAt 0x0107 1) else none)
  else if c.opcode = 0x0211 then
    if (le 8 (c.params.getD 0 0)).any fun b => decide (32 ≤ b.toNat) then some 16 else none
  else if c.opcode = 0x0603 ∨ c.opcode = 0x0606 then
    if c.params.getD 1 0 % 2 = 1 ∨ 32 ≤ c.params.getD 1 0 then some (paramAt c.opcode 1) else none
  else if c.opcode = 0x0520 then
    match c.elems.findIdx? fun e => bits e 62 40 != 0 with
    | some k => some (paramAt 0x0520 3 + 8 * k)
    | none => none
  else none

/-- Step 4: the offset of the first field that disagrees with the opcode. -/
def State.packetFault (s : State) (i : OpInfo) (c : Cmd) : Option Nat :=
  if !s.targetOk c i.target then some 10
  else if !fnFieldOk i c then some 12
  else c.reservedBits

/-- Is a location among those enabled in CC_REMOTE_MGR (R489)? -/
def State.remoteOk (s : State) (loc : Nat) : Bool :=
  (List.range 4).any fun k => bit s.cc.remoteEn k && s.cc.remote.getD k 0 == loc

/-- Step 5: the transport and source have the right to the opcode (R48, R234, R489, R492, R557). -/
def State.permitted (s : State) (c : Cmd) : Bool :=
  let byControl := match c.h.src with
    | .control loc _ => s.remoteOk loc && c.opcode != 0x0103
    | _ => true
  let own := match s.manager with
    | some a =>
      ([0x0502, 0x0504, 0x0505, 0x0507].contains c.opcode && c.h.fn == a)
        || (c.opcode == 0x0105 && ((c.params.getD 0 0 == 2 && c.params.getD 1 0 == a)
          || (c.params.getD 0 0 == 3 && c.params.getD 1 0 == a / 2)))
    | none => false
  byControl && !own && !(c.opcode == 0x0402 && s.tt.role != .ROOT)

/-- Opcodes of R497. -/
def haltOpcodes : List Nat := [0x0101, 0x0104, 0x010A, 0x0902, 0x0905, 0x0906, 0x0B03]

/-- Opcodes of R504. -/
def recoveryOpcodes : List Nat :=
  [0x0101, 0x0104, 0x010A, 0x0906, 0x0A01, 0x0A02, 0x0A03, 0x0A04, 0x0A05, 0x0A06, 0x0A08]

/-- Step 7: the mode allows the opcode (R48, R166, R497, R504, R533, R539, R557). -/
def State.modeAllows (s : State) (op : Nat) : Bool :=
  if s.rst.noImage then [0x0101, 0x0104, 0x010A].contains op
  else match s.rst.mode with
    | .OFF => false
    | .HALT => haltOpcodes.contains op
    | .BRINGUP =>
      if s.cc.running = 2 then recoveryOpcodes.contains op
      else [1, 2, 3, 4, 9, 0xA, 0xB].contains (op / 256) && op != 0x0105
    | .SERVICE => op != 0x0301 && op != 0x0402
    | .DRAIN => !([0x0301, 0x0402, 0x0501, 0x0503, 0x0509, 0x050A, 0x0404, 0x0701].contains op)
    | .HEATH =>
      (op / 256 == 1 && op != 0x0105) || (op / 256 == 9 && op != 0x0901)
        || [0x0208, 0x0407, 0x0406, 0x0A01, 0x0B02, 0x0B03].contains op

/-- May the opcode carry FORCE (R474)? -/
def Cmd.forceOk (c : Cmd) : Bool :=
  [0x0502, 0x0504, 0x0505, 0x0507, 0x0532, 0x0702, 0x0804].contains c.opcode
    || (c.opcode == 0x0A02 && c.params.getD 0 0 == 2)

/-- Steps 4 to 7 of R480: the first check that fails, with its detail. -/
def State.refusal (s : State) (c : Cmd) : Option (Status × Nat) :=
  match opInfo c.opcode with
  | none => some (.UNKNOWN_OPCODE, 0)
  | some i =>
    match s.packetFault i c with
    | some off => some (.BAD_PACKET, off)
    | none =>
      if !s.permitted c then some (.NOT_PERMITTED, 0)
      else if c.h.target ≠ 0xFF ∧ !s.hasUnit c.h.target then some (.UNIT_ABSENT, 0)
      else if !s.modeAllows c.opcode then some (.WRONG_MODE, 0)
      else none

/-! ### Who is served -/

/-- Is the device out of reset and powered? -/
def State.running (s : State) : Bool :=
  s.rst.mode != .OFF && (!(s.rst.resetN || s.rst.thermalHold) || s.rst.deferred.isSome)

/-- Do the control cores take a packet of this transport now: MCTP from the end of stage BOOT (R539, R554), in HALT only MCTP (R497),
CONTROL only after ROUTE_TOPOLOGY_SET (R489), the admin ring not on a TX, which has none (R4)? -/
def State.serves (s : State) (src : CmdSrc) : Bool :=
  s.running && (s.rst.noImage || decide (5 ≤ stageCode s.rst.stage)) &&
    match src with
    | .mctp _ _ => true
    | .control _ _ => s.rst.mode != .HALT && s.jn.topology
    | .admin _ => s.rst.mode != .HALT && s.variant != .TX
    | .replay _ => s.rst.mode != .HALT

/-! ### Replies -/

/-- Sources for which replies are kept (R491). -/
def srcKey : CmdSrc → Option Nat
  | .mctp eid _ => some (eid % 256)
  | .control loc _ => some (256 + loc)
  | _ => none

/-- The fragments of a message on the CONTROL VC (R486). -/
def State.fragments (s : State) (loc cls transfer total : Nat) : (fuel i : Nat) → List Byte → List WireCell
  | 0, _, _ => []
  | n + 1, i, b =>
    s.controlCell loc cls (b2n (i == 0) + 2 * b2n (i + 1 == total)) i transfer (fitTo 56 b)
      :: s.fragments loc cls transfer total n (i + 1) (b.drop 56)

/-- Send a message of class `cls` over the CONTROL VC. -/
def State.sendMessage (s : State) (loc cls transfer : Nat) (b : List Byte) : State :=
  let n := maxN 1 (ceilDiv b.length 56)
  (s.fragments loc cls transfer n n 0 b).foldl (fun s c => s.injectControl c) s

/-- The largest packet or reply that MCTP and the CONTROL VC carry (R483, R486). -/
def maxMessage : Nat := 65544

/-- The COMMAND entry of a handle succeeds, if it is still in flight (R482, R614). -/
def State.endAdmin (s : State) (k : Nat) : State :=
  if Tbl.has s.ops (k % 1048576) ∧ s.handle (k % 1048576) = k then (s.finish (k % 1048576) .SUCCESS 0 0).settle else s

/-- Send a reply to the source of its packet. -/
def State.sendReply (s : State) (h : CmdHdr) (b : List Byte) : State :=
  match h.src with
  | .admin k =>
    match Tbl.get? s.cc.adminReply k with
    | none => s
    | some (f, addr, len) =>
      let s := { s with cc := { s.cc with adminReply := Tbl.del s.cc.adminReply k } }
      ((s.write f addr (cutReply len b)).endAdmin k)
  | .mctp eid tag => s.emit (.mctp eid tag (cutReply maxMessage b))
  | .control loc transfer => s.sendMessage loc 2 transfer (cutReply maxMessage b)
  | .replay k => if rd b 8 2 = 0 then s else s.evidenceRecord 6 (b.take 2 ++ (b.drop 8).take 2 ++ le 4 k)

/-- Keep a reply; the last 64 of each source are kept (R491). -/
def keepReply (kept : List Kept) (k : Kept) : List Kept :=
  let mine := kept.filter fun x => (srcKey x.hdr.src) == (srcKey k.hdr.src)
  let l := if 64 ≤ mine.length then
      match mine.head? with
      | some o => kept.erase o
      | none => kept
    else kept
  l ++ [k]

/-! ### Settings (R572) -/

/-- The parameters that identify the setting which an opcode makes; none where it makes none. -/
def settingKey (c : Cmd) : Option (List Nat) :=
  let p := fun k => c.params.getD k 0
  let op := c.opcode
  if [0x0103, 0x0108, 0x0109, 0x0211, 0x0212, 0x0301, 0x0304, 0x0305, 0x0401, 0x0403, 0x0510, 0x0511, 0x0512, 0x0513, 0x0514,
      0x0516, 0x0517, 0x0530, 0x0B01].contains op then some []
  else if [0x0107, 0x0203, 0x0204, 0x0220, 0x0302, 0x0306, 0x0307, 0x0309, 0x030B, 0x0404, 0x0515, 0x0521, 0x0531, 0x0601,
      0x0701, 0x0704, 0x0801, 0x0802, 0x0803, 0x0901, 0x0904, 0x0B04].contains op then some [p 0]
  else if [0x0209, 0x0210, 0x0501, 0x0703].contains op then some [p 0, p 1]
  else if op = 0x0520 then some [p 0, p 1, p 2]
  else if op = 0x0603 ∨ op = 0x0606 then some [p 0, p 3]
  else if op = 0x0607 ∧ p 1 = 0 then some [p 0, p 2]
  else none

/-- The settings that an opcode removes: their opcodes and the parameters that name them. -/
def settingCleared (c : Cmd) : Option (List Nat × List Nat) :=
  let p := fun k => c.params.getD k 0
  let op := c.opcode
  if op = 0x0301 then some ([0x0302], [])
  else if op = 0x0308 then some ([0x0307], [p 0])
  else if op = 0x030A then some ([0x0309], [p 0])
  else if op = 0x030C then some ([0x030B], [p 0])
  else if op = 0x0405 then some ([0x0404], [p 0])
  else if op = 0x0522 then some ([0x0521, 0x0520], [p 0])
  else if op = 0x0532 then some ([0x0531], [p 0])
  else if op = 0x0602 then some ([0x0601], [p 0])
  else if op = 0x0604 then some ([0x0603, 0x0606, 0x0607], [p 0, p 1])
  else if op = 0x0607 ∧ p 1 = 1 then some ([0x0607], [p 0, p 2])
  else if op = 0x0702 then some ([0x0701, 0x0703, 0x0704], [p 0])
  else if op = 0x0804 then some ([0x0803], [p 0])
  else none

/-- Does setting `o` fall to a command of these opcodes that names parameters `key` and function `fn`? -/
def clearsSetting (ops key : List Nat) (fn : Nat) (o : Instr) : Bool :=
  match cmdOf o with
  | some d => ops.contains d.opcode && (settingKey d).any (fun k => k.take key.length == key)
      && (fn == 0xFFFF || d.h.fn == 0xFFFF || d.h.fn == fn)
  | none => false

/-- A command that returned OK is the packet that sets its setting's value. -/
def noteSetting (l : List Instr) (i : Instr) (c : Cmd) : List Instr :=
  let l := match settingCleared c with
    | some (ops, key) => l.filter fun o => !clearsSetting ops key c.h.fn o
    | none => l
  match settingKey c with
  | some key =>
    (l.filter fun o => !((cmdOf o).any fun d => d.opcode == c.opcode && d.h.fn == c.h.fn && settingKey d == some key)) ++ [i]
  | none => l

/-! ### Running commands (R493 to R495) -/

/-- How a command's own checks and effect end. -/
inductive CmdResult where
  /-- the reply: status, detail and payload -/
  | done (s : State) (st : Status) (detail : Nat) (payload : List Byte)
  /-- a waiting command waits (R493) -/
  | wait (s : State) (on : Wait)
  /-- a command that is not a waiting one runs on, and no other starts meanwhile (R217, R493) -/
  | hold (s : State) (on : Wait)
  deriving DecidableEq, Repr

/-- OK without a payload. -/
def State.ok (s : State) : CmdResult := .done s .OK 0 []

/-- A query's reply. -/
def State.payload (s : State) (p : List Byte) : CmdResult := .done s .OK 0 p

/-- A command's own checks in the order of R480 step 8: the first that holds gives the status and detail. -/
def State.guarded (s : State) (gs : List (Bool × Status × Nat)) (k : CmdResult) : CmdResult :=
  match gs.find? (·.1) with
  | some g => .done s g.2.1 g.2.2 []
  | none => k

/-- BAD_PARAM on parameter k of an opcode. -/
def bad (opcode k : Nat) (b : Bool) : Bool × Status × Nat := (b, .BAD_PARAM, paramAt opcode k)

/-- Another status, without detail. -/
def no (st : Status) (b : Bool) : Bool × Status × Nat := (b, st, 0)

/-- CAPACITY, with the amount needed that the opcode's chapter names (R478). DEDUCED: what a region must hold is that amount. -/
def short (needed : Nat) (b : Bool) : Bool × Status × Nat := (b, .CAPACITY, needed)

/-- A reply is kept for its source (R491). -/
def State.keep (s : State) (i : Instr) (h : CmdHdr) (b : List Byte) : State :=
  if (srcKey h.src).isSome then { s with cc := { s.cc with kept := keepReply s.cc.kept { instr := i, hdr := h, reply := b } } } else s

/-- The answer to a command: the reply is sent, and kept for its source; an OK makes its setting. -/
def State.answer (s : State) (i : Instr) (c : Cmd) (st : Status) (detail : Nat) (payload : List Byte) : State :=
  let b := replyBytes c.opcode c.h.seq st detail payload
  let s := s.keep i c.h b
  let s := if st = .OK then { s with jr := { s.jr with settings := noteSetting s.jr.settings i c } } else s
  s.sendReply c.h b

def mkWaiting (i : Instr) (c : Cmd) (on : Wait) : Waiting := { instr := i, hdr := c.h, opcode := c.opcode, on := on }

/-- What follows from a command's result. -/
def State.conclude (i : Instr) (c : Cmd) : CmdResult → State
  | .done s st detail payload => s.answer i c st detail payload
  | .wait s on => { s with cc := { s.cc with waiting := s.cc.waiting ++ [mkWaiting i c on] } }
  | .hold s on => { s with cc := { s.cc with pause := some (mkWaiting i c on) } }

/-- Two packets from one source with one sequence number (R491). -/
def sameOrigin (a b : CmdHdr) : Bool := (srcKey a.src).isSome && (srcKey a.src) == (srcKey b.src) && a.seq == b.seq

/-- The commands still running. -/
def CC.inProgress (x : CC) : List Waiting :=
  x.waiting ++ x.pause.toList

def Waiting.bytes (w : Waiting) : List Byte := match cmdOf w.instr with | some d => d.bytes | none => []

/-- The packet that a kept reply answered; one that no row is stands as the message that brought it. -/
def Kept.bytes (k : Kept) : List Byte :=
  match k.instr with
  | .mctpMessageReceive _ _ _ packet => packet
  | i => match cmdOf i with | some d => d.bytes | none => []

/-- Is the packet a duplicate of a command still running (R491)? -/
def State.runningDup (s : State) (c : Cmd) : Bool :=
  s.cc.inProgress.any fun w => sameOrigin w.hdr c.h && w.bytes == c.bytes

/-- Start a command: duplicates (R491), the checks of R480, its own checks and effect. -/
def State.startCommand (s : State) (i : Instr) (c : Cmd) (body : State → CmdResult) : State :=
  match s.cc.kept.find? fun k => sameOrigin k.hdr c.h with
  | some k =>
    if k.bytes = c.bytes then (s.evidence 0x4005C).sendReply c.h k.reply
    else s.sendReply c.h (replyBytes c.opcode c.h.seq .BAD_PACKET (firstDiff k.bytes c.bytes 0) [])
  | none =>
    match s.refusal c with
    | some (st, detail) =>
      (if st = .BAD_PACKET then s.evidence 0x40058 else s).sendReply c.h (replyBytes c.opcode c.h.seq st detail [])
    | none =>
      let s := s.tally 0x40050
      if c.h.force ∧ !c.forceOk then State.conclude i c (.done s .BAD_PARAM 2 [])
      else State.conclude i c (body s)

/-- Command service stands still (R216, R503, R529). -/
def State.standsStill (s : State) : Bool := s.cc.pause.isSome || s.cc.takeover.isSome

/-- A command packet of a row arrives and is executed and answered, or held while command service stands still. -/
def State.command (i : Instr) (body : State → CmdResult) (s : State) : State :=
  match cmdOf i with
  | none => s
  | some c =>
    if !s.serves c.h.src then s
    else if s.runningDup c then s.evidence 0x4005C
    else if s.standsStill then { s with cc := { s.cc with held := s.cc.held ++ [i] } }
    else s.startCommand i c body

/-- A command that may change what operations wait for: those that can go on do. -/
def State.workCommand (i : Instr) (body : State → CmdResult) (s : State) : State := (s.command i body).settle

/-- The transports whose waiting commands R495 counts. -/
def srcTransport : CmdSrc → Nat
  | .admin _ => 0
  | .mctp _ _ => 1
  | .control _ _ => 2
  | .replay _ => 3

/-- A seventeenth waiting command of its transport (R495). -/
def State.waitFull (s : State) (h : CmdHdr) : Bool :=
  decide (16 ≤ (s.cc.waiting.filter fun w => srcTransport w.hdr.src == srcTransport h.src).length)

/-- Is a waiting command in progress for which `f` holds? -/
def State.awaits (s : State) (f : Wait → Bool) : Bool := s.cc.waiting.any fun w => f w.on

/-- The function that a waiting command acts on. -/
def Wait.fn? : Wait → Option Nat
  | .fnReset f | .fnDisable f | .fnDestroy f | .freeze f | .save f | .restore f | .create f => some f
  | _ => none

/-- A waiting command is in progress on the function (R494). -/
def State.fnBusy (s : State) (f : Nat) : Bool := s.awaits fun w => w.fn? == some f

/-- Every waiting command for which `f` holds is answered. -/
def State.answerWaiting (s : State) (f : Waiting → Bool) (st : Status) (detail : Nat) (payload : List Byte) : State :=
  let done := s.cc.inProgress.filter f
  let pause := s.cc.pause.filter fun w => !f w
  let s := { s with cc := { s.cc with waiting := s.cc.waiting.filter (fun w => !f w), pause := pause } }
  done.foldl (fun s w => match cmdOf w.instr with | some c => s.answer w.instr c st detail payload | none => s) s

/-- The same, by what they wait for. -/
def State.answerOn (s : State) (on : Wait) (st : Status) (detail : Nat) (payload : List Byte) : State :=
  s.answerWaiting (fun w => w.on == on) st detail payload

end Sys2Proof.Machine
end

