-- ==== Sys2Proof/Machine/FunctionLife.lean ====
section
/-! DEFINITION. The life of functions (06_host_ports.md): generations (R220, R221), invalidations and revocations (R297 to R299),
the cut-off of data-class work (R235), control-class state and FORCE (R238, R239), resets, halts and the reset point (R237, R620),
freezing (R241), doorbells recorded and served. -/
namespace Sys2Proof.Machine

open Sys2Proof

/-! ### Generations -/

/-- A generation change falls due: it completes now, or is held to the next frame boundary when one has completed in this frame or
is held already (R221). -/
def State.advanceGen (s : State) (f : Nat) : State :=
  let g := s.genOf f
  let g : Gen :=
    if g.held ≠ 0 ∨ g.frame = some s.frame then { g with held := g.held + 1 }
    else { g with gen := (g.gen + 1) % 256, frame := some s.frame }
  { s with gens := Tbl.put s.gens f g }

/-- The next held change completes in a new frame. -/
def State.releaseGen (s : State) (f : Nat) : State :=
  let g := s.genOf f
  if g.held = 0 ∨ g.frame = some s.frame then s
  else
    let next := match g.goal with | some v => v | none => (g.gen + 1) % 256
    { s with gens := Tbl.put s.gens f { gen := next, frame := some s.frame, held := g.held - 1, goal := none } }

/-! ### Invalidations (R297 to R299) -/

/-- Placements into a window that still hold translated writes. -/
def Placing.hits (w : Placing) (domain id : Nat) : Bool := w.domain == domain && w.window == id && !w.cut

/-- The placements of an engine into a window, cut as step 3 of R297 says; the Nat counts the writes cancelled. -/
def State.cutPlacings (s : State) (n domain id : Nat) (revoke : Bool) : State × Nat :=
  let r := (s.engine n).placing.foldl (fun (r : State × List Placing × Nat) w =>
    if w.hits domain id then
      let x := r.1.cutPlacing revoke w
      (x.1, r.2.1 ++ [x.2.1], r.2.2 + x.2.2)
    else (r.1, r.2.1 ++ [w], r.2.2)) (s, [], 0)
  (r.1.modEngine n fun e => { e with placing := r.2.1 }, r.2.2)

/-- Steps 2 and 3 of R297: every cache flushes the window and cancels what it has translated and not handed to a host port. -/
def State.broadcast (s : State) (domain id : Nat) (revoke : Bool) : State :=
  let s := ({ s with wu := s.wu.flush domain id } : State).tally 0x400028
  (Tbl.keys s.engines).foldl (fun s n =>
    let r := s.cutPlacings n domain id revoke
    (r.1.tally 0x400030 r.2).redoAtomics n revoke fun j => j.domain == domain && j.window == id) s

/-- Step 1 of R297. -/
def Window.revokedNow (w : Window) : Window := { w with valid := false, gen := (w.gen + 1) % 256 }

def Inval.revokes : Inval → Bool
  | .revoke | .force _ => true
  | .modify | .clear => false

/-- The invalidation itself begins. -/
def State.beginInval (s : State) (r : Revocation) : State :=
  let s := if r.why.revokes then
      { s with wu := { s.wu with slots := Tbl.modify s.wu.slots (slotKey r.domain r.id) Window.revokedNow } } else s
  s.broadcast r.domain r.id r.why.revokes

/-- An invalidation of a window falls due. A revocation of an id whose last one completed in this frame is held to the next frame
boundary (R299). -/
def State.invalidate (s : State) (domain id : Nat) (why : Inval) : State :=
  let held := why.revokes && (match Tbl.get? s.wu.slots (slotKey domain id) with
    | some w => w.revoked == some s.frame
    | none => false)
  let r : Revocation := { domain := domain, id := id, why := why, started := s.ns, held := held }
  let s := { s with wu := { s.wu with revocations := s.wu.revocations ++ [r] } }
  if held then s else s.beginInval r

/-- Open windows of a function, by domain and id. -/
def State.windowsOf (s : State) (f : Nat) : List (Nat × Nat) :=
  (s.wu.slots.filter fun x => x.2.valid && x.2.fn == f).map fun x => (x.1 / 2 ^ 24, x.1 % 2 ^ 24)

/-- FORCE revokes every open window of a function (R239). -/
def State.forceWindows (s : State) (f : Nat) : State :=
  (s.windowsOf f).foldl (fun s w => (s.invalidate w.1 w.2 (.force f)).raise 0x084 (some f) (w.1 + at_ w.2 16)) s

/-- Forced revocations of a function that are not complete. -/
def State.forcedPending (s : State) (f : Nat) : Bool := s.wu.revocations.any fun r => r.why == .force f

/-! ### Control-class state (R238, R239) -/

def TokenBinding.active (x : Binding) : Bool := x.state == .HELD || x.state == .WAITING || x.state == .PENDING

/-- Does a function hold or await a token (R238)? -/
def State.usesTokens (s : State) (f : Nat) : Bool :=
  s.tk.locals.any (fun t => t.2.holder == some f || t.2.waiters.any fun w => w.fn == f)
    || s.tk.bindings.any fun b => b.2.fn == f && TokenBinding.active b.2

/-- A reservation names the function as source or destination. -/
def State.resvNames (s : State) (f : Nat) (r : Reservation) : Bool :=
  match s.fn? f with
  | some x =>
    let e := s.endpoint x.att
    (r.sourceFn == f && r.source == e) || (r.destKind == 0 && r.destFn == f && r.dest == e)
  | none => false

def State.resvsOf (s : State) (f : Nat) : List Nat := (s.tt.resv.filter fun r => s.resvNames f r.2).map (·.1)

/-- The egress that a reservation is charged on first, for its notices. -/
def Reservation.firstEgress (r : Reservation) : Nat := r.egresses.headD 0

/-- FORCE on FUNCTION_DISABLE suspends the function's reservations, until it runs again. -/
def State.forceSuspend (s : State) (f : Nat) : State :=
  ((s.resvsOf f).foldl (fun s id => match Tbl.get? s.tt.resv id with
    | some r => s.suspendResv id r.firstEgress (some f)
    | none => s) s).rebalance

/-- FORCE on FUNCTION_DESTROY removes them from this router, with the notices of R87 at the far end alone (R239). -/
def State.forceRemove (s : State) (f : Nat) : State :=
  ((s.resvsOf f).foldl (fun s id => match Tbl.get? s.tt.resv id with
    | some r =>
      let s := { s with tt := { s.tt with resv := Tbl.del s.tt.resv id } }
      let far := if r.sourceFn = f ∧ r.source = s.endpoint (s.engineOf f) then (if r.destKind = 0 then some (r.dest, r.destFn) else none)
        else some (r.source, r.sourceFn)
      match far with
      | some (e, g) =>
        if !r.suspended && g != f && epLoc e == s.location then s.raise 0x020 (some g) (id + r.firstEgress * 65536) else s
      | none => s
    | none => s) s).rebalance

/-- The function runs again: the suspensions that it forced end, and its reservations come back where there is room (R88, R239). -/
def State.unforce (s : State) (f : Nat) : State :=
  ((s.resvsOf f).foldl (fun s id =>
    { s with tt := { s.tt with resv := Tbl.modify s.tt.resv id fun r => { r with forced := r.forced.filter (· != f) } } }) s).rebalance

/-! ### The cut-off of data-class work (R235) -/

/-- A generation that no function holds: reads marked with it are discarded on return. -/
def discarded : Nat := 256

/-- Is the read one of the function's own, not an access of the flow context store or a command's buffer? -/
def DmaUse.ofWork : DmaUse → Bool
  | .spill _ _ _ | .blob => false
  | _ => true

/-- Steps 3 to 6 of R235 for a function of engine n: waiting cells, flows, matching lists, rings, counters and setup go, its
reassembly tags rest, reads under the old generation are discarded on return, and placements under way write what they have
translated and answer no more. -/
def State.discardWork (s : State) (f : Nat) (x : Fn) : State :=
  let n := x.att
  let e := s.engine n
  let s := s.modEngine n fun e =>
    { e with
      placing := e.placing.map fun w => if w.fn = f then { w with flow := none, member := none } else w
      answers := e.answers.filter fun a => a.fn != f
      members := Tbl.mapVal e.members fun _ m => if m.fn = f then { m with busy := [] } else m
      senders := Tbl.mapVal e.senders fun _ g =>
        if g.fn = f then { g with out := [], resting := g.out.foldl (fun t m => Tbl.put t m.tag (s.ns + 2000000)) g.resting } else g }
  let s := (e.src.filter fun y => y.2.fn == f).foldl (fun s y => s.removeSrc n y.1) s
  let s := (e.dst.filter fun y => y.2.fn == f).foldl (fun s y => s.dropDst n y.1) s
  let mine := s.ops.filter fun o => o.2.fn == f
  let s := { s with
    ops := s.ops.filter (fun (o : Nat × Op) => o.2.fn != f)
    reuse := mine.foldl (fun t (o : Nat × Op) => Tbl.put t o.1 ((Tbl.getD t o.1 0 + 1) % 4096)) s.reuse
    matching := Tbl.del s.matching f
    cs := { s.cs with
      waiting := s.cs.waiting.filter (fun p => !(mine.any fun (o : Nat × Op) => o.1 == p))
      owed := s.cs.owed.filter fun o => o.fn != f }
    cc := { s.cc with adminReply := s.cc.adminReply.filter fun a => a.2.1 != f }
    dma := (s.dma.filter fun (d : Nat × DmaRead) => d.2.sent || d.2.fn != f || !d.2.use.ofWork).map fun (d : Nat × DmaRead) =>
      if d.2.fn = f ∧ d.2.use.ofWork then (d.1, { d.2 with gen := discarded }) else d }
  s.modFn f fun x =>
    { x with rings := [], counters := [], setup := none, bells := [], routes := [], freeze := none, savedFlows := [] }

/-- The steps of R235 on the way to a state, with or without the generation's advance; a freeze under way fails. -/
def State.cutWork (s : State) (f : Nat) (enters ends : FnState) (advance : Bool) : State :=
  match s.fn? f with
  | none => s
  | some x =>
    let old := s.gen f
    let s := s.modFn f fun x => { x with state := enters, resetRec := some { oldGen := old, ends := ends, port := false } }
    let s := if advance then s.advanceGen f else s
    ((s.discardWork f x).memberLost f).answerOn (.freeze f) .FAILED 0 []

/-- The steps of R235, the generation's advance included. -/
def State.cutOff (s : State) (f : Nat) (enters ends : FnState) : State := s.cutWork f enters ends true

/-- The state in which a reset from the device ends (R233). -/
def FnState.comesBack (y : FnState) : FnState :=
  if y = .RUNNING ∨ y = .HALTED ∨ y = .FREEZING ∨ y = .FROZEN then .RUNNING else .READY

/-- A reset begins (R235, R237): with FORCE its windows are revoked, and its tokens are released (R461). -/
def State.beginReset (s : State) (f : Nat) (force : Bool) (ends : FnState) : State :=
  match s.fn? f with
  | none => s
  | some x =>
    let ends := if s.manager = some f then .RUNNING else ends
    let s := s.evidence (attBase x.att + 0x40)
    let s := s.cutOff f .RESETTING ends
    let s := s.modFn f fun x => { x with cause := 0 }
    let s := s.tokensLost f
    if force then s.forceWindows f else s

/-- A reset that the device itself begins: it returns a running function to RUNNING. -/
def State.deviceResetFn (s : State) (f : Nat) (force : Bool) : State :=
  match s.fn? f with
  | none => s
  | some x =>
    let ends := match x.state, x.resetRec with
      | .RESETTING, some r => r.ends
      | y, _ => y.comesBack
    s.beginReset f force ends

/-- Entry into HALTED with cause FAULT, BUS_MASTER or HOST_LINK (R233, R620): a running function, its control-class state kept. -/
def State.haltFn (s : State) (f cause : Nat) : State :=
  match s.fn? f with
  | some x =>
    if x.state = .RUNNING then (s.cutOff f .HALTED .HALTED).modFn f fun x => { x with cause := cause } else s
  | none => s

/-- The functions of an attachment. -/
def State.fnsOf (s : State) (a : Nat) : List Nat := (s.fns.filter fun x => x.2.att == a).map (·.1)

/-! ### Destruction (R162, R233, R394) -/

/-- A function leaves for NONE: its grants return to their pools, its rank tables are freed, its records and bindings go, its meters of the minute are
kept for the snapshot (R204). Its generation is kept. -/
def State.removeFn (s : State) (f : Nat) : State :=
  match s.fn? f with
  | none => s
  | some x =>
    let ghosts := s.sb.ghosts ++ [{ fn := f, gen := s.gen f, createdMinute := x.createdMinute, meters := s.meters f }]
    let tables := (s.cs.rankTables.filter fun t => t.2.fn == f).map (·.1)
    let gone := fun (i : Instr) => match cmdOf i with
      | some c => (c.h.fn == f) || (c.opcode == 0x0501 && c.params.take 2 == [x.att, x.vf])
          || (c.opcode == 0x0520 && tables.contains (c.params.getD 0 0))
      | none => false
    let mine := ((s.engine x.att).senders.filter fun g => g.2.fn == f).map (·.1)
    let s := (mine.foldl (fun s g => s.keepRest x.att g) s).modEngine x.att fun e =>
      { e with senders := e.senders.filter (fun g => g.2.fn != f), members := e.members.filter (fun m => m.2.fn != f) }
    { s with
      fns := Tbl.del s.fns f
      manager := if s.manager = some f then none else s.manager
      sb := { s.sb with ghosts := ghosts }
      cs := { s.cs with rankTables := s.cs.rankTables.filter fun t => t.2.fn != f }
      rh := { s.rh with groups := Tbl.mapVal s.rh.groups fun _ g => { g with members := g.members.filter fun m => m.2.fn != f } }
      tk := { s.tk with bindings := s.tk.bindings.filter fun b => b.2.fn != f }
      jr := { s.jr with settings := s.jr.settings.filter fun i => !gone i } }

/-! ### Doorbells recorded and served (R233, R241, R534) -/

/-- The recorded doorbells of a function are served, and its rings accept again. -/
def State.serveBells (s : State) (f : Nat) : State :=
  match s.fn? f with
  | none => s
  | some x =>
    let s := s.setFn f { x with bells := [] }
    let s := x.bells.foldl (fun s r => match s.fn? f, s.ring? f r with
      | some x, some g => s.ringBell f x r g
      | _, _ => s) s
    (Tbl.keys x.rings).foldl (fun s r => s.resume f r) s

/-! ### The reset point (R237) -/

/-- Nothing of the old generation remains to be issued, its revocations are complete, and its generation has advanced. -/
def State.atResetPoint (s : State) (f : Nat) (x : Fn) (r : ResetRec) : Bool :=
  (s.genOf f).held == 0 && !s.forcedPending f && !((s.engine x.att).placing.any fun w => w.fn == f)
    && !(x.state == .RESETTING && s.manager == some f && r.ends == .RUNNING && (s.att x.att).state != .UP)

/-- The engine's reset, or a CONTAIN, is over once none of its functions is being reset. -/
def State.engineResetOver (s : State) (a : Nat) : State :=
  if (s.fnsOf a).any fun f => ((s.fn? f).bind (·.resetRec)).isSome then s
  else (s.setAtt a { s.att a with contained := false }).answerOn (.engineReset a) .OK 0 []

/-- The reset point: the function enters the state the reset gives it, and the commands that wait for it are answered. One that would run on
an attachment which carries no work is HALTED with cause HOST_LINK (R210, R233). -/
def State.endReset (s : State) (f : Nat) (x : Fn) (r : ResetRec) : State :=
  let wasReset := x.state == .RESETTING
  let slow := r.ends == .RUNNING && (s.att x.att).state != .UP
  let ends := if slow then .HALTED else r.ends
  let s := s.setFn f { x with state := if wasReset then ends else x.state, cause := if wasReset ∧ slow then 4 else x.cause, resetRec := none }
  let s := if wasReset ∧ ends = .RUNNING then s.unforce f else s
  let s := if wasReset then s.raise 0x083 (some f) (r.oldGen + at_ (s.gen f) 8) else s
  let s := s.answerOn (.fnReset f) .OK 0 (le 1 r.oldGen ++ le 1 (s.gen f))
  let s := s.answerOn (.fnDisable f) .OK 0 []
  let s := if s.awaits (· == .fnDestroy f) then (s.removeFn f).answerOn (.fnDestroy f) .OK 0 [] else s
  s.engineResetOver x.att

def State.resetPoint (s : State) (f : Nat) : State :=
  match s.fn? f with
  | some x =>
    match x.resetRec with
    | some r => if s.atResetPoint f x r then s.endReset f x r else s
    | none => s
  | none => s

/-! ### Freezing (R241) -/

/-- Accepted work of a function that is not yet final, or placements under way. A RECV on the posted list counts as drained, and so does
what can retire only after it (R388). -/
def State.workOf (s : State) (f : Nat) (x : Fn) : Bool :=
  s.ops.any (fun o => o.2.fn == f && o.2.phase != .posted) || s.cs.owed.any (fun o => o.fn == f)
    || x.rings.any (fun r => r.2.unpublished.isSome)
    || (s.engine x.att).placing.any (fun w => w.fn == f)
    || (s.engine x.att).dst.any fun d => d.2.fn == f && (s.engine x.att).works d.1

/-- Parcels of a function that freezes which are not yet handed to placement, and its atomics not yet issued, are answered NACK RETRY_AFTER
(R241). -/
def State.refuseWaiting (s : State) (f : Nat) (x : Fn) : State :=
  let n := x.att
  ((s.engine n).dst.filter fun d => d.2.fn == f).foldl (fun s d =>
    let s := d.2.staged.foldl (fun s p =>
      let r := s.drawTicks
      (r.2.modDst n d.1 fun y => { y with staged := y.staged.filter (· != p) }).nack n d.2 p.tag p.seq nackRETRY_AFTER 0 r.1) s
    ((s.engine n).atomics.filter fun j => j.flow == d.1 && j.dma.isNone).foldl (fun s j =>
      let r := s.drawTicks
      (r.2.modEngine n fun e => { e with atomics := e.atomics.filter (· != j) }).refuseParcel n d.1 0 j.seq nackRETRY_AFTER r.1) s) s

/-- Back to RUNNING: recorded doorbells are served. -/
def State.runAgain (s : State) (f : Nat) : State :=
  (s.modFn f fun x => { x with state := .RUNNING, freeze := none }).serveBells f

/-! ### The reset of one engine or host port (R246, R247, R556) -/

/-- A reset of an engine alone: a reset with FORCE of every function of its attachment; the block's counters are cleared (R527), and its
open reassembly entries are lost. -/
def State.resetEngine (s : State) (n : Nat) : State :=
  let s := s.clearCounters (peBase n) (peBase (n + 1))
  let s := s.modEngine n fun e =>
    { e with tags := Tbl.mapVal e.tags (fun _ t => { t with entry := none }), mreasm := [], degraded := false, draining := false }
  ((s.fnsOf n).foldl (fun s f => s.deviceResetFn f true) s).refreshXoff

/-- What FLR clears in a function's configuration space (R240, R231). -/
def Fn.flr (x : Fn) : Fn :=
  { x with busMaster := false, atomicEnable := false, atsEnable := false, msixEnable := false, msixMask := false, msix := [],
           bar0 := 0, bar2 := 0, tableSize := x.vectors }

/-- A reset from the host: the function ends in READY. -/
def State.hostResetFn (s : State) (f : Nat) : State :=
  let s := (s.beginReset f true .READY).modFn f Fn.flr
  match s.fn? f with
  | some x => s.setAtt x.att { s.att x.att with ats := (s.att x.att).ats.filter fun e => e.fn != f }
  | none => s

/-- A read lost with its link: a flow context's is an error, the others go. -/
def State.loseReads (s : State) (a : Nat) : State :=
  let lost := s.dma.filter fun d => d.2.att == a && !d.2.use.ofWork
  let s := { s with dma := s.dma.filter fun d => d.2.att != a }
  lost.foldl (fun s d => match d.2.use with
    | .spill pe fl src => s.ctxLost pe fl src
    | _ => s.answerOn (.restore d.2.offset) .FAILED 0 []) s

/-- The PCIe link of an attachment is lost (R247): its functions are reset with FORCE. -/
def State.linkLost (s : State) (a : Nat) : State :=
  let s := s.setAtt a { s.att a with state := .DOWN, speed := 0, width := 0, flit := false, vfEnable := false, numVfs := 0,
                                     vfBar := 0, ats := [], invals := [], maxPayload := 128, maxRead := 512, l12 := false }
  let s := (s.fnsOf a).foldl (fun s f =>
    (s.hostResetFn f).modFn f fun x => { x with resetRec := x.resetRec.map fun r => { r with port := true } }) s
  (s.loseReads a).rebalance

/-- The attachments of a host port. -/
def State.attsOf (s : State) (p : Nat) : List Nat := [2 * p, 2 * p + 1].filter fun a => s.assigned a

/-- HP_PERST_N[p] is asserted (R247). -/
def State.perst (s : State) (p : Nat) : State :=
  let s := s.setHostPort p { s.hostPort p with perst := true }
  let s := (s.evidence (hpcBase p + 0x10)).raise 0x081 none (p + 256)
  (s.attsOf p).foldl (fun s a => s.linkLost a) s

/-- A reset of a host port alone, by BLOCK_RESET or CONTAIN: as an assertion of PERST#, the block's counters cleared (R527). -/
def State.resetHostPort (s : State) (p : Nat) : State :=
  let s := s.clearCounters (hpcBase p) (hpcBase (p + 1))
  let held := (s.hostPort p).perst
  let s := s.perst p
  s.setHostPort p { s.hostPort p with perst := held, degraded := false, draining := false }

/-! ### Creation (R216, R229) -/

/-- A new function in READY, with its grants and the defaults of R89, R207, R229, R334 and R358. -/
def Fn.initial (att vf vectors staging tokens slots rings ctxs minute : Nat) : Fn :=
  { att := att, vf := vf, vectors := vectors, staging := staging, fabricTokens := tokens, resvSlots := slots,
    ringQuota := rings, ctxQuota := ctxs, state := .READY, cause := 0, busMaster := false, atomicEnable := false,
    atsEnable := false, bar0 := 0, bar2 := 0, msixEnable := false, msixMask := false, msix := [], tableSize := vectors,
    horizonMs := 250, resetRec := none, freeze := none, freezeTime := 0, freezeGen := 0, bells := [], rings := [],
    counters := [], setupAddr := 0, counterValue := 0, setup := none, setupState := 0, setupCause := 0, setupStatus := 0,
    routes := [], sched := Sched.initial 0, ccTarget := 3000, ccAlpha := 16, ccBeta := 80, ccInit := 8, ccMax := 64,
    matchEn := false, log2Comms := 0, backoff := 64, postedMax := 0, unexpectedMax := 0, unexpectedKib := 0, comms := [],
    unexpectedFullFrame := none, postedFullFrame := none, createdMinute := minute, occFrame := none, savedFlows := [] }

/-- A function comes into being: its meters are cleared (R203). -/
def State.addFn (s : State) (f : Nat) (x : Fn) : State :=
  (s.clearCounters (meterOff f 0) (meterOff (f + 1) 0)).setFn f x

/-- The PF of an attachment, with the default grants (R216). -/
def State.addPf (s : State) (a : Nat) : State :=
  if (s.fn? a).isSome then s
  else
    let x := Fn.initial a 0 64 16 0 0 64 65536 s.minute
    s.addFn a { x with state := if s.manager = some a then .RUNNING else .READY }

end Sys2Proof.Machine
end

