-- ==== Sys2Proof/Machine/HostEvents.lean ====
section
/-! DEFINITION. What the hosts do to their ports and functions, and what the ports report (06_host_ports.md): FLR and the other
controls of R240, PERST# and link events (R210, R214, R247), freezing's end (R241), MSI-X (R226), ATS (R228) and the errors of R224
and R227. -/
namespace Sys2Proof.Machine

open Sys2Proof

/-- Are the host ports at work: powered, out of reset and not in HALT (R250)? -/
def State.hosts (s : State) : Bool := s.alive && s.running

/-- FUNCTION_HOST_RESET to the manager (R240). -/
def State.hostResetEvent (s : State) (f kind : Nat) : State := s.raise 0x082 (some f) kind

/-- The VF functions of an attachment. -/
def State.vfsOf (s : State) (a : Nat) : List Nat := (s.fns.filter fun x => x.2.att == a && x.2.vf != 0).map (·.1)

/-- Every VF function of an attachment is reset to READY, since VF Enable is clear. -/
def State.clearVfs (s : State) (a : Nat) : State :=
  let s := s.setAtt a { s.att a with vfEnable := false, numVfs := 0 }
  (s.vfsOf a).foldl (fun s f => s.hostResetFn f) s

/-- FLR_VF (R240). -/
def execFlrVf (fn : Nat) (s : State) : Host.Outcome State Fault Refusal :=
  match s.fn? fn with
  | some x => if s.hosts ∧ x.vf ≠ 0 then .next ((s.hostResetFn fn).hostResetEvent fn 0) else .next s
  | none => .next s

/-- FLR_PF (R240). -/
def execFlrPf (attachment : Nat) (s : State) : Host.Outcome State Fault Refusal :=
  if s.hosts ∧ (s.fn? attachment).isSome then
    .next (((s.clearVfs attachment).hostResetFn attachment).hostResetEvent attachment 1)
  else .next s

/-- The host clears VF Enable. -/
def State.vfEnableClear (s : State) (a : Nat) : State :=
  if s.hosts ∧ (s.att a).vfEnable then (s.clearVfs a).hostResetEvent a 2 else s

/-- VF_ENABLE_CLEAR (R240). -/
def execVfEnableClear (attachment : Nat) (s : State) : Host.Outcome State Fault Refusal := .next (s.vfEnableClear attachment)

/-- The host clears Bus Master Enable: a running function halts with cause BUS_MASTER. -/
def State.busMasterClear (s : State) (f : Nat) : State :=
  match s.fn? f with
  | some x =>
    if s.hosts ∧ x.busMaster then
      let s := s.setFn f { x with busMaster := false }
      if x.state = .RUNNING then (s.haltFn f 3).hostResetEvent f 3 else s
    else s
  | none => s

/-- BUS_MASTER_ENABLE_CLEAR (R240). -/
def execBusMasterEnableClear (fn : Nat) (s : State) : Host.Outcome State Fault Refusal := .next (s.busMasterClear fn)

/-- PERST_ASSERT: the pin has been low for 2 µs (R543, R247). Each assertion counts, the link trained again or not. -/
def execPerstAssert (port : Nat) (s : State) : Host.Outcome State Fault Refusal :=
  if s.running ∧ s.hasHostPort port then .next (s.perst port) else .next s

/-- PCIE_LINK_DOWN (R247). -/
def execPcieLinkDown (attachment : Nat) (s : State) : Host.Outcome State Fault Refusal :=
  if s.running ∧ s.assigned attachment ∧ (s.att attachment).state ≠ .DOWN then
    let s := (s.evidence (attBase attachment + 0x44)).raise 0x081 none (attachment / 2)
    .next (s.linkLost attachment)
  else .next s

/-- Does a link carry work at this speed code and width (R210)? -/
def linkCarries (speed width : Nat) : Bool := decide (4 ≤ speed) && decide (4 ≤ width)

/-- A link has trained (R210, R211): below the limit of R210 its running functions halt with cause HOST_LINK. Its reservations are judged at
the new capacity (R84 to R88). -/
def State.linkTrained (s : State) (a speed width : Nat) (flit : Bool) : State :=
  let st : AttState := if linkCarries speed width then .UP else .SLOW
  let s := s.setAtt a { s.att a with state := st, speed := speed, width := width, flit := flit }
  let s := if st = .SLOW then (s.fnsOf a).foldl (fun s f => s.haltFn f 4) (s.raise 0x080 none a) else s
  s.rebalance

/-- Is the device in a mode in which PFs exist (R216)? -/
def State.served (s : State) : Bool := s.rst.mode == .SERVICE || s.rst.mode == .DRAIN || s.rst.mode == .HEATH

/-- PCIE_LINK_UP: training ends, and an attachment that a split has newly assigned gets its PF (R210, R214). A host port out of service does not train. -/
def execPcieLinkUp (attachment speed width : Nat) (flit : Bool) (s : State) : Host.Outcome State Fault Refusal :=
  if s.hosts ∧ s.assigned attachment ∧ !(s.hostPort (attachment / 2)).degraded then
    let s := s.setHostPort (attachment / 2) { s.hostPort (attachment / 2) with perst := false }
    let s := s.linkTrained attachment speed width flit
    .next (if s.served ∧ linkCarries speed width then s.addPf attachment else s)
  else .next s

/-- HOST_LINK_RETRAIN_SLOW: running functions halt with cause HOST_LINK (R210). -/
def execHostLinkRetrainSlow (attachment speed width : Nat) (flit : Bool) (s : State) : Host.Outcome State Fault Refusal :=
  if s.hosts ∧ s.assigned attachment ∧ (s.att attachment).state ≠ .DOWN ∧ !linkCarries speed width then
    .next (s.linkTrained attachment speed width flit)
  else .next s

/-- FREEZE_DRAINED (R241): none of the accepted operations and placements remain. -/
def execFreezeDrained (fn : Nat) (s : State) : Host.Outcome State Fault Refusal :=
  match s.fn? fn with
  | some x =>
    if x.state = .FREEZING ∧ !s.workOf fn x then
      let s := s.setFn fn { x with state := .FROZEN, freeze := none, freezeTime := s.ns, freezeGen := s.gen fn }
      .next (s.answerOn (.freeze fn) .OK 0 [])
    else .next s
  | none => .next s

/-- FREEZE_LIMIT_EXPIRY (R241). -/
def execFreezeLimitExpiry (fn : Nat) (s : State) : Host.Outcome State Fault Refusal :=
  match s.fn? fn with
  | some x =>
    match x.state, x.freeze with
    | .FREEZING, some d =>
      if d ≤ s.ns then .next ((s.runAgain fn).answerOn (.freeze fn) .TIMEOUT 0 []) else .next s
    | _, _ => .next s
  | none => .next s

/-- Writes of placements that use a translation now taken back are handed to the host port at once (R228). -/
def State.flushPlacings (s : State) (n : Nat) (used : Nat → Bool) : State :=
  let r := (s.engine n).placing.foldl (fun (r : State × List Placing) w =>
    if w.writes.any fun x => used x.1 then (r.1.handWrites w w.writes, r.2 ++ [{ w with writes := [] }]) else (r.1, r.2 ++ [w])) (s, [])
  r.1.modEngine n fun e => { e with placing := r.2 }

/-- The translations of a range are dropped; atomics not yet issued are translated again, and the request is completed once the reads that
used one have been sent (R228). -/
def State.atsInvalidate (s : State) (a address length : Nat) : State :=
  let hit := fun (e : AtsEntry) => decide (address < e.page + 4096) && decide (e.page < address + length)
  let pages := ((s.att a).ats.filter hit).map (·.target)
  let used := fun (addr : Nat) => pages.contains (addr / 4096 * 4096)
  let s := s.setAtt a { s.att a with ats := (s.att a).ats.filter fun e => !hit e }
  let s := (s.flushPlacings a used).redoAtomics a false fun j => used j.addr
  let tags := (s.dma.filter fun d => d.2.att == a && !d.2.sent && used d.2.addr).map (·.1)
  (s.setAtt a { s.att a with invals := (s.att a).invals ++ [{ addr := address, tags := tags, due := s.ns + 10000 }] }).settleInvals a

/-- ATS_INVALIDATE (R228). -/
def execAtsInvalidate (attachment address length : Nat) (s : State) : Host.Outcome State Fault Refusal :=
  if s.hosts ∧ s.assigned attachment then .next (s.atsInvalidate attachment address length) else .next s

/-- A vector's mask is cleared: a pending message is sent once (R226). -/
def State.unmask (s : State) (f v : Nat) : State :=
  match s.fn? f with
  | none => s
  | some x =>
    let e := Tbl.getD x.msix v Vector.initial
    let send := e.pending && !x.msixMask && x.msixEnable && s.mayIssue x.att
    let s := s.setFn f { x with msix := Tbl.put x.msix v { e with masked := false, pending := e.pending && !send } }
    if send then s.emit (.msix f v e.addr e.data) else s

/-- MSIX_UNMASK (R226). -/
def execMsixUnmask (fn vector : Nat) (s : State) : Host.Outcome State Fault Refusal :=
  match s.fn? fn with
  | some x => if s.hosts ∧ vector < x.tableSize then .next (s.unmask fn vector) else .next s
  | none => .next s

/-- A Completer Abort error is logged in AER with the header of the access (R224). -/
def State.logAbort (s : State) (f : Nat) : State :=
  ({ s with freeCount := s.freeCount + 1 } : State).emit (.aerHeader f .completerAbort (Config.requestHeader s.freeCount))

/-- BAD_REGISTER_ACCESS (R224); in HALT a read completes with Completer Abort as every read does, and a write is discarded (R250). An access
outside the view that breaks R8 too is handled here alone, and not counted in GL_VIEW_DENIED (DESIGN CHOICE: R26 does not say). -/
def execBadRegisterAccess (fn : Nat) (isRead : Bool) (s : State) : Host.Outcome State Fault Refusal :=
  match s.fn? fn with
  | some x =>
    if s.hosts then
      let s := (s.evidence (attBase x.att + 0x38)).logAbort fn
      .next (if isRead then s.emit (.completerAbort fn) else s)
    else if isRead ∧ s.rst.mode = .HALT then .next (s.emit (.completerAbort fn))
    else .next s
  | none => .next s

/-- PCIE_CORRECTABLE_ERROR (R227). -/
def execPcieCorrectableError (attachment : Nat) (s : State) : Host.Outcome State Fault Refusal :=
  if s.hosts ∧ s.assigned attachment then
    .next ((s.tally (attBase attachment + 0x20)).emit (.aer attachment .correctable))
  else .next s

end Sys2Proof.Machine
end

