-- ==== Sys2Proof/Machine/Registers.lean ====
section
/-! DEFINITION. The registers of the BAR0 map (R24): their words as every chapter's register tables lay them out, the views of R25 to
R27, the latches of R13 to R15 and R93, and access by type (R9). -/
namespace Sys2Proof.Machine

open Sys2Proof

/-! ### Words -/

/-- Word k of a value. -/
def wordOf (v k : Nat) : Nat := v / 2 ^ (32 * k) % 2 ^ 32

/-- The word at offset `o` of registers given by offset, width in words and value; zero where none lies. -/
def regAt (o : Nat) : List (Nat × Nat × Nat) → Nat
  | [] => 0
  | (a, n, v) :: t => if a ≤ o ∧ o < a + 4 * n then wordOf v ((o - a) / 4) else regAt o t

/-- The word at offset `o` of an array of `count` registers of `n` words, `stride` bytes apart from `base`. -/
def regArray (o base stride n count : Nat) (v : Nat → Nat) : Nat :=
  let i := (o - base) / stride
  if base ≤ o ∧ i < count ∧ (o - base) % stride < 4 * n then wordOf (v i) ((o - base) % stride / 4) else 0

/-- A field at its lowest bit, reduced to its width. -/
def fld (v width lo : Nat) : Nat := v % 2 ^ width * 2 ^ lo

def flag (b : Bool) (lo : Nat) : Nat := at_ (b2n b) lo

/-! ### Global (01_architecture.md) -/

def variantCode : Variant → Nat
  | .AX => 0 | .LX => 1 | .TX => 2

/-- GL_DEVICE_ID. -/
def State.deviceId (s : State) : Nat :=
  fld 0x6400 16 16 + fld (variantCode s.variant) 4 12 + fld Config.stepMajor 4 8 + fld Config.stepMinor 4 4

/-- GL_VIEW as a party reads it (R611). -/
def State.glView (s : State) (p : Party) : Nat :=
  let own := fun (a : Nat) => flag (s.manager == some a) 31 + fld a 5 0
  match p with
  | .fn f => own (match s.fn? f with | some x => x.att | none => 0)
  | _ => match s.manager with | some a => own a | none => 0

def State.glReg (s : State) (p : Party) (o : Nat) : Nat :=
  regAt o [(0x0, 1, s.deviceId), (0x8, 2, unitPresent s.variant), (0x10, 1, s.glView p)]

/-! ### Fault collector (15_faults_events.md) -/

/-- Repair rows left of an HBM stack, none where it is absent. -/
def State.repairsLeft (s : State) (stack : Nat) : Nat :=
  if s.hasUnit (48 + stack) then Tbl.getD s.fc.repairs stack (Config.repairRows stack) else 0

/-- Spare rows left over all banks (R528). -/
def State.spareRows (s : State) : Nat := 1408 - sumNat (s.fc.sparesUsed.map (·.2))

def State.fcReg (s : State) (o : Nat) : Nat :=
  if o < 0x30 then s.fsw (o / 4)
  else if o < 0xA0 then (if 0x40 ≤ o then s.sev ((o - 0x40) / 4) else 0)
  else if o < 0x1000 then
    regAt o [(0x100, 1, s.fcStatus), (0x108, 4, ofLe s.fc.last),
      (0x128, 1, fld s.spareRows 16 16 + fld (s.repairsLeft 0 + s.repairsLeft 1) 16 0),
      (0x140, 1, s.fc.vHead), (0x144, 1, s.fc.evHead)]
  else if o < 0x2000 then regArray o 0x1000 16 4 64 fun i => ofLe (Tbl.getD s.fc.evLog i [])
  else regArray o 0x2000 32 8 256 fun i => ofLe (Tbl.getD s.fc.vLog i [])

/-! ### Reset controller (16_modes_reset.md) -/

def State.gpioCfg (s : State) (n : Nat) : Nat :=
  match Tbl.get? s.rst.gpio n with
  | some g => flag g.input 16 + flag g.level 4 + fld g.pull 2 2 + fld g.fn 2 0
  | none => fld 1 2 2

def State.rstStatus (s : State) : Nat :=
  fld (modeCode s.rst.mode) 4 28 + fld (stageCode s.rst.stage) 4 24 + flag s.rst.deferred.isSome 23 + flag s.rst.drained 22
    + flag s.rst.watchdog 21

def State.rstCause (s : State) : Nat :=
  fld s.rst.cause 4 28 + fld s.rst.modeAtReset 4 24 + fld s.rst.restartStage 4 20 + fld s.rst.restartCause 4 16
    + fld s.rst.source 16 0

def State.rstReg (s : State) (o : Nat) : Nat :=
  if o < 0x100 then
    regAt o [(0x0, 1, s.rstCause), (0x4, 1, s.rstStatus),
      (0x8, 1, flag s.rst.strapFault 31 + fld s.rst.strapChoice 4 8 + fld s.rst.strapCode 8 0),
      (0xC, 1, b2n s.rst.hostWake), (0x10, 1, fld s.rst.periodMs 14 0)]
  else regArray o 0x100 4 1 16 s.gpioCfg

/-! ### Timetable unit (02_fabric_time.md) -/

def roleCode : TimeRole → Nat
  | .FOLLOWER => 0 | .ROOT => 1 | .BACKUP => 2

def syncCode : SyncState → Nat
  | .UNSYNC => 0 | .ACQUIRING => 1 | .LOCKED => 2 | .HOLDOVER => 3 | .ROOT => 4

def State.ttRole (s : State) : Nat := fld (roleCode s.tt.role) 2 30 + fld s.tt.priority 8 16

def State.ttSync (s : State) : Nat :=
  fld (syncCode s.tt.sync) 3 29 + fld s.tt.hops 5 24 + fld s.tt.parent 6 16 + ofSigned 16 s.tt.offset

def State.ttRootId (s : State) : Nat := fld s.tt.rootPriority 8 24 + fld s.tt.rootLocation 16 0

/-- An edge arrived within the last 1.1 s. -/
def State.ppsSeen (s : State) : Bool := match s.tt.ppsLast with | some t => decide (s.ns ≤ t + 1100000000) | none => false

/-- TT_LAG_i: at_risk says that TICK_LAG stands and that the block handles a reservation (R63). -/
def State.ttLag (s : State) (i : Nat) : Nat :=
  if s.tickBlock i then
    let l := s.lag i
    flag (l.fault && s.tt.resv.any fun r => handledBy i r.2) 31 + flag l.late 30 + minN l.ns 0xFFFFF
  else 0

/-- C, limit and charges of an egress, as TT_PORT_n and HPC_ATT_TT show them. -/
def State.capWord (s : State) (e : Nat) : Nat :=
  fld (s.egressCap e) 16 32 + fld (s.egressLimit e) 16 16 + fld (s.charged e) 16 0

def State.ttReg (s : State) (o : Nat) : Nat :=
  if o < 0x100 then
    regAt o [(0x0, 2, s.ns), (0x8, 1, s.tt.now % unit), (0x10, 1, s.ttRole), (0x18, 1, s.ttSync), (0x1C, 1, s.ttRootId),
      (0x20, 1, flag s.tt.ppsEn 31 + flag s.ppsSeen 30 + ofSigned 16 s.tt.phase), (0x30, 1, fld s.tt.fraction 7 0),
      (0x38, 1, fld (s.tt.resv.filter fun r => r.2.suspended).length 16 16
        + fld (s.tt.resv.filter fun r => !r.2.suspended).length 16 0)]
  else if o < 0x400 then regArray o 0x100 4 1 128 s.ttLag
  else regArray o 0x400 8 2 64 s.capWord

/-! ### Control cores (14_commands.md) -/

def slotStateCode : SlotState → Nat
  | .EMPTY => 0 | .VALID => 1 | .INVALID => 2 | .STAGING => 3

def Slot.word (x : Slot) : Nat := fld x.version 32 32 + fld x.security 16 16 + slotStateCode x.state

def State.ccStatus (s : State) : Nat :=
  flag s.cc.activePair 31 + flag s.cc.standbyReady 30 + fld s.cc.running 2 28 + fld s.cc.boot 2 26 + flag s.cc.stage.isSome 25
    + fld s.cc.waiting.length 6 0

def State.ccReg (s : State) (o : Nat) : Nat :=
  regAt o ([(0x0, 1, s.ccStatus), (0x30, 1, fld s.minVer 16 0),
    (0x38, 2, fld Config.enterprise 32 32 + fld s.cc.eid 8 24 + fld s.cc.address 7 8 + flag s.cc.addressValid 0),
    (0x40, 2, ofLe (s.cc.remote.flatMap (le 2))), (0x48, 1, fld s.cc.remoteEn 4 0)]
    ++ s.jr.slots.mapIdx fun i x => (0x10 + 8 * i, 2, x.word))

/-! ### Journal unit (17_journal_store.md) -/

def jStateCode : JState → Nat
  | .DISCOVERING => 0 | .READY => 1 | .UNSUPPORTED => 2 | .FAILED => 3

/-- The minutes of the meter records present (R575, JR_METER_SPAN). -/
def JR.minutes (j : JR) : List Nat :=
  j.pages.flatMap fun p =>
    if p.region = 4 ∧ j.meterBlocks.contains p.block then p.recs.map fun (r : JRec) => rd r.payload 0 8 else []

def minList : List Nat → Nat
  | [] => 0
  | a :: t => t.foldl minN a

/-- Erase counts of the good blocks of the pool; a block never erased counts zero (R578). -/
def JR.wear (j : JR) : Nat × Nat :=
  let l := j.erases.filter fun e => decide (452 ≤ e.1) && !j.bad.contains e.1
  let listed := l.length + (j.bad.filter fun b => decide (452 ≤ b)).length
  (maxList (l.map (·.2)), if listed < j.poolBlocks then 0 else minList (l.map (·.2)))

def State.jrReg (s : State) (o : Nat) : Nat :=
  let j := s.jr
  regAt o [(0x0, 1, fld (jStateCode j.state) 4 28 + flag j.pulse.isSome 27 + fld j.density 2 25 + fld j.bad.length 14 0),
    (0x8, 2, j.age % 2 ^ 64),
    (0x10, 2, fld j.evBlocks.length 16 48 + fld j.meterBlocks.length 16 32 + fld j.freeBlocks 16 16),
    (0x18, 2, fld (minList j.minutes) 32 32 + fld (maxList j.minutes) 32 0),
    (0x20, 1, fld j.wear.1 16 16 + fld j.wear.2 16 0)]

/-! ### Token unit (13_tokens.md) -/

def TokenRights.word (x : TokenRights) : Nat := fld x.last 11 44 + fld x.first 11 33 + flag x.enable 32 + x.pfMask.toNat

def State.localWord (s : State) (t : Nat) : Nat :=
  let x := s.localToken t
  flag x.holder.isSome 63 + flag x.lost 62 + fld (topPriority x.waiters) 3 59 + fld x.waiters.length 12 47
    + (match x.holder with | some f => fld (s.gen f) 8 16 + fld f 11 0 | none => 0)

def State.homeWord (s : State) (h : Nat) : Nat :=
  let x := s.home h
  flag x.enable 127 + flag x.holder.isSome 126 + flag x.lost 125 + fld (topPriority x.waiters) 3 122 + fld x.waiters.length 12 110
    + (match x.holder with
      | some w => fld w.endpoint 21 43 + fld w.fn 11 32 + fld w.gen 8 24 + fld ((x.lease - s.ns) / 1000) 13 0
      | none => 0)

def bindStateCode : BindState → Nat
  | .IDLE => 0 | .PENDING => 1 | .WAITING => 2 | .HELD => 3 | .FAILED => 4

def State.bindWord (s : State) (b : Nat) : Nat :=
  match s.binding? b with
  | some x => flag true 127 + fld (bindStateCode x.state) 3 124 + fld x.fn 11 113 + fld x.homeLoc 16 97 + fld x.homeIndex 6 91
      + fld x.answer 32 0
  | none => 0

def State.tkReg (s : State) (o : Nat) : Nat :=
  if o < 0x100 then regAt o [(0x8, 1, fld (4096 - s.tk.entries.length) 13 0)]
  else if o < 0x1000 then regArray o 0x100 8 2 64 fun g => TokenRights.word (Tbl.getD s.tk.rights g TokenRights.initial)
  else if o < 0x3000 then (if s.hasUnit 53 then regArray o 0x1000 8 2 1024 s.localWord else 0)
  else if o < 0x4000 then regArray o 0x3000 16 4 64 s.homeWord
  else regArray o 0x4000 16 4 64 s.bindWord

/-! ### Signal Box (05_signal_box.md) -/

def State.schedWord (s : State) (f : Nat) : Nat :=
  let x := s.sched f
  flag (s.fn? f).isSome 63 + fld x.inherited 3 32 + fld x.share 16 16 + fld x.baseLevel 3 8 + flag x.laneEn 4 + fld x.dwq 4 0

def State.shaperWord (s : State) (f : Nat) : Nat := fld (s.sched f).maxRate 20 40 + fld (s.sched f).minRate 20 20

def Policer.word (p : Policer) : Nat :=
  flag p.enable 127 + fld p.action 1 126 + fld p.pir 20 84 + fld p.cir 20 64 + fld p.pbs 16 48 + fld p.cbs 16 32
    + fld (p.tp / 256) 16 16 + fld (p.tc / 256) 16 0

def State.fnSbWord (s : State) (f : Nat) : Nat :=
  let x := s.sched f
  s.schedWord f + at_ (s.shaperWord f) 64 + at_ x.lane.word 128 + at_ x.strict.word 256 + at_ x.weighted.word 384

def State.weightWord (s : State) (e q : Nat) : Nat :=
  if 96 ≤ e ∨ (64 ≤ e ∧ !s.hasEngine (e - 64)) then 0
  else fld ((s.egress e).b q) 11 16 + fld ((s.egress e).q q) 11 0

def State.sbReg (s : State) (o : Nat) : Nat :=
  if o < 0x1000 then
    regAt o [(0x0, 1, fld s.sb.yellowMib 8 0), (0x8, 2, s.sb.levelMap.toNat), (0x10, 2, s.sb.transitMap.toNat),
      (0x20, 2, s.sb.ringBase), (0x28, 1, flag s.sb.ringEnable 31 + fld s.sb.ringLog2 5 0), (0x2C, 1, s.sb.ringProd),
      (0x30, 1, s.sb.ringCons)]
  else if o < 0x3000 then regArray o 0x1000 4 1 1536 fun i => s.weightWord (i / 16) (i % 16)
  else if 0x20000 ≤ o ∧ o < 0x40000 ∧ s.variant ≠ .TX then regArray o 0x20000 64 16 2048 s.fnSbWord
  else 0

/-! ### Junction (04_cells_and_routing.md) -/

/-- JN_REASM_QUOTA_a. -/
def State.quotaWord (s : State) (a : Nat) : Nat :=
  if s.hasEngine a then
    fld (ceilDiv ((s.engine a).reasmCells * 72) 65536) 16 16 + fld (Tbl.getD s.jn.quota a 64) 16 0
  else 0

def Route.word (r : Route) : Nat := flag r.valid 31 + fld r.dx 2 4 + fld r.dy 2 2 + fld r.dz 2 0

/-- JN_ROUTE_s: nothing before ROUTE_TOPOLOGY_SET (R184). -/
def State.routeWord (s : State) (st : Nat) : Nat := if s.jn.topology then (s.jn.route st).word else 0

def State.mcastWord (s : State) (g : Nat) : Nat :=
  match Tbl.get? s.jn.mcast g with
  | some m => flag true 127 + fld m.ingress 7 80 + m.mask.toNat
  | none => 0

def State.jnReg (s : State) (o : Nat) : Nat :=
  let j := s.jn
  if o < 0x100 then
    regAt o [(0x0, 1, fld (j.nx - 1) 4 28 + fld (j.ny - 1) 4 24 + fld (j.nz - 1) 4 20 + fld (j.routers - 1) 4 16 + fld j.location 16 0),
      (0x4, 1, fld j.datelineX 4 8 + fld j.datelineY 4 4 + fld j.datelineZ 4 0),
      (0x8, 1, flag j.detourEn 31 + fld j.downWeight 8 16 + fld j.detourPenalty 8 8 + fld j.escapeWait 8 0),
      (0x10, 1, fld j.alpha 8 16), (0x14, 1, fld s.poolFreeKib 18 0)]
  else if o < 0x10000 then regArray o 0x100 4 1 32 s.quotaWord
  else if o < 0x40000 then regArray o 0x10000 4 1 4096 s.routeWord
  else regArray o 0x40000 16 4 4096 s.mcastWord

/-! ### Fabric links (03_fabric_links.md) -/

def linkStateCode : LinkState → Nat
  | .DISABLED => 0 | .TRAINING => 1 | .HANDSHAKE => 2 | .UP => 3 | .HELD => 4 | .FLUSHED => 5 | .STANDBY => 6

/-- LK_EXPOSURE: zero while no flight has been measured. -/
def Port.exposureWord (x : Port) : Nat := if x.fCurrent = 0 then 0 else minN 0xFFFFF (exposure x.rate x.fCurrent)

def State.lkReg (s : State) (p o : Nat) : Nat :=
  let x := s.port p
  regAt o [(0x0, 1, fld (linkStateCode x.state) 4 28 + fld x.rate 2 26 + at_ x.active.toNat 16 + at_ x.failed.toNat 8),
    (0x8, 1, fld x.role 4 28 + fld x.peer 16 0), (0x10, 1, fld x.fHandshake 16 16 + fld x.fCurrent 16 0),
    (0x18, 1, x.exposureWord), (0x1C, 1, fld x.grace 16 0),
    (0x20, 2, fld x.txNext 16 48 + fld x.sidingBase 16 32 + fld x.rxExpected 16 16 + fld x.siding.length 16 0),
    (0x28, 1, at_ x.xoffIn.toNat 24 + at_ x.xoffOut.toNat 16 + fld (ceilDiv (s.headroomUsed p * 72) 1024) 10 0),
    (0x2C, 1, fld x.lastCause 4 28 + fld x.incarnation 16 0)]

/-! ### Window unit (08_windows.md) -/

def State.cacheWord (s : State) (c : Nat) : Nat :=
  let l := s.wu.cache.filter fun x => x.client == c
  let present := if c < 32 then s.hasEngine c else s.hasUnit (if c = 32 then 51 else 52)
  if present then
    fld l.length 16 48 + fld (sumNat (l.map fun x => x.extents.length)) 16 32 + fld (Tbl.getD s.wu.misses c 0) 32 0
  else 0

def State.wuReg (s : State) (o : Nat) : Nat :=
  if !s.hasUnit 50 then 0
  else if o < 0x100 then
    regAt o [(0x0, 2, fld Config.windowRegionBase 32 32 + fld s.regionMib 16 0), (0x8, 1, fld s.regionFreeKib 24 0),
      (0x10, 1, flag (s.wu.revocations.any fun r => !r.held) 31 + fld s.wu.lastNs 13 0)]
  else regArray o 0x100 8 2 34 s.cacheWord

/-! ### Context store (09_remote_operations.md) -/

def State.csReg (s : State) (o : Nat) : Nat :=
  regAt o [(0x100, 2, fld s.cs.spilled.length 23 40 + fld s.stored.length 23 17 + fld s.cs.cached.length 17 0),
    (0x108, 2, s.cs.spillBase), (0x110, 1, flag s.cs.spillEnable 31 + fld s.cs.spillCapacity 23 0),
    (0x118, 1, fld s.cs.parkPeak 16 16 + fld (ceilDiv s.parkUsed 1024) 16 0), (0x11C, 1, fld s.ops.length 21 0)]

/-! ### Roundhouse and Baler (11_roundhouse.md, 12_baler.md) -/

/-- Slots of 16 KiB that a group holds (R392), as KiB. -/
def Group.storeKib (x : Group) : Nat := (x.children.length + 2) * x.depth * 16

def State.rhFreeKib (s : State) : Nat := 16384 - sumNat (s.rh.groups.map fun g => g.2.storeKib)

def Group.word (x : Group) : Nat :=
  flag true 127 + fld x.state 2 125 + fld x.cause 4 121 + fld x.epoch 8 113 + fld x.parent 8 105 + fld x.children.length 6 99
    + fld x.anchor 5 94 + fld x.depth 5 89 + fld x.size 20 69 + fld x.seq 32 32 + fld x.step 32 0

def State.groupWord (s : State) (g : Nat) : Nat := match s.group? g with | some x => x.word | none => 0

def State.rhReg (s : State) (o : Nat) : Nat :=
  if !s.hasUnit 51 then 0
  else if o < 0x1000 then
    regAt o [(0x0, 1, fld s.rh.groups.length 11 11 + fld (s.rh.groups.filter fun g => g.2.state == 3).length 11 0),
      (0x8, 1, fld s.rhFreeKib 15 0)]
  else regArray o 0x1000 16 4 1024 s.groupWord

def State.blReg (s : State) (o : Nat) : Nat := regAt o [(0x0, 1, b2n (s.hasUnit 52 && s.elideEn))]

/-! ### Host ports (06_host_ports.md) -/

def attStateCode : AttState → Nat
  | .DOWN => 0 | .TRAINING => 1 | .UP => 2 | .SLOW => 3

def fnStateCode : FnState → Nat
  | .READY => 1 | .RUNNING => 2 | .RESETTING => 3 | .HALTED => 4 | .FREEZING => 5 | .FROZEN => 6

def HostPort.word (h : HostPort) : Nat := fld h.split 2 30 + fld h.nextSplit 2 28 + fld h.strapSplit 2 26 + flag h.perst 25

def State.attLinkWord (s : State) (a : Nat) : Nat :=
  let x := s.att a
  fld (if s.assigned a then attStateCode x.state else 4) 4 28 + fld x.speed 4 24 + fld x.width 5 19 + flag x.flit 18
    + fld x.vfLimit 8 8 + fld (if x.vfEnable then x.numVfs else 0) 8 0

/-- Vectors left in an attachment's pool; the PF's default grant is set aside before the PF exists. -/
def State.vectorsFree (s : State) (a : Nat) : Nat :=
  2048 - sumNat (s.fns.map fun f => if f.2.att = a then f.2.vectors else 0) - (if (s.fn? a).isSome then 0 else 64)

def Fn.word (x : Fn) (f gen : Nat) (manager : Bool) : Nat :=
  fld f 11 117 + fld x.vectors 12 105 + fld x.staging 16 89 + fld x.fabricTokens 8 81 + fld x.resvSlots 12 69 + fld x.ringQuota 16 48
    + fld x.ctxQuota 24 24 + fld (fnStateCode x.state) 4 20 + fld x.cause 4 16 + fld gen 8 8 + flag manager 0

/-- The function bound to VF index v of an attachment; v = 0 is the PF. -/
def State.fnAt (s : State) (a v : Nat) : Option (Nat × Fn) := s.fns.find? fun f => f.2.att == a && f.2.vf == v

/-- HPC_FN_v. A VF index bound to no function reads zero, and a PF that does not exist its number's generation alone. -/
def State.fnWord (s : State) (a v : Nat) : Nat :=
  match s.fnAt a v with
  | some (f, x) => x.word f (s.gen f) (s.manager == some f)
  | none => if v = 0 then fld (s.gen a) 8 8 else 0

def State.attReg (s : State) (a o : Nat) : Nat :=
  if o < 0x1000 then
    regAt o [(0x0, 1, s.attLinkWord a), (0x8, 2, s.capWord (64 + a)),
      (0x10, 2, fld (s.vectorsFree a) 12 32 + fld (s.fnsOf a).length 8 24)]
  else regArray o 0x1000 16 4 128 (s.fnWord a)

def State.hpcReg (s : State) (p o : Nat) : Nat :=
  if !s.hasHostPort p then 0
  else if o < 0x10000 then regAt o [(0x0, 1, (s.hostPort p).word)]
  else if o < 0x40000 then s.attReg (2 * p) (o - 0x10000)
  else s.attReg (2 * p + 1) (o - 0x40000)

/-! ### Endpoint engines (04, 09, 10) -/

def Fn.ccWord (x : Fn) : Nat := fld x.ccTarget 16 48 + fld x.ccAlpha 8 40 + fld x.ccBeta 8 32 + fld x.ccInit 8 24 + fld x.ccMax 8 16

def Fn.matchWord (x : Fn) : Nat :=
  flag x.matchEn 127 + fld x.log2Comms 8 96 + fld x.backoff 16 80 + fld x.postedMax 24 56 + fld x.unexpectedMax 24 32
    + fld x.unexpectedKib 32 0

def State.matchUse (s : State) (f : Nat) : Nat :=
  let m := s.lists f
  fld m.posted.length 24 80 + fld m.unexpected.length 24 56 + fld (ceilDiv m.bytes 1024) 32 0

/-- A register of a function slot of an engine, or its reset value where no function is bound. -/
def State.slotOf (s : State) (n v : Nat) (k : Nat → Fn → Nat) (none_ : Nat) : Nat :=
  match s.fnAt n v with
  | some (f, x) => k f x
  | none => none_

def State.reasmStatus (s : State) (n : Nat) : Nat :=
  let l := (s.engine n).tags.filter fun t => t.2.quarantine.isNone
  fld l.length 17 32 + fld (l.filter fun t => t.2.entry.isSome).length 17 0

def State.flowStatus (s : State) (n : Nat) : Nat :=
  let e := s.engine n
  fld e.src.length 23 40 + fld e.dst.length 23 17 + minN 131071 (s.ops.filter fun o => s.engineOf o.2.fn == n).length

/-- PE_MATCH_STATUS (R382). -/
def State.matchStatus (s : State) (n : Nat) : Nat :=
  let held := sumNat ((s.fnsOf n).map fun f => (s.lists f).posted.length)
  fld (minN 65536 held) 17 32 + fld (held - 65536) 32 0

def State.peReg (s : State) (n o : Nat) : Nat :=
  if !s.hasEngine n then 0
  else if o < 0x4000 then 0
  else if o < 0x4800 then regArray o 0x4000 16 4 128 fun v => s.slotOf n v (fun _ x => x.matchWord) (fld 64 16 80)
  else if o < 0x5000 then regArray o 0x4800 16 4 128 fun v => s.slotOf n v (fun f _ => s.matchUse f) 0
  else if o < 0x6100 then regAt o [(0x5000, 2, s.matchStatus n), (0x6000, 2, s.flowStatus n)]
  else if o < 0x7000 then
    regArray o 0x6100 8 2 128 fun v =>
      s.slotOf n v (fun _ x => x.ccWord) (fld 3000 16 48 + fld 16 8 40 + fld 80 8 32 + fld 8 8 24 + fld 64 8 16)
  else regAt o [(0x7000, 2, s.reasmStatus n)]

/-! ### The whole map (R24) -/

/-- The part of a word that is no counter and no saturation flag. -/
def State.plainReg (s : State) (p : Party) (off : Nat) : Nat :=
  if off < 0x10000 then s.glReg p off
  else if off < 0x20000 then s.fcReg (off - 0x10000)
  else if off < 0x30000 then s.rstReg (off - 0x20000)
  else if off < 0x40000 then s.ttReg (off - 0x30000)
  else if off < 0x50000 then s.ccReg (off - 0x40000)
  else if off < 0x60000 then s.jrReg (off - 0x50000)
  else if off < 0x80000 then s.tkReg (off - 0x60000)
  else if off < 0x100000 then s.sbReg (off - 0x80000)
  else if off < 0x200000 then s.jnReg (off - 0x100000)
  else if off < 0x400000 then s.lkReg ((off - 0x200000) / 0x8000) (off % 0x8000)
  else if off < 0x500000 then s.wuReg (off - 0x400000)
  else if off < 0x600000 then s.csReg (off - 0x500000)
  else if off < 0x700000 then s.rhReg (off - 0x600000)
  else if off < 0x800000 then s.blReg (off - 0x700000)
  else if off < 0x1000000 then s.hpcReg ((off - 0x800000) / 0x80000) (off % 0x80000)
  else if off < 0x2000000 then s.peReg ((off - 0x1000000) / 0x80000) (off % 0x80000)
  else 0

/-- The word at a BAR0 offset, live: a 64-bit counter's high word lies above its low word (R13). -/
def State.reg (s : State) (p : Party) (off : Nat) : Nat :=
  s.plainReg p off + s.flags off + s.counter off % 2 ^ 32 + (if off % 8 = 4 then s.counter (off - 4) / 2 ^ 32 else 0)

/-! ### Latches (R13 to R15, R93) -/

/-- Is this the low word of a 64-bit counter, or of TT_TIME? -/
def counter64 (off : Nat) : Bool :=
  if off < 0x100000 then
    [0x10118, 0x10120, 0x30000, 0x30040, 0x40050, 0x50030, 0x50038, 0x50040, 0x50048, 0x60010, 0x60018].contains off
      || (decide (0x83000 ≤ off ∧ off < 0x83300) && off % 8 == 0)
      || (decide (0xC0000 ≤ off ∧ off < 0xE0000) && off % 8 == 0 && decide (off % 64 < 48))
  else if off < 0x200000 then [0x100020, 0x100028].contains off
  else if off < 0x400000 then [0x40, 0x48, 0x50, 0x58, 0x60].contains (off % 0x8000)
  else if off < 0x800000 then
    [0x400020, 0x400028, 0x400030, 0x500120, 0x600010, 0x600018, 0x600020, 0x600028, 0x700010, 0x700018, 0x700020, 0x700028,
      0x700030].contains off
  else if off < 0x1000000 then
    [0x10020, 0x10028, 0x10030, 0x40020, 0x40028, 0x40030].contains (off % 0x80000)
  else if off < 0x2000000 then
    [0x5008, 0x5010, 0x5018, 0x6008, 0x6010, 0x6018, 0x6020, 0x7008].contains (off % 0x80000)
  else false

def State.latched (s : State) (p : Party) (off : Nat) : Option Nat := (s.latch.find? fun e => e.1 == (p, off)).map (·.2)

def State.setLatch (s : State) (p : Party) (off : Nat) (v : Option Nat) : State :=
  { s with latch := (s.latch.filter fun e => e.1 != (p, off)) ++ (match v with | some v => [((p, off), v)] | none => []) }

/-- A read of TT_TIME's low word latches TT_TIME_FRAC (R93). -/
def State.latchFrac (s : State) (p : Party) : State := s.setLatch p 0x30008 (some (s.tt.now % unit))

/-- CS_PARK's peak is cleared by the read (R9). -/
def State.afterRead (s : State) (off : Nat) : State :=
  if off = 0x500118 then { s with cs := { s.cs with parkPeak := 0 } } else s

/-- A 32-bit read by a party within its view. -/
def State.read32 (s : State) (p : Party) (off : Nat) : Nat × State :=
  if off = 0x30008 then ((s.latched p off).getD 0, s)
  else if counter64 off then
    let s' := s.setLatch p off (some (s.reg p (off + 4)))
    (s.reg p off, if off = 0x30000 then s'.latchFrac p else s')
  else if off % 8 = 4 ∧ counter64 (off - 4) then
    match s.latched p (off - 4) with
    | some v => (v, s.setLatch p (off - 4) none)
    | none => (s.reg p off, s)
  else (s.reg p off, s.afterRead off)

/-- A 64-bit read: both words from one instant (R15). -/
def State.read64 (s : State) (p : Party) (off : Nat) : Nat × State :=
  let lo := if off = 0x30008 then (s.latched p off).getD 0 else s.reg p off
  let v := lo + s.reg p (off + 4) * 2 ^ 32
  (v, if off = 0x30000 then s.latchFrac p else s.afterRead off)

def State.readReg (s : State) (p : Party) (off width : Nat) : Nat × State :=
  if width = 8 then s.read64 p off else s.read32 p off

/-! ### Writes (R6, R9, R11) -/

/-- A 1 written to a saturation flag clears the flag and its counter. -/
def State.clearFlags (s : State) (off v : Nat) : State :=
  ((flagCounters off).mapIdx fun i c => (i, c)).foldl (fun s x => if bit v x.1 then s.clearEvidence x.2 else s) s

/-- A 32-bit write within the writer's view, by the register's access types. -/
def State.write32 (s : State) (off v : Nat) : State :=
  if off = 0x30020 then { s with tt := { s.tt with ppsEn := bit v 31 } }
  else if off = 0x80030 then { s with sb := { s.sb with ringCons := v % 2 ^ 32 } }
  else if off = 0x2000C then { s with rst := { s.rst with hostWake := bit v 0 } }
  else if off = 0x20010 then
    let n := v % 16384
    if 100 ≤ n ∧ n ≤ 10000 then { s with rst := { s.rst with periodMs := n } } else s
  else s.clearFlags off v

def State.writeReg (s : State) (off width v : Nat) : State :=
  let s := s.write32 off (v % 2 ^ 32)
  if width = 8 then s.write32 (off + 4) (v / 2 ^ 32) else s

/-! ### Views (R25 to R27) -/

/-- Does an offset lie in the view of a physical function? -/
def State.inView (s : State) (f off : Nat) : Bool :=
  s.manager == some f ||
    match s.fn? f with
    | some x =>
      let a := x.att
      let att := if a % 2 = 0 then 0x10000 else 0x40000
      let o := off - hpcBase (a / 2)
      decide (off < 0x10000) || (decide (hpcBase (a / 2) ≤ off) && decide (off < hpcBase (a / 2 + 1)) &&
        (decide (o < 0x10000) || (decide (att ≤ o) && decide (o < (if a % 2 = 0 then 0x40000 else 0x80000)))))
        || (decide (peBase a ≤ off) && decide (off < peBase (a + 1)))
    | none => false

/-- May the function write there: a PF that is not the manager reads the global block and the port page only. -/
def State.viewWrites (s : State) (f off : Nat) : Bool :=
  s.manager == some f ||
    (s.inView f off && decide (0x10000 ≤ off) && !(decide (0x800000 ≤ off) && decide (off < 0x1000000) && decide (off % 0x80000 < 0x10000)))

/-- An access outside the view (R26). -/
def State.viewDenied (s : State) : State := s.evidence 0x18

/-- A read of a party's BAR0 view, answered with its value. -/
def State.readAt (s : State) (p : Party) (off width : Nat) : State :=
  match p with
  | .fn f =>
    if s.inView f off then let r := s.readReg p off width; r.2.emit (.value p off r.1)
    else s.viewDenied.emit (.value p off 0)
  | _ => let r := s.readReg p off width; r.2.emit (.value p off r.1)

/-- A write by a party to its BAR0 view. -/
def State.writeAt (s : State) (p : Party) (off width v : Nat) : State :=
  match p with
  | .fn f => if s.inView f off then (if s.viewWrites f off then s.writeReg off width v else s) else s.viewDenied
  | _ => s.writeReg off width v

/-- Can the party reach the registers now: a physical function over its working link, or a command transport? -/
def State.reaches (s : State) : Party → Bool
  | .fn f => s.hosts && (match s.fn? f with | some x => x.vf == 0 | none => false)
  | _ => s.running

end Sys2Proof.Machine
end

