-- ==== Sys2Proof/Machine/HostRegisters.lean ====
section
/-! DEFINITION. Register accesses that act: saturation flags (R11), latching reads (R13, R93), reads that clear (R9), accesses outside
a view (R26), and a host's writes to its BARs and configuration controls (R9, R219, R222, R223, R226, R240). -/
namespace Sys2Proof.Machine

open Sys2Proof

/-- A read by a party, if it reaches the registers; in HALT a host's read is completed with Completer Abort (R250). -/
def State.partyRead (s : State) (p : Party) (off width : Nat) : State :=
  if s.reaches p then s.readAt p off width
  else match p, s.rst.mode with
    | .fn f, .HALT => s.emit (.completerAbort f)
    | _, _ => s

/-- A write by a party, if it reaches the registers. -/
def State.partyWrite (s : State) (p : Party) (off width v : Nat) : State :=
  if s.reaches p then s.writeAt p off width v else s

/-- VIEW_DENIED_ACCESS (R26): an access outside the view of a physical function. -/
def execViewDeniedAccess (fn offset : Nat) (isRead : Bool) (s : State) : Host.Outcome State Fault Refusal :=
  if s.inView fn offset then .next s
  else .next (if isRead then s.partyRead (.fn fn) offset 4 else s.partyWrite (.fn fn) offset 4 0)

/-- COUNTER_FLAG_CLEAR (R11). -/
def execCounterFlagClear (party : Party) (offset value : Nat) (s : State) : Host.Outcome State Fault Refusal :=
  .next (if (flagCounters offset).isEmpty then s else s.partyWrite party offset 4 value)

/-- COUNTER_LOW_WORD_READ (R13, R14, R93). -/
def execCounterLowWordRead (party : Party) (offset : Nat) (s : State) : Host.Outcome State Fault Refusal :=
  .next (if counter64 offset then s.partyRead party offset 4 else s)

/-- PARK_PEAK_READ (R9): a read of CS_PARK. -/
def execParkPeakRead (party : Party) (s : State) : Host.Outcome State Fault Refusal :=
  .next (s.partyRead party 0x500118 4)

/-! ### Configuration controls -/

/-- The function mask or MSI-X as a whole is cleared of masking: what pends on unmasked vectors is sent once (R226). -/
def State.sendPending (s : State) (f : Nat) : State :=
  match s.fn? f with
  | none => s
  | some x =>
    if x.msixMask ∨ !x.msixEnable then s
    else (Tbl.keys x.msix).foldl (fun s v =>
      if (Tbl.getD x.msix v Vector.initial).pending ∧ !(Tbl.getD x.msix v Vector.initial).masked then s.unmask f v else s) s

/-- Is the function a physical one? -/
def Fn.isPf (x : Fn) : Bool := x.vf == 0

/-- A host sets a configuration control of a function. Controls of the SR-IOV capability, the link and the request sizes are the PF's; a
size is written as PCIe encodes it, and one that R208 does not support changes nothing. -/
def State.configWrite (s : State) (f : Nat) (x : Fn) (field : ConfigField) (v : Nat) : State :=
  let a := s.att x.att
  match field with
  | .busMasterEnable => if bit v 0 then s.setFn f { x with busMaster := true } else s.busMasterClear f
  | .vfEnable =>
    if !x.isPf then s
    else if bit v 0 then s.setAtt x.att { a with vfEnable := true }
    else s.vfEnableClear x.att
  | .numVfs => if x.isPf ∧ !a.vfEnable ∧ v ≤ a.vfLimit then s.setAtt x.att { a with numVfs := v } else s
  | .msixEnable =>
    (s.setFn f { x with msixEnable := bit v 0 }).sendPending f
  | .msixFunctionMask => (s.setFn f { x with msixMask := bit v 0 }).sendPending f
  | .atomicOpEnable => s.setFn f { x with atomicEnable := bit v 0 }
  | .atsEnable => s.setFn f { x with atsEnable := bit v 0 }
  | .aspmL12 => if x.isPf then s.setAtt x.att { a with l12 := bit v 0 } else s
  | .maxPayload => if x.isPf ∧ v % 8 ≤ 3 then s.setAtt x.att { a with maxPayload := 128 * 2 ^ (v % 8) } else s
  | .maxReadRequest => if x.isPf ∧ v % 8 ≤ 5 then s.setAtt x.att { a with maxRead := 128 * 2 ^ (v % 8) } else s
  | .bar0 => if x.isPf then s.setFn f { x with bar0 := v % 2 ^ 64 / 67108864 * 67108864 } else s
  | .bar2 => if x.isPf then s.setFn f { x with bar2 := v % 2 ^ 64 / 131072 * 131072 } else s
  | .vfBar => if x.isPf then s.setAtt x.att { a with vfBar := v % 2 ^ 64 / 131072 * 131072 } else s

/-! ### The function aperture (R223) -/

/-- Replace word k of a 64-bit value. -/
def setWord (old k v : Nat) : Nat := if k = 0 then old / 2 ^ 32 * 2 ^ 32 + v % 2 ^ 32 else v % 2 ^ 32 * 2 ^ 32 + old % 2 ^ 32

/-- A 32-bit write to the MSI-X table: word k of vector v (R226). -/
def State.msixWrite (s : State) (f : Nat) (x : Fn) (v k value : Nat) : State :=
  let e := Tbl.getD x.msix v Vector.initial
  let put := fun (e : Vector) => s.setFn f { x with msix := Tbl.put x.msix v e }
  if x.tableSize ≤ v then s
  else if k = 0 then put { e with addr := setWord e.addr 0 (value / 4 * 4) }
  else if k = 1 then put { e with addr := setWord e.addr 1 value }
  else if k = 2 then put { e with data := value % 2 ^ 32 }
  else if bit value 0 then put { e with masked := true }
  else s.unmask f v

/-- A 32-bit write to the doorbell page's plain registers and the MSI-X table; elsewhere it is ignored (R6, R9, R26). -/
def State.apertureWrite32 (s : State) (f off value : Nat) : State :=
  match s.fn? f with
  | none => s
  | some x =>
    if off = 0x8 ∨ off = 0xC then
      s.setFn f { x with setupAddr := setWord x.setupAddr (off / 4 % 2) value / 8 * 8 }
    else if off = 0x18 ∨ off = 0x1C then s.setFn f { x with counterValue := setWord x.counterValue (off / 4 % 2) value }
    else if 0x10000 ≤ off ∧ off < 0x18000 then s.msixWrite f x ((off - 0x10000) / 16) (off % 16 / 4) value
    else s

/-- A 32-bit word of a function's aperture (07_work_rings.md, 06_host_ports.md, R226): zero where nothing is or it is write-only. The token
page is read by the rows of 13_tokens.md. -/
def State.apertureWord (s : State) (f off : Nat) : Nat :=
  match s.fn? f with
  | none => 0
  | some x =>
    let entry := Tbl.getD x.msix ((off - 0x10000) / 16) Vector.initial
    if off = 0x8 ∨ off = 0xC then wordOf x.setupAddr (off / 4 % 2)
    else if off = 0x14 then flag x.setup.isSome 31 + fld x.setupState 3 28 + fld x.setupCause 4 24 + fld x.setupStatus 16 0
    else if off = 0x18 ∨ off = 0x1C then wordOf x.counterValue (off / 4 % 2)
    else if off = 0x1000 then fld (fnStateCode x.state) 4 28 + fld x.cause 4 24 + fld (s.gen f) 8 16 + fld f 11 0
    else if off = 0x1004 then fld x.horizonMs 14 0
    else if 0x10000 ≤ off ∧ off < 0x18000 ∧ (off - 0x10000) / 16 < x.tableSize then
      (if off % 16 < 8 then wordOf entry.addr (off % 16 / 4) else if off % 16 = 8 then entry.data % 2 ^ 32 else b2n entry.masked)
    else if 0x18000 ≤ off ∧ off < 0x18100 then
      sumNat ((List.range 32).map fun i =>
        at_ (b2n (Tbl.getD x.msix ((off - 0x18000) * 8 + i) Vector.initial).pending) i)
    else 0

/-- What a host's aligned read of `width` bytes of an aperture returns outside the token page (R6, R8, R26). -/
def State.apertureRead (s : State) (f off width : Nat) : Nat :=
  if width = 8 then s.apertureWord f off + 2 ^ 32 * s.apertureWord f (off + 4) else s.apertureWord f off

/-- A write to the token page (R447, R448); one beyond its addresses is ignored and counted (R458). -/
def tokenPageWrite (f o value : Nat) (s : State) : Host.Outcome State Fault Refusal :=
  if o < 0x2000 then
    (if o % 8 = 0 then execLocalTokenReleaseWrite f (o / 8) value s else execTokenWaitCancelWrite f false (o / 8) value s)
  else if o < 0x2200 then
    (if o % 8 = 0 then execFabricBindingReleaseWrite f ((o - 0x2000) / 8) value s
     else execTokenWaitCancelWrite f true ((o - 0x2000) / 8) value s)
  else .next (s.tokenWrite f (fun _ => true) fun _ => s.evidence 0x60028)

/-- A write to PE_SETUP_CMD (R254 to R257): a reserved action is a value out of range. -/
def setupWrite (f value : Nat) (s : State) : Host.Outcome State Fault Refusal :=
  let t := value % 16384
  match bits value 31 24 with
  | 1 => execRingCreate f t s
  | 2 => execRingDestroy f t s
  | 3 => execRingQuery f t s
  | 4 => execCounterAlloc f t s
  | 5 => execCounterFree f t s
  | 6 => execCounterSet f t s
  | _ => .next (s.setupAct f fun _ => s.setupEnd f .BAD_PARAM)

/-- A host's write to an aperture; one that breaks R8 or R448 is discarded and counted (R224). -/
def apertureWrite (f off width value : Nat) (s : State) : Host.Outcome State Fault Refusal :=
  let tokens := decide (0x2000 ≤ off) && decide (off < 0x8000)
  if !s.hosts then .next s
  else if (width ≠ 4 ∧ width ≠ 8) ∨ off % width ≠ 0 ∨ (tokens ∧ width ≠ 4) then execBadRegisterAccess f false s
  else if off = 0 then execDoorbell f (value % 2 ^ 32) s
  else if off = 0x10 then setupWrite f (value % 2 ^ 32) s
  else if tokens then tokenPageWrite f (off - 0x2000) value s
  else
    let s := s.apertureWrite32 f off (value % 2 ^ 32)
    .next (if width = 8 then s.apertureWrite32 f (off + 4) (value / 2 ^ 32) else s)

/-- HOST_REGISTER_WRITE (R6, R9, R27): a host's write to a register or configuration control of a function. -/
def execHostRegisterWrite (fn : Nat) (target : WriteTarget) (value : Nat) (s : State) : Host.Outcome State Fault Refusal :=
  match s.fn? fn, target with
  | none, _ => .next s
  | some _, .bar0 off width =>
    if (width ≠ 4 ∧ width ≠ 8) ∨ off % width ≠ 0 then execBadRegisterAccess fn false s
    else .next (s.partyWrite (.fn fn) off width (value % 2 ^ (8 * width)))
  | some _, .aperture off width => apertureWrite fn off width value s
  | some x, .config field => .next (if s.hosts then s.configWrite fn x field value else s)

end Sys2Proof.Machine
end

