-- ==== Sys2Proof/Machine/LinkCommands.lean ====
section
/-! DEFINITION. The commands of fabric ports (03_fabric_links.md): LINK_ENABLE to LINK_MODULE_SET, and the end of a disabled port's
drain (R132). -/
namespace Sys2Proof.Machine

open Sys2Proof

/-- LINK_DISABLE waits on the port (R494). -/
def State.portWaits (s : State) (p : Nat) : Bool := s.awaits fun w => w == .linkDisable p

/-- The checks that every command of a fabric port makes. -/
def State.portGuards (s : State) (opcode p : Nat) : List (Bool × Status × Nat) :=
  [bad opcode 0 (decide (63 < p)), no .BUSY (s.portWaits p)]

/-- LINK_ENABLE's effect: a port in DISABLED goes to TRAINING (R119, R624). -/
def State.enablePort (s : State) (p : Nat) : State :=
  if (s.port p).state == .DISABLED then
    (s.modPort p fun x => { x with degraded := false, drain := none }).beginTraining p
  else s

/-- LINK_ENABLE (R119, R624). -/
def execLinkEnable (h : CmdHdr) (port : Nat) (s : State) : Host.Outcome State Fault Refusal :=
  .next (s.command (.linkEnable h port) fun s =>
    s.guarded (s.portGuards 0x0201 port ++ [no .BUSY ((s.port port).role == 0)]) (s.enablePort port).ok)

/-- LINK_DISABLE (R132): the port is unproductive from now on; the reply follows its drain. -/
def execLinkDisable (h : CmdHdr) (port : Nat) (s : State) : Host.Outcome State Fault Refusal :=
  .next (s.command (.linkDisable h port) fun s =>
    s.guarded (s.portGuards 0x0202 port)
      (if (s.port port).state == .DISABLED then s.ok
       else s.guarded [no .BUSY (s.waitFull h)] (.wait (s.beginDisable port 7) (.linkDisable port))))

/-- LINK_ROLE_SET (R623). A peer of 0xFFFF is held by ports in role MAINT alone (LK_ROLE). -/
def execLinkRoleSet (h : CmdHdr) (port role peer : Nat) (s : State) : Host.Outcome State Fault Refusal :=
  .next (s.command (.linkRoleSet h port role peer) fun s =>
    s.guarded [bad 0x0203 0 (decide (63 < port)), bad 0x0203 1 (decide (9 < role)),
        bad 0x0203 2 (peer == 0xFFFF && role != 3), no .BUSY (s.portWaits port)]
      ((s.modPort port fun x => { x with roleSet := true }).applyRole port role peer (s.port port).hello).ok)

/-- LINK_GRACE_SET (R125): the value applies from the next entry into HELD. -/
def execLinkGraceSet (h : CmdHdr) (port graceUs : Nat) (s : State) : Host.Outcome State Fault Refusal :=
  .next (s.command (.linkGraceSet h port graceUs) fun s =>
    s.guarded [bad 0x0204 0 (decide (63 < port)), bad 0x0204 1 (decide (graceUs < 100) || decide (50000 < graceUs)),
        no .BUSY (s.portWaits port)]
      (s.modPort port fun x => { x with grace := graceUs }).ok)

/-- LINK_LANES_RESTORE's REQUEST (R130): every lane is proposed, as far as R116 and the rate that the partner accepts allow. -/
def State.restoreLanes (s : State) (p : Nat) : State :=
  match bestStep (match (s.port p).hello with | some h => h.rate | none => 0) 8 (s.port p).fHandshake with
  | some st => s.requestLanes p 0#8 (lowestLanes (lanesOf st) 0xFF#8) true false
  | none => s

/-- LINK_LANES_RESTORE (R130, R131). -/
def execLinkLanesRestore (h : CmdHdr) (port : Nat) (s : State) : Host.Outcome State Fault Refusal :=
  .next (s.command (.linkLanesRestore h port) fun s =>
    let x := s.port port
    s.guarded (s.portGuards 0x0205 port ++ [no .BUSY (x.state != .UP || x.change.isSome)])
      (if x.failed == 0#8 then s.ok else (s.restoreLanes port).ok))

/-- UP to STANDBY (R119, R133): the lowest-numbered good lane, and cells of VC7 alone. -/
def State.enterStandby (s : State) (p : Nat) : State :=
  (s.modPort p fun x =>
    { x with rate := 3, active := lowestLanes 1 (x.good &&& ~~~ x.failed), change := none, lastGood := s.ns,
             lastRelease := s.ns }).portState p .STANDBY

/-- STANDBY to TRAINING (R119, R135). -/
def State.wakePort (s : State) (p : Nat) : State := (s.beginTraining p).emptyPort p

/-- LINK_STANDBY (R119). -/
def execLinkStandby (h : CmdHdr) (port : Nat) (s : State) : Host.Outcome State Fault Refusal :=
  .next (s.command (.linkStandby h port) fun s =>
    let st := (s.port port).state
    s.guarded (s.portGuards 0x0206 port ++ [no .BUSY (st != .UP && st != .STANDBY)])
      (if st == .UP then (s.enterStandby port).ok else s.ok))

/-- LINK_WAKE (R119, R135). -/
def execLinkWake (h : CmdHdr) (port : Nat) (s : State) : Host.Outcome State Fault Refusal :=
  .next (s.command (.linkWake h port) fun s =>
    let st := (s.port port).state
    s.guarded (s.portGuards 0x0207 port ++ [no .BUSY (st != .UP && st != .STANDBY)])
      (if st == .STANDBY then (s.wakePort port).ok else s.ok))

/-- LINK_QUERY: the port's registers at offsets 0x0000 to 0x007F (R499). -/
def execLinkQuery (h : CmdHdr) (port : Nat) (s : State) : Host.Outcome State Fault Refusal :=
  .next (s.command (.linkQuery h port) fun s =>
    s.guarded (s.portGuards 0x0208 port)
      (s.payload ((List.range 32).flatMap fun i => le 4 (s.reg .cores (lkBase port + 4 * i)))))

/-- LINK_MODULE_SET (R94): the transmit equaliser taps of the lanes named. -/
def execLinkModuleSet (h : CmdHdr) (port lanes pre main post : Nat) (s : State) : Host.Outcome State Fault Refusal :=
  .next (s.command (.linkModuleSet h port lanes pre main post) fun s =>
    s.guarded (s.portGuards 0x0209 port)
      (s.modPort port fun x =>
        { x with module := ((List.range 8).filter fun i => bit lanes i).foldl (fun t i => Tbl.put t i (pre, main, post)) x.module }).ok)

/-- The drain of R132 is over: what is left is handled, the port is DISABLED, and LINK_DISABLE replies. -/
def State.drainEnd (s : State) (p : Nat) : State :=
  match (s.port p).drain with
  | some (deadline, cause) =>
    if (s.portCells p).isEmpty ∨ deadline ≤ s.ns then (s.endDisable p cause).answerOn (.linkDisable p) .OK 0 [] else s
  | none => s

/-- LINK_DISABLE_DRAIN_END (R132). -/
def execLinkDisableDrainEnd (port : Nat) (s : State) : Host.Outcome State Fault Refusal :=
  .next (if s.alive ∧ port < 64 then s.drainEnd port else s)

end Sys2Proof.Machine
end

