-- ==== Sys2Proof/Machine/SbCommands.lean ====
section
/-! DEFINITION. The commands of the Signal Box and its meters (05_signal_box.md), and the split of a host port (R214). Scheduling
changes take effect at the Signal Box's next tick (R207). -/
namespace Sys2Proof.Machine

open Sys2Proof

/-- QUEUE_WEIGHT_SET (R191). -/
def execQueueWeightSet (h : CmdHdr) (egress queue quantum burst : Nat) (s : State) : Host.Outcome State Fault Refusal :=
  .next (s.command (.queueWeightSet h egress queue quantum burst) fun s =>
    s.guarded [bad 0x0210 0 (decide (95 < egress)), no .UNIT_ABSENT (decide (64 ≤ egress) && !s.hasEngine (egress - 64)),
        bad 0x0210 1 (decide (15 < queue)), bad 0x0210 2 (quantum == 0 || decide (1024 < quantum)),
        bad 0x0210 3 (decide (1024 < burst))]
      (s.pushChange (.weight egress queue quantum burst)).ok)

/-- Does a byte of SB_LEVEL_MAP name a queue that a level may have (R186)? -/
def levelByteOk (b : Byte) : Bool := decide (b.toNat < 16) || b == 0x12#8 || b == 0x13#8

/-- QUEUE_MAP_SET (R186). -/
def execQueueMapSet (h : CmdHdr) (levelMap transitMap : Nat) (s : State) : Host.Outcome State Fault Refusal :=
  .next (s.command (.queueMapSet h levelMap transitMap) fun s =>
    s.guarded [bad 0x0211 0 (!(le 8 levelMap).all levelByteOk)] (s.pushChange (.map levelMap transitMap)).ok)

/-- SIGNAL_BOX_CONFIG_SET (R197). -/
def execSignalBoxConfigSet (h : CmdHdr) (yellowPoolMib : Nat) (s : State) : Host.Outcome State Fault Refusal :=
  .next (s.command (.signalBoxConfigSet h yellowPoolMib) fun s => (s.pushChange (.yellow yellowPoolMib)).ok)

/-- METER_RING_SET (R206): the indices keep their values. -/
def execMeterRingSet (h : CmdHdr) (base log2Size enable : Nat) (s : State) : Host.Outcome State Fault Refusal :=
  .next (s.command (.meterRingSet h base log2Size enable) fun s =>
    s.guarded [bad 0x0B01 0 (base % 64 != 0), bad 0x0B01 1 (decide (log2Size < 6) || decide (16 < log2Size)),
        bad 0x0B01 2 (decide (1 < enable))]
      (State.ok { s with sb := { s.sb with ringBase := base, ringLog2 := log2Size, ringEnable := enable == 1 } }))

/-- METER_READ: the six meters of a function (R202). -/
def execMeterRead (h : CmdHdr) (s : State) : Host.Outcome State Fault Refusal :=
  .next (s.command (.meterRead h) fun s =>
    s.guarded [no .NOT_FOUND (s.fn? h.fn).isNone, no .BUSY (s.fnBusy h.fn)]
      (s.payload ((s.meters h.fn).flatMap (le 8))))

/-- What every setting of a function checks once its parameters are right: the function exists, and no waiting command is in
progress on it (R494). -/
def State.fnGuards (s : State) (f : Nat) : List (Bool × Status × Nat) :=
  [no .NOT_FOUND (s.fn? f).isNone, no .BUSY (s.fnBusy f)]

/-- FUNCTION_SCHED_SET (R200, R207). -/
def execFunctionSchedSet (h : CmdHdr) (baseLevel laneEn share dwq : Nat) (s : State) : Host.Outcome State Fault Refusal :=
  .next (s.command (.functionSchedSet h baseLevel laneEn share dwq) fun s =>
    s.guarded ([bad 0x0513 0 (decide (7 < baseLevel)), bad 0x0513 1 (decide (1 < laneEn)), bad 0x0513 2 (share == 0),
        bad 0x0513 3 (decide (15 < dwq))] ++ s.fnGuards h.fn)
      (s.pushChange (.sched h.fn baseLevel (laneEn == 1) share dwq)).ok)

/-- FUNCTION_SHAPER_SET (R196). -/
def execFunctionShaperSet (h : CmdHdr) (minRate maxRate : Nat) (s : State) : Host.Outcome State Fault Refusal :=
  .next (s.command (.functionShaperSet h minRate maxRate) fun s =>
    s.guarded ([bad 0x0514 0 (decide (0xFFFFF < minRate) || decide (maxRate < minRate)),
        bad 0x0514 1 (decide (0xFFFFF < maxRate))] ++ s.fnGuards h.fn)
      (s.pushChange (.shaper h.fn minRate maxRate)).ok)

/-- FUNCTION_POLICER_SET (R195, R198). -/
def execFunctionPolicerSet (h : CmdHdr) (cls enable action cir pir cbs pbs : Nat) (s : State) :
    Host.Outcome State Fault Refusal :=
  .next (s.command (.functionPolicerSet h cls enable action cir pir cbs pbs) fun s =>
    s.guarded ([bad 0x0515 0 (decide (2 < cls)), bad 0x0515 1 (decide (1 < enable)), bad 0x0515 2 (decide (1 < action)),
        bad 0x0515 3 (decide (0xFFFFF < cir) || decide (pir < cir)), bad 0x0515 4 (decide (0xFFFFF < pir)),
        bad 0x0515 5 (decide (cbs < 1024)), bad 0x0515 6 (decide (pbs < 1024))] ++ s.fnGuards h.fn)
      (s.pushChange (.policer h.fn cls (enable == 1) action cir pir cbs pbs)).ok)

/-! ### HOST_PORT_SPLIT_SET (R214) -/

/-- The BUSY conditions of R214. -/
def State.splitBusy (s : State) (p split : Nat) : Bool :=
  let atts := [2 * p, 2 * p + 1]
  let fns := atts.flatMap s.fnsOf
  fns.any (fun f => !((s.fn? f).any fun x => x.state == .READY))
    || s.tt.resv.any (fun r => r.2.atts.any fun a => atts.contains a)
    || (split == 0 && (s.fnsOf (2 * p + 1)).any fun f => !(s.windowsOf f).isEmpty || s.usesTokens f)

/-- A function in READY is destroyed at once: its generation advances and is kept, and its grants return. -/
def State.destroyReady (s : State) (f : Nat) : State :=
  match s.fn? f with
  | some x => (((s.advanceGen f).discardWork f x).memberLost f).removeFn f
  | none => s

/-- The link of an attachment that keeps its place retrains. -/
def State.retrain (s : State) (a : Nat) : State :=
  s.setAtt a { s.att a with state := .TRAINING, speed := 0, width := 0, flit := false }

/-- The new split takes effect. -/
def State.setSplit (s : State) (p split : Nat) : State :=
  let s := if split = 0 then
      let s := (s.fnsOf (2 * p + 1)).foldl (fun s f => s.destroyReady f) s
      s.setAtt (2 * p + 1) Att.initial
    else s
  let s := s.setHostPort p { s.hostPort p with split := split, nextSplit := split }
  ((s.attsOf p).foldl (fun s a => s.retrain a) s).rebalance

/-- HOST_PORT_SPLIT_SET (R214). -/
def execHostPortSplitSet (h : CmdHdr) (port split : Nat) (s : State) : Host.Outcome State Fault Refusal :=
  .next (s.workCommand (.hostPortSplitSet h port split) fun s =>
    s.guarded [bad 0x0220 0 (decide (15 < port)), bad 0x0220 1 (decide (1 < split)), no .BUSY (s.splitBusy port split)]
      (s.setSplit port split).ok)


/-! ### Occupancy (R202) -/

/-- Context-store bytes a function holds: stored flow contexts, rank tables, window arrays, extents and dirty bitmaps, communicator
entries, unexpected data, staged parcels and the acknowledgement maps of its sender records (R351), each at the size its chapter gives. -/
def State.storeBytes (s : State) (f : Nat) (x : Fn) : Nat :=
  let e := s.engine x.att
  let src := (e.src.filter fun fl => fl.2.fn == f && !s.cs.cached.contains (x.att, fl.1, true)).length
  let dst := (e.dst.filter fun fl => fl.2.fn == f && !s.cs.cached.contains (x.att, fl.1, false)).length
  let tables := sumNat (s.cs.rankTables.map fun t => if t.2.fn = f then 8 * t.2.size else 0)
  let doms := s.wu.domains.filter fun d => d.2.fn == f
  let arrays := sumNat (doms.map fun d => 64 * 2 ^ d.2.log2Ids)
  let exts := sumNat (s.wu.slots.map fun w => if w.2.fn = f ∧ w.2.valid then 64 * w.2.extents.length else 0)
  let comms := if x.matchEn then 16 * 2 ^ x.log2Comms else 0
  let unexp := match Tbl.get? s.matching f with
    | some m => sumNat (m.unexpected.map fun u => match u.data with | some d => d.length | none => 0)
    | none => 0
  let staged := sumNat (e.dst.map fun fl => if fl.2.fn = f then sumNat (fl.2.staged.map fun p => p.data.length) else 0)
  let maps := sumNat (s.wu.slots.map fun w =>
    if w.2.fn = f ∧ w.2.valid then sumNat (w.2.extents.map fun x => if x.bitmap.isSome then bitmapBytes x.length else 0) else 0)
  let acks := sumNat (e.senders.map fun g => if g.2.fn = f then 64 * ceilDiv g.2.count 8 else 0)
  512 * (src + dst) + tables + arrays + exts + comms + unexp + staged + maps + acks

/-- METER_OCCUPANCY_SAMPLE (R202): in 4 KiB units, once in each frame. -/
def execMeterOccupancySample (fn : Nat) (s : State) : Host.Outcome State Fault Refusal :=
  match s.alive, s.fn? fn with
  | true, some x =>
    if x.occFrame = some s.frame then .next s
    else .next ((s.setFn fn { x with occFrame := some s.frame }).meter fn 5 (ceilDiv (s.storeBytes fn x) 4096))
  | _, _ => .next s

end Sys2Proof.Machine
end

