-- ==== Sys2Proof/Machine/RouteCommands.lean ====
section
/-! DEFINITION. The commands of the Junction (04_cells_and_routing.md): topology and routes (R166, R167, R623), pool and quotas (R164,
R165), multicast groups and their records (R180 to R183, R351, R352). -/
namespace Sys2Proof.Machine

open Sys2Proof

/-! ### Endpoints (R32, R161) -/

/-- Is an endpoint id valid, as far as this router can judge? -/
def State.endpointOk (s : State) (ep : Nat) : Bool :=
  s.jn.topology && decide (ep < 2097152) && s.jn.inTorus (ep / 512) && decide (locRouter (epLoc ep) < s.jn.routers)
    && (epLoc ep != s.location || s.assigned (ep % 32))

/-! ### Topology (R166, R623) -/

/-- The location one step along a dimension. -/
def JN.step (j : JN) (l dim : Nat) (plus : Bool) : Nat :=
  let n := j.size dim
  let c := (locDim l dim + (if plus then 1 else n - 1)) % n
  let at3 := fun d => if d = dim then c else locDim l d
  at3 0 * 4096 + at3 1 * 256 + at3 2 * 16 + locRouter l

/-- Role and peer of a port in the standard plan (R30), with missing routers' and unused dimensions' ports in role UNUSED (R31). -/
def JN.planned (j : JN) (p : Nat) : Nat × Nat :=
  if p < 16 then
    if p = locRouter j.location then (3, 0xFFFF)
    else (if p < j.routers then 1 else 0, locStation j.location * 16 + p)
  else
    let dim := (p - 16) / 16
    (if j.size dim = 1 then 0 else resetRole p, j.step j.location dim ((p - 16) / 8 % 2 == 0))

/-- ROUTE_TOPOLOGY_SET fills the roles and peers that LINK_ROLE_SET has not set (R623). -/
def State.fillRoles (s : State) : State :=
  (List.range 64).foldl (fun s p =>
    let x := s.port p
    if x.roleSet then s else s.applyRole p (s.jn.planned p).1 (s.jn.planned p).2 x.hello) s

/-- The topology takes effect, and the station route table is filled from it (R166). -/
def State.setTopology (s : State) (j : JN) : State := ({ s with jn := { j with topology := true, routes := [] } }).fillRoles

/-- ROUTE_TOPOLOGY_SET (R166, R623). -/
def execRouteTopologySet (h : CmdHdr) (nx ny nz routers location datelineX datelineY datelineZ : Nat) (s : State) :
    Host.Outcome State Fault Refusal :=
  .next (s.command (.routeTopologySet h nx ny nz routers location datelineX datelineY datelineZ) fun s =>
    let size := fun n => n == 0 || decide (16 < n)
    let inside := decide (locX location < nx) && decide (locY location < ny) && decide (locZ location < nz)
      && decide (locRouter location < routers)
    s.guarded [bad 0x0301 0 (size nx), bad 0x0301 1 (size ny), bad 0x0301 2 (size nz), bad 0x0301 3 (size routers),
        bad 0x0301 4 (!inside), bad 0x0301 5 (decide (nx ≤ datelineX)), bad 0x0301 6 (decide (ny ≤ datelineY)),
        bad 0x0301 7 (decide (nz ≤ datelineZ))]
      (s.setTopology { s.jn with nx := nx, ny := ny, nz := nz, routers := routers, location := location,
                                 datelineX := datelineX, datelineY := datelineY, datelineZ := datelineZ }).ok)

/-- May a dimension of an entry hold these directions, `full` being those computed (R167)? -/
def dirsOk (full d : Nat) : Bool := if full = 3 then decide (1 ≤ d ∧ d ≤ 3) else d == full

/-- ROUTE_ENTRY_SET (R167). -/
def execRouteEntrySet (h : CmdHdr) (station valid dx dy dz : Nat) (s : State) : Host.Outcome State Fault Refusal :=
  .next (s.command (.routeEntrySet h station valid dx dy dz) fun s =>
    let j := s.jn
    s.guarded [bad 0x0302 0 (!j.topology || decide (4095 < station) || !j.inTorus station), bad 0x0302 1 (decide (1 < valid)),
        bad 0x0302 2 (!dirsOk (j.dirs (station * 16) 0) dx), bad 0x0302 3 (!dirsOk (j.dirs (station * 16) 1) dy),
        bad 0x0302 4 (!dirsOk (j.dirs (station * 16) 2) dz)]
      (State.ok { s with jn := { j with routes := Tbl.put j.routes station { valid := valid == 1, dx := dx, dy := dy, dz := dz } } }))

/-- ROUTE_QUERY: JN_ROUTE_s (R499). -/
def execRouteQuery (h : CmdHdr) (station : Nat) (s : State) : Host.Outcome State Fault Refusal :=
  .next (s.command (.routeQuery h station) fun s =>
    s.guarded [bad 0x0303 0 (decide (4095 < station))] (s.payload (le 4 (s.reg .cores (0x110000 + 4 * station)))))

/-- ROUTE_ADAPT_SET (R170, R171, R176). -/
def execRouteAdaptSet (h : CmdHdr) (detourEn downWeight detourPenalty escapeWait : Nat) (s : State) :
    Host.Outcome State Fault Refusal :=
  .next (s.command (.routeAdaptSet h detourEn downWeight detourPenalty escapeWait) fun s =>
    s.guarded [bad 0x0304 0 (decide (1 < detourEn))]
      (State.ok { s with jn := { s.jn with detourEn := detourEn == 1, downWeight := downWeight, detourPenalty := detourPenalty,
                                           escapeWait := escapeWait } }))

/-- POOL_CONFIG_SET (R164). -/
def execPoolConfigSet (h : CmdHdr) (alpha : Nat) (s : State) : Host.Outcome State Fault Refusal :=
  .next (s.command (.poolConfigSet h alpha) fun s =>
    s.guarded [bad 0x0305 0 (alpha == 0 || decide (64 < alpha))] (State.refreshXoff { s with jn := { s.jn with alpha := alpha } }).ok)

/-- A command that names a present attachment which is unassigned (R613), or none at all. -/
def State.badAtt (s : State) (a : Nat) : Bool := decide (31 < a) || (s.hasEngine a && !s.assigned a)

/-- REASM_QUOTA_SET (R165). -/
def execReasmQuotaSet (h : CmdHdr) (attachment quota : Nat) (s : State) : Host.Outcome State Fault Refusal :=
  .next (s.workCommand (.reasmQuotaSet h attachment quota) fun s =>
    s.guarded [bad 0x0306 0 (s.badAtt attachment), bad 0x0306 1 (decide (quota < 16) || decide (1024 < quota))]
      (State.ok { s with jn := { s.jn with quota := Tbl.put s.jn.quota attachment quota } }))

/-! ### Multicast groups (R180, R181) -/

def isLine (role : Nat) : Bool := decide (4 ≤ role ∧ role ≤ 9)

/-- What R181 refuses of a mask. -/
def State.badMask (s : State) (ingress mask : Nat) : Bool :=
  let role := fun p => (s.port p).role
  let ports := (List.range 64).filter fun p => bit mask p
  let lines := (ports.map role).filter isLine
  let inRole := if ingress < 64 then role ingress else 0
  let dim := fun r => (r - 4) / 2
  decide (2 ^ 80 ≤ mask)
    || ports.contains ingress
    || ports.any (fun p => role p == 0 || role p == 3)
    || (List.range 6).any (fun k => decide (1 < (lines.filter (· == 4 + k)).length))
    || (isLine inRole && lines.any fun r => decide (dim r < dim inRole))
    || (isLine inRole && lines.contains inRole)
    || (ingress != 0x7F && (List.range 3).any fun d => lines.contains (4 + 2 * d) && lines.contains (5 + 2 * d))
    || ((inRole == 1 || inRole == 2) && !lines.isEmpty)

/-- MULTICAST_INSTALL (R180, R181). -/
def execMulticastInstall (h : CmdHdr) (group ingress mask : Nat) (s : State) : Host.Outcome State Fault Refusal :=
  .next (s.command (.multicastInstall h group ingress mask) fun s =>
    s.guarded [bad 0x0307 1 (decide (63 < ingress) && ingress != 0x7F), bad 0x0307 2 (s.badMask ingress mask),
        no .EXISTS (Tbl.has s.jn.mcast group), no .CAPACITY (decide (4096 ≤ group))]
      (State.ok { s with jn := { s.jn with
        mcast := Tbl.put s.jn.mcast group { ingress := ingress, mask := BitVec.ofNat 80 mask } } }))

/-- MULTICAST_REMOVE (R180). -/
def execMulticastRemove (h : CmdHdr) (group : Nat) (s : State) : Host.Outcome State Fault Refusal :=
  .next (s.command (.multicastRemove h group) fun s =>
    s.guarded [no .NOT_FOUND (!Tbl.has s.jn.mcast group)]
      (State.ok { s with jn := { s.jn with mcast := Tbl.del s.jn.mcast group } }))

/-! ### Member and sender records (R351, R352) -/

/-- A valid window of a function. -/
def State.windowOf (s : State) (f domain id : Nat) : Option Window :=
  match Tbl.get? s.wu.domains domain with
  | some d =>
    if d.fn = f ∧ id < 2 ^ d.log2Ids then
      match Tbl.get? s.wu.slots (slotKey domain id) with
      | some w => if w.valid then some w else none
      | none => none
    else none
  | none => none

/-- The attachment of a function; 255 where there is none. -/
def State.attOf (s : State) (f : Nat) : Nat := match s.fn? f with | some x => x.att | none => 255

/-- MULTICAST_MEMBER_SET (R183, R352). -/
def execMulticastMemberSet (h : CmdHdr) (group domain senderFn member sender window : Nat) (s : State) :
    Host.Outcome State Fault Refusal :=
  .next (s.workCommand (.multicastMemberSet h group domain senderFn member sender window) fun s =>
    let a := s.attOf h.fn
    s.guarded [bad 0x0309 0 (decide (4096 ≤ group)), bad 0x0309 2 (decide (2048 ≤ senderFn)),
        bad 0x0309 3 (decide (65536 ≤ member)), bad 0x0309 4 (decide (2097152 ≤ sender)),
        no .NOT_FOUND (s.fn? h.fn).isNone]
      (match s.windowOf h.fn domain window with
      | none => .done s .NOT_FOUND 0 []
      | some w =>
        let m : Member :=
          { fn := h.fn, sender := sender, senderFn := senderFn, index := member, domain := domain, window := window,
            gen := w.gen, base := 0, done := [], busy := [], violFrame := none }
        s.guarded [bad 0x0309 5 (!bit w.rights 2), no .EXISTS (Tbl.has (s.engine a).members group), no .BUSY (s.fnBusy h.fn)]
          (s.modEngine a fun e => { e with members := Tbl.put e.members group m }).ok))

/-- MULTICAST_MEMBER_CLEAR (R352). -/
def execMulticastMemberClear (h : CmdHdr) (group : Nat) (s : State) : Host.Outcome State Fault Refusal :=
  .next (s.workCommand (.multicastMemberClear h group) fun s =>
    let a := s.attOf h.fn
    let mine := (Tbl.get? (s.engine a).members group).any fun m => m.fn == h.fn
    s.guarded [no .NOT_FOUND (!mine), no .BUSY (s.fnBusy h.fn)]
      (s.modEngine a fun e => { e with members := Tbl.del e.members group }).ok)

/-- Bytes of the acknowledgement maps of a sender record (R351). -/
def ackMapBytes (members : Nat) : Nat := 64 * ceilDiv members 8

/-- What the context store holds beside its fixed regions: rank tables (R162), flow contexts (R346) and window tables (R305). -/
def State.storeRoom (s : State) : Nat :=
  match s.variant with
  | .AX => 40 * 2 ^ 30
  | .LX => 20 * 2 ^ 30
  | .TX => 0

/-- The context store cannot hold the maps of another sender record. -/
def State.mapsFull (s : State) (count : Nat) : Bool :=
  decide (s.storeRoom < ackMapBytes count
    + sumNat (s.engines.flatMap fun e => e.2.senders.map fun g => ackMapBytes g.2.count))

/-- A new sender record of the group holds the tags that rest (R159). -/
def State.unrest (s : State) (group : Nat) : State := { s with jn := { s.jn with mcastRest := Tbl.del s.jn.mcastRest group } }

/-- MULTICAST_SENDER_SET (R351). -/
def execMulticastSenderSet (h : CmdHdr) (group rankTable first count : Nat) (s : State) : Host.Outcome State Fault Refusal :=
  .next (s.workCommand (.multicastSenderSet h group rankTable first count) fun s =>
    s.guarded [bad 0x030B 0 (decide (4096 ≤ group)), bad 0x030B 3 (count == 0 || decide (65536 < count)),
        no .NOT_FOUND (s.fn? h.fn).isNone]
      (match Tbl.get? s.cs.rankTables rankTable with
      | none => .done s .NOT_FOUND 0 []
      | some t =>
        let x : Sender :=
          { fn := h.fn, rankTable := rankTable, first := first, count := count, seq := 0, srtt := 20000, out := [],
            resting := Tbl.getD s.jn.mcastRest group [] }
        s.guarded [no .NOT_FOUND (t.fn != h.fn), bad 0x030B 2 (decide (t.size < first + count)),
            no .EXISTS (s.engines.any fun e => Tbl.has e.2.senders group), no .BUSY (s.fnBusy h.fn),
            short (ackMapBytes count) (s.mapsFull count)]
          (((s.modEngine (s.attOf h.fn) fun e => { e with senders := Tbl.put e.senders group x }).unrest group).ok)))

/-- Is an MCAST_PUT of the group in flight? -/
def State.mcastInFlight (s : State) (f group : Nat) : Bool :=
  s.ops.any fun o => o.2.fn == f && (match o.2.area with | .mcastPut a => a.group == group | _ => false)

/-- MULTICAST_SENDER_CLEAR (R351). -/
def execMulticastSenderClear (h : CmdHdr) (group : Nat) (s : State) : Host.Outcome State Fault Refusal :=
  .next (s.workCommand (.multicastSenderClear h group) fun s =>
    let a := s.attOf h.fn
    let mine := (Tbl.get? (s.engine a).senders group).any fun g => g.fn == h.fn
    s.guarded [no .NOT_FOUND (!mine), no .BUSY (s.fnBusy h.fn || s.mcastInFlight h.fn group)]
      ((s.keepRest a group).modEngine a fun e => { e with senders := Tbl.del e.senders group }).ok)

end Sys2Proof.Machine
end

