-- ==== Sys2Proof/Machine/TimeCommands.lean ====
section
/-! DEFINITION. The commands of the Timetable unit (02_fabric_time.md): time roles (R46 to R58), the reservable fraction (R67) and
reservations (R68 to R71). -/
namespace Sys2Proof.Machine

open Sys2Proof

/-! ### Time -/

/-- A new role and root priority (R46, R56 to R58): a ROOT announces itself at once unless a port offers a root, which it then
joins; a BACKUP waits under R56; a FOLLOWER follows. -/
def State.timeConfig (s : State) (role : TimeRole) (priority : Nat) : State :=
  let s := { s with tt := { s.tt with role := role, priority := priority, announcing := false, joining := false, yielded := false,
                                      noBetterSince := s.ns } }
  match role with
  | .ROOT =>
    if s.candidates.isEmpty then s.announce
    else (({ s with tt := { s.tt with joining := true } }).chooseParent).joined
  | _ => s.chooseParent

/-- TIME_CONFIG (R46). -/
def execTimeConfig (h : CmdHdr) (role priority : Nat) (s : State) : Host.Outcome State Fault Refusal :=
  .next (s.command (.timeConfig h role priority) fun s =>
    s.guarded [bad 0x0401 0 (decide (2 < role))]
      (s.timeConfig (if role = 1 then .ROOT else if role = 2 then .BACKUP else .FOLLOWER) priority).ok)

/-- TIME_SET_SECONDS (R47, R48, R58). -/
def execTimeSetSeconds (h : CmdHdr) (seconds : Nat) (s : State) : Host.Outcome State Fault Refusal :=
  .next (s.command (.timeSetSeconds h seconds) fun s =>
    s.guarded [bad 0x0402 0 (decide (2 ^ 64 ≤ seconds * 1000000000)), no .BUSY s.tt.joining]
      (if s.tt.ppsEn then State.ok { s with tt := { s.tt with pendingSeconds := some seconds } }
       else (s.setSeconds seconds).ok))

/-- TIME_QUERY: TT_TIME, TT_TIME_FRAC, TT_SYNC and TT_ROOT_ID (R499). -/
def execTimeQuery (h : CmdHdr) (s : State) : Host.Outcome State Fault Refusal :=
  .next (s.command (.timeQuery h) fun s =>
    s.payload (le 8 (s.ns % 2 ^ 64) ++ le 4 (s.tt.now % unit) ++ le 4 (s.reg .cores 0x30018) ++ le 4 (s.reg .cores 0x3001C)))

/-! ### Reservations -/

/-- TIMETABLE_FRACTION_SET (R67). -/
def execTimetableFractionSet (h : CmdHdr) (fraction : Nat) (s : State) : Host.Outcome State Fault Refusal :=
  .next (s.command (.timetableFractionSet h fraction) fun s =>
    let t := { s with tt := { s.tt with fraction := fraction } }
    s.guarded [bad 0x0403 0 (decide (75 < fraction)),
        no .CAPACITY ((List.range 96).any fun e => decide (t.egressLimit e < t.charged e))]
      t.rebalance.ok)

/-- Egresses named by a 128-bit egress parameter in the numbering of R185. -/
def egressBits (egress : Nat) : List Nat := (List.range 96).filter fun e => bit egress e

/-- Attachments of the host-port bits of a multicast mask (R183). -/
def State.maskAtts (s : State) (mask : Nat) : List Nat :=
  ((List.range 16).filter fun n => bit mask (64 + n)).flatMap fun n => [2 * n, 2 * n + 1].filter fun a => s.assigned a

/-- Is the egress right: the destination's attachment at its router, otherwise ports of the next bundle of the escape path (R177); for
a multicast reservation, a mask? -/
def State.egressOk (s : State) (destKind dest egress : Nat) : Bool :=
  let es := egressBits egress
  if destKind = 1 then egress != 0 && decide (egress < 2 ^ 80)
  else if egress = 0 ∨ 2 ^ 96 ≤ egress then false
  else match s.escapeBundle dest with
    | none => es == [64 + dest % 32]
    | some b => es.all fun e => decide (e < 64) && (s.bundle b).contains e

/-- The attachments a reservation is charged at (R69). -/
def State.resvAtts (s : State) (destKind source dest egress : Nat) : List Nat :=
  let src := if epLoc source = s.location then [source % 32] else []
  let dst := if destKind = 1 then s.maskAtts egress else if epLoc dest = s.location then [dest % 32] else []
  (src ++ dst).foldl (fun l a => insertNat a l) []

/-- The fabric ports charged: every one of a mask, or the first of the named links that has room (R69, R84). -/
def State.resvPorts (s : State) (id : Nat) (r : Reservation) (egress : Nat) : Option (List Nat) :=
  let ps := (egressBits egress).filter (· < 64)
  if r.destKind = 1 ∨ ps = [] then some ps else (ps.find? fun p => s.fits id r [p]).map fun p => [p]

/-- Slots of the reservations whose source the function is (R229). -/
def State.slotsUsed (s : State) (f : Nat) : Nat :=
  sumNat (s.tt.resv.map fun r => if r.2.sourceFn = f ∧ epLoc r.2.source = s.location then r.2.rate else 0)

/-- An endpoint of this router whose attachment is absent (R70). -/
def State.absentHere (s : State) (ep : Nat) : Bool := epLoc ep == s.location && !s.hasEngine (ep % 32)

/-- RESERVATION_INSTALL (R68 to R70, R177). -/
def execReservationInstall (h : CmdHdr) (id rate rank burst destKind hops sourceFn destFn source dest flight installTime egress : Nat)
    (s : State) : Host.Outcome State Fault Refusal :=
  .next (s.command
    (.reservationInstall h id rate rank burst destKind hops sourceFn destFn source dest flight installTime egress) fun s =>
    let r : Reservation :=
      { rate := rate, rank := rank, burst := burst, destKind := destKind, hops := hops, sourceFn := sourceFn, destFn := destFn,
        source := source, dest := dest, flight := flight, installTime := installTime, egress := egress, ports := [],
        atts := s.resvAtts destKind source dest egress, suspended := false, forced := [],
        atRisk := s.tt.sync == .UNSYNC || s.tt.sync == .ACQUIRING, bucket := 0, demoted := 0, late := 0, resentFrame := none }
    let here := epLoc source == s.location
    let allowance := match s.fn? sourceFn with | some x => x.resvSlots | none => 0
    s.guarded
      [no .UNIT_ABSENT (s.absentHere source || (destKind == 0 && s.absentHere dest)),
        bad 0x0404 1 (rate == 0 || decide (260 < rate)), bad 0x0404 2 (decide (7 < rank)), bad 0x0404 4 (decide (1 < destKind)),
        bad 0x0404 6 (decide (2047 < sourceFn)), bad 0x0404 7 (destKind == 0 && decide (2047 < destFn)),
        bad 0x0404 8 (!s.endpointOk source),
        bad 0x0404 9 (if destKind = 0 then !s.endpointOk dest else decide (4096 ≤ dest)),
        bad 0x0404 12 (!s.egressOk destKind dest egress),
        no .NOT_FOUND (here && s.attOf sourceFn != source % 32),
        no .EXISTS (Tbl.has s.tt.resv id), no .BUSY (here && s.fnBusy sourceFn),
        no .CAPACITY (decide (4096 ≤ s.tt.resv.length)),
        no .CAPACITY (here && decide (allowance < s.slotsUsed sourceFn + rate))]
      (match s.resvPorts id r egress with
      | none => .done s .CAPACITY 0 []
      | some ps =>
        let r := { r with ports := ps }
        if s.fits id r r.egresses then (s.setResv id r).ok else .done s .CAPACITY 0 []))

/-- RESERVATION_REMOVE (R71). -/
def execReservationRemove (h : CmdHdr) (id : Nat) (s : State) : Host.Outcome State Fault Refusal :=
  .next (s.command (.reservationRemove h id) fun s =>
    s.guarded [no .NOT_FOUND (!Tbl.has s.tt.resv id)]
      (({ s with tt := { s.tt with resv := Tbl.del s.tt.resv id } }).rebalance).ok)

/-- RESERVATION_QUERY (R71, R499). -/
def execReservationQuery (h : CmdHdr) (id : Nat) (s : State) : Host.Outcome State Fault Refusal :=
  .next (s.command (.reservationQuery h id) fun s =>
    match Tbl.get? s.tt.resv id with
    | none => .done s .NOT_FOUND 0 []
    | some r =>
      s.payload (le 1 (Config.resvStateByte r.suspended) ++ le 1 (b2n (s.resvAtRisk r)) ++ le 6 0 ++ le 8 r.demoted ++ le 4 r.late))

end Sys2Proof.Machine
end

