-- ==== Sys2Proof/Machine/WindowCommands.lean ====
section
/-! DEFINITION. The commands of the Window unit (08_windows.md): domains (R282 to R284), windows (R294 to R299, R621), dirty tracking
(R304), and the end of an invalidation. -/
namespace Sys2Proof.Machine

open Sys2Proof

/-! ### Entries and extents as stored (R287) -/

/-- A window entry, 64 bytes. -/
def Window.bytes (w : Window) (domain id : Nat) : List Byte :=
  fitTo 64 (le 3 id ++ le 1 (b2n w.valid + w.rights % 32 + 32 * b2n w.accessed + 64 * b2n w.dirtyTrack) ++ le 4 (id + at_ w.check 24)
    ++ le 1 w.gen ++ le 1 w.extents.length ++ le 2 domain ++ le 2 w.fn ++ le 2 0 ++ le 8 w.length ++ le 8 (regionAddr w.extentBase)
    ++ le 8 w.openTime)

/-- An extent, 64 bytes. -/
def Extent.bytes (e : Extent) : List Byte :=
  fitTo 64 (le 8 e.offset ++ le 8 e.length ++ le 8 e.iova ++ le 1 (b2n e.dirty) ++ le 7 0
    ++ le 8 (match e.bitmap with | some b => regionAddr b.1 | none => 0))

/-- A slot as DOMAIN_CREATE writes it (R621). -/
def Window.never (fn : Nat) : Window :=
  { valid := false, rights := 0, accessed := false, dirtyTrack := false, check := 0, gen := 0, fn := fn, length := 0,
    extentBase := 0, openTime := 0, extents := [], revoked := none }

def State.slot (s : State) (domain id : Nat) : Window :=
  Tbl.getD s.wu.slots (slotKey domain id) (Window.never (s.domainFn domain))

def State.setSlot (s : State) (domain id : Nat) (w : Window) : State :=
  { s with wu := { s.wu with slots := Tbl.put s.wu.slots (slotKey domain id) w } }

/-! ### Domains -/

/-- DOMAIN_CREATE (R282, R283). -/
def execDomainCreate (h : CmdHdr) (domain log2Ids job : Nat) (s : State) : Host.Outcome State Fault Refusal :=
  .next (s.command (.domainCreate h domain log2Ids job) fun s =>
    let twin := s.wu.domains.any fun d => d.2.fn == h.fn && d.2.job == job && job != 0
    s.guarded [bad 0x0601 1 (decide (log2Ids < 4) || decide (24 < log2Ids)), no .NOT_FOUND (s.fn? h.fn).isNone,
        no .EXISTS (Tbl.has s.wu.domains domain || twin), no .BUSY (s.fnBusy h.fn)]
      (match s.allocate [] (64 * 2 ^ log2Ids) with
      | none => .done s .CAPACITY (64 * 2 ^ log2Ids) []
      | some base =>
        let d : Domain := { fn := h.fn, job := job, log2Ids := log2Ids, base := base }
        State.ok { s with wu := { s.wu with domains := Tbl.put s.wu.domains domain d } }))

/-- Open windows of a domain, or windows of it whose invalidation is not complete. -/
def State.domainOpen (s : State) (domain : Nat) : Bool :=
  s.wu.slots.any (fun w => w.1 / 2 ^ 24 == domain && w.2.valid) || s.wu.revocations.any fun r => r.domain == domain

/-- A ring is bound to the domain (R254). -/
def State.domainBound (s : State) (domain : Nat) : Bool :=
  s.fn? (s.domainFn domain) |>.any fun x => x.rings.any fun r => r.2.kind == 0 && r.2.pd == domain

/-- DOMAIN_DESTROY (R284). -/
def execDomainDestroy (h : CmdHdr) (domain : Nat) (s : State) : Host.Outcome State Fault Refusal :=
  .next (s.command (.domainDestroy h domain) fun s =>
    s.guarded [no .NOT_FOUND (!Tbl.has s.wu.domains domain), no .BUSY (s.domainOpen domain || s.domainBound domain)]
      (State.ok { s with wu := { s.wu with domains := Tbl.del s.wu.domains domain,
                                           slots := s.wu.slots.filter fun w => w.1 / 2 ^ 24 != domain } }))

/-! ### Windows: what each command does in its turn (R294 to R296, R304) -/

/-- NOT_FOUND, where the domain does not exist or the id names no valid window. -/
def State.noWindow (s : State) (domain id : Nat) : Bool :=
  match Tbl.get? s.wu.domains domain with
  | some d => !(decide (id < 2 ^ d.log2Ids) && (s.slot domain id).valid)
  | none => true

/-- An extent that R287 and R288 allow. -/
def extentOk (e : Nat × Nat) : Bool :=
  e.1 % 4096 == 0 && decide (4096 ≤ e.1) && decide (e.1 ≤ 2 ^ 40) && e.2 % 4096 == 0 && decide (e.2 + e.1 ≤ 2 ^ 64)

/-- Extents laid out one after another from offset 0 (R288). -/
def layExtents : List (Nat × Nat) → Nat → List Extent
  | [], _ => []
  | (n, iova) :: t, o => { offset := o, length := n, iova := iova, dirty := false, bitmap := none } :: layExtents t (o + n)

/-- Bitmaps for extents that have none, cleared for the others (R304); none where the region cannot hold them. -/
def State.addBitmaps (s : State) (extra : List (Nat × Nat)) : List Extent → Option (List Extent)
  | [] => some []
  | e :: t =>
    match e.bitmap with
    | some b => (s.addBitmaps extra t).map fun l => { e with bitmap := some (b.1, []) } :: l
    | none =>
      match s.allocate extra (bitmapBytes e.length) with
      | none => none
      | some o => (s.addBitmaps ((o, bitmapBytes e.length) :: extra) t).map fun l => { e with bitmap := some (o, []) } :: l

/-- Space for a window's extents, and their bitmaps where it is tracked: the place of the extents, and the extents. -/
def State.placeExtents (s : State) (extra : List (Nat × Nat)) (l : List Extent) (track : Bool) : Option (Nat × List Extent) :=
  match s.allocate extra (64 * l.length) with
  | none => none
  | some base =>
    if track then (s.addBitmaps ((base, 64 * l.length) :: extra) l).map fun l => (base, l) else some (base, l)

/-- The offset of the first extent field that is wrong: even elements are lengths, odd ones IOVAs. -/
def badExtent (opcode : Nat) (l : List (Nat × Nat)) : Nat :=
  match l.findIdx? fun e => !extentOk e with
  | some i => paramAt opcode 5 + 16 * i
  | none => 0

/-- WINDOW_OPEN's checks and effect (R294, R295). -/
def State.openWindow (s : State) (domain rights dirtyTrack id : Nat) (extents : List (Nat × Nat)) : CmdResult :=
  s.guarded [bad 0x0603 2 (decide (1 < dirtyTrack)), bad 0x0603 4 (extents.isEmpty || decide (8 < extents.length)),
      (!extents.all extentOk, .BAD_PARAM, badExtent 0x0603 extents)]
    (match Tbl.get? s.wu.domains domain with
    | none => .done s .NOT_FOUND 0 []
    | some d =>
      s.guarded [bad 0x0603 3 (decide (2 ^ d.log2Ids ≤ id)), no .EXISTS (s.slot domain id).valid]
        (match s.placeExtents [] (layExtents extents 0) (dirtyTrack == 1) with
        | none => .done s .CAPACITY 0 []
        | some (base, l) =>
          let check := s.draw.1 % 256
          let s := s.draw.2
          let old := s.slot domain id
          let w : Window :=
            { valid := true, rights := rights, accessed := false, dirtyTrack := dirtyTrack == 1, check := check, gen := old.gen,
              fn := d.fn, length := sumNat (extents.map (·.1)), extentBase := base, openTime := s.ns, extents := l,
              revoked := old.revoked }
          (s.setSlot domain id w).payload (le 4 (id + at_ check 24) ++ le 1 w.gen)))

/-- WINDOW_REVOKE (R297). -/
def State.revokeWindow (s : State) (domain id : Nat) : CmdResult :=
  s.guarded [no .NOT_FOUND (s.noWindow domain id)] (.wait (s.invalidate domain id .revoke) (.revoke domain id))

/-- WINDOW_QUERY (R294, R621). -/
def State.queryWindow (s : State) (domain id : Nat) : CmdResult :=
  match Tbl.get? s.wu.domains domain with
  | none => .done s .NOT_FOUND 0 []
  | some d =>
    s.guarded [bad 0x0605 1 (decide (2 ^ d.log2Ids ≤ id))]
      (let w := s.slot domain id
       let entry := if Tbl.has s.wu.slots (slotKey domain id) then w.bytes domain id else List.replicate 64 0#8
       s.payload (entry ++ (if w.valid then w.extents.flatMap (·.bytes) else [])))

/-- The offset of the first IOVA that is wrong. -/
def badIova (iovas : List Nat) (l : List Extent) : Option Nat :=
  (iovas.zip l).findIdx? fun x => x.1 % 4096 != 0 || decide (2 ^ 64 < x.1 + x.2.length)

/-- WINDOW_MODIFY (R296). -/
def State.modifyWindow (s : State) (domain rights lazy id : Nat) (iovas : List Nat) : CmdResult :=
  let w := s.slot domain id
  s.guarded [bad 0x0606 2 (decide (1 < lazy)), no .NOT_FOUND (s.noWindow domain id),
      bad 0x0606 4 (iovas.length != w.extents.length),
      ((badIova iovas w.extents).isSome, .BAD_PARAM, paramAt 0x0606 5 + 8 * (badIova iovas w.extents).getD 0)]
    (let s := s.setSlot domain id
       { w with rights := rights, extents := (w.extents.zip iovas).map fun x => { x.1 with iova := x.2 } }
     if lazy = 1 then s.ok else .wait (s.invalidate domain id .modify) (.modify domain id))

/-- The bytes of an extent's bitmap. -/
def Extent.mapBytes (e : Extent) : List Byte :=
  match e.bitmap with
  | none => []
  | some b => (List.range (bitmapBytes e.length)).map fun i =>
      BitVec.ofNat 8 (sumNat ((List.range 8).map fun k => if b.2.contains (8 * i + k) then 2 ^ k else 0))

/-- The manager's host memory can be reached. -/
def State.managerReachable (s : State) : Bool :=
  match s.manager with
  | some a => (s.fn? a).isSome && ((s.att a).state == .UP || (s.att a).state == .SLOW)
  | none => false

/-- Write to the manager's host memory, with its PF's requester ID (R612). -/
def State.managerWrite (s : State) (addr : Nat) (b : List Byte) : State :=
  match s.manager with
  | some a => s.write a addr b
  | none => s

/-- WINDOW_DIRTY (R304). -/
def State.dirtyWindow (s : State) (domain action id buffer bufferLength : Nat) : CmdResult :=
  let w := s.slot domain id
  let out := w.extents.flatMap (·.mapBytes)
  s.guarded [no .NOT_FOUND (s.noWindow domain id)]
    (if action = 0 then
      match s.addBitmaps [] w.extents with
      | none => .done s .CAPACITY 0 []
      | some l => (s.setSlot domain id { w with dirtyTrack := true, extents := l }).payload (le 8 0)
     else if action = 1 then
      (s.setSlot domain id
        { w with dirtyTrack := false, extents := w.extents.map fun e => { e with bitmap := none } }).payload (le 8 0)
     else if action = 2 then
      s.guarded [no .CAPACITY (decide (bufferLength < out.length)), no .FAILED (!s.managerReachable)]
        (let s := s.setSlot domain id
           { w with extents := w.extents.map fun e => { e with bitmap := e.bitmap.map fun b => (b.1, []) } }
         (s.managerWrite buffer out).payload (le 8 out.length))
     else
      let s := s.setSlot domain id
        { w with accessed := false, extents := w.extents.map fun e => { e with dirty := false } }
      .wait (s.invalidate domain id .clear) (.dirty domain id))

/-- A window command in its turn. -/
def State.windowRun (s : State) (i : Instr) : CmdResult :=
  match i with
  | .windowOpen _ domain rights dirtyTrack id extents => s.openWindow domain rights dirtyTrack id extents
  | .windowRevoke _ domain id => s.revokeWindow domain id
  | .windowQuery _ domain id => s.queryWindow domain id
  | .windowModify _ domain rights lazy id iovas => s.modifyWindow domain rights lazy id iovas
  | .windowDirtyEnable _ domain id => s.dirtyWindow domain 0 id 0 0
  | .windowDirtyDisable _ domain id => s.dirtyWindow domain 1 id 0 0
  | .windowDirtyFetch _ domain id buffer bufferLength => s.dirtyWindow domain 2 id buffer bufferLength
  | .windowDirtyClearMarks _ domain id => s.dirtyWindow domain 3 id 0 0
  | _ => s.ok

/-- An invalidation of the window is in progress, or a command waits its turn on it. -/
def State.windowBusy (s : State) (domain id : Nat) : Bool :=
  s.wu.revocations.any (fun r => r.domain == domain && r.id == id) || s.awaits fun w => w == .window domain id

/-- Start a window command, or let it wait its turn (R299); only WINDOW_REVOKE, WINDOW_MODIFY and WINDOW_DIRTY are waiting commands
(R493). -/
def State.windowStart (s : State) (h : CmdHdr) (domain id : Nat) (waits : Bool) (i : Instr) : CmdResult :=
  if waits && s.waitFull h then .done s .BUSY 0 []
  else if s.windowBusy domain id then
    if waits then .wait s (.window domain id) else .hold s (.window domain id)
  else s.windowRun i

/-- WINDOW_OPEN. -/
def execWindowOpen (h : CmdHdr) (domain rights dirtyTrack id : Nat) (extents : List (Nat × Nat)) (s : State) :
    Host.Outcome State Fault Refusal :=
  let i : Instr := .windowOpen h domain rights dirtyTrack id extents
  .next (s.command i fun s => s.windowStart h domain id false i)

/-- WINDOW_REVOKE. -/
def execWindowRevoke (h : CmdHdr) (domain id : Nat) (s : State) : Host.Outcome State Fault Refusal :=
  .next (s.workCommand (.windowRevoke h domain id) fun s => s.windowStart h domain id true (.windowRevoke h domain id))

/-- WINDOW_QUERY. -/
def execWindowQuery (h : CmdHdr) (domain id : Nat) (s : State) : Host.Outcome State Fault Refusal :=
  .next (s.command (.windowQuery h domain id) fun s => s.windowStart h domain id false (.windowQuery h domain id))

/-- WINDOW_MODIFY. -/
def execWindowModify (h : CmdHdr) (domain rights lazy id : Nat) (iovas : List Nat) (s : State) :
    Host.Outcome State Fault Refusal :=
  let i : Instr := .windowModify h domain rights lazy id iovas
  .next (s.command i fun s => s.windowStart h domain id true i)

/-- WINDOW_DIRTY ENABLE. -/
def execWindowDirtyEnable (h : CmdHdr) (domain id : Nat) (s : State) : Host.Outcome State Fault Refusal :=
  .next (s.command (.windowDirtyEnable h domain id) fun s => s.windowStart h domain id true (.windowDirtyEnable h domain id))

/-- WINDOW_DIRTY DISABLE. -/
def execWindowDirtyDisable (h : CmdHdr) (domain id : Nat) (s : State) : Host.Outcome State Fault Refusal :=
  .next (s.command (.windowDirtyDisable h domain id) fun s => s.windowStart h domain id true (.windowDirtyDisable h domain id))

/-- WINDOW_DIRTY FETCH. -/
def execWindowDirtyFetch (h : CmdHdr) (domain id buffer bufferLength : Nat) (s : State) : Host.Outcome State Fault Refusal :=
  let i : Instr := .windowDirtyFetch h domain id buffer bufferLength
  .next (s.command i fun s => s.windowStart h domain id true i)

/-- WINDOW_DIRTY CLEAR_MARKS. -/
def execWindowDirtyClearMarks (h : CmdHdr) (domain id : Nat) (s : State) : Host.Outcome State Fault Refusal :=
  .next (s.command (.windowDirtyClearMarks h domain id) fun s =>
    s.windowStart h domain id true (.windowDirtyClearMarks h domain id))

/-! ### The end of an invalidation (R298, R299) -/

/-- Commands in progress without those that wait for a window's turn; and the first of those, if any. -/
def State.takeTurn (s : State) (domain id : Nat) : Option (Waiting × State) :=
  match s.cc.waiting.find? fun w => w.on == .window domain id with
  | some w => some (w, { s with cc := { s.cc with waiting := s.cc.waiting.erase w } })
  | none =>
    match s.cc.pause with
    | some w => if w.on = .window domain id then some (w, { s with cc := { s.cc with pause := none } }) else none
    | _ => none

/-- The commands that wait for a window get their turn, until one waits again. -/
def State.windowTurns (s : State) (domain id : Nat) : (fuel : Nat) → State
  | 0 => s
  | n + 1 =>
    if s.wu.revocations.any fun r => r.domain == domain && r.id == id then s
    else match s.takeTurn domain id with
      | none => s
      | some (w, s) =>
        match cmdOf w.instr with
        | some c => (State.conclude w.instr c (s.windowRun w.instr)).windowTurns domain id n
        | none => s.windowTurns domain id n

/-- The first invalidation of the window that is not held is complete: its command is answered, and the next has its turn. -/
def State.revocationDone (s : State) (domain id : Nat) : State :=
  match s.wu.revocations.find? fun r => r.domain == domain && r.id == id && !r.held with
  | none => s
  | some r =>
    let w := s.slot domain id
    let s := { s with wu := { s.wu with revocations := s.wu.revocations.erase r, lastNs := minN 8191 (s.ns - r.started) } }
    let s := if r.why.revokes then s.setSlot domain id { w with revoked := some s.frame } else s
    let s := match r.why with
      | .revoke => s.answerOn (.revoke domain id) .OK 0 (le 1 w.gen)
      | .modify => s.answerOn (.modify domain id) .OK 0 []
      | .clear => s.answerOn (.dirty domain id) .OK 0 (le 8 0)
      | .force _ => s
    s.windowTurns domain id s.cc.inProgress.length

/-- A held revocation proceeds in a new frame, from which its bound counts. -/
def State.revocationRelease (s : State) (domain id : Nat) : State :=
  match s.wu.revocations.find? fun r => r.domain == domain && r.id == id && r.held with
  | none => s
  | some r =>
    if (s.slot domain id).revoked = some s.frame then s
    else
      let go := { r with held := false, started := s.ns }
      ({ s with wu := { s.wu with revocations := s.wu.revocations.map fun x => if x = r then go else x } }).beginInval go

/-- WINDOW_CACHE_SWEEP: aged entries and extents of a client are reclaimed (R301). -/
def execWindowCacheSweep (client : Nat) (s : State) : Host.Outcome State Fault Refusal :=
  if s.alive then
    let old := fun (c : Cached) => c.client == client && !s.fresh c.frame
    let age := fun (c : Cached) => if c.client = client then { c with extents := c.extents.filter fun e => s.fresh e.2 } else c
    .next { s with wu := { s.wu with cache := (s.wu.cache.filter fun c => !old c).map age } }
  else .next s

end Sys2Proof.Machine
end

