-- ==== Sys2Proof/Machine/FnCommands.lean ====
section
/-! DEFINITION. The commands of functions (06_host_ports.md): creation and destruction (R217, R233), enable, disable, reset, freeze
and thaw (R233 to R244, R616), and their grants, quotas and parameters (R218, R229 to R232, R89, R334). -/
namespace Sys2Proof.Machine

open Sys2Proof

/-! ### Pools (R229) -/

/-- Sum of a grant over the functions other than f. -/
def State.grantsBut (s : State) (f : Nat) (g : Fn → Nat) : Nat := sumNat (s.fns.map fun x => if x.1 = f then 0 else g x.2)

/-- Reorder staging, MiB (R229). -/
def stagingPool (v : Variant) : Nat := if v = .AX then 4096 else 2048

/-- Flow contexts at most (R229, R346). -/
def ctxMax (v : Variant) : Nat := if v = .AX then 4194304 else 2097152

/-- Vectors of the pool of f's attachment that the other functions leave (R225). -/
def State.vectorsLeft (s : State) (f a : Nat) : Nat :=
  s.vectorsFree a + (match s.fn? f with | some x => x.vectors | none => 0)

/-- The pools cannot supply these grants to function f of attachment a. -/
def State.poolShort (s : State) (f a vectors staging : Nat) : Bool :=
  decide (s.vectorsLeft f a < vectors) || decide (stagingPool s.variant < s.grantsBut f (·.staging) + staging)

/-- The quotas of R229 do not fit. -/
def State.ringsShort (s : State) (f ringQuota : Nat) : Bool := decide (16384 < s.grantsBut f (·.ringQuota) + ringQuota)

/-! ### Creation (R217) -/

/-- The lowest free function number from 32 on. -/
def State.freeFn (s : State) : Nat := Tbl.free s.fns 2016 32

/-- FUNCTION_CREATE's reply. -/
def State.createdReply (s : State) (f : Nat) : List Byte := le 2 f ++ le 1 (s.gen f)

/-- The function comes into being, and its generation advances; a generation change that is held holds the reply (R217, R221). -/
def State.createFn (s : State) (f : Nat) (x : Fn) : CmdResult :=
  let s := (s.addFn f x).advanceGen f
  if (s.genOf f).held = 0 then s.payload (s.createdReply f) else .hold s (.create f)

/-- FUNCTION_CREATE (R217, R229). -/
def execFunctionCreate (h : CmdHdr) (attachment vf vectors stagingMib fabricTokens resvSlots ringQuota ctxQuota : Nat) (s : State) :
    Host.Outcome State Fault Refusal :=
  .next (s.workCommand (.functionCreate h attachment vf vectors stagingMib fabricTokens resvSlots ringQuota ctxQuota) fun s =>
    let f := s.freeFn
    s.guarded
      [bad 0x0501 0 (s.badAtt attachment), bad 0x0501 1 (vf == 0 || decide ((s.att attachment).vfLimit < vf)),
        bad 0x0501 2 (vectors == 0 || decide (2048 < vectors)), bad 0x0501 4 (decide (64 < fabricTokens)),
        bad 0x0501 5 (decide (4095 < resvSlots)), bad 0x0501 6 (decide (16384 < ringQuota)),
        bad 0x0501 7 (decide (ctxMax s.variant < ctxQuota)), no .EXISTS (s.fnAt attachment vf).isSome,
        no .CAPACITY (decide (2047 < f) || s.poolShort f attachment vectors stagingMib || s.ringsShort f ringQuota)]
      (s.createFn f (Fn.initial attachment vf vectors stagingMib fabricTokens resvSlots ringQuota ctxQuota s.minute)))

/-! ### States (R233, R238, R239, R616) -/

/-- The state of a function; READY where there is none. -/
def State.fnState (s : State) (f : Nat) : FnState := match s.fn? f with | some x => x.state | none => .READY

/-- Control-class state that R238 requires to be absent. -/
def State.unquiet (s : State) (f : Nat) (windows tokens resvs : Bool) : Bool :=
  (windows && !(s.windowsOf f).isEmpty) || (tokens && s.usesTokens f) || (resvs && !(s.resvsOf f).isEmpty)

/-- The steps of R235 under a disable (the generation advances) or a destroy (it is kept, R220), the control-class state revoked where
FORCE allows it (R239). -/
def State.withdraw (s : State) (f : Nat) (force advance : Bool) : State :=
  let s := (s.cutWork f .READY .READY advance).modFn f fun x => { x with cause := 0 }
  let s := s.tokensLost f
  if force then s.forceWindows f else s

/-- FUNCTION_DESTROY (R233, R238, R239). -/
def execFunctionDestroy (h : CmdHdr) (s : State) : Host.Outcome State Fault Refusal :=
  .next (s.workCommand (.functionDestroy h) fun s =>
    let f := h.fn
    let st := s.fnState f
    s.guarded (s.fnGuards f ++ [no .BUSY (st != .READY && st != .FROZEN), no .BUSY (!h.force && s.unquiet f true true true),
        no .BUSY (s.waitFull h)])
      (.wait ((if h.force then s.forceRemove f else s).withdraw f h.force false) (.fnDestroy f)))

/-- Is a VF reachable from its host (R219)? -/
def State.reachable (s : State) (x : Fn) : Bool := x.vf == 0 || ((s.att x.att).vfEnable && decide (x.vf ≤ (s.att x.att).numVfs))

/-- May the function leave READY: its attachment carries work and its VF is reachable (R210, R219)? -/
def State.hostReady (s : State) (x : Fn) : Bool := (s.att x.att).state == .UP && s.reachable x

/-- May FUNCTION_ENABLE start the function (R219, R233)? -/
def State.enableOk (s : State) (x : Fn) : Bool := s.hostReady x && x.busMaster && !s.outOfService x.att

/-- FUNCTION_ENABLE (R233, R616). -/
def execFunctionEnable (h : CmdHdr) (s : State) : Host.Outcome State Fault Refusal :=
  .next (s.workCommand (.functionEnable h) fun s =>
    let f := h.fn
    s.guarded (s.fnGuards f)
      (match s.fn? f with
      | some x =>
        if x.state = .RUNNING then s.ok
        else s.guarded [no .BUSY (x.state != .READY || !s.enableOk x)]
          ((s.setFn f { x with state := .RUNNING, cause := 0 }).unforce f).ok
      | none => s.ok))

/-- FUNCTION_DISABLE (R233, R235, R238, R239, R616). -/
def execFunctionDisable (h : CmdHdr) (s : State) : Host.Outcome State Fault Refusal :=
  .next (s.workCommand (.functionDisable h) fun s =>
    let f := h.fn
    let st := s.fnState f
    s.guarded (s.fnGuards f)
      (if st = .READY then s.ok
       else s.guarded [no .BUSY (st != .RUNNING && st != .HALTED), no .BUSY (!h.force && s.unquiet f true true true),
           no .BUSY (s.waitFull h)]
         (.wait ((if h.force then s.forceSuspend f else s).withdraw f h.force true) (.fnDisable f))))

/-- FUNCTION_RESET (R233 to R240, R616): it joins a reset that is under way. -/
def execFunctionReset (h : CmdHdr) (s : State) : Host.Outcome State Fault Refusal :=
  .next (s.workCommand (.functionReset h) fun s =>
    let f := h.fn
    s.guarded (s.fnGuards f ++ [no .BUSY (s.waitFull h)])
      (if s.fnState f = .RESETTING then .wait s (.fnReset f)
       else s.guarded [no .BUSY (!h.force && s.unquiet f true true false)] (.wait (s.deviceResetFn f h.force) (.fnReset f))))

/-- FUNCTION_QUERY: HPC_FN_v (R499). -/
def execFunctionQuery (h : CmdHdr) (s : State) : Host.Outcome State Fault Refusal :=
  .next (s.command (.functionQuery h) fun s =>
    s.guarded (s.fnGuards h.fn)
      (match s.fn? h.fn with
      | some x => s.payload (le 16 (x.word h.fn (s.gen h.fn) (s.manager == some h.fn)))
      | none => s.ok))

/-- A function enters FREEZING (R241). -/
def State.beginFreeze (s : State) (f limitMs : Nat) : State :=
  let s := s.modFn f fun x => { x with state := .FREEZING, freeze := some (s.ns + limitMs * 1000000) }
  match s.fn? f with
  | some x => s.refuseWaiting f x
  | none => s

/-- FUNCTION_FREEZE (R238, R239, R241). -/
def execFunctionFreeze (h : CmdHdr) (limitMs : Nat) (s : State) : Host.Outcome State Fault Refusal :=
  .next (s.workCommand (.functionFreeze h limitMs) fun s =>
    let f := h.fn
    s.guarded ([bad 0x0507 0 (limitMs == 0 || decide (10000 < limitMs))] ++ s.fnGuards f
        ++ [no .BUSY (s.fnState f != .RUNNING), no .BUSY (!h.force && s.unquiet f false true false), no .BUSY (s.waitFull h)])
      (.wait ((s.tokensLost f).beginFreeze f limitMs) (.freeze f)))

/-- FUNCTION_THAW: the producer index of every ring is read again, and service resumes (R244, R616). -/
def State.thaw (s : State) (f : Nat) : State :=
  let rings := match s.fn? f with | some x => Tbl.keys x.rings | none => []
  rings.foldl (fun s r => s.readIndex f r) (s.runAgain f)

/-- FUNCTION_THAW: BUSY where the attachment carries no work or the VF is not reachable (R210, R219; the status is a DESIGN CHOICE). -/
def execFunctionThaw (h : CmdHdr) (s : State) : Host.Outcome State Fault Refusal :=
  .next (s.workCommand (.functionThaw h) fun s =>
    let f := h.fn
    s.guarded (s.fnGuards f)
      (if s.fnState f = .RUNNING then s.ok
       else s.guarded [no .BUSY (s.fnState f != .FROZEN || !(s.fn? f).any s.hostReady)] ((s.thaw f).unforce f).ok))

/-! ### Grants and parameters -/

/-- Vectors that a function uses: those of its rings, and the table entries the host has written. -/
def Fn.vectorsUsed (x : Fn) : Nat :=
  maxN (maxList (x.rings.map fun r => if r.2.irqEn then r.2.vector + 1 else 0)) (maxList (x.msix.map fun v => v.1 + 1))

/-- Reorder staging in use by a function, MiB. -/
def State.stagingUsed (s : State) (f : Nat) (x : Fn) : Nat :=
  ceilDiv (sumNat ((s.engine x.att).dst.map fun d =>
    if d.2.fn = f then sumNat (d.2.staged.map fun p => p.data.length) else 0)) 1048576

/-- Bindings of a function. -/
def State.bindingsOf (s : State) (f : Nat) : Nat := (s.tk.bindings.filter fun b => b.2.fn == f).length

/-- What R231 refuses on the manager's PF while it runs. -/
def State.poolLowered (s : State) (f : Nat) (x : Fn) (vectors staging tokens vfLimit slots : Nat) : Bool :=
  decide (vectors < x.vectorsUsed) || decide (staging < s.stagingUsed f x) || decide (tokens < s.bindingsOf f)
    || decide (slots < s.slotsUsed f) || (vfLimit != (s.att x.att).vfLimit && (s.att x.att).vfEnable)

/-- The new grants; the MSI-X Table Size follows at once while MSI-X Enable is clear (R231). -/
def State.setPool (s : State) (f : Nat) (x : Fn) (vectors staging tokens vfLimit slots : Nat) : State :=
  let s := s.setFn f { x with vectors := vectors, staging := staging, fabricTokens := tokens, resvSlots := slots,
                              tableSize := if x.msixEnable then x.tableSize else vectors }
  if x.vf = 0 then s.setAtt x.att { s.att x.att with vfLimit := vfLimit } else s

/-- FUNCTION_POOL_SET (R218, R229 to R231). -/
def execFunctionPoolSet (h : CmdHdr) (vectors stagingMib fabricTokens vfLimit resvSlots : Nat) (s : State) :
    Host.Outcome State Fault Refusal :=
  .next (s.workCommand (.functionPoolSet h vectors stagingMib fabricTokens vfLimit resvSlots) fun s =>
    let f := h.fn
    s.guarded [bad 0x0510 0 (vectors == 0 || decide (2048 < vectors)), bad 0x0510 2 (decide (64 < fabricTokens)),
        bad 0x0510 3 (decide (127 < vfLimit)), bad 0x0510 4 (decide (4095 < resvSlots)), no .NOT_FOUND (s.fn? f).isNone]
      (match s.fn? f with
      | some x =>
        s.guarded [bad 0x0510 3 (x.vf != 0 && vfLimit != 0), no .BUSY (s.fnBusy f),
            no .BUSY (if s.manager = some f then
                x.state != .RUNNING || s.poolLowered f x vectors stagingMib fabricTokens vfLimit resvSlots
              else x.state != .READY),
            no .CAPACITY (s.poolShort f x.att vectors stagingMib)]
          (s.setPool f x vectors stagingMib fabricTokens vfLimit resvSlots).ok
      | none => s.ok))

/-- FUNCTION_QUOTA_SET (R229, R232). -/
def execFunctionQuotaSet (h : CmdHdr) (ringQuota ctxQuota : Nat) (s : State) : Host.Outcome State Fault Refusal :=
  .next (s.workCommand (.functionQuotaSet h ringQuota ctxQuota) fun s =>
    let f := h.fn
    let used := match s.fn? f with | some x => x.rings.length | none => 0
    s.guarded ([bad 0x0511 0 (decide (16384 < ringQuota)), bad 0x0511 1 (decide (ctxMax s.variant < ctxQuota))] ++ s.fnGuards f
        ++ [no .BUSY (decide (ringQuota < used)), no .CAPACITY (s.ringsShort f ringQuota)])
      (s.modFn f fun x => { x with ringQuota := ringQuota, ctxQuota := ctxQuota }).ok)

/-- A new horizon; a lowering draws in the deadlines of accepted operations (R39, R89). -/
def State.setHorizon (s : State) (f ms : Nat) : State :=
  let limit := s.ns + ms * 1000000
  let s := s.modFn f fun x => { x with horizonMs := ms }
  { s with ops := Tbl.mapVal s.ops fun _ (o : Op) => if o.fn = f then { o with deadline := minN o.deadline limit } else o }

/-- FUNCTION_HORIZON_SET (R39, R89). -/
def execFunctionHorizonSet (h : CmdHdr) (horizonMs : Nat) (s : State) : Host.Outcome State Fault Refusal :=
  .next (s.command (.functionHorizonSet h horizonMs) fun s =>
    let lower := match s.fn? h.fn with | some x => decide (horizonMs < x.horizonMs) | none => false
    s.guarded ([bad 0x0512 0 (decide (horizonMs < 10) || decide (10000 < horizonMs))] ++ s.fnGuards h.fn)
      (if lower then (s.setHorizon h.fn horizonMs).ok else (s.modFn h.fn fun x => { x with horizonMs := horizonMs }).ok))

/-- The congestion parameters change: from the next ACK of each flow, and cwnd is clamped at once (R334). -/
def State.setCc (s : State) (f targetNs alpha beta init max : Nat) : State :=
  let s := s.modFn f fun x =>
    { x with ccTarget := targetNs, ccAlpha := alpha, ccBeta := beta, ccInit := init, ccMax := max,
             savedFlows := x.savedFlows.map fun (v : SavedFlow) => { v with cwnd := minN v.cwnd (max * 1024) } }
  s.modEngine (s.attOf f) fun e =>
    { e with src := Tbl.mapVal e.src fun _ (x : SrcFlow) => if x.fn = f then { x with cwnd := minN x.cwnd (max * 1024) } else x }

/-- FUNCTION_CC_SET (R334). -/
def execFunctionCcSet (h : CmdHdr) (targetNs alpha beta initParcels maxParcels : Nat) (s : State) :
    Host.Outcome State Fault Refusal :=
  .next (s.command (.functionCcSet h targetNs alpha beta initParcels maxParcels) fun s =>
    let out := fun v hi => v == 0 || decide (hi < v)
    s.guarded ([bad 0x0516 0 (decide (targetNs < 500)), bad 0x0516 1 (out alpha 64), bad 0x0516 2 (out beta 100),
        bad 0x0516 3 (out initParcels 64 || decide (maxParcels < initParcels)), bad 0x0516 4 (out maxParcels 64)]
        ++ s.fnGuards h.fn)
      (s.setCc h.fn targetNs alpha beta initParcels maxParcels).ok)

/-! ### A generation change held to a frame boundary (R221) -/

/-- The next held change of a function completes; commands that wait for the last of them are answered. -/
def State.generationRelease (s : State) (f : Nat) : State :=
  let s := s.releaseGen f
  if (s.genOf f).held = 0 then
    (s.answerOn (.create f) .OK 0 (s.createdReply f)).answerOn (.restore f) .OK 0 []
  else s

end Sys2Proof.Machine
end

