-- ==== Sys2Proof/Machine/Blob.lean ====
section
/-! DEFINITION. Saving and restoring a function (R242, R243, R304). The windows section is in the context-store formats of R287. The
other sections are no interface: here each is a list of records, a record being its length and that many 64-bit words. -/
namespace Sys2Proof.Machine

open Sys2Proof

/-! ### Records -/

def recordBytes (r : List Nat) : List Byte := le 8 r.length ++ r.flatMap (le 8)

/-- n words. -/
def readWords : (n : Nat) → List Byte → List Nat
  | 0, _ => []
  | n + 1, b => rd b 0 8 :: readWords n (b.drop 8)

/-- The records of a section body. -/
def readRecords : (fuel : Nat) → List Byte → List (List Nat)
  | 0, _ => []
  | n + 1, b =>
    if b.length < 8 then []
    else
      let k := minN (rd b 0 8) ((b.length - 8) / 8)
      readWords k (b.drop 8) :: readRecords n (b.drop (8 + 8 * k))

def recordsOf (b : List Byte) : List (List Nat) := readRecords (b.length / 8 + 1) b

/-! ### The matching region (R357, R358) -/

/-- What a matching context takes of the matching region (R358). -/
def matchBytes (log2Comms posted unexpected kib : Nat) : Nat := 64 * (posted + unexpected) + 1024 * kib + 16 * 2 ^ log2Comms

/-- What a function's context takes; nothing where none has been set. -/
def Fn.matchBytes (x : Fn) : Nat :=
  if x.matchEn || x.log2Comms + x.postedMax + x.unexpectedMax + x.unexpectedKib != 0 then
    Machine.matchBytes x.log2Comms x.postedMax x.unexpectedMax x.unexpectedKib
  else 0

/-- The matching region, bytes (R357). -/
def matchRegion (v : Variant) : Nat := if v = .AX then 8 * 2 ^ 30 else 4 * 2 ^ 30

/-! ### What is saved -/

def savedRingState : RingState → Nat
  | .ACTIVE => 0 | .WAITING => 1 | .FROZEN => 2

def ringRecord (id : Nat) (r : Ring) : List Nat :=
  [0, id, r.kind, r.base, r.indexAddr, r.log2, b2n r.irqEn, r.vector, r.pd, r.rankTable, savedRingState r.state, r.cause, r.producer,
    r.next, r.done, r.tally, b2n r.bell]

def outcomeWords : Option Outcome → List Nat
  | some o => [finalCode o.status, o.subtype, o.detail, o.time]
  | none => []

/-- An entry that a RECV on the posted list keeps from retiring, or that RECV's own (R267, R388). -/
def entryRecord (ring index : Nat) (e : Entry) : List Nat :=
  [4, ring, index, e.opcode, e.hdr.flags, e.hdr.counter, e.hdr.rank, e.hdr.user, e.gen] ++ outcomeWords e.outcome

/-- Ring positions, completion counters, event routes and recorded doorbells, entries not retired and records held. -/
def Fn.ringRecords (x : Fn) : List (List Nat) :=
  x.rings.map (fun r => ringRecord r.1 r.2) ++ x.counters.map (fun c => [1, c.1, c.2.value, b2n c.2.broken, c.2.mirror])
    ++ x.routes.map (fun r => [2, r.1, r.2]) ++ x.bells.map (fun b => [3, b])
    ++ x.rings.flatMap (fun r => r.2.entries.map fun e => entryRecord r.1 e.1 e.2)
    ++ x.rings.flatMap fun r => r.2.held.map fun h => [5, r.1] ++ h.map (·.toNat)

/-- Congestion state of the flows of which the function is the source. -/
def State.flowRecords (s : State) (f : Nat) (x : Fn) : List (List Nat) :=
  ((s.engine x.att).src.filter fun y => y.2.fn == f).map (fun y =>
      [y.2.endpoint, y.2.dstFn, y.2.domain, b2n y.2.ordered, y.2.cwnd, y.2.srtt])
    ++ x.savedFlows.map fun v => [v.endpoint, v.dstFn, v.domain, b2n v.ordered, v.cwnd, v.srtt]

/-- Entries and extents of the open windows. -/
def State.windowSection (s : State) (f : Nat) : List Byte :=
  (s.windowsOf f).flatMap fun w => (s.slot w.1 w.2).bytes w.1 w.2 ++ (s.slot w.1 w.2).extents.flatMap (·.bytes)

def Unexpected.record (u : Unexpected) : List Nat :=
  [0, u.comm, u.rank, u.tag, b2n u.data.isSome, u.length, u.handle, u.deadline, u.endpoint, u.srcFn, u.srcGen]
    ++ (u.data.getD []).map (·.toNat)

/-- A RECV on the posted list, with its deadline (R388). -/
def postedRecord (o : Op) (a : RecvArea) : List Nat :=
  [1, o.ring, o.index, o.deadline, a.opFlags, a.localGen, a.localId, a.comm, a.length, a.source, a.localOffset, a.tag, a.mask,
    a.recordOffset]

/-- The matching section: the unexpected list and the posted list, each in its order (R388). -/
def State.matchRecords (s : State) (f : Nat) : List (List Nat) :=
  let m := s.lists f
  m.unexpected.map (·.record) ++ m.posted.filterMap fun p =>
    (Tbl.get? s.ops p).bind fun o => o.recvArea.map fun a => postedRecord o a

def policerRecord (c : Nat) (p : Policer) : List Nat := [1, c, b2n p.enable, p.action, p.cir, p.pir, p.cbs, p.pbs]

/-- Settings: horizon, scheduling, congestion and matching parameters, communicators, and the domains with their jobs. -/
def State.settingRecords (s : State) (f : Nat) (x : Fn) : List (List Nat) :=
  [[0, x.horizonMs, x.sched.baseLevel, b2n x.sched.laneEn, x.sched.share, x.sched.dwq, x.sched.minRate, x.sched.maxRate, x.ccTarget,
      x.ccAlpha, x.ccBeta, x.ccInit, x.ccMax, b2n x.matchEn, x.log2Comms, x.backoff, x.postedMax, x.unexpectedMax, x.unexpectedKib],
    policerRecord 0 x.sched.lane, policerRecord 1 x.sched.strict, policerRecord 2 x.sched.weighted]
    ++ x.comms.map (fun c => [2, c.1, c.2.rankTable, c.2.domain, c.2.ownRank])
    ++ (s.wu.domains.filter fun d => d.2.fn == f).map fun d => [3, d.1, d.2.job]

def blobSection (type : Nat) (body : List Byte) : List Byte := le 2 type ++ le 6 0 ++ le 8 body.length ++ body

/-- The blob of a FROZEN function (R242). -/
def State.blobOf (s : State) (f : Nat) (x : Fn) : List Byte :=
  let recs := fun (l : List (List Nat)) => l.flatMap recordBytes
  let sections := blobSection 1 (recs x.ringRecords) ++ blobSection 2 (recs (s.flowRecords f x)) ++ blobSection 3 (s.windowSection f)
    ++ blobSection 4 (recs (s.matchRecords f)) ++ blobSection 5 (recs (s.settingRecords f x))
    ++ blobSection 6 (recordBytes (s.meters f))
  let b := le 4 0x64000B1B ++ le 2 1 ++ le 2 6 ++ le 8 (64 + sections.length) ++ le 2 f ++ le 1 x.freezeGen ++ le 1 0
    ++ le 4 (s.endpoint x.att) ++ le 8 x.freezeTime ++ le 28 0 ++ le 4 0 ++ sections
  patch b 60 (le 4 (crc32c b))

/-- FUNCTION_SAVE (R242). -/
def execFunctionSave (h : CmdHdr) (buffer bufferLength : Nat) (s : State) : Host.Outcome State Fault Refusal :=
  .next (s.command (.functionSave h buffer bufferLength) fun s =>
    let f := h.fn
    s.guarded (s.fnGuards f ++ [no .BUSY (s.fnState f != .FROZEN), no .BUSY (s.waitFull h)])
      (match s.fn? f with
      | some x =>
        let b := s.blobOf f x
        if bufferLength < b.length then .done s .CAPACITY b.length []
        else s.guarded [no .STALE (s.gen f != x.freezeGen), no .FAILED (!s.managerReachable)]
          ((s.managerWrite buffer b).payload (le 8 b.length))
      | none => s.ok))

/-! ### What is restored -/

/-- Do the header's fields and the check stand (R242, R243)? -/
def blobOk (b : List Byte) : Bool :=
  let n := rd b 8 8
  rd b 0 4 == 0x64000B1B && rd b 4 2 == 1 && decide (64 ≤ n ∧ n ≤ b.length) && decide (rd b 16 2 < 2048) && rd b 19 1 == 0
    && decide (rd b 20 4 < 2097152) && rd b 32 28 == 0 && crc32c (patch (b.take n) 60 (le 4 0)) == rd b 60 4

/-- Are the reserved bytes of a blob's section headers zero (R7)? -/
def sectionHeadersOk : (n : Nat) → List Byte → Bool
  | 0, _ => true
  | n + 1, b => rd b 2 6 == 0 && sectionHeadersOk n (b.drop (16 + rd b 8 8))

/-- Are the reserved fields of a saved extent zero (R7, R287)? -/
def savedExtentOk (b : List Byte) : Bool := decide (rd b 0 8 < 2 ^ 43) && decide (rd b 24 1 < 2) && rd b 25 7 == 0 && rd b 40 24 == 0

/-- Are the reserved fields of saved window entries and their extents zero (R7, R287)? -/
def savedWindowsOk : (fuel : Nat) → List Byte → Bool
  | 0, _ => true
  | n + 1, b =>
    if b.length < 64 then true
    else decide (rd b 3 1 < 128) && decide (rd b 12 2 < 2048) && rd b 14 2 == 0 && rd b 40 24 == 0
      && (List.range (rd b 9 1)).all (fun i => savedExtentOk ((b.drop (64 + 64 * i)).take 64))
      && savedWindowsOk n (b.drop (64 + 64 * rd b 9 1))

/-- The body of the first section of a type. -/
def findSection (type : Nat) : (n : Nat) → List Byte → List Byte
  | 0, _ => []
  | n + 1, b => if rd b 0 2 = type then (b.drop 16).take (rd b 8 8) else findSection type n (b.drop (16 + rd b 8 8))

def sectionOf (b : List Byte) (type : Nat) : List Byte := findSection type (rd b 6 2) (b.drop 64)

/-- Records of one kind, their kind left out. -/
def ofKind (k : Nat) (l : List (List Nat)) : List (List Nat) := (l.filter fun r => r.head? == some k).map (·.drop 1)

def savedRingOf (r : List Nat) : Nat × Ring :=
  let p := fun k => r.getD k 0
  (p 0, { kind := p 1, base := p 2, indexAddr := p 3, log2 := p 4, irqEn := p 5 == 1, vector := p 6, pd := p 7, rankTable := p 8,
          state := if p 9 = 1 then .WAITING else if p 9 = 2 then .FROZEN else .ACTIVE, cause := p 10, producer := p 11, next := p 12,
          done := p 13, tally := p 14, entries := [], stalled := none, reading := false, again := false, fetching := none,
          retried := false, retriedDesc := false, overrun := none, unpublished := none, bell := p 15 == 1, closing := false, fullFrame := none, held := [] })

def savedFlowOf (r : List Nat) : SavedFlow :=
  let p := fun k => r.getD k 0
  { endpoint := p 0, dstFn := p 1, domain := p 2, ordered := p 3 == 1, cwnd := p 4, srtt := p 5 }

def unexpectedOf (r : List Nat) : Unexpected :=
  let p := fun k => r.getD k 0
  { comm := p 0, rank := p 1, tag := p 2, data := if p 3 = 1 then some ((r.drop 10).map fun v => BitVec.ofNat 8 v) else none,
    length := p 4, handle := p 5, deadline := p 6, endpoint := p 7, srcFn := p 8, srcGen := p 9 }

def putAll {α : Type} (l : List (Nat × α)) : Tbl α := l.foldl (fun t e => Tbl.put t e.1 e.2) []

def policerOf (old : Policer) (r : List Nat) : Policer :=
  let p := fun k => r.getD k 0
  { old with enable := p 1 == 1, action := p 2, cir := p 3, pir := p 4, cbs := p 5, pbs := p 6, tc := p 5, tp := p 6 }

def Sched.loadPolicer (x : Sched) (r : List Nat) : Sched :=
  match r.getD 0 0 with
  | 0 => { x with lane := policerOf x.lane r }
  | 1 => { x with strict := policerOf x.strict r }
  | _ => { x with weighted := policerOf x.weighted r }

/-- The settings of a blob in a function's record. -/
def Fn.loadSettings (x : Fn) (l : List (List Nat)) : Fn :=
  let g := (ofKind 0 l).headD []
  let p := fun k => g.getD k 0
  let sched := { x.sched with baseLevel := p 1, laneEn := p 2 == 1, share := p 3, dwq := p 4, minRate := p 5, maxRate := p 6 }
  let comms := (ofKind 2 l).map fun r => (r.getD 0 0, ({ rankTable := r.getD 1 0, domain := r.getD 2 0, ownRank := r.getD 3 0 } : Comm))
  { x with
    horizonMs := p 0
    sched := (ofKind 1 l).foldl (fun y r => y.loadPolicer r) sched
    ccTarget := p 7
    ccAlpha := p 8
    ccBeta := p 9
    ccInit := p 10
    ccMax := p 11
    matchEn := p 12 == 1
    log2Comms := p 13
    backoff := p 14
    postedMax := p 15
    unexpectedMax := p 16
    unexpectedKib := p 17
    comms := putAll comms }

/-- Final statuses by their encoding. -/
def finalOfCode (k : Nat) : Final :=
  [Final.SUCCESS, .HORIZON_EXPIRED, .POLICED, .HOST_ACCESS_ERROR, .BAD_RANK, .REMOTE_ACCESS_VIOLATION, .LOCAL_ACCESS_VIOLATION,
    .STALE_ROLE, .REMOTE_REFUSED, .COLLECTIVE_FAILED, .CANCELLED, .TRUNCATED, .CHAIN_BROKEN, .UNIT_ABSENT].getD k .MALFORMED

def entryOf (r : List Nat) : Entry :=
  let p := fun k => r.getD k 0
  { opcode := p 0, hdr := { flags := p 1, counter := p 2, rank := p 3, user := p 4 }, gen := p 5,
    outcome := if r.length = 10 then some { status := finalOfCode (p 6), subtype := p 7, detail := p 8, time := p 9 } else none }

/-- A saved ring with its entries and the records it holds. -/
def loadRing (l : List (List Nat)) (x : Nat × Ring) : Nat × Ring :=
  (x.1, { x.2 with
    entries := ((ofKind 4 l).filter fun r => r.head? == some x.1).map fun r => (r.getD 1 0, entryOf (r.drop 2))
    held := ((ofKind 5 l).filter fun r => r.head? == some x.1).map fun r => (r.drop 1).map fun v => BitVec.ofNat 8 v })

/-- Rings, counters, routes and recorded doorbells of a blob. -/
def Fn.loadRings (x : Fn) (l : List (List Nat)) : Fn :=
  let counter := fun (r : List Nat) =>
    (r.getD 0 0, ({ value := r.getD 1 0, broken := r.getD 2 0 == 1, mirror := r.getD 3 0 } : Counter))
  { x with rings := putAll ((ofKind 0 l).map fun r => loadRing l (savedRingOf r)), counters := putAll ((ofKind 1 l).map counter),
           routes := putAll ((ofKind 2 l).map fun r => (r.getD 0 0, r.getD 1 0)), bells := (ofKind 3 l).map fun r => r.getD 0 0 }

/-- An extent as saved; its bitmap is not. -/
def extentOf (b : List Byte) : Extent :=
  { offset := rd b 0 8, length := rd b 8 8, iova := rd b 16 8, dirty := rd b 24 1 % 2 == 1, bitmap := none }

/-- A saved window: its domain, its id, the entry and its extents. -/
def windowOfBytes (f : Nat) (b : List Byte) : Nat × Nat × Window :=
  let flags := rd b 3 1
  (rd b 10 2, rd b 0 3,
    { valid := true, rights := flags % 32 / 2 * 2, accessed := bit flags 5, dirtyTrack := bit flags 6, check := rd b 7 1, gen := rd b 8 1,
      fn := f, length := rd b 16 8, extentBase := 0, openTime := rd b 32 8,
      extents := (List.range (rd b 9 1)).map fun i => extentOf ((b.drop (64 + 64 * i)).take 64), revoked := none })

/-- The windows of a windows section. -/
def readWindows (f : Nat) : (fuel : Nat) → List Byte → List (Nat × Nat × Window)
  | 0, _ => []
  | n + 1, b => if b.length < 64 then [] else windowOfBytes f b :: readWindows f n (b.drop (64 + 64 * rd b 9 1))

/-- Open the saved windows; none where the region, a domain's ids or an open slot leaves no room. -/
def State.loadWindows (s : State) : List (Nat × Nat × Window) → Option State
  | [] => some s
  | (d, id, w) :: t =>
    match Tbl.get? s.wu.domains d, s.placeExtents [] w.extents w.dirtyTrack with
    | some x, some (base, l) =>
      if 2 ^ x.log2Ids ≤ id ∨ (s.slot d id).valid then none
      else (s.setSlot d id { w with extentBase := base, extents := l, revoked := (s.slot d id).revoked }).loadWindows t
    | _, _ => none

/-- Every saved domain exists here with its number and job (R304). -/
def State.domainsMatch (s : State) (f : Nat) (l : List (List Nat)) : Bool :=
  l.all fun r => (Tbl.get? s.wu.domains (r.getD 0 0)).any fun d => d.fn == f && d.job == r.getD 1 0

/-- The function's grants and quotas hold its rings (R243). -/
def Fn.holdsRings (x : Fn) (rings : List (Nat × Ring)) : Bool :=
  decide (rings.length ≤ x.ringQuota) && rings.all fun r => !r.2.irqEn || decide (r.2.vector < x.tableSize)

/-- The generation that a restore sets (R243); a change held by R221 completes at the next frame boundary. -/
def State.setGeneration (s : State) (f gen : Nat) : State :=
  let g := s.genOf f
  let g : Gen := if g.held = 0 ∧ g.frame ≠ some s.frame then { gen := gen, frame := some s.frame, held := 0, goal := none }
    else { g with held := g.held + 1, goal := some gen }
  { s with gens := Tbl.put s.gens f g }

def State.loadMeters (s : State) (f : Nat) (m : List Nat) : State :=
  (List.range 6).foldl (fun s k => s.setCounter (meterOff f k) (m.getD k 0 % 2 ^ 64)) s

/-- A saved RECV is posted again, under the new generation, in the function's protection domain of its ring (R388). -/
def State.repost (s : State) (f gen : Nat) (x : Fn) (r : List Nat) : State :=
  let p := fun k => r.getD k 0
  match s.freePlace, Tbl.get? x.rings (p 0) with
  | some place, some g =>
    let a : RecvArea :=
      { opFlags := p 3, localGen := p 4, localId := p 5, comm := p 6, length := p 7, source := p 8, localOffset := p 9, tag := p 10,
        mask := p 11, recordOffset := p 12, reserved := 0 }
    let h : DescHdr := match g.entries.find? fun e => e.1 == p 1 with
      | some e => e.2.hdr
      | none => { flags := 0, counter := 0, rank := 0, user := 0 }
    let o : Op :=
      { fn := f, ring := p 0, index := p 1, gen := gen, hdr := h, area := .recv a, deadline := p 2, phase := .posted, flow := none, dest := 0,
        destFn := 0, roleGen := 0, domain := g.pd, cut := 0, open_ := 0, delivered := 0, resends := 0, sent := 0 }
    let m := s.lists f
    (s.setOp place o).setLists f { m with posted := m.posted ++ [place] }
  | _, _ => s

/-- The function's quotas and grants, the matching region and the places in flight hold what a blob brings (R243, R313, R358). -/
def State.holdsBlob (s : State) (f : Nat) (x : Fn) (rings flows lists settings : List (List Nat)) : Bool :=
  x.holdsRings ((ofKind 0 rings).map savedRingOf) && decide (flows.length ≤ x.ctxQuota)
    && decide (s.grantsBut f (·.matchBytes) + (x.loadSettings settings).matchBytes ≤ matchRegion s.variant)
    && decide (s.ops.length + (ofKind 1 lists).length ≤ 1048576)

/-- A blob read for function f is loaded: status, and the new state (R243). -/
def State.loadBlob (s : State) (f : Nat) (b : List Byte) : State × Status :=
  match s.fn? f with
  | none => (s, .NOT_FOUND)
  | some x =>
    let rings := recordsOf (sectionOf b 1)
    let settings := recordsOf (sectionOf b 5)
    let lists := recordsOf (sectionOf b 4)
    let windows := sectionOf b 3
    let gen := (rd b 18 1 + 1) % 256
    if x.state ≠ .READY ∨ !s.hostReady x then (s, .BUSY)
    else if !blobOk b || !sectionHeadersOk (rd b 6 2) (b.drop 64) || !savedWindowsOk (windows.length / 64 + 1) windows then (s, .BAD_PARAM)
    else if !s.domainsMatch f (ofKind 3 settings) then (s, .NOT_FOUND)
    else if !s.holdsBlob f x rings (recordsOf (sectionOf b 2)) lists settings then (s, .CAPACITY)
    else match s.loadWindows (readWindows f (windows.length / 64 + 1) windows) with
      | none => (s, .CAPACITY)
      | some s =>
        let x := (x.loadSettings settings).loadRings rings
        let s := s.setFn f { x with state := .FROZEN, freezeTime := s.ns, freezeGen := gen,
                                    savedFlows := (recordsOf (sectionOf b 2)).map savedFlowOf }
        let s := if lists.isEmpty then s else s.setLists f { posted := [], unexpected := (ofKind 0 lists).map unexpectedOf }
        let s := (ofKind 1 lists).foldl (fun s r => s.repost f gen x r) s
        ((s.loadMeters f ((recordsOf (sectionOf b 6)).headD [])).setGeneration f gen, .OK)

/-- The blob's read has returned: the command is answered, at the next frame boundary where the generation change is held. -/
def State.blobRead (s : State) (f : Nat) (c : Completion) : State :=
  match c with
  | .error _ _ => s.answerOn (.restore f) .FAILED 0 []
  | .data b =>
    match s.loadBlob f b with
    | (s, .OK) => if (s.genOf f).held = 0 then s.answerOn (.restore f) .OK 0 [] else s
    | (s, st) => s.answerOn (.restore f) st (if st = .BAD_PARAM then paramAt 0x0509 0 else 0) []

/-- FUNCTION_RESTORE (R243), BUSY where the function may not leave READY (R210, R219; the status is a DESIGN CHOICE): the blob is read from the manager's host memory; the read carries the function it is for as its
offset. -/
def execFunctionRestore (h : CmdHdr) (blob blobLength : Nat) (s : State) : Host.Outcome State Fault Refusal :=
  .next (s.workCommand (.functionRestore h blob blobLength) fun s =>
    let f := h.fn
    s.guarded ([bad 0x0509 1 (decide (blobLength < 64))] ++ s.fnGuards f ++ [no .BUSY (s.fnState f != .READY || !(s.fn? f).any s.hostReady), no .BUSY (s.waitFull h),
        no .FAILED (!s.managerReachable)])
      (match s.manager with
      | some a => .wait (s.dmaRead a blob blobLength .blob none f) (.restore f)
      | none => s.ok))

end Sys2Proof.Machine
end

