-- ==== Sys2Proof/Machine/FlowCommands.lean ====
section
/-! DEFINITION. The commands of the flow context store, rank tables and matching contexts: FLOW_SPILL_SET (R346), RANK_TABLE_CREATE to
RANK_TABLE_DESTROY (R160 to R162), MATCH_CONTEXT_SET to MATCH_COMM_CLEAR (R357 to R360), and the Baler's switch (R446). -/
namespace Sys2Proof.Machine

open Sys2Proof

/-- FLOW_SPILL_SET (R346): BUSY while contexts lie in the current area. -/
def execFlowSpillSet (h : CmdHdr) (base capacity enable : Nat) (s : State) : Host.Outcome State Fault Refusal :=
  .next (s.workCommand (.flowSpillSet h base capacity enable) fun s =>
    s.guarded [bad 0x0517 0 (base % 4096 != 0), bad 0x0517 1 (decide (4194304 < capacity)), bad 0x0517 2 (decide (1 < enable)),
        no .BUSY (!s.cs.spilled.isEmpty)]
      (State.ok { s with cs := { s.cs with spillBase := base, spillCapacity := capacity, spillEnable := enable == 1 } }))

/-- BALER_CONFIG_SET (R446). -/
def execBalerConfigSet (h : CmdHdr) (elideEn : Nat) (s : State) : Host.Outcome State Fault Refusal :=
  .next (s.command (.balerConfigSet h elideEn) fun s =>
    s.guarded [bad 0x0108 0 (decide (1 < elideEn))] (State.ok { s with elideEn := elideEn == 1 }))

/-! ### Rank tables -/

/-- Is a rank-table entry's endpoint valid, where the entry is (R161)? -/
def State.entryOk (s : State) (e : Nat) : Bool := !bit e 63 || s.endpointOk (bits e 20 0)

/-- Entries written from an index on. -/
def writeEntries : List Nat → Nat → Tbl (BitVec 64) → Tbl (BitVec 64)
  | [], _, t => t
  | e :: l, i, t => writeEntries l (i + 1) (Tbl.put t i (BitVec.ofNat 64 e))

/-- The offset of the first entry refused by R161. -/
def State.badRankEntry (s : State) (entries : List Nat) : Nat :=
  match entries.findIdx? fun e => !s.entryOk e with
  | some i => paramAt 0x0520 3 + 8 * i
  | none => 0

/-- RANK_TABLE_WRITE (R160 to R162). -/
def execRankTableWrite (h : CmdHdr) (table first : Nat) (entries : List Nat) (s : State) : Host.Outcome State Fault Refusal :=
  .next (s.command (.rankTableWrite h table first entries) fun s =>
    s.guarded [(!entries.all s.entryOk, .BAD_PARAM, s.badRankEntry entries)]
      (match Tbl.get? s.cs.rankTables table with
      | none => .done s .NOT_FOUND 0 []
      | some t =>
        s.guarded [bad 0x0520 1 (decide (t.size < first + entries.length))]
          (State.ok { s with cs := { s.cs with
            rankTables := Tbl.put s.cs.rankTables table { t with entries := writeEntries entries first t.entries } } })))

/-- The rank-table region, bytes (R162). -/
def rankRegion (v : Variant) : Nat := if v = .AX then 4 * 2 ^ 30 else 2 * 2 ^ 30

/-- RANK_TABLE_CREATE (R162). -/
def execRankTableCreate (h : CmdHdr) (table entries : Nat) (s : State) : Host.Outcome State Fault Refusal :=
  .next (s.workCommand (.rankTableCreate h table entries) fun s =>
    let used := sumNat (s.cs.rankTables.map fun t => 8 * t.2.size)
    s.guarded [bad 0x0521 1 (entries == 0 || decide (2097152 < entries)), no .NOT_FOUND (s.fn? h.fn).isNone,
        no .EXISTS (Tbl.has s.cs.rankTables table), no .BUSY (s.fnBusy h.fn),
        short (8 * entries) (decide (rankRegion s.variant < used + 8 * entries))]
      (State.ok { s with cs := { s.cs with
        rankTables := Tbl.put s.cs.rankTables table { fn := h.fn, size := entries, entries := [] } } }))

/-- A WORK ring, a communicator or a multicast sender record binds the table (R162). -/
def State.tableBound (s : State) (t : Nat) : Bool :=
  s.fns.any (fun f => f.2.rings.any (fun r => r.2.kind == 0 && r.2.rankTable == t) || f.2.comms.any fun c => c.2.rankTable == t)
    || s.engines.any fun e => e.2.senders.any fun g => g.2.rankTable == t

/-- RANK_TABLE_DESTROY (R162). -/
def execRankTableDestroy (h : CmdHdr) (table : Nat) (s : State) : Host.Outcome State Fault Refusal :=
  .next (s.workCommand (.rankTableDestroy h table) fun s =>
    s.guarded [no .NOT_FOUND (!Tbl.has s.cs.rankTables table), no .BUSY (s.tableBound table)]
      (State.ok { s with cs := { s.cs with rankTables := Tbl.del s.cs.rankTables table } }))

/-! ### Matching contexts -/

/-- What R358 refuses while the context is in use. -/
def State.matchInUse (s : State) (f : Nat) (x : Fn) (enable log2Comms posted unexpected kib : Nat) : Bool :=
  let m := s.lists f
  decide (posted < m.posted.length) || decide (unexpected < m.unexpected.length) || decide (kib * 1024 < m.bytes)
    || (log2Comms != x.log2Comms && !x.comms.isEmpty) || (enable == 0 && x.matchEn && x.state == .RUNNING)

/-- MATCH_CONTEXT_SET (R357, R358). -/
def execMatchContextSet (h : CmdHdr) (enable log2Comms backoff postedMax unexpectedMax unexpectedKib : Nat) (s : State) :
    Host.Outcome State Fault Refusal :=
  .next (s.workCommand (.matchContextSet h enable log2Comms backoff postedMax unexpectedMax unexpectedKib) fun s =>
    let f := h.fn
    s.guarded ([bad 0x0530 0 (decide (1 < enable)), bad 0x0530 1 (decide (16 < log2Comms)),
        bad 0x0530 2 (backoff == 0 || decide (1000 < backoff)), bad 0x0530 3 (decide (1048576 < postedMax)),
        bad 0x0530 4 (decide (1048576 < unexpectedMax)), bad 0x0530 5 (decide (4194304 < unexpectedKib))] ++ s.fnGuards f)
      (match s.fn? f with
      | some x =>
        s.guarded [no .BUSY (s.matchInUse f x enable log2Comms postedMax unexpectedMax unexpectedKib),
            short (matchBytes log2Comms postedMax unexpectedMax unexpectedKib) (decide (matchRegion s.variant <
              s.grantsBut f (·.matchBytes) + matchBytes log2Comms postedMax unexpectedMax unexpectedKib))]
          (s.setFn f { x with matchEn := enable == 1, log2Comms := log2Comms, backoff := backoff, postedMax := postedMax,
                              unexpectedMax := unexpectedMax, unexpectedKib := unexpectedKib }).ok
      | none => s.ok))

/-- Posted receives of a function that name a communicator: their in-flight places. -/
def State.postedOn (s : State) (f comm : Nat) : List Nat :=
  (s.lists f).posted.filter fun p => ((Tbl.get? s.ops p).bind Op.recvArea).any fun a => a.comm == comm

/-- Is a domain the function's? -/
def State.ownsDomain (s : State) (f d : Nat) : Bool := (Tbl.get? s.wu.domains d).any fun x => x.fn == f

/-- MATCH_COMM_SET (R359). -/
def execMatchCommSet (h : CmdHdr) (comm rankTable domain ownRank : Nat) (s : State) : Host.Outcome State Fault Refusal :=
  .next (s.workCommand (.matchCommSet h comm rankTable domain ownRank) fun s =>
    let f := h.fn
    s.guarded [no .NOT_FOUND (s.fn? f).isNone]
      (match s.fn? f, Tbl.get? s.cs.rankTables rankTable with
      | some x, some t =>
        s.guarded [no .NOT_FOUND (t.fn != f || !s.ownsDomain f domain), bad 0x0531 0 (decide (2 ^ x.log2Comms ≤ comm)),
            bad 0x0531 3 (decide (t.size ≤ ownRank)),
            no .BUSY (s.fnBusy f || (Tbl.has x.comms comm && !(s.postedOn f comm).isEmpty))]
          (s.setFn f { x with
            comms := Tbl.put x.comms comm { rankTable := rankTable, domain := domain, ownRank := ownRank } }).ok
      | _, _ => .done s .NOT_FOUND 0 []))

/-- With FORCE, posted receives of the communicator end with CANCELLED and its unexpected messages are discarded (R360). -/
def State.forceComm (s : State) (f comm : Nat) : State :=
  let posted := s.postedOn f comm
  let m := s.lists f
  let gone := m.unexpected.filter fun u => u.comm == comm
  let s := s.setLists f { posted := m.posted.filter (fun p => !posted.contains p),
                          unexpected := m.unexpected.filter fun u => u.comm != comm }
  let s := s.evidences (peBase (s.attOf f) + 0x5028) gone.length
  posted.foldl (fun s p => s.finish p .CANCELLED 0 0) s

/-- MATCH_COMM_CLEAR (R360). -/
def execMatchCommClear (h : CmdHdr) (comm : Nat) (s : State) : Host.Outcome State Fault Refusal :=
  .next (s.workCommand (.matchCommClear h comm) fun s =>
    let f := h.fn
    let valid := (s.fn? f).any fun x => Tbl.has x.comms comm
    let used := !(s.postedOn f comm).isEmpty || (s.lists f).unexpected.any fun u => u.comm == comm
    s.guarded [no .NOT_FOUND (!valid), no .BUSY (s.fnBusy f || (!h.force && used))]
      ((s.forceComm f comm).modFn f fun x => { x with comms := Tbl.del x.comms comm }).ok)

end Sys2Proof.Machine
end

