-- ==== Sys2Proof/Machine/CollTokenCommands.lean ====
section
/-! DEFINITION. The commands of collective groups (R389 to R396) and of tokens (R450, R462 to R464). -/
namespace Sys2Proof.Machine

open Sys2Proof

/-! ### Collective groups -/

def hasRepeat : List Nat → Bool
  | [] => false
  | x :: l => l.contains x || hasRepeat l

/-- May a group's edge use the port (R391)? -/
def State.edgePort (s : State) (p : Nat) : Bool := decide (p < 64) && (s.port p).role != 0 && (s.port p).role != 3

/-- A free tag of the anchor engine is granted to an edge. -/
def Engine.grantEdge (e : Engine) (g edge : Nat) : Option (Engine × Nat) :=
  e.freeTagNo.map fun t =>
    ({ e with tags := Tbl.put e.tags t { owner := .edge g edge, quarantine := none, entry := none, nacked := false } }, t)

/-- `n` tags for one edge. -/
def Engine.grantTags (g edge : Nat) : (n : Nat) → Engine → Option (Engine × List Nat)
  | 0, e => some (e, [])
  | n + 1, e =>
    match e.grantEdge g edge with
    | none => none
    | some (e, t) => (Engine.grantTags g edge n e).map fun r => (r.1, t :: r.2)

/-- The tags of every edge of a group (R392). -/
def Engine.grantEdges (g depth : Nat) : List Nat → Engine → Option (Engine × List (Nat × List Nat))
  | [], e => some (e, [])
  | d :: l, e =>
    match Engine.grantTags g d depth e with
    | none => none
    | some (e, ts) => (Engine.grantEdges g depth l e).map fun r => (r.1, (d, ts) :: r.2)

def Group.initial (epoch parent anchor depth size : Nat) (children : List Nat) : Group :=
  { epoch := epoch, parent := parent, children := children, anchor := anchor, depth := depth, size := size, state := 1, cause := 0,
    seq := 0, step := 0, members := [], tags := [], desc := none, upNext := 0, chunks := [], downs := [], out := [], reads := [],
    reading := [], later := [] }

/-- Depth 0 stands for the default (R390). -/
def groupDepth (depth : Nat) : Nat := if depth = 0 then 4 else depth

/-- A group is installed, its tags granted (R392). -/
def State.createGroup (s : State) (g : Nat) (x : Group) : Option State :=
  (Engine.grantEdges g x.depth x.edges (s.engine x.anchor)).map fun r =>
    (s.setEngine x.anchor r.1).setGroup g { x with tags := r.2 }

/-- COLL_GROUP_CREATE (R390 to R392). -/
def execCollGroupCreate (h : CmdHdr) (group epoch parent anchor depth size : Nat) (children : List Nat) (s : State) :
    Host.Outcome State Fault Refusal :=
  .next (s.workCommand (.collGroupCreate h group epoch parent anchor depth size children) fun s =>
    let d := groupDepth depth
    let x := Group.initial epoch parent anchor d size children
    s.guarded [bad 0x0701 0 (decide (1023 < group)),
        bad 0x0701 2 (parent != 0xFF && (!s.edgePort parent || children.contains parent)),
        bad 0x0701 3 (decide (31 < anchor) || !s.assigned anchor), bad 0x0701 4 (decide (d < 2) || decide (16 < d)),
        bad 0x0701 5 (decide (47 < children.length)), bad 0x0701 6 (size == 0 || decide (524288 < size)),
        bad 0x0701 7 (hasRepeat children || !children.all s.edgePort), no .EXISTS (s.group? group).isSome,
        no .CAPACITY (decide (1024 ≤ s.rh.groups.length) || decide (s.rhFreeKib < x.storeKib))]
      (match s.createGroup group x with
      | some s => s.ok
      | none => .done s .CAPACITY 0 []))

/-- A group is removed: its edges' tags go to QUARANTINE (R151), and COLLECTIVEs still accepted for it end. -/
def State.removeGroup (s : State) (g : Nat) (x : Group) : State :=
  let s := s.modEngine x.anchor fun e =>
    { e with tags := Tbl.mapVal e.tags fun _ (t : Tag) =>
        match t.owner with
        | .edge h _ => if h = g then t.release s.ns else t
        | _ => t }
  let s := (s.groupOps g).foldl (fun s p => s.endFailed p 0) s
  { s with rh := { s.rh with groups := Tbl.del s.rh.groups g } }

/-- COLL_GROUP_DESTROY (R396). -/
def execCollGroupDestroy (h : CmdHdr) (group : Nat) (s : State) : Host.Outcome State Fault Refusal :=
  .next (s.workCommand (.collGroupDestroy h group) fun s =>
    s.guarded [bad 0x0702 0 (decide (1023 < group))]
      (match s.group? group with
      | none => .done s .NOT_FOUND 0 []
      | some x =>
        s.guarded [no .BUSY (x.state == 2 && !h.force)]
          ((if h.force then s.failGroup group causeCOMMAND none else s).removeGroup group x).ok))

/-- COLL_MEMBER_SET (R394). -/
def execCollMemberSet (h : CmdHdr) (group attachment rank : Nat) (s : State) : Host.Outcome State Fault Refusal :=
  .next (s.workCommand (.collMemberSet h group attachment rank) fun s =>
    s.guarded [bad 0x0703 0 (decide (1023 < group)), bad 0x0703 1 (s.badAtt attachment)]
      (match s.group? group, s.fn? h.fn with
      | some x, some f =>
        s.guarded [bad 0x0703 1 (f.att != attachment), bad 0x0703 2 (decide (x.size ≤ rank)),
            no .BUSY (x.state != 1 || s.fnBusy h.fn)]
          (s.setGroup group { x with members := Tbl.put x.members attachment { fn := h.fn, rank := rank, next := 0 } }).ok
      | _, _ => .done s .NOT_FOUND 0 []))

/-- A group is READY again, with a new epoch and every sequence at 0 (R396). -/
def Group.restart (x : Group) (epoch : Nat) : Group :=
  { x with epoch := epoch, state := 1, cause := 0, seq := 0, step := 0, desc := none, upNext := 0, chunks := [], downs := [],
           out := [], reads := [], reading := [], later := [],
           members := Tbl.mapVal x.members fun _ (m : RhMember) => { m with next := 0 } }

/-- COLL_GROUP_RESET (R396): of an ACTIVE group it is BUSY. -/
def execCollGroupReset (h : CmdHdr) (group epoch : Nat) (s : State) : Host.Outcome State Fault Refusal :=
  .next (s.workCommand (.collGroupReset h group epoch) fun s =>
    s.guarded [bad 0x0704 0 (decide (1023 < group))]
      (match s.group? group with
      | none => .done s .NOT_FOUND 0 []
      | some x => s.guarded [no .BUSY (x.state == 2)]
        (((s.groupOps group).foldl (fun s p => s.endFailed p 0) s).setGroup group (x.restart epoch)).ok))

/-- COLL_GROUP_QUERY's reply (R499). -/
def Group.bytes (x : Group) : List Byte :=
  le 16 x.word ++ fitTo 47 (x.children.flatMap (le 1))
    ++ x.members.flatMap fun m => le 1 m.1 ++ le 2 m.2.fn ++ le 4 m.2.rank

/-- COLL_GROUP_QUERY (R396). -/
def execCollGroupQuery (h : CmdHdr) (group : Nat) (s : State) : Host.Outcome State Fault Refusal :=
  .next (s.command (.collGroupQuery h group) fun s =>
    s.guarded [bad 0x0705 0 (decide (1023 < group))]
      (match s.group? group with
      | none => .done s .NOT_FOUND 0 []
      | some x => s.payload x.bytes))

/-! ### Tokens -/

/-- The rights entry that TOKEN_GROUP_RIGHTS_SET writes would take the right from a function that holds or awaits a token of the
group (R450). -/
def State.rightsBusy (s new : State) (group : Nat) : Bool :=
  s.fns.any fun f => s.usesGroup f.1 group && s.tokenRight f.1 f.2 group && !new.tokenRight f.1 f.2 group

/-- TOKEN_GROUP_RIGHTS_SET (R450). -/
def execTokenGroupRightsSet (h : CmdHdr) (group enable first last pfMask : Nat) (s : State) : Host.Outcome State Fault Refusal :=
  .next (s.command (.tokenGroupRightsSet h group enable first last pfMask) fun s =>
    let e : TokenRights := { enable := enable == 1, first := first, last := last, pfMask := BitVec.ofNat 32 pfMask }
    let new := { s with tk := { s.tk with rights := Tbl.put s.tk.rights group e } }
    s.guarded [bad 0x0801 0 (decide (63 < group)), bad 0x0801 1 (decide (1 < enable)), bad 0x0801 2 (decide (2047 < first)),
        bad 0x0801 3 (decide (2047 < last)), no .BUSY (s.rightsBusy new group)]
      new.ok)

/-- TOKEN_FABRIC_HOME_SET (R463). -/
def execTokenFabricHomeSet (h : CmdHdr) (slot enable : Nat) (s : State) : Host.Outcome State Fault Refusal :=
  .next (s.command (.tokenFabricHomeSet h slot enable) fun s =>
    s.guarded [bad 0x0802 0 (decide (63 < slot)), bad 0x0802 1 (decide (1 < enable)),
        no .BUSY (enable == 0 && (s.home slot).holder.isSome)]
      (s.setHome slot { s.home slot with enable := enable == 1 }).ok)

def Binding.initial (fn homeLoc homeIndex : Nat) : Binding :=
  { fn := fn, gen := 0, homeLoc := homeLoc, homeIndex := homeIndex, state := .IDLE, req := none, ready := none, answer := 0, lost := false,
    renewed := 0, renewing := none, top := 0 }

/-- How many bindings a function has. -/
def State.bindingCount (s : State) (f : Nat) : Nat := (s.tk.bindings.filter fun b => b.2.fn == f).length

/-- TOKEN_FABRIC_BIND (R464). -/
def execTokenFabricBind (h : CmdHdr) (binding homeIndex homeLoc : Nat) (s : State) : Host.Outcome State Fault Refusal :=
  .next (s.command (.tokenFabricBind h binding homeIndex homeLoc) fun s =>
    s.guarded [bad 0x0803 0 (decide (63 < binding)), bad 0x0803 1 (decide (63 < homeIndex))]
      (match s.fn? h.fn with
      | none => .done s .NOT_FOUND 0 []
      | some f =>
        s.guarded [no .EXISTS (s.binding? binding).isSome, no .BUSY (s.fnBusy h.fn),
            no .CAPACITY (decide (f.fabricTokens ≤ s.bindingCount h.fn))]
          (s.setBinding binding (Binding.initial h.fn homeLoc homeIndex)).ok))

/-- A binding's hold or wait ends as its function's loss would end it (R461, R464). -/
def State.loseBinding (s : State) (b : Nat) (x : Binding) : State :=
  if x.state = .HELD then s.bindRelease b x true else if x.waits then s.bindCancel b x else s

/-- TOKEN_FABRIC_UNBIND (R464). -/
def execTokenFabricUnbind (h : CmdHdr) (binding : Nat) (s : State) : Host.Outcome State Fault Refusal :=
  .next (s.command (.tokenFabricUnbind h binding) fun s =>
    s.guarded [bad 0x0804 0 (decide (63 < binding)), no .NOT_FOUND (s.fn? h.fn).isNone]
      (match s.ownBinding h.fn binding with
      | none => .done s .NOT_FOUND 0 []
      | some x =>
        s.guarded [no .BUSY (((x.state == .HELD || x.waits) && !h.force) || s.fnBusy h.fn)]
          (let s := s.loseBinding binding x
           State.ok ({ s with tk := { s.tk with bindings := Tbl.del s.tk.bindings binding } } : State).reportLevels)))

/-- Entries of each kind that TOKEN_QUERY names. -/
def tokenCount (kind : Nat) : Nat := if kind = 0 then 1024 else 64

/-- TOKEN_QUERY (R499). -/
def execTokenQuery (h : CmdHdr) (kind index : Nat) (s : State) : Host.Outcome State Fault Refusal :=
  .next (s.command (.tokenQuery h kind index) fun s =>
    s.guarded [bad 0x0805 0 (decide (2 < kind)), bad 0x0805 1 (decide (tokenCount kind ≤ index))]
      (s.payload (if kind = 0 then le 8 (s.localWord index) else if kind = 1 then le 16 (s.homeWord index)
        else le 16 (s.bindWord index))))

/-- TOKEN_FORCE_RELEASE (R462). -/
def execTokenForceRelease (h : CmdHdr) (token : Nat) (s : State) : Host.Outcome State Fault Refusal :=
  .next (s.command (.tokenForceRelease h token) fun s =>
    s.guarded [bad 0x0806 0 (decide (1023 < token)), no .NOT_FOUND (s.localToken token).holder.isNone]
      ((s.localRelease token true).reportLevels).ok)

end Sys2Proof.Machine
end

