-- ==== Sys2Proof/Machine/DeviceCommands.lean ====
section
/-! DEFINITION. Commands of the device as a whole: DEVICE_INFO, MANAGER_SET (R492), PIN_CONFIG_SET (R555), CONTROL_ACCESS_SET (R489),
REGISTER_READ and REGISTER_WRITE (R499, R615), and those of faults, events and sensors: FAULT_SEVERITY_SET to VIOLATION_LOG_READ (R507,
R511, R518, R522), TELEMETRY_READ and TELEMETRY_THRESHOLD_SET (R602, R603). -/
namespace Sys2Proof.Machine

open Sys2Proof

def State.fwSlot (s : State) (i : Nat) : Slot := s.jr.slots.getD i { version := 0, security := 0, state := .EMPTY }

/-- DEVICE_INFO (R499). -/
def execDeviceInfo (h : CmdHdr) (s : State) : Host.Outcome State Fault Refusal :=
  .next (s.command (.deviceInfo h) fun s =>
    s.payload (le 4 s.deviceId ++ le 1 (modeCode s.rst.mode) ++ le 1 s.cc.running ++ le 2 0 ++ le 8 (unitPresent s.variant)
      ++ le 8 Config.serial ++ le 4 (s.fwSlot s.cc.running).version))

/-! ### The manager (R492) -/

/-- Does the ADMIN ring hold entries beyond the one that carries the command? -/
def Ring.holdsMore (r : Ring) : Bool := decide (1 < r.entries.length) || r.next != r.producer

/-- The old manager's ADMIN ring holds entries beyond the MANAGER_SET that came on it. -/
def State.adminBusy (s : State) (src : CmdSrc) : Bool :=
  match src, s.manager.bind s.fn? with
  | .admin _, some x => x.rings.any fun r => r.2.kind == 3 && r.2.holdsMore
  | _, _ => false

/-- The ADMIN ring of a PF that is the manager no longer accepts no further entry, and is UNSET once its entries have retired. -/
def State.closeAdmin (s : State) (f : Nat) : State :=
  s.modFn f fun x => { x with
    rings := Tbl.mapVal (x.rings.filter fun r => !(r.2.kind == 3 && r.2.entries.isEmpty)) fun _ (r : Ring) =>
      if r.kind = 3 then { r with closing := true } else r }

/-- The PF of an attachment, or none, becomes the manager. -/
def State.appoint (s : State) (new : Option Nat) : State :=
  if new = s.manager then s
  else
    let s := match s.manager with
      | some a => s.closeAdmin a
      | none => s
    { s with manager := new }

/-- MANAGER_SET (R492, R613). -/
def execManagerSet (h : CmdHdr) (attachment : Nat) (s : State) : Host.Outcome State Fault Refusal :=
  .next (s.workCommand (.managerSet h attachment) fun s =>
    let new := if attachment = 0xFF then none else some attachment
    s.guarded [bad 0x0103 0 (attachment != 0xFF && s.badAtt attachment),
        no .BUSY (new != s.manager && s.adminBusy h.src)]
      (s.appoint new).ok)

/-- PIN_CONFIG_SET (R555). -/
def execPinConfigSet (h : CmdHdr) (pin config : Nat) (s : State) : Host.Outcome State Fault Refusal :=
  .next (s.command (.pinConfigSet h pin config) fun s =>
    let fn := bits config 1 0
    let pull := bits config 3 2
    let g : Gpio := { (Tbl.getD s.rst.gpio pin ⟨false, 1, 0, false⟩ : Gpio) with level := bit config 4, pull := pull, fn := fn }
    s.guarded [bad 0x0107 0 (decide (15 < pin)), bad 0x0107 1 (fn == 3 || pull == 3)]
      (let s := { s with rst := { s.rst with gpio := Tbl.put s.rst.gpio pin g } }
       State.ok (if fn = 0 then s else s.emit (.gpio pin g.level))))

/-- CONTROL_ACCESS_SET (R489). -/
def execControlAccessSet (h : CmdHdr) (enableMask : Nat) (locations : List Nat) (s : State) : Host.Outcome State Fault Refusal :=
  .next (s.command (.controlAccessSet h enableMask locations) fun s =>
    s.guarded [bad 0x0109 0 (decide (15 < enableMask))]
      (State.ok { s with cc := { s.cc with
        remoteEn := enableMask, remote := locations.take 4 ++ List.replicate (4 - locations.length) 0 } }))

/-! ### Registers (R499, R615) -/

/-- The party whose latch a register command uses (R14, R499). -/
def cmdParty : CmdSrc → Party
  | .mctp _ _ => .mctp
  | _ => .cores

/-- `n` registers from an offset, in rising order; a read may change the state (R9, R13). -/
def State.readRegs (p : Party) (width : Nat) : (n off : Nat) → State → State × List Byte
  | 0, _, s => (s, [])
  | n + 1, off, s =>
    let r := s.readReg p off width
    let t := State.readRegs p width n (off + width) r.2
    (t.1, le width r.1 ++ t.2)

def badWidth (width : Nat) : Bool := width != 4 && width != 8

/-- REGISTER_READ (R499, R615). -/
def execRegisterRead (h : CmdHdr) (width offset count : Nat) (s : State) : Host.Outcome State Fault Refusal :=
  .next (s.command (.registerRead h width offset count) fun s =>
    s.guarded [bad 0x010A 0 (badWidth width), bad 0x010A 1 (offset % width != 0 || decide (67108864 ≤ offset)),
        bad 0x010A 2 (count == 0 || decide (1024 < count)), bad 0x010A 1 (decide (67108864 < offset + count * width))]
      (let r := State.readRegs (cmdParty h.src) width count offset s
       r.1.payload r.2))

/-- REGISTER_WRITE (R499, R615). -/
def execRegisterWrite (h : CmdHdr) (width offset value : Nat) (s : State) : Host.Outcome State Fault Refusal :=
  .next (s.command (.registerWrite h width offset value) fun s =>
    s.guarded [bad 0x010B 0 (badWidth width), bad 0x010B 1 (offset % width != 0 || decide (67108864 < offset + width)),
        bad 0x010B 2 (width == 4 && decide (2 ^ 32 ≤ value))]
      (s.writeReg offset width value).ok)

/-! ### Sensors (R602 to R604) -/

/-- The default warn threshold of a sensor; none for those without. -/
def defaultWarn (i : Nat) : Option Int :=
  if i < 8 then some 1600 else if i < 10 then some 1520 else if i = 11 then some 5600 else if i = 13 then some 1050 else none

def State.sensor (s : State) (i : Nat) : Sensor :=
  Tbl.getD s.sensors i { value := 0, warn := (defaultWarn i).getD 0, valid := false, above := false }

/-- Sensors of the HBM stacks are absent with them. -/
def State.sensorPresent (s : State) (i : Nat) : Bool :=
  if i = 8 then s.hasUnit 48 else if i = 9 then s.hasUnit 49 else decide (i < 16)

/-- A value below which a sensor is no longer above warn: 2 °C below it, or 5 % (R604). -/
def Sensor.clears (x : Sensor) (i : Nat) : Bool :=
  if i < 10 then decide (x.value ≤ x.warn - 32) else decide (x.value * 20 ≤ x.warn * 19)

/-- Is a sensor above warn now (R604)? -/
def Sensor.isAbove (x : Sensor) (i : Nat) : Bool :=
  x.valid && (defaultWarn i).isSome && (decide (x.warn < x.value) || (x.above && !x.clears i))

/-- A sensor with a new value or threshold: entry into the above-warn state raises TELEMETRY_WARN, and for sensors 0 to 7 the fault
THERMAL_WARN (R604). -/
def State.judgeSensor (s : State) (i : Nat) (x : Sensor) : State :=
  let above := x.isAbove i
  let entered := above && !x.above
  let s := { s with sensors := Tbl.put s.sensors i { x with above := above } }
  if entered then
    let s := s.raise 0x180 none i
    if i < 8 then s.faultOf 353 else s
  else s

/-- 16 bits of a signed value. -/
def sixteen (v : Int) : Nat := (v % 65536).toNat

/-- One entry of TELEMETRY_READ (R602); sensor 12 is the AVS target. -/
def State.sensorBytes (s : State) (i : Nat) : List Byte :=
  let x := s.sensor i
  let v : Int := if i = 12 then s.avsTarget else x.value
  let valid := s.sensorPresent i && (x.valid || i == 12)
  le 2 (sixteen v) ++ le 2 (sixteen x.warn) ++ le 1 (b2n valid + 2 * b2n x.above) ++ le 3 0

/-- TELEMETRY_READ (R602). -/
def execTelemetryRead (h : CmdHdr) (s : State) : Host.Outcome State Fault Refusal :=
  .next (s.command (.telemetryRead h) fun s => s.payload ((List.range 16).flatMap s.sensorBytes))

/-- The threshold that the two bytes of a command give: signed for temperatures. -/
def warnValue (i v : Nat) : Int := if i < 10 ∧ 32768 ≤ v then (v : Int) - 65536 else v

/-- TELEMETRY_THRESHOLD_SET (R603). -/
def execTelemetryThresholdSet (h : CmdHdr) (sensor warn : Nat) (s : State) : Host.Outcome State Fault Refusal :=
  .next (s.command (.telemetryThresholdSet h sensor warn) fun s =>
    let w := warnValue sensor warn
    s.guarded [bad 0x0B04 0 (decide (15 < sensor) || (defaultWarn sensor).isNone),
        bad 0x0B04 1 (decide (sensor < 10) && decide (1680 < w))]
      (s.judgeSensor sensor { s.sensor sensor with warn := w }).ok)

/-! ### Faults, events and logs -/

/-- FAULT_SEVERITY_SET (R507). -/
def execFaultSeveritySet (h : CmdHdr) (source severity : Nat) (s : State) : Host.Outcome State Fault Refusal :=
  .next (s.command (.faultSeveritySet h source severity) fun s =>
    match faultRow source with
    | none => .done s .BAD_PARAM (paramAt 0x0901 0) []
    | some row =>
      let v := severityOfCode severity
      s.guarded [bad 0x0901 1 (decide (3 < severity) || !row.2.contains v)]
        (State.ok { s with fc := { s.fc with
          severity := if v = row.1 then Tbl.del s.fc.severity source else Tbl.put s.fc.severity source v } }))

/-- FAULT_STATUS_READ: the twelve FC_FSW words. -/
def execFaultStatusRead (h : CmdHdr) (s : State) : Host.Outcome State Fault Refusal :=
  .next (s.command (.faultStatusRead h) fun s => s.payload ((List.range 12).flatMap fun w => le 4 (s.fsw w)))

/-- An HBM stack has fewer than 16 repair rows left (R506). -/
def State.repairsLow (s : State) : Bool :=
  (List.range 2).any fun k => s.hasUnit (48 + k) && decide (s.repairsLeft k < 16)

/-- A source's condition persists (R511): of the sources whose condition is a state of the device. -/
def State.faultPersists (s : State) (n : Nat) : Bool :=
  if n < 64 then (s.port n).state == .FLUSHED
  else if 208 ≤ n ∧ n < 336 then decide (16000 < (s.lag (n - 208)).ns)
  else if n = 336 then s.tt.sync == .UNSYNC
  else if n = 343 then s.repairsLow
  else if n = 352 then s.jr.state == .FAILED
  else if n = 353 then s.sensors.any fun x => decide (x.1 < 8) && x.2.above
  else if n = 356 then s.fc.selfFault
  else false

/-- FAULT_CLEAR (R511). -/
def execFaultClear (h : CmdHdr) (source : Nat) (s : State) : Host.Outcome State Fault Refusal :=
  .next (s.command (.faultClear h source) fun s =>
    s.guarded [bad 0x0903 0 (faultRow source).isNone, no .BUSY (s.faultPersists source)]
      (State.ok { s with fc := { s.fc with latched := s.fc.latched.filter fun (n : Nat) => n != source } }))

/-- Is ring `r` an EVENT ring of a function? -/
def Fn.hasEventRing (x : Fn) (r : Nat) : Bool := (Tbl.get? x.rings r).any fun (g : Ring) => g.kind == 1

/-- EVENT_ROUTE_SET (R522). -/
def execEventRouteSet (h : CmdHdr) (event ring enable : Nat) (s : State) : Host.Outcome State Fault Refusal :=
  .next (s.command (.eventRouteSet h event ring enable) fun s =>
    s.guarded [bad 0x0904 0 (!(eventToF event || (eventToM event && s.manager == some h.fn))), bad 0x0904 2 (decide (1 < enable))]
      (match s.fn? h.fn with
      | none => .done s .NOT_FOUND 0 []
      | some x =>
        s.guarded [no .NOT_FOUND (!x.hasEventRing ring), no .BUSY (s.fnBusy h.fn)]
          (State.ok (s.setFn h.fn { x with
            routes := if enable = 1 then Tbl.put x.routes event ring else Tbl.del x.routes event }))))

/-- VIOLATION_LOG_READ (R518): an unwritten slot reads zero. -/
def execViolationLogRead (h : CmdHdr) (first count : Nat) (s : State) : Host.Outcome State Fault Refusal :=
  .next (s.command (.violationLogRead h first count) fun s =>
    s.guarded [bad 0x0905 1 (count == 0 || decide (256 < count))]
      (s.payload ((List.range count).flatMap fun i => fitTo 32 (Tbl.getD s.fc.vLog ((first + i) % 256) []))))

end Sys2Proof.Machine
end

