-- ==== Sys2Proof/Machine/Nand.lean ====
section
/-! DEFINITION. The pages of the journal store as they stand on the medium: the BCH code of a sector (R562), the layout of a page
(R561), and the page header, records and commit marker of a page of the store's regions (R568, R569). -/
namespace Sys2Proof.Machine

open Sys2Proof

/-! ### The field GF(2^14) and the generator polynomial (R562) -/

/-- x times an element, modulo x^14 + x^10 + x^6 + x + 1. -/
def gfX (a : Nat) : Nat := if bit a 13 then (2 * a) ^^^ 0x4443 else 2 * a

/-- The product of two elements, by the lowest `n` bits of the second. -/
def gfMulN : (n : Nat) → Nat → Nat → Nat
  | 0, _, _ => 0
  | n + 1, a, b => (if b % 2 = 1 then a else 0) ^^^ gfMulN n (gfX a) (b / 2)

def gfMul (a b : Nat) : Nat := gfMulN 14 a b

/-- α^n, where α is x. -/
def alphaPow : Nat → Nat
  | 0 => 1
  | n + 1 => gfX (alphaPow n)

/-- a^(2^n). -/
def gfFrob : Nat → Nat → Nat
  | 0, a => a
  | n + 1, a => gfFrob n (gfMul a a)

/-- The inverse, a^(2^14 - 2): the product of a^(2^i) for i = 1 to 13. -/
def gfInv (a : Nat) : Nat := ((List.range 13).map fun i => gfFrob (i + 1) a).foldl gfMul 1

/-- A polynomial over the field, lowest coefficient first, times x + b. -/
def polyTimes (p : List Nat) (b : Nat) : List Nat :=
  List.zipWith (· ^^^ ·) (0 :: p) ((p.map fun c => gfMul c b) ++ [0])

/-- The minimal polynomial of β over GF(2), as a number: the product of x + β^(2^i) for i = 0 to 13. -/
def minPoly (b : Nat) : Nat :=
  sumNat (((List.range 14).foldl (fun p i => polyTimes p (gfFrob i b)) [1]).mapIdx fun i c => if c = 1 then 2 ^ i else 0)

/-- The product of two polynomials over GF(2), as numbers, by the lowest `n` bits of the second. -/
def clMul : (n : Nat) → Nat → Nat → Nat
  | 0, _, _ => 0
  | n + 1, a, b => (if b % 2 = 1 then a else 0) ^^^ clMul n (2 * a) (b / 2)

/-- The generator polynomial, of degree 560: the product of the minimal polynomials of α, α^3, …, α^79, which are all distinct. -/
def bchGenerator : Nat := ((List.range 40).map fun k => minPoly (alphaPow (2 * k + 1))).foldl (fun g m => clMul 15 g m) 1

/-! ### Encoding -/

/-- One message bit enters the division of message × x^560 by the generator `g`. -/
def bchStep (g r : Nat) (b : Bool) : Nat :=
  let r2 := (2 * r) % 2 ^ 560
  if bit r 559 != b then r2 ^^^ (g % 2 ^ 560) else r2

/-- The bits of bytes, most significant first. -/
def bitsOf (bs : List Byte) : List Bool := bs.flatMap fun b => (List.range 8).map fun i => b.getLsbD (7 - i)

/-- The remainder of message × x^560 divided by the generator. -/
def bchRemainder (sector : List Byte) : Nat :=
  let g := bchGenerator
  (bitsOf sector).foldl (bchStep g) 0

/-- A number in `n` bytes, highest first. -/
def be (n v : Nat) : List Byte := (le n v).reverse

/-- The number that bytes spell, highest first. -/
def ofBe (bs : List Byte) : Nat := ofLe bs.reverse

/-- The parity of a sector: 70 bytes, highest coefficient first. -/
def bchParity (sector : List Byte) : List Byte := be 70 (bchRemainder sector)

/-! ### Decoding -/

/-- The value of a polynomial over GF(2), as a number of `n` bits, at an element. -/
def evalBits : (n v x y : Nat) → Nat
  | 0, _, _, _ => 0
  | n + 1, v, x, y => (if v % 2 = 1 then y else 0) ^^^ evalBits n (v / 2) x (gfMul y x)

/-- The syndromes S_1 to S_80 of a codeword whose division by the generator leaves `r`. -/
def syndromes (r : Nat) : List Nat := (List.range 80).map fun j => evalBits 560 r (alphaPow (j + 1)) 1

/-- State of the search for the error locator (the Berlekamp-Massey recursion): the locator and its length, the last one replaced with its
discrepancy, and the steps since. -/
structure Locator where
  c : List Nat
  l : Nat
  b : List Nat
  d : Nat
  m : Nat
  deriving DecidableEq, Repr

/-- Sum of two polynomials. -/
def polyAdd : List Nat → List Nat → List Nat
  | [], q => q
  | p, [] => p
  | a :: p, b :: q => (a ^^^ b) :: polyAdd p q

/-- One step of the recursion: `past` are the syndromes up to now, the newest first. -/
def Locator.step (x : Locator) (n : Nat) (past : List Nat) : Locator :=
  let delta := (List.zipWith gfMul (x.c.take (x.l + 1)) past).foldl (· ^^^ ·) 0
  if delta = 0 then { x with m := x.m + 1 }
  else
    let c := polyAdd x.c (List.replicate x.m 0 ++ x.b.map fun v => gfMul (gfMul delta (gfInv x.d)) v)
    if 2 * x.l ≤ n then { c := c, l := n + 1 - x.l, b := x.c, d := delta, m := 1 }
    else { x with c := c, m := x.m + 1 }

/-- The recursion over the syndromes left. -/
def Locator.run : List Nat → List Nat → Nat → Locator → Locator
  | [], _, _, x => x
  | s :: l, past, n, x => Locator.run l (s :: past) (n + 1) (x.step n (s :: past))

/-- The value of a polynomial at an element. -/
def polyAt (p : List Nat) (x : Nat) : Nat := p.foldr (fun c a => c ^^^ gfMul a x) 0

/-- The coefficients, of `n` from number `p` on, at which the locator has the root α^(-p); `x` is that element. -/
def rootsFrom (c : List Nat) (inv : Nat) : (n p x : Nat) → List Nat
  | 0, _, _ => []
  | n + 1, p, x => if polyAt c x = 0 then p :: rootsFrom c inv n (p + 1) (gfMul x inv) else rootsFrom c inv n (p + 1) (gfMul x inv)

/-- The byte list with bit `i`, counted from the most significant bit of the first byte, inverted. -/
def flipBit (bs : List Byte) (i : Nat) : List Byte :=
  bs.mapIdx fun k b => if k = i / 8 then b ^^^ BitVec.ofNat 8 (2 ^ (7 - i % 8)) else b

/-- An erased sector, with all data and parity bytes 0xFF. -/
def erasedSector (data parity : List Byte) : Bool := data.all (· == 0xFF#8) && parity.all (· == 0xFF#8)

/-- A sector as read: its data with the bit errors corrected and their number, or none beyond 40 errors. -/
def bchDecode (data parity : List Byte) : Option (List Byte × Nat) :=
  if erasedSector data parity then some (data, 0)
  else
    let r := bchRemainder data ^^^ ofBe parity
    if r = 0 then some (data, 0)
    else
      let x := Locator.run (syndromes r) [] 0 { c := [1], l := 0, b := [1], d := 1, m := 1 }
      let at_ := rootsFrom x.c (gfInv 2) 8752 0 1
      if x.l ≤ 40 ∧ at_.length = x.l then
        some ((at_.filter fun p => decide (560 ≤ p)).foldl (fun d p => flipBit d (8751 - p)) data, x.l)
      else none

/-- What reading sectors costs: the bits corrected, the most of one sector, and the sectors beyond correction. A sector is given as its
1,024 data bytes and its 70 parity bytes. -/
def readSectors (l : List (List Byte × List Byte)) : Nat × Nat × Nat :=
  l.foldl (fun a s => match bchDecode s.1 s.2 with
    | some (_, n) => (a.1 + n, maxN a.2.1 n, a.2.2)
    | none => (a.1, a.2.1, a.2.2 + 1)) (0, 0, 0)

/-! ### The layout of a page -/

/-- The sectors of a page as read (R561): sector j is main bytes 1,024 j onward with the parity of spare bytes 8 + 70 j onward. -/
def pageSectors (main spare : List Byte) : List (List Byte × List Byte) :=
  (List.range 4).map fun j => ((main.drop (1024 * j)).take 1024, (spare.drop (8 + 70 * j)).take 70)

/-- What reading pages costs, given their main and spare areas. -/
def readPages (mains spares : List (List Byte)) : Nat × Nat × Nat := readSectors (List.zipWith pageSectors mains spares).flatten

/-- The pages, the first being number `page`, in which a sector is beyond correction. -/
def unreadable (page : Nat) (mains spares : List (List Byte)) : List Nat :=
  (((List.zipWith pageSectors mains spares).zipIdx page).filter fun q => (readSectors q.1).2.2 != 0).map (·.2)

/-- The spare area of a programmed page (R561): marker and bytes 1 to 7 left unprogrammed, then the parity of each sector. -/
def spareOf (main : List Byte) : List Byte :=
  List.replicate 8 0xFF#8 ++ (List.range 4).flatMap fun j => bchParity ((main.drop (1024 * j)).take 1024)

/-- A block's spare byte 0 of 0x00 marks it grown bad (R576); nothing else of the page is programmed. -/
def badMark : List Byte := 0x00#8 :: List.replicate 287 0xFF#8

/-- Records that begin in a page, with the continued bytes that stand before them (R568, R569). -/
def JPage.body (p : JPage) : List Byte := p.rest ++ p.recs.flatMap (·.bytes)

/-- The page header (R568). -/
def JPage.header (p : JPage) : List Byte :=
  let h := le 4 0x64004A52 ++ le 1 p.region ++ le 1 p.flags ++ le 2 p.recs.length ++ le 8 p.seq ++ le 8 p.age ++ le 4 0
  h ++ le 4 (crc32c h)

/-- The 4,096 main bytes: header, records, commit marker (R568). -/
def JPage.main (p : JPage) : List Byte := p.header ++ fitTo pageRoom p.body ++ le 8 (p.seq ^^^ 0xA5A5A5A5A5A5A5A5)

/-- The pulse that programs a page. -/
def JPage.output (p : JPage) : Output := .program p.block p.page p.main (spareOf p.main)

end Sys2Proof.Machine
end

