-- ==== Sys2Proof/Machine/Faults.lean ====
section
/-! DEFINITION. Faults and their reactions (15_faults_events.md): assertion (R508, R510, R619), the collector's own faults (R514), HALT's
later steps (R516, R537, R574), DEGRADE (R508), scrubbing and sparing (R528), the lockstep takeover's begin (R529), and BLOCK_RESET (R556,
R557). -/
namespace Sys2Proof.Machine

open Sys2Proof

/-! ### CONTAIN -/

/-- CONTAIN of a fabric port (R508, R510): flushed, then trained again. A DISABLED port stays so; a drain of LINK_DISABLE ends with its
reply. -/
def State.containPort (s : State) (p : Nat) : State :=
  let x := s.port p
  if x.state = .DISABLED then s
  else match x.drain with
    | some (_, 7) => (s.endDisable p 7).answerOn (.linkDisable p) .OK 0 []
    | _ => (s.modPort p fun x => { x with degraded := false, drain := none }).flushAndTrain p 8

/-- CONTAIN of an engine: its reset alone (R246); out of service it stays so. -/
def State.containEngine (s : State) (n : Nat) : State :=
  if (s.att n).contained then s
  else
    let held := (s.engine n).degraded
    let s := (s.setAtt n { s.att n with contained := true }).resetEngine n
    (s.modEngine n fun e => { e with degraded := held }).engineResetOver n

/-- CONTAIN of a host port: its reset alone, as an assertion of PERST# (R247). -/
def State.containHostPort (s : State) (p : Nat) : State :=
  let held := (s.hostPort p).degraded
  let s := s.resetHostPort p
  s.setHostPort p { s.hostPort p with degraded := held }

/-- CONTAIN of a function: the one that owns the data halts, with the AER report of R227; where none exists, nothing is contained
(R619). -/
def State.containFn (s : State) (a f : Nat) : State :=
  match s.fn? f with
  | some x => if x.att = a then (s.haltFn f 2).emit (.aer f .internalNonFatal) else s
  | none => s

/-- Some function of the host port's attachments is being reset. -/
def State.hostPortResetting (s : State) (p : Nat) : Bool :=
  s.fns.any fun x => x.2.att / 2 == p && x.2.state == .RESETTING

/-- The reaction CONTAIN for the source's scope; `again`: the source was latched already (R510). -/
def State.contain (s : State) (i : FaultInfo) (again : Bool) : State :=
  let n := i.source
  if 64 ≤ n ∧ n < 128 then s.containPort (n - 64)
  else if 128 ≤ n ∧ n < 160 then s.containEngine (n - 128)
  else if 160 ≤ n ∧ n < 176 then (if again ∧ s.hostPortResetting (n - 160) then s else s.containHostPort (n - 160))
  else if 176 ≤ n ∧ n < 208 then s.containFn (n - 176) i.inst
  else s

/-! ### DEGRADE -/

/-- DEGRADE of a fabric port: the steps of LINK_DISABLE; a port in DISABLED is not drained. -/
def State.degradePort (s : State) (p : Nat) : State :=
  if (s.port p).state = .DISABLED ∨ (s.port p).degraded then s
  else (s.modPort p fun x => { x with degraded := true }).beginDisable p 8

/-- DEGRADE of an engine: its functions accept no new descriptor. -/
def State.degradeEngine (s : State) (n : Nat) : State :=
  if (s.att n).contained ∨ (s.engine n).degraded then s else s.modEngine n fun e => { e with draining := true }

def State.degradeHostPort (s : State) (p : Nat) : State :=
  if (s.hostPort p).degraded ∨ s.hostPortResetting p then s else s.setHostPort p { s.hostPort p with draining := true }

/-- A tick-driven block takes no new best-effort work while its lag is above 1,000 ns (R63). -/
def State.degradeBlock (s : State) (i : Nat) : State :=
  if Tbl.has s.tt.lags i then s.setLag i { s.lag i with degraded := decide (1000 < (s.lag i).ns) } else s

/-- A pool bank leaves once its cells have left. -/
def State.degradeBank (s : State) (b : Nat) : State :=
  if b < 176 ∧ !s.jn.banksGone.contains b then { s with jn := { s.jn with banksLeaving := insertNat b s.jn.banksLeaving } } else s

/-- The reaction DEGRADE for the source's scope. -/
def State.degrade (s : State) (i : FaultInfo) : State :=
  let n := i.source
  if 64 ≤ n ∧ n < 128 then s.degradePort (n - 64)
  else if 128 ≤ n ∧ n < 160 then s.degradeEngine (n - 128)
  else if 160 ≤ n ∧ n < 176 then s.degradeHostPort (n - 160)
  else if 208 ≤ n ∧ n < 336 then s.degradeBlock (n - 208)
  else if n = 338 then s.degradeBank i.inst
  else s

/-! ### Assertion -/

/-- The severity applied is that of the strongest reaction on the scope (R510): HALT for a reaction in HALT, CONTAIN for the DEGRADE of an
engine or host port under CONTAIN. -/
def State.applied (s : State) (n : Nat) (sev : Severity) : Severity :=
  if sev = .LOG then .LOG
  else if s.rst.mode = .HALT then .HALT
  else if sev = .DEGRADE ∧ ((128 ≤ n ∧ n < 160 ∧ (s.att (n - 128)).contained) ∨ (160 ≤ n ∧ n < 176 ∧ s.hostPortResetting (n - 160)))
    then .CONTAIN
  else sev

/-- The cell that holds a failing word of the shared pool is discarded (R506, JN_BUFFER_ECC). -/
def State.loseCell (s : State) (address : Nat) : State :=
  { s with sb := { s.sb with egresses := Tbl.mapVal s.sb.egresses fun _ (x : Egress) =>
      { x with cells := x.cells.filter fun c => c.buf != Config.bufferCell address } } }

/-- The serving pair has miscompared: service pauses while the standby pair takes over (R529). -/
def State.beginTakeover (s : State) : State :=
  { s with cc := { s.cc with takeover := some (s.ns + 50000000), standbyReady := false } }

/-- What follows from a source's severity. -/
def State.react (s : State) (i : FaultInfo) (again : Bool) : Severity → State
  | .LOG => s
  | .CONTAIN => if s.rst.mode = .HALT then s else s.contain i again
  | .DEGRADE => if s.rst.mode = .HALT then s else s.degrade i
  | .HALT => s.enterHalt

/-- A miscompare with no ready standby pair is source 351 (R506). -/
def State.sourceOf (s : State) (i : FaultInfo) : FaultInfo :=
  if i.source = 350 ∧ !s.cc.standbyReady then { i with source := 351 } else i

/-- The rail monitors watch from the end of stage PLL (R590), and raise nothing while RESET_N is low (R593). -/
def State.railsWatched (s : State) : Bool := decide (3 ≤ stageCode s.rst.stage) && !s.rst.resetN

/-- A fault source asserts (R508). Only the self-fault path latches source 356 (R514). -/
def State.assertFault (s : State) (i : FaultInfo) : State :=
  let i := s.sourceOf i
  if !s.asserts i.source || !s.running || i.source == 356 || (i.source == 354 && !s.railsWatched) then s
  else
    let again := s.fc.latched.contains i.source
    let sev := s.severity i.source
    let s := s.latchFault i (s.applied i.source sev) false
    let s := if i.source = 337 then s.loseCell i.address else s
    let s := if i.source = 350 ∧ sev = .LOG then s.beginTakeover else s
    s.react i again sev

/-- FAULT_ASSERT (R508). -/
def execFaultAssert (info : FaultInfo) (s : State) : Host.Outcome State Fault Refusal := .next (s.assertFault info)

/-- Values of FC_STATUS.failed_word. -/
def failedWordOk (w : Nat) : Bool := decide (w < 12) || (decide (16 ≤ w) && decide (w < 40)) || w == 255

/-- COLLECTOR_SELF_FAULT (R514, R515). -/
def execCollectorSelfFault (failedWord : Nat) (s : State) : Host.Outcome State Fault Refusal :=
  if !s.running || s.fc.selfFault || !failedWordOk failedWord then .next s
  else
    let s := { s with fc := { s.fc with selfFault := true, failedWord := failedWord } }
    .next ((s.latchFault { source := 356, inst := 0, address := 0, syndrome := 0 } .HALT true).enterHalt)

/-! ### The later steps of HALT -/

/-- HALT_LANES_POWER_DOWN (R537): after 100 µs every port reads DISABLED, its other registers kept. -/
def execHaltLanesPowerDown (s : State) : Host.Outcome State Fault Refusal :=
  if s.rst.mode == .HALT && decide (s.rst.haltAt + 100000 ≤ s.ns) then
    .next { s with ports := Tbl.mapVal s.ports fun _ (x : Port) => { x with state := .DISABLED } }
  else .next s

/-- The payload of the HALT record (R569). -/
def State.haltPayload (s : State) : List Byte :=
  le 8 s.ns ++ le 4 s.fcStatus ++ le 4 0 ++ ((List.range 12).flatMap fun w => le 4 (s.fsw w))
    ++ (List.range 24).flatMap fun r => le 4 (s.sev r)

/-- A page of the store is programmed. -/
def State.programPage (s : State) (block page region flags : Nat) (rest : List Byte) (recs : List JRec) : State :=
  let pg : JPage :=
    { block := block, page := page, region := region, flags := flags, seq := s.jr.pageSeq, age := s.jr.age, rest := rest, recs := recs }
  let s := { s with jr := { s.jr with pages := s.jr.pages ++ [pg], pageSeq := (s.jr.pageSeq + 1) % 2 ^ 64 } }
  (s.tally 0x50030).emit pg.output

/-- HALT_RECORD_WRITE (R516, R574): the buffered evidence records and the HALT record go to the reserved block, flagged halt. -/
def execHaltRecordWrite (s : State) : Host.Outcome State Fault Refusal :=
  if s.rst.mode == .HALT && !s.rst.haltRecorded && s.jr.pulse.isNone && s.jr.usable then
    let recs := numbered s.jr.evNext (s.jr.evBuf ++ [{ type := 2, number := 0, payload := s.haltPayload }])
    let pages := pageCut recs [] 0
    let s := { s with rst := { s.rst with haltRecorded := true }
                      jr := { s.jr with evBuf := [], evSince := none, evNext := (s.jr.evNext + recs.length) % 2 ^ 32 } }
    .next (pages.zipIdx.foldl (fun s p => s.programPage s.jr.haltBlock p.2 3 8 [] p.1) s)
  else .next s

/-! ### Blocks and banks taken out of service (R508) -/

/-- Does any function of an attachment still have accepted work? -/
def State.attWork (s : State) (a : Nat) : Bool := s.fns.any fun x => x.2.att == a && s.workOf x.1 x.2

/-- DEGRADE_DRAIN_COMPLETE: CONTAIN is applied, and the block stays out of service. -/
def execDegradeDrainComplete (source : Nat) (s : State) : Host.Outcome State Fault Refusal :=
  if !s.alive then .next s
  else if 128 ≤ source ∧ source < 160 then
    let n := source - 128
    if (s.engine n).draining ∧ !s.attWork n then
      .next ((s.containEngine n).modEngine n fun e => { e with draining := false, degraded := true })
    else .next s
  else if 160 ≤ source ∧ source < 176 then
    let p := source - 160
    if (s.hostPort p).draining ∧ !s.attWork (2 * p) ∧ !s.attWork (2 * p + 1) then
      let s := s.containHostPort p
      .next (s.setHostPort p { s.hostPort p with degraded := true })
    else .next s
  else .next s

/-- BANK_RETIRE: the cells of a leaving bank have left, and so does the bank. -/
def execBankRetire (bank : Nat) (s : State) : Host.Outcome State Fault Refusal :=
  if s.jn.banksLeaving.contains bank then
    .next { s with jn := { s.jn with banksLeaving := s.jn.banksLeaving.filter (fun (b : Nat) => b != bank),
                                     banksGone := insertNat bank s.jn.banksGone } }
  else .next s

/-! ### Scrubbing (R528) -/

/-- 24 h. -/
def dayNs : Nat := 86400000000000

/-- Corrections remembered: those of the last 24 h. -/
def recent (now : Nat) (l : List (Nat × Nat × Nat)) : List (Nat × Nat × Nat) := l.filter fun e => decide (now < e.2.2 + dayNs)

/-- Is a row corrected for a second time, the corrections of this pass included? -/
def secondCorrection (l : List (Nat × Nat × Nat)) (bank row corrected : Nat) : Bool :=
  decide (2 ≤ corrected) || l.any fun e => e.1 == bank && e.2.1 == row

/-- The row moves to a spare of its bank; a bank that has none asserts JN_SPARE_EXHAUSTED. -/
def State.spareRow (s : State) (bank row : Nat) : State :=
  let used := Tbl.getD s.fc.sparesUsed bank 0
  let s := { s with fc := { s.fc with corrected := s.fc.corrected.filter fun (e : Nat × Nat × Nat) => !(e.1 == bank && e.2.1 == row) } }
  if used < 8 then { s with fc := { s.fc with sparesUsed := Tbl.put s.fc.sparesUsed bank (used + 1) } }
  else s.assertFault { source := 338, inst := bank, address := 0, syndrome := 0 }

/-- SRAM_SCRUB: `corrected` words of a row were corrected. -/
def execSramScrub (bank row corrected : Nat) (s : State) : Host.Outcome State Fault Refusal :=
  if !s.running || corrected == 0 || decide (176 ≤ bank) then .next s
  else
    let s := s.tally 0x10118 corrected
    let l := recent s.ns s.fc.corrected
    let s := { s with fc := { s.fc with corrected := l } }
    .next (if secondCorrection l bank row corrected then s.spareRow bank row
      else { s with fc := { s.fc with corrected := l ++ [(bank, row, s.ns)] } })

/-- A row of an HBM stack is repaired, to be made permanent at the next BRINGUP; the anchor keeps it (R565). -/
def State.repairRow (s : State) (stack row : Nat) : State :=
  let left := s.repairsLeft stack
  let s := { s with fc := { s.fc with
    hbmCorrected := s.fc.hbmCorrected.filter fun (e : Nat × Nat × Nat) => !(e.1 == stack && e.2.1 == row) } }
  if left = 0 then s
  else
    let s := { s with fc := { s.fc with repairs := Tbl.put s.fc.repairs stack (left - 1), softRepairs := s.fc.softRepairs ++ [(stack, row)] } }
    let s := s.journalPush .anchor
    if left - 1 < 16 then s.assertFault { source := 343, inst := 0, address := 0, syndrome := 0 } else s

/-- HBM_SCRUB: `corrected` units of a row were corrected. -/
def execHbmScrub (stack row corrected : Nat) (s : State) : Host.Outcome State Fault Refusal :=
  if !s.running || corrected == 0 || decide (2 ≤ stack) || !s.hasUnit (48 + stack) then .next s
  else
    let s := s.tally 0x10120 corrected
    let l := recent s.ns s.fc.hbmCorrected
    let s := { s with fc := { s.fc with hbmCorrected := l } }
    .next (if secondCorrection l stack row corrected then s.repairRow stack row
      else { s with fc := { s.fc with hbmCorrected := l ++ [(stack, row, s.ns)] } })

/-! ### BLOCK_RESET (R556, R557) -/

/-- The index of a block is out of range of its kind. -/
def badBlock (kind index : Nat) : Bool :=
  (kind == 1 && decide (63 < index)) || (kind == 2 && decide (31 < index)) || (kind == 3 && decide (15 < index))

/-- The reset of one fabric port: its counters are cleared, it is flushed and trains (R527). -/
def State.resetPort (s : State) (p : Nat) : State := (s.clearCounters (lkBase p) (lkBase (p + 1))).flushAndTrain p 7

/-- BLOCK_RESET: a host port's or fabric port's is answered at once, an engine's at its reset point. -/
def execBlockReset (h : CmdHdr) (kind index : Nat) (s : State) : Host.Outcome State Fault Refusal :=
  .next (s.workCommand (.blockReset h kind index) fun s =>
    s.guarded [bad 0x0105 0 (kind == 0 || decide (3 < kind)), bad 0x0105 1 (badBlock kind index)]
      (if kind = 1 then
        s.guarded [no .BUSY ((s.port index).state == .DISABLED || s.portWaits index)] (s.resetPort index).ok
      else if kind = 2 then
        let s := s.resetEngine index
        if (s.fnsOf index).isEmpty then s.ok else .hold s (.engineReset index)
      else (s.resetHostPort index).ok))

end Sys2Proof.Machine
end

