-- ==== Sys2Proof/Machine/JournalCommands.lean ====
section
/-! DEFINITION. The Journal unit's commands and pulses (17_journal_store.md): CONFIG_SAVE, JOURNAL_READ, JOURNAL_MARK and EVIDENCE_HOLD
(R519, R572, R581), firmware staging and activation (R500 to R505, R582), the end of a pulse or read (R560, R576, R577), and what the unit
does on its own (R565, R572, R578, R579). -/
namespace Sys2Proof.Machine

open Sys2Proof

/-! ### Records present (R570) -/

/-- Pages that a record takes. -/
def JRec.pages (r : JRec) : Nat := ceilDiv r.size pageRoom

/-- A configuration record is present when its pages run from one flagged first to one flagged last with consecutive sequences. -/
def JR.configWhole (j : JR) (p : JPage) (r : JRec) : Bool :=
  (List.range r.pages).all fun i => j.pages.any fun q =>
    q.region == 2 && q.seq == p.seq + i && bit q.flags 0 == (i == 0) && bit q.flags 1 == (i + 1 == r.pages)

/-- The records present of a region, in number order, each number once. -/
def JR.present (j : JR) (region : Nat) : Tbl JRec :=
  j.pages.foldl (fun t p =>
    if p.region ≠ region then t
    else p.recs.foldl (fun t r => if region = 2 ∧ !j.configWhole p r then t else Tbl.put t r.number r) t) []

/-- The current configuration record: the newest present. -/
def JR.config (j : JR) : Option JRec := ((j.present 2).getLast?).map (·.2)

/-! ### The end of a journal command (R496) -/

/-- The journal command with this header is answered. -/
def State.endJournal (s : State) (h : CmdHdr) (st : Status) (detail : Nat) (payload : List Byte) : State :=
  s.answerWaiting (fun w => w.on == .journal && w.hdr == h) st detail payload

def State.setFwSlot (s : State) (i : Nat) (x : Slot) : State := { s with jr := { s.jr with slots := s.jr.slots.set i x } }

/-- Data of the image is received. -/
def Stage.take (g : Stage) (offset : Nat) (data : List Byte) : Stage :=
  { g with data := data.zipIdx.foldl (fun t b => Tbl.put t (offset + b.2) b.1) g.data }

/-- All bytes of page `i` that the stage announces have been received. -/
def Stage.whole (g : Stage) (i : Nat) : Bool :=
  (List.range (minN 4096 (256 + g.length - 4096 * i))).all fun k => Tbl.has g.data (4096 * i + k)

/-- Pages of the image that the stage announces. -/
def Stage.pages (g : Stage) : Nat := ceilDiv (256 + g.length) 4096

/-- Bytes of an image staged: those never written read as erased. -/
def Stage.image (g : Stage) : List Byte := (List.range (256 + g.length)).map fun i => Tbl.getD g.data i 0xFF#8

/-- An image is valid for a slot (R500, R501). -/
def State.imageValid (s : State) (slot : Nat) (b : List Byte) : Bool :=
  let n := rd b 12 4
  rd b 0 4 == 0x6400F1A3 && rd b 10 1 == (if slot = 2 then 1 else 0) && rd b 11 1 == 0
    && ((b.drop 160).take 96).all (· == 0#8) && decide (n ≤ 33554432) && decide (256 + n ≤ b.length)
    && Config.sha384 ((b.drop 256).take n) == (b.drop 16).take 48
    && Config.imageSignatureVerifies (b.take 256) && decide (s.minVer ≤ rd b 8 2)

/-- FW_STAGE_END's verification (R501): the stage closes. A sector that cannot be read makes the image invalid; a write that failed makes
the command fail (R498). -/
def State.verifyStage (s : State) (h : CmdHdr) (failed : Bool) : State :=
  match s.cc.stage with
  | none => s.endJournal h .NOT_FOUND 0 []
  | some g =>
    let b := g.image
    let ok := !failed && !g.spoilt && s.imageValid g.slot b
    let s := { s with cc := { s.cc with stage := none } }
    let s := s.setFwSlot g.slot { version := rd b 4 4, security := rd b 8 2, state := if ok then .VALID else .INVALID }
    s.endJournal h (if ok then .OK else if failed then .FAILED else .BAD_SIGNATURE) 0 []

/-- FW_ACTIVATE's verification (R503): the standby pair then loads the image. -/
def State.verifySlot (s : State) (h : CmdHdr) (slot : Nat) (failed : Bool) : State :=
  let x := s.fwSlot slot
  if failed ∨ x.state ≠ .VALID ∨ x.security < s.minVer then
    (s.setFwSlot slot { x with state := .INVALID }).endJournal h .FAILED 0 []
  else
    { s with cc := { s.cc with
      standbyReady := false
      waiting := s.cc.waiting.map fun (w : Waiting) => if w.on = .journal ∧ w.hdr = h then { w with on := .activate } else w } }

/-- The region that JOURNAL_READ numbers. -/
def regionOf (region : Nat) : Nat := if region = 0 then 3 else if region = 1 then 4 else 2

/-- Whole records, for as many as fit. -/
def takeRecords : List JRec → (count room : Nat) → List JRec
  | [], _, _ => []
  | r :: l, n, room => if n = 0 ∨ room < r.size then [] else r :: takeRecords l (n - 1) (room - r.size)

/-- JOURNAL_READ's reply (R581). -/
def State.journalReply (s : State) (region count record offset : Nat) : List Byte :=
  let l := ((s.jr.present (regionOf region)).filter fun r => decide (record ≤ r.1)).map (·.2)
  if region = 2 then
    match l.head? with
    | some r => le 4 r.number ++ le 4 1 ++ (r.bytes.take 16 ++ r.payload.drop offset).take 65520
    | none => le 4 record ++ le 4 0
  else
    let l := takeRecords l count 65520
    le 4 ((l.head?.map (·.number)).getD record) ++ le 4 l.length ++ l.flatMap (·.bytes)

/-- What a journal command that succeeded does, and its reply. -/
def State.journalDone (s : State) (w : Waiting) : State :=
  let h := w.hdr
  match w.instr with
  | .configSave _ _ => s.endJournal h .OK 0 (le 4 ((s.jr.config.map (·.number)).getD 0))
  | .journalRead _ region count record offset => s.endJournal h .OK 0 (s.journalReply region count record offset)
  | .journalMark _ note =>
    let mine := ((s.jr.present 3).filter fun r => r.2.type == 5 && r.2.payload.drop 8 == note).map (·.1)
    s.endJournal h .OK 0 (le 4 (mine.getLast?.getD 0))
  | .evidenceHold _ enable =>
    ({ s with jr := { s.jr with hold := enable == 1 }, fc := { s.fc with holdWritten := 0 } }).endJournal h .OK 0 []
  | .fwStageBegin _ slot length =>
    let s := { s with cc := { s.cc with stage := some { slot := slot, length := length, data := [], spoilt := false } } }
    (s.setFwSlot slot { version := 0, security := 0, state := .STAGING }).endJournal h .OK 0 []
  | .fwStageData _ offset data =>
    ({ s with cc := { s.cc with stage := s.cc.stage.map fun (g : Stage) => g.take offset data } }).endJournal h .OK 0 []
  | .fwStageAbort _ =>
    let s := match s.cc.stage with
      | some g => s.setFwSlot g.slot { version := 0, security := 0, state := .EMPTY }
      | none => s
    ({ s with cc := { s.cc with stage := none } }).endJournal h .OK 0 []
  | .fwBootSlotSet _ slot =>
    ({ s with jr := { s.jr with bootSlot := some slot }, cc := { s.cc with boot := slot } }).endJournal h .OK 0 []
  | _ => s

/-- An answer reaches the head of the queue. -/
def State.journalAnswer (s : State) (h : CmdHdr) (failed : Bool) : State :=
  match s.cc.waiting.find? fun w => w.on == .journal && w.hdr == h with
  | none => s
  | some w =>
    match w.instr with
    | .fwStageEnd _ => s.verifyStage h failed
    | .fwActivate _ slot => s.verifySlot h slot failed
    | _ => if failed then s.endJournal h .FAILED 0 [] else s.journalDone w

/-- Answers at the head of the queue of an idle unit are given. -/
def State.journalAnswers : (fuel : Nat) → State → State
  | 0, s => s
  | n + 1, s =>
    match s.jr.current, s.jr.queue with
    | none, .answer _ h failed :: rest =>
      State.journalAnswers n (({ s with jr := { s.jr with queue := rest } }).journalAnswer h failed).journalStart
    | _, _ => s

/-- JR_MEDIUM asserts once the store has failed (R577), and answers are given. -/
def State.journalSettle (s : State) : State :=
  let s := if s.jr.state = .FAILED ∧ !s.fc.latched.contains 352 then s.faultOf 352 else s
  s.journalAnswers (s.jr.queue.length + 1)

/-- A journal command waits for its operations and its answer (R493, R496). -/
def State.journalRunCmd (s : State) (opcode : Nat) (h : CmdHdr) (ops : List JOp) : CmdResult :=
  s.guarded [no .BUSY (s.waitFull h), no .FAILED (s.jr.state == .UNSUPPORTED)]
    (.wait (s.journalPushAll (ops ++ [JOp.answer opcode h false])) .journal)

/-- A journal command's row: what is answered at once follows. -/
def State.journalCommand (s : State) (i : Instr) (body : State → CmdResult) : State := (s.command i body).journalSettle

/-! ### CONFIG_SAVE (R572) -/

/-- The packet that sets a register of R572. -/
def registerPacket (offset value : Nat) : List Byte :=
  ({ h := { src := .replay 0, seq := 0, force := false, target := 0xFF, fn := 0xFFFF }, opcode := 0x010B, params := [4, offset, value],
     elems := [] } : Cmd).bytes

/-- The packets of the settings in force. -/
def State.configPackets (s : State) : List (List Byte) :=
  (s.jr.settings.filterMap fun i => (cmdOf i).map Cmd.bytes)
    ++ [registerPacket 0x2000C (b2n s.rst.hostWake), registerPacket 0x20010 s.rst.periodMs]

/-- The payload of the CONFIG record. -/
def State.configPayload (s : State) (flags : Nat) : List Byte :=
  let l := s.configPackets
  le 4 flags ++ le 4 l.length ++ l.flatMap (padTo 8)

/-- The pages of a configuration record: its first carries the record, the others its continuation. -/
def configOps (r : JRec) : List JOp :=
  (List.range r.pages).map fun i =>
    if i = 0 then .program 2 (1 + 2 * b2n (r.pages == 1)) [r]
    else .more (2 * b2n (i + 1 == r.pages)) ((r.bytes.drop (pageRoom * i)).take pageRoom)

/-- CONFIG_SAVE: a record longer than 1 MiB is refused. -/
def execConfigSave (h : CmdHdr) (flags : Nat) (s : State) : Host.Outcome State Fault Refusal :=
  .next (s.journalCommand (.configSave h flags) fun s =>
    let r : JRec := { type := 0x20, number := 0, payload := s.configPayload flags }
    s.guarded [no .CAPACITY (decide (1048576 < r.size))] (s.journalRunCmd 0x0106 h (configOps r)))

/-! ### Evidence -/

/-- The newest record of a region is older than the number named. -/
def State.pastNewest (s : State) (region record : Nat) : Bool :=
  match (s.jr.present (regionOf region)).getLast? with
  | some r => decide (r.1 < record)
  | none => true

/-- Payload bytes of the configuration record named. -/
def State.configLength (s : State) (record : Nat) : Nat :=
  match (s.jr.present 2).find? fun r => decide (record ≤ r.1) with
  | some r => r.2.payload.length
  | none => 0

/-- JOURNAL_READ (R581). -/
def execJournalRead (h : CmdHdr) (region count record offset : Nat) (s : State) : Host.Outcome State Fault Refusal :=
  .next (s.journalCommand (.journalRead h region count record offset) fun s =>
    s.guarded [bad 0x0906 0 (decide (2 < region)), bad 0x0906 1 (count == 0 || decide (1024 < count) || (region == 2 && count != 1)),
        bad 0x0906 3 (region != 2 && offset != 0), no .NOT_FOUND (s.pastNewest region record),
        bad 0x0906 3 (region == 2 && decide (s.configLength record < offset))]
      (s.journalRunCmd 0x0906 h [.read]))

/-- JOURNAL_MARK (R572, R581). -/
def execJournalMark (h : CmdHdr) (note : List Byte) (s : State) : Host.Outcome State Fault Refusal :=
  .next (s.journalCommand (.journalMark h note) fun s =>
    s.guarded [no .BUSY (s.waitFull h), no .FAILED (s.jr.state == .UNSUPPORTED), no .CAPACITY s.jr.evidenceFull]
      (let s := s.evidenceRecord 5 (le 8 s.ns ++ note)
       ({ s with jr := { s.jr with evBuf := [], evSince := none } }).journalRunCmd 0x0907 h [.program 3 0 s.jr.evBuf]))

/-- EVIDENCE_HOLD (R519); unchanged, it writes no anchor (R565). -/
def execEvidenceHold (h : CmdHdr) (enable : Nat) (s : State) : Host.Outcome State Fault Refusal :=
  .next (s.journalCommand (.evidenceHold h enable) fun s =>
    s.guarded [bad 0x0908 0 (decide (1 < enable))]
      (if s.jr.hold == (enable == 1) then s.ok else s.journalRunCmd 0x0908 h [.anchor]))

/-! ### Firmware (R500 to R505, R582) -/

/-- FW_QUERY (R499). -/
def execFwQuery (h : CmdHdr) (s : State) : Host.Outcome State Fault Refusal :=
  .next (s.command (.fwQuery h) fun s =>
    s.payload (le 1 s.cc.running ++ le 1 s.cc.boot ++ le 6 0 ++ (List.range 3).flatMap fun i => le 8 (s.fwSlot i).word))

/-- A waiting command is in progress on the firmware stage or a slot (R494). -/
def State.fwBusy (s : State) : Bool := s.cc.waiting.any fun w => decide (0x0A02 ≤ w.opcode) && decide (w.opcode ≤ 0x0A08)

/-- FW_STAGE_BEGIN (R502, R582). -/
def execFwStageBegin (h : CmdHdr) (slot length : Nat) (s : State) : Host.Outcome State Fault Refusal :=
  .next (s.journalCommand (.fwStageBegin h slot length) fun s =>
    s.guarded [bad 0x0A02 0 (decide (2 < slot) || slot == s.cc.running || (slot == 2 && !h.force)),
        bad 0x0A02 1 (decide (33554432 < length)), no .BUSY (s.cc.stage.isSome || s.fwBusy),
        short (ceilDiv (256 + length) 262144) (decide (144 < s.jr.slotBad.getD slot 0 + ceilDiv (256 + length) 262144))]
      (s.journalRunCmd 0x0A02 h [.anchor]))

/-- Does the data run beyond the image announced? -/
def State.beyondStage (s : State) (offset n : Nat) : Bool :=
  match s.cc.stage with
  | some g => decide (256 + g.length < offset + n)
  | none => false

/-- FW_STAGE_DATA (R502). -/
def execFwStageData (h : CmdHdr) (offset : Nat) (data : List Byte) (s : State) : Host.Outcome State Fault Refusal :=
  .next (s.journalCommand (.fwStageData h offset data) fun s =>
    s.guarded [bad 0x0A03 1 (data.isEmpty || decide (32768 < data.length)), no .NOT_FOUND s.cc.stage.isNone,
        bad 0x0A03 0 (s.beyondStage offset data.length), no .BUSY s.fwBusy]
      (match s.cc.stage with
      | some g => s.journalRunCmd 0x0A03 h [.slot g.slot offset data]
      | none => s.ok))

/-- FW_STAGE_END (R501, R502). -/
def execFwStageEnd (h : CmdHdr) (s : State) : Host.Outcome State Fault Refusal :=
  .next (s.journalCommand (.fwStageEnd h) fun s =>
    s.guarded [no .NOT_FOUND s.cc.stage.isNone, no .BUSY s.fwBusy]
      (s.journalRunCmd 0x0A04 h ((match s.cc.stage with
        | some g => if (List.range g.pages).all g.whole then [] else [.slot g.slot 0 []]
        | none => []) ++ [.read])))

/-- FW_STAGE_ABORT (R502). -/
def execFwStageAbort (h : CmdHdr) (s : State) : Host.Outcome State Fault Refusal :=
  .next (s.journalCommand (.fwStageAbort h) fun s =>
    s.guarded [no .NOT_FOUND s.cc.stage.isNone, no .BUSY s.fwBusy] (s.journalRunCmd 0x0A08 h [.anchor]))

/-- FW_ACTIVATE (R503): a VALID main slot, with a standby pair to load. -/
def execFwActivate (h : CmdHdr) (slot : Nat) (s : State) : Host.Outcome State Fault Refusal :=
  .next (s.journalCommand (.fwActivate h slot) fun s =>
    let st := (s.fwSlot slot).state
    s.guarded [bad 0x0A05 0 (decide (1 < slot)), no .NOT_FOUND (st == .EMPTY),
        no .BUSY (st == .STAGING || s.fwBusy || !s.cc.standbyReady), no .BAD_SIGNATURE (st == .INVALID)]
      (s.journalRunCmd 0x0A05 h [.read]))

/-- FW_BOOT_SLOT_SET (R504). -/
def execFwBootSlotSet (h : CmdHdr) (slot : Nat) (s : State) : Host.Outcome State Fault Refusal :=
  .next (s.journalCommand (.fwBootSlotSet h slot) fun s =>
    s.guarded [bad 0x0A06 0 (decide (1 < slot)), no .BUSY s.fwBusy] (s.journalRunCmd 0x0A06 h [.anchor]))

/-- Is a command that arrives now carried out, rather than held, joined to another or refused? -/
def State.carriesOut (s : State) (i : Instr) : Bool :=
  match cmdOf i with
  | some c =>
    s.serves c.h.src && !s.runningDup c && !s.standsStill && (s.cc.kept.find? fun k => sameOrigin k.hdr c.h).isNone
      && (s.refusal c).isNone && (!c.h.force || c.forceOk)
  | none => false

/-- MAKER_PROCEDURE (R505): a procedure that verifies has no effect that the spec states. -/
def execMakerProcedure (h : CmdHdr) (procedure : List Byte) (s : State) : Host.Outcome State Fault Refusal :=
  if s.carriesOut (.makerProcedure h procedure) ∧ Config.makerProcedureVerifies procedure then .refused .makerProcedure
  else .next (s.command (.makerProcedure h procedure) fun s => .done s .BAD_SIGNATURE 0 [])

/-! ### The end of a pulse (R560, R565, R576 to R578) -/

/-- A pool block's contents are moved: the lists name the copy, and the original is erased. -/
def JR.moveBlock (j : JR) (src dst : Nat) : JR :=
  let swap := fun (l : List Nat) => l.map fun b => if b = src then dst else b
  { j with evBlocks := swap j.evBlocks, meterBlocks := swap j.meterBlocks, cfgBlock := if j.cfgBlock = src then dst else j.cfgBlock,
           queue := .erase src :: j.queue }

/-- Program the pages of a block again in another, flagged as copies. -/
def State.copyBlock (s : State) (src dst : Nat) : State :=
  let old := s.jr.pages.filter fun p => p.block == src && p.region != 0
  let s := { s with jr := { s.jr with pages := s.jr.pages.filter fun (p : JPage) => p.block != src } }
  let s := old.foldl (fun s p => s.programPage dst p.page p.region (p.flags ||| 4) p.rest p.recs) s
  ({ s with jr := s.jr.moveBlock src dst }).tally 0x50048

/-- The least-erased block in use of the pool, and its count. -/
def JR.leastUsed (j : JR) : Option (Nat × Nat) :=
  ((j.evBlocks ++ j.meterBlocks).map fun b => (b, Tbl.getD j.erases b 0)).foldl (pick fun a b => decide (a < b)) none

/-- Erase counts more than 2,000 apart: the least-erased block in use moves to the most-erased free one (R578). -/
def JR.level (j : JR) : JR :=
  match j.leastUsed with
  | some (b, _) => if 2000 < j.wear.1 - j.wear.2 ∧ !(j.queue.contains (.refresh b true)) then j.push (.refresh b true) else j
  | none => j

/-- The good block of a slot that holds its image's block `k`; the anchor's slot map names them in order (R563, R582). -/
def JR.slotBlock (j : JR) (slot k : Nat) : Nat :=
  (((List.range 144).map (4 + 144 * slot + ·)).filter fun b => !j.bad.contains b).getD k (4 + 144 * slot + k)

/-- Page `i` of the image, zero-padded at its end (R568); bytes never received stay erased. -/
def Stage.page (g : Stage) (i : Nat) : List Byte :=
  fitTo 4096 ((List.range (minN 4096 (256 + g.length - 4096 * i))).map fun k => Tbl.getD g.data (4096 * i + k) 0xFF#8)

/-- Program page `i` of a staged image; a block is erased before its first page. -/
def State.imagePage (s : State) (g : Stage) (first : Bool) (i : Nat) : State :=
  let b := s.jr.slotBlock g.slot (i / 64)
  let s := if first then
      ({ s with jr := { s.jr with erases := Tbl.put s.jr.erases b (Tbl.getD s.jr.erases b 0 + 1) } }.tally 0x50038).emit (.erase b)
    else s
  (s.tally 0x50030).emit (.program b (i % 64) (g.page i) (spareOf (g.page i)))

/-- The pages of a slot that data completes, or, without data, those still incomplete (R502, R561). `h` is the stage before, `g` after. -/
def State.imagePages (s : State) (h g : Stage) (rest : Bool) : State :=
  let now := (List.range g.pages).filter fun i => if rest then !h.whole i else !h.whole i && g.whole i
  (now.foldl (fun a i =>
    (a.1.imagePage g (a.2.all (fun k => k / 64 != i / 64)) i, a.2 ++ [i]))
    (s, (List.range g.pages).filter fun i => h.whole i)).1

/-- A page of a configuration record has been programmed; the record has its number once its last page has (R569, R570). -/
def State.configPage (s : State) (flags : Nat) : State :=
  { s with jr := { s.jr with cfgFill := s.jr.cfgFill + 1, cfgNext := if bit flags 1 then (s.jr.cfgNext + 1) % 2 ^ 32 else s.jr.cfgNext } }

/-- An operation has succeeded. -/
def State.pulseDone (s : State) (o : JOp) : State :=
  match o with
  | .erase b =>
    let j := s.jr
    let s := { s with jr := ({ j with pages := j.pages.filter (fun (p : JPage) => p.block != b),
                                      erases := Tbl.put j.erases b (Tbl.getD j.erases b 0 + 1) } : JR).level }
    (s.tally 0x50038).emit (.erase b)
  | .program 3 flags recs =>
    let s := s.programPage (s.jr.evBlocks.getLast?.getD 0) s.jr.evFill 3 flags [] (numbered s.jr.evNext recs)
    { s with jr := { s.jr with evFill := s.jr.evFill + 1, evNext := (s.jr.evNext + recs.length) % 2 ^ 32 } }
  | .program 4 flags recs =>
    let s := s.programPage (s.jr.meterBlocks.getLast?.getD 0) s.jr.meterFill 4 flags [] (numbered s.jr.meterNext recs)
    { s with jr := { s.jr with meterFill := s.jr.meterFill + 1, meterNext := (s.jr.meterNext + recs.length) % 2 ^ 32 } }
  | .program region flags recs =>
    let s := s.programPage s.jr.cfgBlock s.jr.cfgFill region flags [] (numbered s.jr.cfgNext recs)
    s.configPage flags
  | .more flags bytes => (s.programPage s.jr.cfgBlock s.jr.cfgFill 2 flags bytes []).configPage flags
  | .anchor =>
    let s := s.programPage s.jr.anchorBlock s.jr.anchorFill 1 3 [] [{ type := 0x30, number := s.jr.anchorNext, payload := [] }]
    { s with jr := { s.jr with anchorFill := s.jr.anchorFill + 1, anchorAge := s.jr.age, anchorNext := (s.jr.anchorNext + 1) % 2 ^ 32 } }
  | .slot _ offset data =>
    match s.cc.stage with
    | some h => s.imagePages h (h.take offset data) data.isEmpty
    | none => s
  | .copy src dst => s.copyBlock src dst
  | _ => s

/-- The block that an operation was at work on. -/
def JR.blockOf (j : JR) : JOp → Nat
  | .erase b => b
  | .program 3 _ _ => j.evBlocks.getLast?.getD 0
  | .program 4 _ _ => j.meterBlocks.getLast?.getD 0
  | .program _ _ _ => j.cfgBlock
  | .anchor => j.anchorBlock
  | .slot n offset _ => j.slotBlock n (offset / 262144)
  | .copy _ dst => dst
  | _ => 0

/-- A block grows bad: it leaves its journal, and the journal goes on in another (R576). -/
def JR.growBad (j : JR) (b : Nat) : JR :=
  let j := { j with bad := insertNat b j.bad }
  let j := if j.evBlocks.getLast? = some b then { j with evBlocks := j.evBlocks.dropLast, evFill := 64 }
    else { j with evBlocks := j.evBlocks.filter (· != b) }
  let j := if j.meterBlocks.getLast? = some b then { j with meterBlocks := j.meterBlocks.dropLast, meterFill := 64 }
    else { j with meterBlocks := j.meterBlocks.filter (· != b) }
  { j with cfgFill := if j.cfgBlock = b then 64 else j.cfgFill, anchorFill := if j.anchorBlock = b then 64 else j.anchorFill
           slotBad := if 4 ≤ b ∧ b < 436 then j.slotBad.set ((b - 4) / 144) (j.slotBad.getD ((b - 4) / 144) 0 + 1) else j.slotBad }

/-- No good block is left for the operation that failed. -/
def JR.noneLeft (j : JR) : JOp → Bool
  | .anchor => (j.goodAfter 0 4 4 j.anchorBlock).isNone
  | .slot n _ _ => decide (144 < j.slotBad.getD n 0 + 129)
  | .erase _ | .copy _ _ => false
  | o => j.ground o == .lost

/-- The queue after a failure: the operation is repeated, a new anchor written, after a configuration record's pages where these are
under way. An erase is not repeated: the operation that needed the block takes another. -/
def requeueOp (o : JOp) (l : List JOp) : List JOp :=
  match o with
  | .anchor => .anchor :: l
  | .erase _ => .anchor :: l
  | .program 2 _ _ | .more _ _ => o :: l ++ [.anchor]
  | .copy src _ => .anchor :: .refresh src false :: l
  | _ => .anchor :: o :: l

/-- An operation has failed (R566, R576, R577). -/
def State.pulseFailed (s : State) (o : JOp) : State :=
  let j := s.jr.growBad (s.jr.blockOf o)
  let s := (({ s with jr := j }).evidence 0x50054).emit (.program (s.jr.blockOf o) 0 (List.replicate 4096 0xFF#8) badMark)
  if j.noneLeft o then
    let s := { s with jr := { s.jr with queue := failAnswer o.owners s.jr.queue, state := if o == JOp.anchor then s.jr.state else .FAILED } }
    s.faultOf 352
  else { s with jr := { s.jr with queue := requeueOp o s.jr.queue } }

/-- JOURNAL_PULSE_COMPLETE (R560): the next operation starts, unless a device reset was deferred for the pulse (R544). -/
def execJournalPulseComplete (ok : Bool) (s : State) : Host.Outcome State Fault Refusal :=
  match s.jr.current with
  | some o =>
    if !o.isPulse || s.rst.mode == .OFF then .next s
    else
      let s := { s with jr := { s.jr with current := none, pulse := none } }
      let s := if ok then s.pulseDone o else s.pulseFailed o
      if s.rst.deferred.isSome then .next s.dueReset else .next s.journalStart.journalSettle
  | none => .next s

/-- A page that cannot be read: its records are lost, and so is a configuration record that goes on in it (R570, R579). -/
def JPage.lost (p : JPage) : JPage := { p with region := 0, rest := [], recs := [] }

/-- Page number `i` of the list cannot be read. -/
def State.losePage (s : State) (i : Nat) : State :=
  { s with jr := { s.jr with pages := s.jr.pages.modify i JPage.lost } }

/-- Sectors beyond correction fall on pages among those that `p` holds for, each on one that a free value names. -/
def State.losePages (s : State) (p : JPage → Bool) : (n : Nat) → State
  | 0 => s
  | n + 1 =>
    let l := (s.jr.pages.zipIdx.filter fun q => p q.1).map (·.2)
    match s.draw with
    | (v, s) => State.losePages (match l[v % maxN 1 l.length]? with | some i => s.losePage i | none => s) p n

/-- The pages that JOURNAL_READ may read: those of the region with records from the number named on, or a part of one. -/
def JPage.readFor (region record : Nat) (p : JPage) : Bool :=
  p.region == region && (p.rest != [] || p.recs.any fun r => decide (record ≤ r.number))

/-- The command whose read ends is answered next: sectors beyond correction cost JOURNAL_READ their records, spoil an image that is staged,
and fail FW_ACTIVATE (R501, R503, R579). -/
def State.readSpoilt (s : State) (uncorrectable : Nat) : State :=
  match uncorrectable, s.jr.queue with
  | n + 1, .answer _ h _ :: _ =>
    match (s.cc.waiting.find? fun (w : Waiting) => w.on == .journal && w.hdr == h).map Waiting.instr with
    | some (Instr.journalRead _ region _ record _) => s.losePages (JPage.readFor (regionOf region) record) (n + 1)
    | some (Instr.fwStageEnd _) => { s with cc := { s.cc with stage := s.cc.stage.map fun (g : Stage) => { g with spoilt := true } } }
    | _ => { s with jr := { s.jr with queue := failAnswer [0x0A05] s.jr.queue } }
  | _, _ => s

/-- JOURNAL_PAGE_READ_COMPLETE (R496, R561, R562, R579): the sectors of the pages read are decoded; the bits corrected and the sectors beyond correction are
counted. -/
def execJournalPageReadComplete (mains spares : List (List Byte)) (s : State) : Host.Outcome State Fault Refusal :=
  match s.jr.current with
  | some .read =>
    let s := { s with jr := { s.jr with current := none } }
    let x := readPages mains spares
    let s := (s.tally 0x50040 x.1).evidences 0x50050 x.2.2
    .next (s.readSpoilt x.2.2).journalSettle.journalStart
  | _ => .next s

/-! ### What the unit does on its own -/

/-- EVIDENCE_PAGE_FLUSH: 1 s after the page's first record (R572). -/
def execEvidencePageFlush (s : State) : Host.Outcome State Fault Refusal :=
  match s.jr.evSince with
  | some t => if s.alive && decide (t + 1000000000 ≤ s.ns) then .next s.evidencePage.journalSettle else .next s
  | none => .next s

/-- ANCHOR_HOURLY_WRITE (R565, R580). -/
def execAnchorHourlyWrite (s : State) : Host.Outcome State Fault Refusal :=
  if s.alive && decide (s.jr.anchorAge + 3600 ≤ s.jr.age) && !s.jr.queue.contains .anchor && s.jr.current != some .anchor then
    .next (s.journalPush .anchor).journalSettle
  else .next s

/-- What the pages of a block with sectors beyond correction cost (R579). -/
def State.loseSectors (s : State) (block : Nat) (pages : List Nat) : State :=
  if pages = [] then s
  else if 4 ≤ block ∧ block < 436 then
    let i := (block - 4) / 144
    let x := s.fwSlot i
    if x.state = .VALID then s.setFwSlot i { x with state := .INVALID } else s
  else { s with jr := { s.jr with pages := s.jr.pages.map fun p => if p.block == block && pages.contains p.page then p.lost else p } }

/-- The oldest page of a block is a year old. -/
def JR.oldBlock (j : JR) (b : Nat) : Bool := j.pages.any fun p => p.block == b && decide (p.age + 31536000 ≤ j.age)

/-- A block that is refreshed: a pool or configuration block moves, a slot's block is copied within its slot; of the last two the anchor's
map changes. -/
def State.refreshBlock (s : State) (b : Nat) : State :=
  if 452 ≤ b then s.journalPush (.refresh b false)
  else if 436 ≤ b then s.journalPushAll [.refresh b false, .anchor]
  else if 4 ≤ b then (s.tally 0x50048).journalPush .anchor
  else s

/-- JOURNAL_PATROL (R579): programmed pages of a block, from `page` on, have been read; their sectors are decoded (R561, R562). -/
def execJournalPatrol (block page : Nat) (mains spares : List (List Byte)) (s : State) : Host.Outcome State Fault Refusal :=
  if !s.alive || !s.jr.usable then .next s
  else
    let x := readPages mains spares
    let s := (s.tally 0x50040 x.1).evidences 0x50050 x.2.2
    let s := s.loseSectors block (unreadable page mains spares)
    .next (if 24 < x.2.1 ∨ s.jr.oldBlock block then (s.refreshBlock block).journalSettle else s)

end Sys2Proof.Machine
end

