-- ==== Sys2Proof/Machine/Packets.lean ====
section
/-! DEFINITION. Command packets as bytes (R473 to R480): parsing, the row that a packet is, COMMAND_FORWARD (R490) and DEVICE_RESET (R540),
and every row's meaning but MODE_SET's behind one name. -/
namespace Sys2Proof.Machine

open Sys2Proof

/-! ### Parsing (R473, R477) -/

def byteOf (n : Nat) : Byte := BitVec.ofNat 8 n

/-- Fields of these widths from an offset: their values, and the offset after them. -/
def readFields (b : List Byte) : List Nat → Nat → List Nat × Nat
  | [], o => ([], o)
  | w :: ws, o =>
    let at_ := ceilDiv o (minN w 8) * minN w 8
    let r := readFields b ws (at_ + w)
    (rd b at_ w :: r.1, r.2)

/-- A packet's header. -/
def hdrOf (src : CmdSrc) (b : List Byte) : CmdHdr :=
  { src := src, seq := rd b 4 4, force := bit (rd b 2 2) 0, target := rd b 10 1, fn := rd b 12 2 }

/-- Steps 1 and 2 of R480: the status and detail of the first that fails. A packet too short to hold a version fails step 2. -/
def frameFault (b : List Byte) : Option (Status × Nat) :=
  if b.length < 12 then some (.BAD_PACKET, 8)
  else if rd b 11 1 ≠ 1 then some (.BAD_VERSION, 0)
  else if 2 ≤ rd b 2 2 then some (.BAD_PACKET, 2)
  else if b.length ≠ 16 + rd b 8 2 then some (.BAD_PACKET, 8)
  else if rd b 14 2 ≠ 0 then some (.BAD_PACKET, 14)
  else none

/-- The command of an opcode's packet; none where the parameter area is shorter or longer than the opcode and its counts require. -/
def parseArea (i : OpInfo) (h : CmdHdr) (area : List Byte) : Option Cmd :=
  let r := readFields area i.widths 0
  let w := i.tail.width
  let at_ := ceilDiv r.2 (minN w 8) * minN w 8
  let n := i.tail.count r.1
  if n ≤ area.length ∧ area.length = ceilDiv ((if i.tail = .none then r.2 else at_ + n * w)) 8 * 8 then
    some { h := h, opcode := i.opcode, params := r.1, elems := (List.range n).map fun k => rd area (at_ + k * w) w }
  else none

/-- Offset of the first byte of padding that is not zero. -/
def paddingFault (i : OpInfo) (c : Cmd) (area : List Byte) : Option Nat :=
  let b := i.area c.params c.elems
  if b = area then none else some (16 + firstDiff b area 0)

/-- The earlier of two offsets. -/
def earlier : Option Nat → Option Nat → Option Nat
  | some a, some b => some (minN a b)
  | some a, none => some a
  | none, b => b

/-! ### The row that a packet is -/

/-- WINDOW_DIRTY's action selects the row. -/
def dirtyOf (h : CmdHdr) (p : Nat → Nat) : Option Instr :=
  match p 1 with
  | 0 => some (.windowDirtyEnable h (p 0) (p 2))
  | 1 => some (.windowDirtyDisable h (p 0) (p 2))
  | 2 => some (.windowDirtyFetch h (p 0) (p 2) (p 3) (p 4))
  | 3 => some (.windowDirtyClearMarks h (p 0) (p 2))
  | _ => none

/-- Elements taken two by two. -/
def pairs : List Nat → List (Nat × Nat)
  | a :: b :: l => (a, b) :: pairs l
  | _ => []

def instrOf01 (c : Cmd) (h : CmdHdr) (p : Nat → Nat) : Option Instr :=
  match c.opcode with
  | 0x0101 => some (.deviceInfo h)
  | 0x0102 => some (.modeSet h (p 0))
  | 0x0103 => some (.managerSet h (p 0))
  | 0x0104 => some (.deviceReset h)
  | 0x0105 => some (.blockReset h (p 0) (p 1))
  | 0x0106 => some (.configSave h (p 0))
  | 0x0107 => some (.pinConfigSet h (p 0) (p 1))
  | 0x0108 => some (.balerConfigSet h (p 0))
  | 0x0109 => some (.controlAccessSet h (p 0) [p 1, p 2, p 3, p 4])
  | 0x010A => some (.registerRead h (p 0) (p 1) (p 2))
  | 0x010B => some (.registerWrite h (p 0) (p 1) (p 2))
  | 0x010C => some (.commandForward h (p 0) (c.elems.map byteOf))
  | _ => none

def instrOf02 (c : Cmd) (h : CmdHdr) (p : Nat → Nat) : Option Instr :=
  match c.opcode with
  | 0x0201 => some (.linkEnable h (p 0))
  | 0x0202 => some (.linkDisable h (p 0))
  | 0x0203 => some (.linkRoleSet h (p 0) (p 1) (p 2))
  | 0x0204 => some (.linkGraceSet h (p 0) (p 1))
  | 0x0205 => some (.linkLanesRestore h (p 0))
  | 0x0206 => some (.linkStandby h (p 0))
  | 0x0207 => some (.linkWake h (p 0))
  | 0x0208 => some (.linkQuery h (p 0))
  | 0x0209 => some (.linkModuleSet h (p 0) (p 1) (p 2) (p 3) (p 4))
  | 0x0210 => some (.queueWeightSet h (p 0) (p 1) (p 2) (p 3))
  | 0x0211 => some (.queueMapSet h (p 0) (p 1))
  | 0x0212 => some (.signalBoxConfigSet h (p 0))
  | 0x0220 => some (.hostPortSplitSet h (p 0) (p 1))
  | _ => none

def instrOf03 (c : Cmd) (h : CmdHdr) (p : Nat → Nat) : Option Instr :=
  match c.opcode with
  | 0x0301 => some (.routeTopologySet h (p 0) (p 1) (p 2) (p 3) (p 4) (p 5) (p 6) (p 7))
  | 0x0302 => some (.routeEntrySet h (p 0) (p 1) (p 2) (p 3) (p 4))
  | 0x0303 => some (.routeQuery h (p 0))
  | 0x0304 => some (.routeAdaptSet h (p 0) (p 1) (p 2) (p 3))
  | 0x0305 => some (.poolConfigSet h (p 0))
  | 0x0306 => some (.reasmQuotaSet h (p 0) (p 1))
  | 0x0307 => some (.multicastInstall h (p 0) (p 1) (p 2))
  | 0x0308 => some (.multicastRemove h (p 0))
  | 0x0309 => some (.multicastMemberSet h (p 0) (p 1) (p 2) (p 3) (p 4) (p 5))
  | 0x030A => some (.multicastMemberClear h (p 0))
  | 0x030B => some (.multicastSenderSet h (p 0) (p 1) (p 2) (p 3))
  | 0x030C => some (.multicastSenderClear h (p 0))
  | _ => none

def instrOf04 (c : Cmd) (h : CmdHdr) (p : Nat → Nat) : Option Instr :=
  match c.opcode with
  | 0x0401 => some (.timeConfig h (p 0) (p 1))
  | 0x0402 => some (.timeSetSeconds h (p 0))
  | 0x0403 => some (.timetableFractionSet h (p 0))
  | 0x0404 => some (.reservationInstall h (p 0) (p 1) (p 2) (p 3) (p 4) (p 5) (p 6) (p 7) (p 8) (p 9) (p 10) (p 11) (p 12))
  | 0x0405 => some (.reservationRemove h (p 0))
  | 0x0406 => some (.reservationQuery h (p 0))
  | 0x0407 => some (.timeQuery h)
  | _ => none

def instrOf05 (c : Cmd) (h : CmdHdr) (p : Nat → Nat) : Option Instr :=
  match c.opcode with
  | 0x0501 => some (.functionCreate h (p 0) (p 1) (p 2) (p 3) (p 4) (p 5) (p 6) (p 7))
  | 0x0502 => some (.functionDestroy h)
  | 0x0503 => some (.functionEnable h)
  | 0x0504 => some (.functionDisable h)
  | 0x0505 => some (.functionReset h)
  | 0x0506 => some (.functionQuery h)
  | 0x0507 => some (.functionFreeze h (p 0))
  | 0x0508 => some (.functionSave h (p 0) (p 1))
  | 0x0509 => some (.functionRestore h (p 0) (p 1))
  | 0x050A => some (.functionThaw h)
  | 0x0510 => some (.functionPoolSet h (p 0) (p 1) (p 2) (p 3) (p 4))
  | 0x0511 => some (.functionQuotaSet h (p 0) (p 1))
  | 0x0512 => some (.functionHorizonSet h (p 0))
  | 0x0513 => some (.functionSchedSet h (p 0) (p 1) (p 2) (p 3))
  | 0x0514 => some (.functionShaperSet h (p 0) (p 1))
  | 0x0515 => some (.functionPolicerSet h (p 0) (p 1) (p 2) (p 3) (p 4) (p 5) (p 6))
  | 0x0516 => some (.functionCcSet h (p 0) (p 1) (p 2) (p 3) (p 4))
  | 0x0517 => some (.flowSpillSet h (p 0) (p 1) (p 2))
  | 0x0520 => some (.rankTableWrite h (p 0) (p 1) c.elems)
  | 0x0521 => some (.rankTableCreate h (p 0) (p 1))
  | 0x0522 => some (.rankTableDestroy h (p 0))
  | 0x0530 => some (.matchContextSet h (p 0) (p 1) (p 2) (p 3) (p 4) (p 5))
  | 0x0531 => some (.matchCommSet h (p 0) (p 1) (p 2) (p 3))
  | 0x0532 => some (.matchCommClear h (p 0))
  | _ => none

def instrOf06 (c : Cmd) (h : CmdHdr) (p : Nat → Nat) : Option Instr :=
  match c.opcode with
  | 0x0601 => some (.domainCreate h (p 0) (p 1) (p 2))
  | 0x0602 => some (.domainDestroy h (p 0))
  | 0x0603 => some (.windowOpen h (p 0) (p 1) (p 2) (p 3) (pairs c.elems))
  | 0x0604 => some (.windowRevoke h (p 0) (p 1))
  | 0x0605 => some (.windowQuery h (p 0) (p 1))
  | 0x0606 => some (.windowModify h (p 0) (p 1) (p 2) (p 3) c.elems)
  | 0x0607 => dirtyOf h p
  | _ => none

def instrOf07 (c : Cmd) (h : CmdHdr) (p : Nat → Nat) : Option Instr :=
  match c.opcode with
  | 0x0701 => some (.collGroupCreate h (p 0) (p 1) (p 2) (p 3) (p 4) (p 6) c.elems)
  | 0x0702 => some (.collGroupDestroy h (p 0))
  | 0x0703 => some (.collMemberSet h (p 0) (p 1) (p 2))
  | 0x0704 => some (.collGroupReset h (p 0) (p 1))
  | 0x0705 => some (.collGroupQuery h (p 0))
  | _ => none

def instrOf08 (c : Cmd) (h : CmdHdr) (p : Nat → Nat) : Option Instr :=
  match c.opcode with
  | 0x0801 => some (.tokenGroupRightsSet h (p 0) (p 1) (p 2) (p 3) (p 4))
  | 0x0802 => some (.tokenFabricHomeSet h (p 0) (p 1))
  | 0x0803 => some (.tokenFabricBind h (p 0) (p 1) (p 2))
  | 0x0804 => some (.tokenFabricUnbind h (p 0))
  | 0x0805 => some (.tokenQuery h (p 0) (p 1))
  | 0x0806 => some (.tokenForceRelease h (p 0))
  | _ => none

def instrOf09 (c : Cmd) (h : CmdHdr) (p : Nat → Nat) : Option Instr :=
  match c.opcode with
  | 0x0901 => some (.faultSeveritySet h (p 0) (p 1))
  | 0x0902 => some (.faultStatusRead h)
  | 0x0903 => some (.faultClear h (p 0))
  | 0x0904 => some (.eventRouteSet h (p 0) (p 1) (p 2))
  | 0x0905 => some (.violationLogRead h (p 0) (p 1))
  | 0x0906 => some (.journalRead h (p 0) (p 1) (p 2) (p 3))
  | 0x0907 => some (.journalMark h (c.elems.map byteOf))
  | 0x0908 => some (.evidenceHold h (p 0))
  | _ => none

def instrOf0A (c : Cmd) (h : CmdHdr) (p : Nat → Nat) : Option Instr :=
  match c.opcode with
  | 0x0A01 => some (.fwQuery h)
  | 0x0A02 => some (.fwStageBegin h (p 0) (p 1))
  | 0x0A03 => some (.fwStageData h (p 0) (c.elems.map byteOf))
  | 0x0A04 => some (.fwStageEnd h)
  | 0x0A05 => some (.fwActivate h (p 0))
  | 0x0A06 => some (.fwBootSlotSet h (p 0))
  | 0x0A07 => some (.makerProcedure h (c.elems.map byteOf))
  | 0x0A08 => some (.fwStageAbort h)
  | _ => none

def instrOf0B (c : Cmd) (h : CmdHdr) (p : Nat → Nat) : Option Instr :=
  match c.opcode with
  | 0x0B01 => some (.meterRingSet h (p 0) (p 1) (p 2))
  | 0x0B02 => some (.meterRead h)
  | 0x0B03 => some (.telemetryRead h)
  | 0x0B04 => some (.telemetryThresholdSet h (p 0) (p 1))
  | _ => none

/-- The row that a command is; none for a WINDOW_DIRTY of no defined action. -/
def instrOf (c : Cmd) : Option Instr :=
  let p := fun k => c.params.getD k 0
  match c.opcode / 256 with
  | 1 => instrOf01 c c.h p
  | 2 => instrOf02 c c.h p
  | 3 => instrOf03 c c.h p
  | 4 => instrOf04 c c.h p
  | 5 => instrOf05 c c.h p
  | 6 => instrOf06 c c.h p
  | 7 => instrOf07 c c.h p
  | 8 => instrOf08 c c.h p
  | 9 => instrOf09 c c.h p
  | 0xA => instrOf0A c c.h p
  | 0xB => instrOf0B c c.h p
  | _ => none

/-! ### COMMAND_FORWARD (R490) -/

/-- Send the transfer of a COMMAND_FORWARD. -/
def State.sendForward (s : State) (t : Nat) (x : Forward) : State := s.sendMessage x.location 1 t x.packet

/-- A transfer number, and its packet on its way. -/
def State.beginForward (s : State) (location : Nat) (packet : List Byte) : State × Nat :=
  let t := s.cc.nextTransfer
  let x : Forward := { location := location, packet := packet, sent := s.ns, deadline := s.ns + 1000000000 }
  (({ s with cc := { s.cc with nextTransfer := (t + 1) % 65536, forwards := Tbl.put s.cc.forwards t x } }).sendForward t x, t)

/-- COMMAND_FORWARD. -/
def execCommandForward (h : CmdHdr) (location : Nat) (packet : List Byte) (s : State) : Host.Outcome State Fault Refusal :=
  .next (s.command (.commandForward h location packet) fun s =>
    s.guarded [bad 0x010C 2 (rd packet 0 2 == 0x010C), no .BUSY (s.waitFull h)]
      (let r := s.beginForward location packet
       .wait r.1 (.forward r.2)))

/-- COMMAND_FORWARD_RESEND: every 10 ms. -/
def execCommandForwardResend (transfer : Nat) (s : State) : Host.Outcome State Fault Refusal :=
  match Tbl.get? s.cc.forwards transfer with
  | some x =>
    if s.alive ∧ x.sent + 10000000 ≤ s.ns then
      let x := { x with sent := s.ns }
      .next (({ s with cc := { s.cc with forwards := Tbl.put s.cc.forwards transfer x } }).sendForward transfer x)
    else .next s
  | none => .next s

/-- A COMMAND_FORWARD ends. -/
def State.endForward (s : State) (t : Nat) (st : Status) (payload : List Byte) : State :=
  ({ s with cc := { s.cc with forwards := Tbl.del s.cc.forwards t } }).answerOn (.forward t) st 0 payload

/-- COMMAND_FORWARD_TIMEOUT: after 1 s. -/
def execCommandForwardTimeout (transfer : Nat) (s : State) : Host.Outcome State Fault Refusal :=
  match Tbl.get? s.cc.forwards transfer with
  | some x => if s.alive ∧ x.deadline ≤ s.ns then .next (s.endForward transfer .TIMEOUT []) else .next s
  | none => .next s

/-! ### DEVICE_RESET (R540) -/

/-- RST_CAUSE of a DEVICE_RESET: FABRIC_COMMAND with the sender's location over the CONTROL VC, LOCAL_COMMAND otherwise. -/
def commandCause : CmdSrc → Nat × Nat
  | .control loc _ => (5, loc % 65536)
  | _ => (4, 0)

/-- DEVICE_RESET: the reply is sent before the reset begins. -/
def execDeviceReset (h : CmdHdr) (s : State) : Host.Outcome State Fault Refusal :=
  .next (s.command (.deviceReset h) fun s => (s.wantReset (commandCause h.src).1 (commandCause h.src).2).ok).dueReset

/-! ### Every command but MODE_SET -/

/-- The meaning of a command's row, by which packets of the configuration record are replayed (R573). MODE_SET makes no setting (R572),
and events are no commands: these do nothing here. -/
def runSetting (i : Instr) : State → Host.Outcome State Fault Refusal :=
  match i with
  | .deviceInfo h => Sys2Proof.Machine.execDeviceInfo h
  | .modeSet _ _ => fun s => .next s
  | .managerSet h attachment => Sys2Proof.Machine.execManagerSet h attachment
  | .deviceReset h => Sys2Proof.Machine.execDeviceReset h
  | .blockReset h kind index => Sys2Proof.Machine.execBlockReset h kind index
  | .configSave h flags => Sys2Proof.Machine.execConfigSave h flags
  | .pinConfigSet h pin config => Sys2Proof.Machine.execPinConfigSet h pin config
  | .balerConfigSet h elideEn => Sys2Proof.Machine.execBalerConfigSet h elideEn
  | .controlAccessSet h enableMask locations => Sys2Proof.Machine.execControlAccessSet h enableMask locations
  | .registerRead h width offset count => Sys2Proof.Machine.execRegisterRead h width offset count
  | .registerWrite h width offset value => Sys2Proof.Machine.execRegisterWrite h width offset value
  | .commandForward h location packet => Sys2Proof.Machine.execCommandForward h location packet
  | .linkEnable h port => Sys2Proof.Machine.execLinkEnable h port
  | .linkDisable h port => Sys2Proof.Machine.execLinkDisable h port
  | .linkRoleSet h port role peer => Sys2Proof.Machine.execLinkRoleSet h port role peer
  | .linkGraceSet h port graceUs => Sys2Proof.Machine.execLinkGraceSet h port graceUs
  | .linkLanesRestore h port => Sys2Proof.Machine.execLinkLanesRestore h port
  | .linkStandby h port => Sys2Proof.Machine.execLinkStandby h port
  | .linkWake h port => Sys2Proof.Machine.execLinkWake h port
  | .linkQuery h port => Sys2Proof.Machine.execLinkQuery h port
  | .linkModuleSet h port lanes pre main post => Sys2Proof.Machine.execLinkModuleSet h port lanes pre main post
  | .queueWeightSet h egress queue quantum burst => Sys2Proof.Machine.execQueueWeightSet h egress queue quantum burst
  | .queueMapSet h levelMap transitMap => Sys2Proof.Machine.execQueueMapSet h levelMap transitMap
  | .signalBoxConfigSet h yellowPoolMib => Sys2Proof.Machine.execSignalBoxConfigSet h yellowPoolMib
  | .hostPortSplitSet h port split => Sys2Proof.Machine.execHostPortSplitSet h port split
  | .routeTopologySet h nx ny nz routers location datelineX datelineY datelineZ => Sys2Proof.Machine.execRouteTopologySet h nx ny nz routers location datelineX datelineY datelineZ
  | .routeEntrySet h station valid dx dy dz => Sys2Proof.Machine.execRouteEntrySet h station valid dx dy dz
  | .routeQuery h station => Sys2Proof.Machine.execRouteQuery h station
  | .routeAdaptSet h detourEn downWeight detourPenalty escapeWait => Sys2Proof.Machine.execRouteAdaptSet h detourEn downWeight detourPenalty escapeWait
  | .poolConfigSet h alpha => Sys2Proof.Machine.execPoolConfigSet h alpha
  | .reasmQuotaSet h attachment quota => Sys2Proof.Machine.execReasmQuotaSet h attachment quota
  | .multicastInstall h group ingress mask => Sys2Proof.Machine.execMulticastInstall h group ingress mask
  | .multicastRemove h group => Sys2Proof.Machine.execMulticastRemove h group
  | .multicastMemberSet h group domain senderFn member sender window => Sys2Proof.Machine.execMulticastMemberSet h group domain senderFn member sender window
  | .multicastMemberClear h group => Sys2Proof.Machine.execMulticastMemberClear h group
  | .multicastSenderSet h group rankTable first count => Sys2Proof.Machine.execMulticastSenderSet h group rankTable first count
  | .multicastSenderClear h group => Sys2Proof.Machine.execMulticastSenderClear h group
  | .timeConfig h role priority => Sys2Proof.Machine.execTimeConfig h role priority
  | .timeSetSeconds h seconds => Sys2Proof.Machine.execTimeSetSeconds h seconds
  | .timetableFractionSet h fraction => Sys2Proof.Machine.execTimetableFractionSet h fraction
  | .reservationInstall h id rate rank burst destKind hops sourceFn destFn source dest flight installTime egress => Sys2Proof.Machine.execReservationInstall h id rate rank burst destKind hops sourceFn destFn source dest flight installTime egress
  | .reservationRemove h id => Sys2Proof.Machine.execReservationRemove h id
  | .reservationQuery h id => Sys2Proof.Machine.execReservationQuery h id
  | .timeQuery h => Sys2Proof.Machine.execTimeQuery h
  | .functionCreate h attachment vf vectors stagingMib fabricTokens resvSlots ringQuota ctxQuota => Sys2Proof.Machine.execFunctionCreate h attachment vf vectors stagingMib fabricTokens resvSlots ringQuota ctxQuota
  | .functionDestroy h => Sys2Proof.Machine.execFunctionDestroy h
  | .functionEnable h => Sys2Proof.Machine.execFunctionEnable h
  | .functionDisable h => Sys2Proof.Machine.execFunctionDisable h
  | .functionReset h => Sys2Proof.Machine.execFunctionReset h
  | .functionQuery h => Sys2Proof.Machine.execFunctionQuery h
  | .functionFreeze h limitMs => Sys2Proof.Machine.execFunctionFreeze h limitMs
  | .functionSave h buffer bufferLength => Sys2Proof.Machine.execFunctionSave h buffer bufferLength
  | .functionRestore h blob blobLength => Sys2Proof.Machine.execFunctionRestore h blob blobLength
  | .functionThaw h => Sys2Proof.Machine.execFunctionThaw h
  | .functionPoolSet h vectors stagingMib fabricTokens vfLimit resvSlots => Sys2Proof.Machine.execFunctionPoolSet h vectors stagingMib fabricTokens vfLimit resvSlots
  | .functionQuotaSet h ringQuota ctxQuota => Sys2Proof.Machine.execFunctionQuotaSet h ringQuota ctxQuota
  | .functionHorizonSet h horizonMs => Sys2Proof.Machine.execFunctionHorizonSet h horizonMs
  | .functionSchedSet h baseLevel laneEn share dwq => Sys2Proof.Machine.execFunctionSchedSet h baseLevel laneEn share dwq
  | .functionShaperSet h minRate maxRate => Sys2Proof.Machine.execFunctionShaperSet h minRate maxRate
  | .functionPolicerSet h cls enable action cir pir cbs pbs => Sys2Proof.Machine.execFunctionPolicerSet h cls enable action cir pir cbs pbs
  | .functionCcSet h targetNs alpha beta initParcels maxParcels => Sys2Proof.Machine.execFunctionCcSet h targetNs alpha beta initParcels maxParcels
  | .flowSpillSet h base capacity enable => Sys2Proof.Machine.execFlowSpillSet h base capacity enable
  | .rankTableWrite h table first entries => Sys2Proof.Machine.execRankTableWrite h table first entries
  | .rankTableCreate h table entries => Sys2Proof.Machine.execRankTableCreate h table entries
  | .rankTableDestroy h table => Sys2Proof.Machine.execRankTableDestroy h table
  | .matchContextSet h enable log2Comms backoff postedMax unexpectedMax unexpectedKib => Sys2Proof.Machine.execMatchContextSet h enable log2Comms backoff postedMax unexpectedMax unexpectedKib
  | .matchCommSet h comm rankTable domain ownRank => Sys2Proof.Machine.execMatchCommSet h comm rankTable domain ownRank
  | .matchCommClear h comm => Sys2Proof.Machine.execMatchCommClear h comm
  | .domainCreate h domain log2Ids job => Sys2Proof.Machine.execDomainCreate h domain log2Ids job
  | .domainDestroy h domain => Sys2Proof.Machine.execDomainDestroy h domain
  | .windowOpen h domain rights dirtyTrack id extents => Sys2Proof.Machine.execWindowOpen h domain rights dirtyTrack id extents
  | .windowRevoke h domain id => Sys2Proof.Machine.execWindowRevoke h domain id
  | .windowQuery h domain id => Sys2Proof.Machine.execWindowQuery h domain id
  | .windowModify h domain rights lazy id iovas => Sys2Proof.Machine.execWindowModify h domain rights lazy id iovas
  | .windowDirtyEnable h domain id => Sys2Proof.Machine.execWindowDirtyEnable h domain id
  | .windowDirtyDisable h domain id => Sys2Proof.Machine.execWindowDirtyDisable h domain id
  | .windowDirtyFetch h domain id buffer bufferLength => Sys2Proof.Machine.execWindowDirtyFetch h domain id buffer bufferLength
  | .windowDirtyClearMarks h domain id => Sys2Proof.Machine.execWindowDirtyClearMarks h domain id
  | .collGroupCreate h group epoch parent anchor depth size children => Sys2Proof.Machine.execCollGroupCreate h group epoch parent anchor depth size children
  | .collGroupDestroy h group => Sys2Proof.Machine.execCollGroupDestroy h group
  | .collMemberSet h group attachment rank => Sys2Proof.Machine.execCollMemberSet h group attachment rank
  | .collGroupReset h group epoch => Sys2Proof.Machine.execCollGroupReset h group epoch
  | .collGroupQuery h group => Sys2Proof.Machine.execCollGroupQuery h group
  | .tokenGroupRightsSet h group enable first last pfMask => Sys2Proof.Machine.execTokenGroupRightsSet h group enable first last pfMask
  | .tokenFabricHomeSet h slot enable => Sys2Proof.Machine.execTokenFabricHomeSet h slot enable
  | .tokenFabricBind h binding homeIndex homeLoc => Sys2Proof.Machine.execTokenFabricBind h binding homeIndex homeLoc
  | .tokenFabricUnbind h binding => Sys2Proof.Machine.execTokenFabricUnbind h binding
  | .tokenQuery h kind index => Sys2Proof.Machine.execTokenQuery h kind index
  | .tokenForceRelease h token => Sys2Proof.Machine.execTokenForceRelease h token
  | .faultSeveritySet h source severity => Sys2Proof.Machine.execFaultSeveritySet h source severity
  | .faultStatusRead h => Sys2Proof.Machine.execFaultStatusRead h
  | .faultClear h source => Sys2Proof.Machine.execFaultClear h source
  | .eventRouteSet h event ring enable => Sys2Proof.Machine.execEventRouteSet h event ring enable
  | .violationLogRead h first count => Sys2Proof.Machine.execViolationLogRead h first count
  | .journalRead h region count record offset => Sys2Proof.Machine.execJournalRead h region count record offset
  | .journalMark h note => Sys2Proof.Machine.execJournalMark h note
  | .evidenceHold h enable => Sys2Proof.Machine.execEvidenceHold h enable
  | .fwQuery h => Sys2Proof.Machine.execFwQuery h
  | .fwStageBegin h slot length => Sys2Proof.Machine.execFwStageBegin h slot length
  | .fwStageData h offset data => Sys2Proof.Machine.execFwStageData h offset data
  | .fwStageEnd h => Sys2Proof.Machine.execFwStageEnd h
  | .fwActivate h slot => Sys2Proof.Machine.execFwActivate h slot
  | .fwBootSlotSet h slot => Sys2Proof.Machine.execFwBootSlotSet h slot
  | .makerProcedure h procedure => Sys2Proof.Machine.execMakerProcedure h procedure
  | .fwStageAbort h => Sys2Proof.Machine.execFwStageAbort h
  | .meterRingSet h base log2Size enable => Sys2Proof.Machine.execMeterRingSet h base log2Size enable
  | .meterRead h => Sys2Proof.Machine.execMeterRead h
  | .telemetryRead h => Sys2Proof.Machine.execTelemetryRead h
  | .telemetryThresholdSet h sensor warn => Sys2Proof.Machine.execTelemetryThresholdSet h sensor warn
  | _ => fun s => .next s

/-- The state after a command; unchanged where it stops. -/
def nextOr (s : State) : Host.Outcome State Fault Refusal → State
  | .next t => t
  | _ => s

end Sys2Proof.Machine
end

