-- ==== Sys2Proof/Machine/Modes.lean ====
section
/-! DEFINITION. Operating modes and bring-up (16_modes_reset.md, 18_package.md): MODE_SET and the mode transitions (R531 to R536), the
bring-up stages (R548 to R553) with the boot of R504 and the replay of R573, adaptive voltage scaling (R587 to R589) and the sensors'
samples (R547, R604). -/
namespace Sys2Proof.Machine

open Sys2Proof

/-! ### Entering a mode (R531) -/

/-- The PFs of every assigned attachment that is present are created (R216). -/
def State.createPfs (s : State) : State := (List.range 32).foldl (fun s a => if s.assigned a then s.addPf a else s) s

/-- The packets of the configuration record that wait for SERVICE are applied (R550). -/
def State.replayRest (s : State) : State :=
  let l := s.jr.replay
  l.foldl (fun s x => nextOr s (runSetting x.2 s)) { s with jr := { s.jr with replay := [] } }

/-- Recorded doorbells of the functions that run are served. -/
def State.serveRecorded (s : State) : State :=
  (Tbl.keys s.fns).foldl (fun s f => if (s.fn? f).any fun x => x.state == .RUNNING then s.serveBells f else s) s

/-- The fabric ports that left UP for HEATH train again (R135). -/
def State.wakeLinks (s : State) : State :=
  ((List.range 64).filter fun p => (s.port p).state == .STANDBY).foldl (fun s p => s.wakePort p) s

/-- Every port in UP goes to STANDBY, and reservations are judged again (R535). -/
def State.sleepLinks (s : State) : State :=
  (((List.range 64).filter fun p => (s.port p).state == .UP && (s.port p).role != 0).foldl (fun s p => s.enterStandby p) s).rebalance

/-- Entry into SERVICE from BRINGUP, DRAIN or HEATH. -/
def State.enterService (s : State) : State :=
  let m := s.rst.mode
  let s := { s with rst := { s.rst with mode := .SERVICE, stage := .DONE, drained := false, wake := none } }
  match m with
  | .BRINGUP => ({ s with tt := { s.tt with pendingSeconds := none } }).createPfs.replayRest
  | .DRAIN => (s.answerOn .drain .FAILED 0 []).serveRecorded
  | .HEATH => (s.wakeLinks.serveRecorded).answerOn .wake .OK 0 []
  | _ => s

/-- Entry into HEATH from a drained DRAIN. -/
def State.enterHeath (s : State) : State :=
  ({ s with rst := { s.rst with mode := .HEATH, drained := false, wake := none } }).sleepLinks

/-! ### MODE_SET (R532) -/

/-- MODE_SET SERVICE. -/
def State.toService (s : State) (h : CmdHdr) : CmdResult :=
  match s.rst.mode with
  | .BRINGUP => s.guarded [no .BUSY (s.rst.stage != .AWAIT || !s.jn.topology)] s.enterService.ok
  | .DRAIN => s.enterService.ok
  | .HEATH =>
    s.guarded [no .BUSY (s.waitFull h)]
      (if s.avsStopped then .done s.warnCore .FAILED 0 [] else .wait s .wake)
  | _ => .done s .WRONG_MODE 0 []

/-- MODE_SET DRAIN. -/
def State.toDrain (s : State) (h : CmdHdr) : CmdResult :=
  match s.rst.mode with
  | .SERVICE =>
    s.guarded [no .BUSY (s.waitFull h)] (.wait { s with rst := { s.rst with mode := .DRAIN, drained := false } } .drain)
  | _ => .done s .WRONG_MODE 0 []

/-- MODE_SET HEATH. -/
def State.toHeath (s : State) : CmdResult :=
  match s.rst.mode with
  | .DRAIN => s.guarded [no .BUSY (!s.rst.drained)] s.enterHeath.ok
  | _ => .done s .WRONG_MODE 0 []

/-- MODE_SET. -/
def execModeSet (h : CmdHdr) (mode : Nat) (s : State) : Host.Outcome State Fault Refusal :=
  .next (s.workCommand (.modeSet h mode) fun s =>
    s.guarded [bad 0x0102 0 (mode != 2 && mode != 3 && mode != 4)]
      (if modeCode s.rst.mode = mode then s.ok
       else if mode = 2 then s.toService h else if mode = 3 then s.toDrain h else s.toHeath))

/-- Is every accepted operation other than ADMIN ring entries final and retired (R534)? -/
def State.hasDrained (s : State) : Bool := s.fns.all fun f => f.2.rings.all fun r => r.2.kind == 3 || r.2.entries.isEmpty

/-- DRAIN_COMPLETE (R534). -/
def execDrainComplete (s : State) : Host.Outcome State Fault Refusal :=
  if s.rst.mode == .DRAIN && !s.rst.drained && s.hasDrained then
    .next (({ s with rst := { s.rst with drained := true } }).answerOn .drain .OK 0 [])
  else .next s

/-! ### Bring-up (R548) -/

/-- Does the sequence run? Not while the device is held in reset, nor during a deferral (R544). -/
def State.bringing (s : State) : Bool := s.rst.mode == .BRINGUP && s.running && s.rst.deferred.isNone

def State.setStage (s : State) (st : BootStage) : State := { s with rst := { s.rst with stage := st } }

/-- The strap's choice and fault for a converter code (R551). -/
def strapOf (code : Nat) : Nat × Bool := if code < 3 ∨ code = 255 then (0, true) else (code / 16, false)

/-- Stage STRAP ends: split, manager and boot slot of the choice (R551 to R553). -/
def State.endStrap (s : State) : State :=
  let x := strapOf s.rst.strapCode
  let s := { s with rst := { s.rst with strapChoice := x.1, strapFault := x.2, stage := .FUSE }, cc := { s.cc with boot := x.1 % 2 } }
  if s.variant = .TX then s
  else
    let split := b2n (decide (8 ≤ x.1))
    let s := (List.range 16).foldl (fun s p =>
      if s.hasHostPort p ∧ split = 1 then s.setHostPort p { s.hostPort p with split := split, nextSplit := split, strapSplit := split } else s) s
    { s with manager := if x.1 % 4 < 2 then some 0 else none }

/-- Stage PLL ends: host ports begin to train (R549). -/
def State.endPll (s : State) : State :=
  let s := { s with rst := { s.rst with stage := .SRAM, pllRetry := none } }
  (List.range 32).foldl (fun s a =>
    if s.assigned a ∧ !(s.hostPort (a / 2)).perst then s.setAtt a { s.att a with state := .TRAINING } else s) s

/-- An image that the boot can take (R501, R504). -/
def State.bootable (s : State) (i : Nat) : Bool := (s.fwSlot i).state == .VALID && decide (s.minVer ≤ (s.fwSlot i).security)

/-- The slot that boots: the boot slot, the other main slot, the recovery image (R504); without an anchor, slot A (R583). -/
def State.bootChoice (s : State) : Option Nat :=
  let b := s.jr.bootSlot.getD s.cc.boot
  (if s.jr.formatted then [b, 1 - b, 2] else [0]).find? s.bootable

/-- The part is refused: its tables give another page size, another density or no 1-1-4 read (R559), or its anchor blocks are all bad
(R566). -/
def JR.refused (j : JR) : Bool :=
  j.pageSize != 4096 || decide (2 < j.density) || !j.quadRead || (List.range 4).all fun b => j.bad.contains b

/-- The store is formatted, keeping slot A (R583). -/
def JR.format (j : JR) : JR :=
  let empty : Slot := { version := 0, security := 0, state := .EMPTY }
  { j with formatted := true, pages := [], erases := [], evBlocks := [], meterBlocks := [], bootSlot := none, hold := false, age := 0,
           anchorAge := 0, evNext := 0, meterNext := 0, cfgNext := 0, anchorNext := 0, slots := [j.slots.getD 0 empty, empty, empty] }

/-- The boot finds no image: HALT (R539). -/
def State.bootFails (s : State) : State := ({ s with rst := { s.rst with noImage := true } }).enterHalt

/-- Stage BOOT ends (R504, R546, R559, R566, R583). -/
def State.endBoot (s : State) : State :=
  if s.jr.refused then State.bootFails { s with jr := { s.jr with state := .UNSUPPORTED } }
  else
    let s := { s with jr := { s.jr with state := .READY } }
    match s.bootChoice with
    | none => s.bootFails
    | some i =>
      let fresh := !s.jr.formatted
      let s := { s with
        jr := if fresh then s.jr.format else s.jr
        cc := { s.cc with running := i, boot := s.jr.bootSlot.getD s.cc.boot, standbyReady := true }
        rst := { s.rst with watchdog := true, stage := if s.variant = Variant.TX then .LINKS else .HBM } }
      if fresh then s.journalPush .anchor else s.journalStart

/-- Stage HBM ends: soft repairs are permanent (R528). -/
def State.endHbm (s : State) : State := ({ s with fc := { s.fc with softRepairs := [] } }).setStage .LINKS

/-- Stage LINKS begins: the fabric ports with a role other than UNUSED train (R548). -/
def State.trainLinks (s : State) : State :=
  ((List.range 64).filter fun p => (s.port p).state == .DISABLED && (s.port p).role != 0).foldl (fun s p => s.beginTraining p) s

/-! ### Stage CONFIG (R550, R572, R573) -/

/-- The packets of a CONFIG record, each padded to 8 bytes. -/
def splitPackets : (count : Nat) → List Byte → List (List Byte)
  | 0, _ => []
  | n + 1, b =>
    let len := 16 + rd b 8 2
    b.take len :: splitPackets n (b.drop (ceilDiv len 8 * 8))

/-- A packet of the record as the row it is. -/
def settingOf (index : Nat) (b : List Byte) : Option Instr :=
  match opInfo (rd b 0 2) with
  | some i => (parseArea i (hdrOf (.replay index) b) (b.drop 16)).bind instrOf
  | none => none

/-- The settings of the current configuration record, numbered. -/
def JR.recorded (j : JR) : List (Nat × Instr) :=
  match j.config with
  | some r => (splitPackets (rd r.payload 4 4) (r.payload.drop 8)).zipIdx.filterMap fun x => (settingOf x.2 x.1).map fun i => (x.2, i)
  | none => []

/-- Is a setting applied in stage CONFIG rather than on entry to SERVICE? -/
def appliedEarly (i : Instr) : Bool :=
  match cmdOf i with
  | some c => [1, 2, 3, 4, 9, 0xA, 0xB].contains (c.opcode / 256) && c.opcode != 0x0103
  | none => false

/-- The RESET record of each stage CONFIG (R569). -/
def State.resetRecord (s : State) : State :=
  s.evidenceRecord 4 (le 4 s.rstCause ++ le 4 (s.counter 0x20018) ++ le 4 (s.fwSlot s.cc.running).version ++ le 4 0)

/-- Stage CONFIG ends: its settings are applied, and the device awaits MODE_SET or enters SERVICE of itself (R550). -/
def State.endConfig (s : State) : State :=
  let s := s.resetRecord
  let l := s.jr.recorded
  let auto := s.jr.config.any fun r => bit (rd r.payload 0 4) 0
  let s := { s with jr := { s.jr with replay := l.filter fun x => !appliedEarly x.2, autoService := auto } }
  let s := (l.filter fun x => appliedEarly x.2).foldl (fun s x => nextOr s (runSetting x.2 s)) s
  let s := s.setStage .AWAIT
  if auto ∧ s.jn.topology ∧ s.cc.running ≠ 2 then s.enterService else s

/-- The stage in progress ends. -/
def State.endStage (s : State) : State :=
  match s.rst.stage with
  | .STRAP => s.endStrap
  | .FUSE => s.setStage .PLL
  | .PLL => s.endPll
  | .SRAM => s.setStage .BOOT
  | .BOOT =>
    let s := s.endBoot
    if s.rst.stage = .LINKS then s.trainLinks else s
  | .HBM => s.endHbm.trainLinks
  | .LINKS => s.setStage .CONFIG
  | .CONFIG => s.endConfig
  | .AWAIT | .DONE => s

/-- BRINGUP_STAGE_COMPLETE. -/
def execBringupStageComplete (s : State) : Host.Outcome State Fault Refusal := .next (if s.bringing then s.endStage else s)

/-- PLL_LOCK_RETRY: a try of stage PLL ends, with lock or without; the next comes 10 ms later (R548). -/
def execPllLockRetry (locked : Bool) (s : State) : Host.Outcome State Fault Refusal :=
  .next (if s.bringing && s.rst.stage == .PLL then
      (if locked then s.endPll else { s with rst := { s.rst with pllRetry := some (s.ns + 10000000) } })
    else s)

/-! ### VDD_CORE (R587 to R589) -/

/-- Below this the FN6400 sets no target outside HEATH (R589). -/
def coreFloor : Nat := minN Config.avsFloor 800

/-- A wake source is recorded, or a MODE_SET SERVICE waits. -/
def State.waking (s : State) : Bool := s.rst.wake.isSome || s.awaits (· == .wake)

/-- A target that the FN6400 may set now. -/
def State.targetLegal (s : State) (t : Nat) : Bool :=
  if s.rst.mode = .HEATH then
    if s.waking then decide (coreFloor ≤ t) && decide (t ≤ 850) else decide (700 ≤ t) && decide (t ≤ s.avsTarget)
  else
    decide (coreFloor ≤ t) && decide (t ≤ 850) &&
      match s.avsAt with
      | none => t == Config.avsTarget || (decide (t ≤ s.avsTarget + 5) && decide (s.avsTarget ≤ t + 5))
      | some at_ => decide (t ≤ s.avsTarget + 5) && decide (s.avsTarget ≤ t + 5) && decide (at_ + 1000000 ≤ s.ns)

/-- The wake from HEATH cannot go on: a MODE_SET SERVICE fails, other wake sources stay recorded (R589). -/
def State.wakeFails (s : State) : State := s.warnCore.answerOn .wake .FAILED 0 []

/-- AVS_ADJUST: VOUT_COMMAND with a target, acknowledged within three attempts or not, and the level then read back. -/
def execAvsAdjust (target : Nat) (acked : Bool) (readback : Nat) (s : State) : Host.Outcome State Fault Refusal :=
  .next (if !s.running || s.avsStopped || decide (stageCode s.rst.stage < 2) || !s.targetLegal target then s
    else if !acked then State.wakeFails { s with avsStopped := true }
    else
      let woken := s.rst.mode == .HEATH && s.waking
      let s := ({ s with avsTarget := target, avsAt := some s.ns }).emit (.pmbus target)
      if !woken then s else if coreFloor ≤ readback then s.enterService else s.wakeFails)

/-- PMB_ALERT (R588). -/
def execPmbAlert (s : State) : Host.Outcome State Fault Refusal := .next (if s.running then s.warnCore else s)

/-! ### Sensors (R547, R604) -/

/-- TELEMETRY_SAMPLE: a sensor's new value. One of the die sensors at 112 °C trips, and during a trip a reading of 95 °C or more puts
off its end. -/
def execTelemetrySample (sensor : Nat) (value : Int) (s : State) : Host.Outcome State Fault Refusal :=
  let s := if s.rst.thermalHold ∧ sensor < 8 ∧ 1520 ≤ value then { s with rst := { s.rst with hotAt := s.ns } } else s
  let s := if s.running ∧ s.sensorPresent sensor ∧ sensor ≠ 12 then
      s.judgeSensor sensor { s.sensor sensor with value := value, valid := true }
    else s
  if sensor < 8 ∧ 1792 ≤ value then execThermalTrip sensor value s else .next s

end Sys2Proof.Machine
end

