-- ==== Sys2Proof/Machine/Transports.lean ====
section
/-! DEFINITION. The transports of commands (14_commands.md): packets of the ADMIN ring with every other completion of a read (R482), MCTP
(R483 to R485), the CONTROL VC (R486 to R490), and the steps that end a pause of command service, after which held commands run (R217,
R237, R298, R503, R529). -/
namespace Sys2Proof.Machine

open Sys2Proof

/-! ### Running what arrives (R480, R491) -/

/-- The meaning of a command's row. -/
def runCmd (i : Instr) (s : State) : Host.Outcome State Fault Refusal :=
  match i with
  | .modeSet h mode => execModeSet h mode s
  | i => runSetting i s

/-- Held commands run in the order in which they came, until one stands the service still again. -/
def State.runHeld : (fuel : Nat) → State → Host.Outcome State Fault Refusal
  | 0, s => .next s
  | n + 1, s =>
    if s.standsStill then .next s
    else match s.cc.held with
      | [] => .next s
      | i :: rest =>
        match runCmd i { s with cc := { s.cc with held := rest } } with
        | .next t => State.runHeld n t
        | o => o

/-- After a step that may end a pause. -/
def State.goOn (s : State) : Host.Outcome State Fault Refusal := s.runHeld (s.cc.held.length + 1)

/-- A packet that no row is: the same packet again is answered as before, another with the same sequence BAD_PACKET. -/
def State.oddPacket (s : State) (h : CmdHdr) (b : List Byte) (k : State → State) : State :=
  match s.cc.kept.find? fun k => sameOrigin k.hdr h with
  | some k =>
    if k.bytes = b then (s.evidence 0x4005C).sendReply h k.reply
    else s.sendReply h (replyBytes (rd b 0 2) h.seq .BAD_PACKET (firstDiff k.bytes b 0) [])
  | none => k s

/-- A packet refused at steps 1 to 4 of R480. -/
def State.refusePacket (s : State) (h : CmdHdr) (b : List Byte) (st : Status) (detail : Nat) : State :=
  s.oddPacket h b fun s => (s.evidence 0x40058).sendReply h (replyBytes (rd b 0 2) h.seq st detail [])

/-- A WINDOW_DIRTY of no defined action. -/
def State.undefinedAction (s : State) (c : Cmd) (b : List Byte) : State :=
  s.oddPacket c.h b fun s =>
    match s.refusal c with
    | some (st, detail) =>
      (if st = .BAD_PACKET then s.evidence 0x40058 else s).sendReply c.h (replyBytes c.opcode c.h.seq st detail [])
    | none =>
      let reply := replyBytes c.opcode c.h.seq .BAD_PARAM (paramAt c.opcode 1) []
      ((s.tally 0x40050).keep (.mctpMessageReceive 0 0 false b) c.h reply).sendReply c.h reply

/-- A packet arrives: its bytes are checked, and the command it is runs. A packet that is none is answered at once. -/
def State.packetArrives (s : State) (src : CmdSrc) (b : List Byte) : Host.Outcome State Fault Refusal :=
  let h := hdrOf src b
  if !s.serves src then .next s
  else match frameFault b with
    | some (st, detail) => .next (s.refusePacket h b st detail)
    | none =>
      match opInfo (rd b 0 2) with
      | none => .next (s.refusePacket h b .UNKNOWN_OPCODE 0)
      | some i =>
        match parseArea i h (b.drop 16) with
        | none => .next (s.refusePacket h b .BAD_PACKET 8)
        | some c =>
          match paddingFault i c (b.drop 16) with
          | some off => .next (s.refusePacket h b .BAD_PACKET ((earlier (s.packetFault i c) (some off)).getD off))
          | none =>
            match instrOf c with
            | some row => runCmd row s
            | none => .next (s.undefinedAction c b)

/-! ### Reads that return (R227, R482) -/

/-- The handle's COMMAND entry is still in flight. -/
def State.commandInFlight (s : State) (k : Nat) : Bool := Tbl.has s.ops (k % 1048576) && s.handle (k % 1048576) == k

/-- A command packet has been read from the manager's memory, or cannot be: then the entry ends and the command is not executed. -/
def State.packetReturn (s : State) (k : Nat) (d : DmaRead) (c : Completion) : Host.Outcome State Fault Refusal :=
  match c with
  | .data b =>
    let s := if s.commandInFlight k then { s with ops := Tbl.modify s.ops (k % 1048576) fun o => { o with phase := .executing } } else s
    s.packetArrives (.admin k) b
  | .error e off =>
    let s := s.reportRead d.fn e
    let s := if s.commandInFlight k then s.opReadFails d e off else s
    .next ({ s with cc := { s.cc with adminReply := Tbl.del s.cc.adminReply k } }).settle

/-- A completion of a read in progress. -/
def State.readReturn (s : State) (tag : Nat) (c : Completion) (busy : Bool) : Host.Outcome State Fault Refusal :=
  match Tbl.get? s.dma tag with
  | none => .next s
  | some d =>
    if !s.alive || !d.sent then .next s
    else match d.use with
      | .packet k =>
        let s := s.endRead tag d
        if s.staleRead d then .next (s.tally (attBase d.att + 0x28)) else s.packetReturn k d c
      | .blob =>
        let s := s.endRead tag d
        if s.staleRead d then .next ((s.tally (attBase d.att + 0x28)).blobRead d.offset (.error .refused 0))
        else
          let s := match c with
            | .error e _ => s.reportRead d.fn e
            | .data _ => s
          .next (s.blobRead d.offset c)
      | _ => .next (s.dataReturn tag d c busy)

/-- DMA_READ_COMPLETION. -/
def execDmaReadCompletion (tag : Nat) (c : Completion) (balerBusy : Bool) (s : State) : Host.Outcome State Fault Refusal :=
  s.readReturn tag c balerBusy

/-- COMPLETION_TIMEOUT: no completion has come in time (R227). -/
def execCompletionTimeout (tag : Nat) (s : State) : Host.Outcome State Fault Refusal := s.readReturn tag (.error .timeout 0) false

/-! ### MCTP (R483 to R485) -/

/-- Does the management interface answer MCTP: from the end of stage BOOT (R554), and after a boot that found no image (R539)? -/
def State.mctpOn (s : State) : Bool := s.serves (.mctp 0 0)

/-- The response to an MCTP control message: its completion code and data (DSP0236). -/
def State.mctpRespond (s : State) (requester tag command : Nat) (code : Nat) (data : List Byte) : State :=
  if s.mctpOn then s.emit (.mctpControl requester tag command (le 1 code ++ data)) else s

/-- SET_ENDPOINT_ID: the null and the broadcast endpoint ID are refused. -/
def execSetEndpointId (requester tag eid : Nat) (s : State) : Host.Outcome State Fault Refusal :=
  .next (if !s.mctpOn then s
    else if eid = 0 ∨ 255 ≤ eid then s.mctpRespond requester tag 1 2 []
    else ({ s with cc := { s.cc with eid := eid } }).mctpRespond requester tag 1 0 (le 1 0 ++ le 1 eid ++ le 1 0))

/-- GET_ENDPOINT_ID. -/
def execGetEndpointId (requester tag : Nat) (s : State) : Host.Outcome State Fault Refusal :=
  .next (s.mctpRespond requester tag 2 0 (le 1 s.cc.eid ++ le 1 0 ++ le 1 0))

/-- GET_ENDPOINT_UUID. -/
def execGetEndpointUuid (requester tag : Nat) (s : State) : Host.Outcome State Fault Refusal :=
  .next (s.mctpRespond requester tag 3 0 (fitTo 16 Config.uuid))

/-- GET_MCTP_VERSION_SUPPORT: of the base protocol, control messages and the command message type. -/
def execGetMctpVersionSupport (requester tag msgType : Nat) (s : State) : Host.Outcome State Fault Refusal :=
  .next (if msgType = 0xFF ∨ msgType = 0 ∨ msgType = 0x7F then
      (let l := Config.mctpVersions msgType
       s.mctpRespond requester tag 4 0 (le 1 l.length ++ l.flatMap fun v => (le 4 v.toNat).reverse))
    else s.mctpRespond requester tag 4 0x80 [])

/-- GET_MESSAGE_TYPE_SUPPORT: Vendor Defined – IANA. -/
def execGetMessageTypeSupport (requester tag : Nat) (s : State) : Host.Outcome State Fault Refusal :=
  .next (s.mctpRespond requester tag 5 0 (le 1 1 ++ le 1 0x7F))

/-- GET_VENDOR_DEFINED_MESSAGE_SUPPORT: one set, under the enterprise number of CC_MCTP. -/
def execGetVendorDefinedMessageSupport (requester tag selector : Nat) (s : State) : Host.Outcome State Fault Refusal :=
  .next (if selector = 0 then
      s.mctpRespond requester tag 6 0 (le 1 0xFF ++ le 1 1 ++ (le 4 Config.enterprise).reverse ++ le 2 Config.commandSetVersion)
    else s.mctpRespond requester tag 6 2 [])

/-- I3C_ENTDAA: the controller assigns the dynamic address (R483, R554). -/
def execI3cEntdaa (address : Nat) (s : State) : Host.Outcome State Fault Refusal :=
  .next (if s.mctpOn then { s with cc := { s.cc with address := address % 128, addressValid := true } } else s)

/-- MCTP_MESSAGE_RECEIVE: one packet; with the integrity check bit set it is discarded (R484, R485). -/
def execMctpMessageReceive (requester tag : Nat) (ic : Bool) (packet : List Byte) (s : State) : Host.Outcome State Fault Refusal :=
  if !s.mctpOn then .next s
  else if ic then .next (s.evidence 0x40058)
  else s.packetArrives (.mctp (requester % 256) (tag % 8)) packet

/-! ### The CONTROL VC (R486 to R490) -/

/-- The sending router's location, from the source field of a CONTROL cell's payload. -/
def controlSource (b : List Byte) : Nat := rd b 4 4 / 32

/-- The envelope keeps R486: reserved bits zero, first at fragment 0 alone, a TOKEN in one fragment. -/
def envelopeOk (b : List Byte) : Bool :=
  let flags := rd b 1 1
  decide (flags < 4) && decide (rd b 4 4 < 2097152) && rd b 4 4 % 32 == 0 && (bit flags 0 == (rd b 2 2 == 0))
    && decide (rd b 2 2 ≤ 1170) && (rd b 0 1 != 3 || flags == 3)

/-- A token message with a defined kind and its reserved bits zero (R465). -/
def tokenOk (b : List Byte) : Bool :=
  decide (1 ≤ rd b 0 1) && decide (rd b 0 1 ≤ 8) && decide (rd b 2 1 < 8) && decide (rd b 4 4 < 2097152) && decide (rd b 8 2 < 2048)

/-- The message that fragments make: without the padding of the last, where the length that its header gives falls within it. -/
def trimMessage (cls : Nat) (b : List Byte) : List Byte :=
  let n := 16 + (if cls = 1 then rd b 8 2 else minN (rd b 10 2) 65528)
  if n ≤ b.length ∧ b.length < n + 56 ∧ (b.drop n).all (· == 0#8) then b.take n else b

/-- A transfer is complete: a command runs, a reply ends its COMMAND_FORWARD. -/
def State.transferDone (s : State) (a : Assembly) (n : Nat) : Host.Outcome State Fault Refusal :=
  let b := trimMessage a.cls ((List.range (n + 1)).flatMap fun i => Tbl.getD a.frags i [])
  if a.cls = 1 then s.packetArrives (.control a.source a.transfer) b
  else match Tbl.get? s.cc.forwards a.transfer with
    | some x => if x.location = a.source then .next (s.endForward a.transfer .OK b) else .next s
    | none => .next s

/-- The assembly that a fragment belongs to: one in progress, or a new one. -/
def CC.assembly (c : CC) (source transfer cls now : Nat) : Assembly :=
  match c.assemblies.find? fun a => a.source == source && a.transfer == transfer && a.cls == cls with
  | some a => a
  | none => { source := source, transfer := transfer, cls := cls, frags := [], last := none, at_ := now }

/-- A fragment of a COMMAND or REPLY transfer (R486, R488). -/
def State.fragment (s : State) (transfer : Nat) (b : List Byte) : Host.Outcome State Fault Refusal :=
  let a := s.cc.assembly (controlSource b) transfer (rd b 0 1) s.ns
  let others := s.cc.assemblies.filter fun x => !(x.source == a.source && x.transfer == a.transfer && x.cls == a.cls)
  if 8 ≤ others.length then .next (s.evidence 0x40058)
  else
    let k := rd b 2 2
    let a := { a with frags := Tbl.put a.frags k (b.drop 8), last := if bit (rd b 1 1) 1 then some k else a.last, at_ := s.ns }
    match a.last with
    | some n =>
      if (List.range (n + 1)).all fun i => Tbl.has a.frags i then
        State.transferDone { s with cc := { s.cc with assemblies := others } } a n
      else .next { s with cc := { s.cc with assemblies := others ++ [a] } }
    | none => .next { s with cc := { s.cc with assemblies := others ++ [a] } }

/-- CONTROL_CELL_RECEIVE: the oldest cell handed to the control cores (R487). -/
def execControlCellReceive (s : State) : Host.Outcome State Fault Refusal :=
  match s.cc.controlIn with
  | [] => .next s
  | q :: rest =>
    let s := State.refreshXoff { s with cc := { s.cc with controlIn := rest } }
    let c := q.cell
    let b := c.payload
    let cls := rd b 0 1
    if !s.alive then .next s
    else if c.h.dest % 32 ≠ 0 ∨ cls = 0 ∨ 3 < cls then .next (s.evidence 0x40058)
    else if !envelopeOk b then .next s
    else if cls = 3 then
      .next (if tokenOk (b.drop 8) then { s with tk := { s.tk with inbox := s.tk.inbox ++ [(rd b 4 4 / 32 % 65536, tokenOf (b.drop 8))] } } else s)
    else s.fragment c.h.tag b

/-- CONTROL_TRANSFER_TIMEOUT: no fragment for 1 ms (R488). -/
def execControlTransferTimeout (source transfer : Nat) (s : State) : Host.Outcome State Fault Refusal :=
  let old := fun (a : Assembly) => a.source == source && a.transfer == transfer && decide (a.at_ + 1000000 ≤ s.ns)
  if s.alive then
    let n := (s.cc.assemblies.filter old).length
    .next (({ s with cc := { s.cc with assemblies := s.cc.assemblies.filter fun (a : Assembly) => !old a } }).evidences 0x40058 n)
  else .next s

/-! ### Steps that may end a pause -/

/-- RESET_POINT (R237). -/
def execResetPoint (fn : Nat) (s : State) : Host.Outcome State Fault Refusal :=
  if s.alive then ((s.resetPoint fn).settle).goOn else .next s

/-- GENERATION_HOLD_RELEASE (R217, R221). -/
def execGenerationHoldRelease (fn : Nat) (s : State) : Host.Outcome State Fault Refusal :=
  if s.alive then (s.generationRelease fn).goOn else .next s

/-- REVOCATION_COMPLETE (R298). -/
def execRevocationComplete (domain id : Nat) (s : State) : Host.Outcome State Fault Refusal :=
  if s.alive then (s.revocationDone domain id).goOn else .next s

/-- REVOCATION_HOLD_RELEASE (R299). -/
def execRevocationHoldRelease (domain id : Nat) (s : State) : Host.Outcome State Fault Refusal :=
  if s.alive then (s.revocationRelease domain id).goOn else .next s

/-! ### The lockstep pairs (R503, R529) -/

/-- The other pair serves from now on, and the pair that served reloads. -/
def State.swapPairs (s : State) : State :=
  ({ s with cc := { s.cc with activePair := !s.cc.activePair, takeover := none, reloading := true, standbyReady := false } }).evidence
    0x40060

/-- LOCKSTEP_TAKEOVER_COMPLETE (R529). -/
def execLockstepTakeoverComplete (s : State) : Host.Outcome State Fault Refusal :=
  if s.alive && s.cc.takeover.isSome then s.swapPairs.goOn else .next s

/-- The slot that a FW_ACTIVATE names. -/
def activatedSlot : Instr → Nat
  | .fwActivate _ slot => slot
  | _ => 0

/-- The new image serves: it is the boot slot, and CC_FW_MINVER is raised to its level (R503). -/
def State.activated (s : State) (slot : Nat) : State :=
  let s := { s with cc := { s.cc with running := slot, boot := slot }, jr := { s.jr with bootSlot := some slot },
                    minVer := maxN s.minVer (s.fwSlot slot).security }
  (s.swapPairs.journalPush .anchor).answerOn .activate .OK 0 []

/-- Its self-test fails: the old image runs on (R498). -/
def State.activateFails (s : State) (slot : Nat) : State :=
  let s := s.setFwSlot slot { s.fwSlot slot with state := .INVALID }
  ({ s with cc := { s.cc with reloading := true } }).answerOn .activate .FAILED 0 []

/-- STANDBY_SELFTEST_COMPLETE (R503). -/
def execStandbySelftestComplete (pass : Bool) (s : State) : Host.Outcome State Fault Refusal :=
  match s.cc.waiting.find? fun w => w.on == .activate with
  | some w =>
    if !s.alive then .next s
    else
      let slot := activatedSlot w.instr
      (if pass then s.activated slot else s.activateFails slot).goOn
  | none => .next s

/-- FAILED_PAIR_SELF_TEST_COMPLETE: the pair that reloads is the standby only if it passes (R529). -/
def execFailedPairSelfTestComplete (pass : Bool) (s : State) : Host.Outcome State Fault Refusal :=
  if s.alive && s.cc.reloading then .next { s with cc := { s.cc with reloading := false, standbyReady := pass } } else .next s

end Sys2Proof.Machine
end

