-- ==== Sys2Proof/Machine/Dispatch.lean ====
section
/-! DEFINITION. exec: one arm per command, each one direct call of its meaning. -/
namespace Sys2Proof.Machine

open Sys2Proof

def exec (i : Instr) (s : State) : Host.Outcome State Fault Refusal :=
  match i with
  | .deviceInfo h => Sys2Proof.Machine.execDeviceInfo h s
  | .modeSet h mode => Sys2Proof.Machine.execModeSet h mode s
  | .managerSet h attachment => Sys2Proof.Machine.execManagerSet h attachment s
  | .deviceReset h => Sys2Proof.Machine.execDeviceReset h s
  | .blockReset h kind index => Sys2Proof.Machine.execBlockReset h kind index s
  | .configSave h flags => Sys2Proof.Machine.execConfigSave h flags s
  | .pinConfigSet h pin config => Sys2Proof.Machine.execPinConfigSet h pin config s
  | .balerConfigSet h elideEn => Sys2Proof.Machine.execBalerConfigSet h elideEn s
  | .controlAccessSet h enableMask locations => Sys2Proof.Machine.execControlAccessSet h enableMask locations s
  | .registerRead h width offset count => Sys2Proof.Machine.execRegisterRead h width offset count s
  | .registerWrite h width offset value => Sys2Proof.Machine.execRegisterWrite h width offset value s
  | .commandForward h location packet => Sys2Proof.Machine.execCommandForward h location packet s
  | .linkEnable h port => Sys2Proof.Machine.execLinkEnable h port s
  | .linkDisable h port => Sys2Proof.Machine.execLinkDisable h port s
  | .linkRoleSet h port role peer => Sys2Proof.Machine.execLinkRoleSet h port role peer s
  | .linkGraceSet h port graceUs => Sys2Proof.Machine.execLinkGraceSet h port graceUs s
  | .linkLanesRestore h port => Sys2Proof.Machine.execLinkLanesRestore h port s
  | .linkStandby h port => Sys2Proof.Machine.execLinkStandby h port s
  | .linkWake h port => Sys2Proof.Machine.execLinkWake h port s
  | .linkQuery h port => Sys2Proof.Machine.execLinkQuery h port s
  | .linkModuleSet h port lanes pre main post => Sys2Proof.Machine.execLinkModuleSet h port lanes pre main post s
  | .queueWeightSet h egress queue quantum burst => Sys2Proof.Machine.execQueueWeightSet h egress queue quantum burst s
  | .queueMapSet h levelMap transitMap => Sys2Proof.Machine.execQueueMapSet h levelMap transitMap s
  | .signalBoxConfigSet h yellowPoolMib => Sys2Proof.Machine.execSignalBoxConfigSet h yellowPoolMib s
  | .hostPortSplitSet h port split => Sys2Proof.Machine.execHostPortSplitSet h port split s
  | .routeTopologySet h nx ny nz routers location datelineX datelineY datelineZ => Sys2Proof.Machine.execRouteTopologySet h nx ny nz routers location datelineX datelineY datelineZ s
  | .routeEntrySet h station valid dx dy dz => Sys2Proof.Machine.execRouteEntrySet h station valid dx dy dz s
  | .routeQuery h station => Sys2Proof.Machine.execRouteQuery h station s
  | .routeAdaptSet h detourEn downWeight detourPenalty escapeWait => Sys2Proof.Machine.execRouteAdaptSet h detourEn downWeight detourPenalty escapeWait s
  | .poolConfigSet h alpha => Sys2Proof.Machine.execPoolConfigSet h alpha s
  | .reasmQuotaSet h attachment quota => Sys2Proof.Machine.execReasmQuotaSet h attachment quota s
  | .multicastInstall h group ingress mask => Sys2Proof.Machine.execMulticastInstall h group ingress mask s
  | .multicastRemove h group => Sys2Proof.Machine.execMulticastRemove h group s
  | .multicastMemberSet h group domain senderFn member sender window => Sys2Proof.Machine.execMulticastMemberSet h group domain senderFn member sender window s
  | .multicastMemberClear h group => Sys2Proof.Machine.execMulticastMemberClear h group s
  | .multicastSenderSet h group rankTable first count => Sys2Proof.Machine.execMulticastSenderSet h group rankTable first count s
  | .multicastSenderClear h group => Sys2Proof.Machine.execMulticastSenderClear h group s
  | .timeConfig h role priority => Sys2Proof.Machine.execTimeConfig h role priority s
  | .timeSetSeconds h seconds => Sys2Proof.Machine.execTimeSetSeconds h seconds s
  | .timetableFractionSet h fraction => Sys2Proof.Machine.execTimetableFractionSet h fraction s
  | .reservationInstall h id rate rank burst destKind hops sourceFn destFn source dest flight installTime egress => Sys2Proof.Machine.execReservationInstall h id rate rank burst destKind hops sourceFn destFn source dest flight installTime egress s
  | .reservationRemove h id => Sys2Proof.Machine.execReservationRemove h id s
  | .reservationQuery h id => Sys2Proof.Machine.execReservationQuery h id s
  | .timeQuery h => Sys2Proof.Machine.execTimeQuery h s
  | .functionCreate h attachment vf vectors stagingMib fabricTokens resvSlots ringQuota ctxQuota => Sys2Proof.Machine.execFunctionCreate h attachment vf vectors stagingMib fabricTokens resvSlots ringQuota ctxQuota s
  | .functionDestroy h => Sys2Proof.Machine.execFunctionDestroy h s
  | .functionEnable h => Sys2Proof.Machine.execFunctionEnable h s
  | .functionDisable h => Sys2Proof.Machine.execFunctionDisable h s
  | .functionReset h => Sys2Proof.Machine.execFunctionReset h s
  | .functionQuery h => Sys2Proof.Machine.execFunctionQuery h s
  | .functionFreeze h limitMs => Sys2Proof.Machine.execFunctionFreeze h limitMs s
  | .functionSave h buffer bufferLength => Sys2Proof.Machine.execFunctionSave h buffer bufferLength s
  | .functionRestore h blob blobLength => Sys2Proof.Machine.execFunctionRestore h blob blobLength s
  | .functionThaw h => Sys2Proof.Machine.execFunctionThaw h s
  | .functionPoolSet h vectors stagingMib fabricTokens vfLimit resvSlots => Sys2Proof.Machine.execFunctionPoolSet h vectors stagingMib fabricTokens vfLimit resvSlots s
  | .functionQuotaSet h ringQuota ctxQuota => Sys2Proof.Machine.execFunctionQuotaSet h ringQuota ctxQuota s
  | .functionHorizonSet h horizonMs => Sys2Proof.Machine.execFunctionHorizonSet h horizonMs s
  | .functionSchedSet h baseLevel laneEn share dwq => Sys2Proof.Machine.execFunctionSchedSet h baseLevel laneEn share dwq s
  | .functionShaperSet h minRate maxRate => Sys2Proof.Machine.execFunctionShaperSet h minRate maxRate s
  | .functionPolicerSet h cls enable action cir pir cbs pbs => Sys2Proof.Machine.execFunctionPolicerSet h cls enable action cir pir cbs pbs s
  | .functionCcSet h targetNs alpha beta initParcels maxParcels => Sys2Proof.Machine.execFunctionCcSet h targetNs alpha beta initParcels maxParcels s
  | .flowSpillSet h base capacity enable => Sys2Proof.Machine.execFlowSpillSet h base capacity enable s
  | .rankTableWrite h table first entries => Sys2Proof.Machine.execRankTableWrite h table first entries s
  | .rankTableCreate h table entries => Sys2Proof.Machine.execRankTableCreate h table entries s
  | .rankTableDestroy h table => Sys2Proof.Machine.execRankTableDestroy h table s
  | .matchContextSet h enable log2Comms backoff postedMax unexpectedMax unexpectedKib => Sys2Proof.Machine.execMatchContextSet h enable log2Comms backoff postedMax unexpectedMax unexpectedKib s
  | .matchCommSet h comm rankTable domain ownRank => Sys2Proof.Machine.execMatchCommSet h comm rankTable domain ownRank s
  | .matchCommClear h comm => Sys2Proof.Machine.execMatchCommClear h comm s
  | .domainCreate h domain log2Ids job => Sys2Proof.Machine.execDomainCreate h domain log2Ids job s
  | .domainDestroy h domain => Sys2Proof.Machine.execDomainDestroy h domain s
  | .windowOpen h domain rights dirtyTrack id extents => Sys2Proof.Machine.execWindowOpen h domain rights dirtyTrack id extents s
  | .windowRevoke h domain id => Sys2Proof.Machine.execWindowRevoke h domain id s
  | .windowQuery h domain id => Sys2Proof.Machine.execWindowQuery h domain id s
  | .windowModify h domain rights lazy id iovas => Sys2Proof.Machine.execWindowModify h domain rights lazy id iovas s
  | .windowDirtyEnable h domain id => Sys2Proof.Machine.execWindowDirtyEnable h domain id s
  | .windowDirtyDisable h domain id => Sys2Proof.Machine.execWindowDirtyDisable h domain id s
  | .windowDirtyFetch h domain id buffer bufferLength => Sys2Proof.Machine.execWindowDirtyFetch h domain id buffer bufferLength s
  | .windowDirtyClearMarks h domain id => Sys2Proof.Machine.execWindowDirtyClearMarks h domain id s
  | .collGroupCreate h group epoch parent anchor depth size children => Sys2Proof.Machine.execCollGroupCreate h group epoch parent anchor depth size children s
  | .collGroupDestroy h group => Sys2Proof.Machine.execCollGroupDestroy h group s
  | .collMemberSet h group attachment rank => Sys2Proof.Machine.execCollMemberSet h group attachment rank s
  | .collGroupReset h group epoch => Sys2Proof.Machine.execCollGroupReset h group epoch s
  | .collGroupQuery h group => Sys2Proof.Machine.execCollGroupQuery h group s
  | .tokenGroupRightsSet h group enable first last pfMask => Sys2Proof.Machine.execTokenGroupRightsSet h group enable first last pfMask s
  | .tokenFabricHomeSet h slot enable => Sys2Proof.Machine.execTokenFabricHomeSet h slot enable s
  | .tokenFabricBind h binding homeIndex homeLoc => Sys2Proof.Machine.execTokenFabricBind h binding homeIndex homeLoc s
  | .tokenFabricUnbind h binding => Sys2Proof.Machine.execTokenFabricUnbind h binding s
  | .tokenQuery h kind index => Sys2Proof.Machine.execTokenQuery h kind index s
  | .tokenForceRelease h token => Sys2Proof.Machine.execTokenForceRelease h token s
  | .faultSeveritySet h source severity => Sys2Proof.Machine.execFaultSeveritySet h source severity s
  | .faultStatusRead h => Sys2Proof.Machine.execFaultStatusRead h s
  | .faultClear h source => Sys2Proof.Machine.execFaultClear h source s
  | .eventRouteSet h event ring enable => Sys2Proof.Machine.execEventRouteSet h event ring enable s
  | .violationLogRead h first count => Sys2Proof.Machine.execViolationLogRead h first count s
  | .journalRead h region count record offset => Sys2Proof.Machine.execJournalRead h region count record offset s
  | .journalMark h note => Sys2Proof.Machine.execJournalMark h note s
  | .evidenceHold h enable => Sys2Proof.Machine.execEvidenceHold h enable s
  | .fwQuery h => Sys2Proof.Machine.execFwQuery h s
  | .fwStageBegin h slot length => Sys2Proof.Machine.execFwStageBegin h slot length s
  | .fwStageData h offset data => Sys2Proof.Machine.execFwStageData h offset data s
  | .fwStageEnd h => Sys2Proof.Machine.execFwStageEnd h s
  | .fwActivate h slot => Sys2Proof.Machine.execFwActivate h slot s
  | .fwBootSlotSet h slot => Sys2Proof.Machine.execFwBootSlotSet h slot s
  | .makerProcedure h procedure => Sys2Proof.Machine.execMakerProcedure h procedure s
  | .fwStageAbort h => Sys2Proof.Machine.execFwStageAbort h s
  | .meterRingSet h base log2Size enable => Sys2Proof.Machine.execMeterRingSet h base log2Size enable s
  | .meterRead h => Sys2Proof.Machine.execMeterRead h s
  | .telemetryRead h => Sys2Proof.Machine.execTelemetryRead h s
  | .telemetryThresholdSet h sensor warn => Sys2Proof.Machine.execTelemetryThresholdSet h sensor warn s
  | .setEndpointId requester tag eid => Sys2Proof.Machine.execSetEndpointId requester tag eid s
  | .getEndpointId requester tag => Sys2Proof.Machine.execGetEndpointId requester tag s
  | .getEndpointUuid requester tag => Sys2Proof.Machine.execGetEndpointUuid requester tag s
  | .getMctpVersionSupport requester tag msgType => Sys2Proof.Machine.execGetMctpVersionSupport requester tag msgType s
  | .getMessageTypeSupport requester tag => Sys2Proof.Machine.execGetMessageTypeSupport requester tag s
  | .getVendorDefinedMessageSupport requester tag selector => Sys2Proof.Machine.execGetVendorDefinedMessageSupport requester tag selector s
  | .i3cEntdaa address => Sys2Proof.Machine.execI3cEntdaa address s
  | .mctpMessageReceive requester tag ic packet => Sys2Proof.Machine.execMctpMessageReceive requester tag ic packet s
  | .controlCellReceive => Sys2Proof.Machine.execControlCellReceive s
  | .controlTransferTimeout source transfer => Sys2Proof.Machine.execControlTransferTimeout source transfer s
  | .commandForwardResend transfer => Sys2Proof.Machine.execCommandForwardResend transfer s
  | .commandForwardTimeout transfer => Sys2Proof.Machine.execCommandForwardTimeout transfer s
  | .doorbell fn value => Sys2Proof.Machine.execDoorbell fn value s
  | .producerIndexReadReturn fn ring c => Sys2Proof.Machine.execProducerIndexReadReturn fn ring c s
  | .descriptorFetchReturn fn ring c => Sys2Proof.Machine.execDescriptorFetchReturn fn ring c s
  | .ringCreate fn ring => Sys2Proof.Machine.execRingCreate fn ring s
  | .ringDestroy fn ring => Sys2Proof.Machine.execRingDestroy fn ring s
  | .ringQuery fn ring => Sys2Proof.Machine.execRingQuery fn ring s
  | .counterAlloc fn counter => Sys2Proof.Machine.execCounterAlloc fn counter s
  | .counterFree fn counter => Sys2Proof.Machine.execCounterFree fn counter s
  | .counterSet fn counter => Sys2Proof.Machine.execCounterSet fn counter s
  | .nop fn ring d reserved => Sys2Proof.Machine.execNop fn ring d reserved s
  | .wait fn ring d counter threshold reserved => Sys2Proof.Machine.execWait fn ring d counter threshold reserved s
  | .counterAdd fn ring d amount reserved => Sys2Proof.Machine.execCounterAdd fn ring d amount reserved s
  | .put fn ring d a => Sys2Proof.Machine.execPut fn ring d a s
  | .get fn ring d a => Sys2Proof.Machine.execGet fn ring d a s
  | .putWithSignal fn ring d a => Sys2Proof.Machine.execPutWithSignal fn ring d a s
  | .fence fn ring d reserved => Sys2Proof.Machine.execFence fn ring d reserved s
  | .mcastPut fn ring d a => Sys2Proof.Machine.execMcastPut fn ring d a s
  | .atomic fn ring d a => Sys2Proof.Machine.execAtomic fn ring d a s
  | .send fn ring d a => Sys2Proof.Machine.execSend fn ring d a s
  | .recv fn ring d a => Sys2Proof.Machine.execRecv fn ring d a s
  | .cancel fn ring d a => Sys2Proof.Machine.execCancel fn ring d a s
  | .collective fn ring d a => Sys2Proof.Machine.execCollective fn ring d a s
  | .command fn ring d a => Sys2Proof.Machine.execCommand fn ring d a s
  | .parcelSend pe flow seq mcast => Sys2Proof.Machine.execParcelSend pe flow seq mcast s
  | .dmaReadCompletion tag c balerBusy => Sys2Proof.Machine.execDmaReadCompletion tag c balerBusy s
  | .egressCellSelect egress => Sys2Proof.Machine.execEgressCellSelect egress s
  | .trainRelease port => Sys2Proof.Machine.execTrainRelease port s
  | .timeExchangeSend port => Sys2Proof.Machine.execTimeExchangeSend port s
  | .summarySend port => Sys2Proof.Machine.execSummarySend port s
  | .helloSend port => Sys2Proof.Machine.execHelloSend port s
  | .keepaliveSend port => Sys2Proof.Machine.execKeepaliveSend port s
  | .laneChangeResend port => Sys2Proof.Machine.execLaneChangeResend port s
  | .dataTrainReceive port th cells => Sys2Proof.Machine.execDataTrainReceive port th cells s
  | .trainCrcFail port isData => Sys2Proof.Machine.execTrainCrcFail port isData s
  | .fecUncorrectable port codewords dataTrains => Sys2Proof.Machine.execFecUncorrectable port codewords dataTrains s
  | .idleTrainReceive port th => Sys2Proof.Machine.execIdleTrainReceive port th s
  | .timeTrainReceive port th body => Sys2Proof.Machine.execTimeTrainReceive port th body s
  | .nakTrainReceive port th body => Sys2Proof.Machine.execNakTrainReceive port th body s
  | .nakRepeatTimeout port => Sys2Proof.Machine.execNakRepeatTimeout port s
  | .laneChangeTrainReceive port th body => Sys2Proof.Machine.execLaneChangeTrainReceive port th body s
  | .violationTrainReceive port th body => Sys2Proof.Machine.execViolationTrainReceive port th body s
  | .summaryTrainReceive port th body => Sys2Proof.Machine.execSummaryTrainReceive port th body s
  | .keepaliveTrainReceive port th body => Sys2Proof.Machine.execKeepaliveTrainReceive port th body s
  | .helloTrainReceive port th body => Sys2Proof.Machine.execHelloTrainReceive port th body s
  | .lanesLocked port lanes => Sys2Proof.Machine.execLanesLocked port lanes s
  | .trainingTimeout port => Sys2Proof.Machine.execTrainingTimeout port s
  | .handshakeComplete port => Sys2Proof.Machine.execHandshakeComplete port s
  | .noGoodTrainTimeout port => Sys2Proof.Machine.execNoGoodTrainTimeout port s
  | .graceExpiry port => Sys2Proof.Machine.execGraceExpiry port s
  | .laneLockLoss port lanes => Sys2Proof.Machine.execLaneLockLoss port lanes s
  | .laneErrorRateCheck port lanes => Sys2Proof.Machine.execLaneErrorRateCheck port lanes s
  | .laneChangeTimeout port => Sys2Proof.Machine.execLaneChangeTimeout port s
  | .exposureCheck port => Sys2Proof.Machine.execExposureCheck port s
  | .standbyKeepaliveLoss port => Sys2Proof.Machine.execStandbyKeepaliveLoss port s
  | .linkDisableDrainEnd port => Sys2Proof.Machine.execLinkDisableDrainEnd port s
  | .escapeWaitExpiry egress position => Sys2Proof.Machine.execEscapeWaitExpiry egress position s
  | .reasmCellReceive pe => Sys2Proof.Machine.execReasmCellReceive pe s
  | .reasmEntryTimeout pe tag mcast => Sys2Proof.Machine.execReasmEntryTimeout pe tag mcast s
  | .tagQuarantineExpiry pe tag => Sys2Proof.Machine.execTagQuarantineExpiry pe tag s
  | .openReceive pe => Sys2Proof.Machine.execOpenReceive pe s
  | .putParcelReceive pe => Sys2Proof.Machine.execPutParcelReceive pe s
  | .putElidedReceive pe => Sys2Proof.Machine.execPutElidedReceive pe s
  | .getReqReceive pe => Sys2Proof.Machine.execGetReqReceive pe s
  | .getRespReceive pe => Sys2Proof.Machine.execGetRespReceive pe s
  | .atomicParcelReceive pe => Sys2Proof.Machine.execAtomicParcelReceive pe s
  | .signalReceive pe => Sys2Proof.Machine.execSignalReceive pe s
  | .closeReceive pe => Sys2Proof.Machine.execCloseReceive pe s
  | .mcastPutReceive pe => Sys2Proof.Machine.execMcastPutReceive pe s
  | .mcastRepairReceive pe => Sys2Proof.Machine.execMcastRepairReceive pe s
  | .ackSend pe => Sys2Proof.Machine.execAckSend pe s
  | .ackReceive pe => Sys2Proof.Machine.execAckReceive pe s
  | .nackReceive pe => Sys2Proof.Machine.execNackReceive pe s
  | .parcelTimeout pe flow seq mcast => Sys2Proof.Machine.execParcelTimeout pe flow seq mcast s
  | .retryAfterExpiry pe flow seq => Sys2Proof.Machine.execRetryAfterExpiry pe flow seq s
  | .resourceBackoffExpiry pe flow seq => Sys2Proof.Machine.execResourceBackoffExpiry pe flow seq s
  | .horizonExpiry place => Sys2Proof.Machine.execHorizonExpiry place s
  | .flowIdleClose pe flow => Sys2Proof.Machine.execFlowIdleClose pe flow s
  | .flowContextFetchComplete pe flow isSource => Sys2Proof.Machine.execFlowContextFetchComplete pe flow isSource s
  | .msgEagerReceive pe => Sys2Proof.Machine.execMsgEagerReceive pe s
  | .msgRtsReceive pe => Sys2Proof.Machine.execMsgRtsReceive pe s
  | .msgGetReceive pe => Sys2Proof.Machine.execMsgGetReceive pe s
  | .msgFinReceive pe => Sys2Proof.Machine.execMsgFinReceive pe s
  | .rtsExpiry fn position => Sys2Proof.Machine.execRtsExpiry fn position s
  | .recvExpiry place => Sys2Proof.Machine.execRecvExpiry place s
  | .collUpReceive pe => Sys2Proof.Machine.execCollUpReceive pe s
  | .collDownReceive pe => Sys2Proof.Machine.execCollDownReceive pe s
  | .chunkResendTimeout group edge chunk => Sys2Proof.Machine.execChunkResendTimeout group edge chunk s
  | .tickBoundary block workEnd => Sys2Proof.Machine.execTickBoundary block workEnd s
  | .meterSnapshot => Sys2Proof.Machine.execMeterSnapshot s
  | .meterOccupancySample fn => Sys2Proof.Machine.execMeterOccupancySample fn s
  | .windowCacheSweep client => Sys2Proof.Machine.execWindowCacheSweep client s
  | .revocationComplete domain id => Sys2Proof.Machine.execRevocationComplete domain id s
  | .revocationHoldRelease domain id => Sys2Proof.Machine.execRevocationHoldRelease domain id s
  | .atsInvalidate attachment address length => Sys2Proof.Machine.execAtsInvalidate attachment address length s
  | .generationHoldRelease fn => Sys2Proof.Machine.execGenerationHoldRelease fn s
  | .resetPoint fn => Sys2Proof.Machine.execResetPoint fn s
  | .freezeDrained fn => Sys2Proof.Machine.execFreezeDrained fn s
  | .freezeLimitExpiry fn => Sys2Proof.Machine.execFreezeLimitExpiry fn s
  | .drainComplete => Sys2Proof.Machine.execDrainComplete s
  | .flrVf fn => Sys2Proof.Machine.execFlrVf fn s
  | .flrPf attachment => Sys2Proof.Machine.execFlrPf attachment s
  | .vfEnableClear attachment => Sys2Proof.Machine.execVfEnableClear attachment s
  | .busMasterEnableClear fn => Sys2Proof.Machine.execBusMasterEnableClear fn s
  | .perstAssert port => Sys2Proof.Machine.execPerstAssert port s
  | .pcieLinkDown attachment => Sys2Proof.Machine.execPcieLinkDown attachment s
  | .pcieLinkUp attachment speed width flit => Sys2Proof.Machine.execPcieLinkUp attachment speed width flit s
  | .hostLinkRetrainSlow attachment speed width flit => Sys2Proof.Machine.execHostLinkRetrainSlow attachment speed width flit s
  | .msixUnmask fn vector => Sys2Proof.Machine.execMsixUnmask fn vector s
  | .badRegisterAccess fn isRead => Sys2Proof.Machine.execBadRegisterAccess fn isRead s
  | .viewDeniedAccess fn offset isRead => Sys2Proof.Machine.execViewDeniedAccess fn offset isRead s
  | .counterFlagClear party offset value => Sys2Proof.Machine.execCounterFlagClear party offset value s
  | .counterLowWordRead party offset => Sys2Proof.Machine.execCounterLowWordRead party offset s
  | .parkPeakRead party => Sys2Proof.Machine.execParkPeakRead party s
  | .hostRegisterWrite fn target value => Sys2Proof.Machine.execHostRegisterWrite fn target value s
  | .localTokenAcquireRead fn token => Sys2Proof.Machine.execLocalTokenAcquireRead fn token s
  | .localTokenWaitRead fn token => Sys2Proof.Machine.execLocalTokenWaitRead fn token s
  | .localTokenReleaseWrite fn token value => Sys2Proof.Machine.execLocalTokenReleaseWrite fn token value s
  | .tokenWaitCancelWrite fn fabric index value => Sys2Proof.Machine.execTokenWaitCancelWrite fn fabric index value s
  | .fabricBindingAcquireRead fn binding => Sys2Proof.Machine.execFabricBindingAcquireRead fn binding s
  | .fabricBindingWaitRead fn binding => Sys2Proof.Machine.execFabricBindingWaitRead fn binding s
  | .fabricBindingReleaseWrite fn binding value => Sys2Proof.Machine.execFabricBindingReleaseWrite fn binding value s
  | .tokenMsgAcquire => Sys2Proof.Machine.execTokenMsgAcquire s
  | .tokenMsgWait => Sys2Proof.Machine.execTokenMsgWait s
  | .tokenMsgCancel => Sys2Proof.Machine.execTokenMsgCancel s
  | .tokenMsgRelease => Sys2Proof.Machine.execTokenMsgRelease s
  | .tokenMsgRenew => Sys2Proof.Machine.execTokenMsgRenew s
  | .tokenMsgAnswer => Sys2Proof.Machine.execTokenMsgAnswer s
  | .tokenMsgGrant => Sys2Proof.Machine.execTokenMsgGrant s
  | .tokenMsgGrantAck => Sys2Proof.Machine.execTokenMsgGrantAck s
  | .tokenRequestRetry binding => Sys2Proof.Machine.execTokenRequestRetry binding s
  | .tokenRequestFail binding => Sys2Proof.Machine.execTokenRequestFail binding s
  | .tokenReleaseResend release => Sys2Proof.Machine.execTokenReleaseResend release s
  | .tokenRenewSend binding => Sys2Proof.Machine.execTokenRenewSend binding s
  | .tokenWaitResend binding => Sys2Proof.Machine.execTokenWaitResend binding s
  | .tokenLeaseLapse home => Sys2Proof.Machine.execTokenLeaseLapse home s
  | .tokenGrantLapse home => Sys2Proof.Machine.execTokenGrantLapse home s
  | .tokenLeaseDrop binding => Sys2Proof.Machine.execTokenLeaseDrop binding s
  | .rootOfferTimeout port => Sys2Proof.Machine.execRootOfferTimeout port s
  | .holdoverExpiry => Sys2Proof.Machine.execHoldoverExpiry s
  | .backupTakeover => Sys2Proof.Machine.execBackupTakeover s
  | .ppsEdge => Sys2Proof.Machine.execPpsEdge s
  | .faultAssert info => Sys2Proof.Machine.execFaultAssert info s
  | .collectorSelfFault failedWord => Sys2Proof.Machine.execCollectorSelfFault failedWord s
  | .haltLanesPowerDown => Sys2Proof.Machine.execHaltLanesPowerDown s
  | .haltRecordWrite => Sys2Proof.Machine.execHaltRecordWrite s
  | .degradeDrainComplete source => Sys2Proof.Machine.execDegradeDrainComplete source s
  | .bankRetire bank => Sys2Proof.Machine.execBankRetire bank s
  | .sramScrub bank row corrected => Sys2Proof.Machine.execSramScrub bank row corrected s
  | .hbmScrub stack row corrected => Sys2Proof.Machine.execHbmScrub stack row corrected s
  | .lockstepTakeoverComplete => Sys2Proof.Machine.execLockstepTakeoverComplete s
  | .standbySelftestComplete pass => Sys2Proof.Machine.execStandbySelftestComplete pass s
  | .powerOn => Sys2Proof.Machine.execPowerOn s
  | .powerLoss => Sys2Proof.Machine.execPowerLoss s
  | .resetNAssert => Sys2Proof.Machine.execResetNAssert s
  | .resetNRelease code => Sys2Proof.Machine.execResetNRelease code s
  | .bringupStageComplete => Sys2Proof.Machine.execBringupStageComplete s
  | .pllLockRetry locked => Sys2Proof.Machine.execPllLockRetry locked s
  | .watchdogExpiry => Sys2Proof.Machine.execWatchdogExpiry s
  | .thermalTrip sensor value => Sys2Proof.Machine.execThermalTrip sensor value s
  | .thermalTripRelease => Sys2Proof.Machine.execThermalTripRelease s
  | .telemetrySample sensor value => Sys2Proof.Machine.execTelemetrySample sensor value s
  | .avsAdjust target acked readback => Sys2Proof.Machine.execAvsAdjust target acked readback s
  | .pmbAlert => Sys2Proof.Machine.execPmbAlert s
  | .journalPulseComplete ok => Sys2Proof.Machine.execJournalPulseComplete ok s
  | .evidencePageFlush => Sys2Proof.Machine.execEvidencePageFlush s
  | .anchorHourlyWrite => Sys2Proof.Machine.execAnchorHourlyWrite s
  | .journalPatrol block page mains spares => Sys2Proof.Machine.execJournalPatrol block page mains spares s
  | .completionTimeout tag => Sys2Proof.Machine.execCompletionTimeout tag s
  | .pcieCorrectableError attachment => Sys2Proof.Machine.execPcieCorrectableError attachment s
  | .laneChangeComplete port => Sys2Proof.Machine.execLaneChangeComplete port s
  | .journalPageReadComplete mains spares => Sys2Proof.Machine.execJournalPageReadComplete mains spares s
  | .failedPairSelfTestComplete pass => Sys2Proof.Machine.execFailedPairSelfTestComplete pass s

end Sys2Proof.Machine
end

