-- ==== Sys2Proof/Machine/Step.lean ====
section
/-! DEFINITION. One step: the command at the front of the queue runs on the rest; an empty queue lets one core cycle of
fabric time pass (R16, R22). -/
namespace Sys2Proof.Machine

/-- Take the command at the front of the queue and run it; on an empty queue, fabric time advances by one core cycle. -/
def step (s : State) : Host.Outcome State Fault Refusal :=
  match s.pending with
  | [] => .next (coreCycle s)
  | c :: rest => exec c { s with pending := rest }

/-- s with the command that a table word spells put at the front of its queue. -/
def State.withFetchWord (s : State) (nbits w : Nat) : State :=
  match decodeTableWord nbits w with
  | some c => { s with pending := c :: s.pending }
  | none => s

end Sys2Proof.Machine
end

