-- ==== Sys2Proof/WellFormed.lean ====
section
/-! DEFINITION. When a command or event is one that the block can be given: every operand lies in the field that carries it, by the
widths of R473, R477 and R499 and the ranges of the objects that the spec numbers. -/
namespace Sys2Proof

/-- The value fits in w bytes. -/
def fits (w n : Nat) : Bool := decide (n < 256 ^ w)

def fitAll (w : Nat) (l : List Nat) : Bool := l.all (fits w)

/-- An array of n elements of w bytes fits the 16-bit param_length after `start` bytes of parameters, padding included (R473, R477). -/
def room (start w n : Nat) : Bool := decide (start + w * n ≤ 65528)

/-- A source that a transport can name: MCTP endpoint IDs and message tags, router locations and transfer numbers. -/
def CmdSrc.wf : CmdSrc → Bool
  | .admin _ => true
  | .mctp eid tag => decide (eid < 256) && decide (tag < 8)
  | .control loc transfer => fits 2 loc && fits 2 transfer
  | .replay _ => true

/-- The header's fields (R473). -/
def CmdHdr.wf (h : CmdHdr) : Bool := h.src.wf && fits 4 h.seq && fits 1 h.target && fits 2 h.fn

/-- The common part of a descriptor (R264). -/
def DescHdr.wf (d : DescHdr) : Bool := fits 1 d.flags && fits 2 d.counter && fits 4 d.rank && fits 8 d.user

/-- Offsets and lengths of the remote operations (R308). -/
def PutArea.wf (a : PutArea) : Bool :=
  fits 1 a.opFlags && fits 1 a.localGen && fits 3 a.localId && fits 1 a.remoteGen && fits 4 a.remoteKey && decide (a.length ≤ 2 ^ 32)
    && fits 8 a.localOffset && fits 8 a.remoteOffset && fits 2 a.signalCounter && fits 8 a.signalValue

def AtomicArea.wf (a : AtomicArea) : Bool :=
  fits 1 a.opFlags && fits 1 a.atomicOp && fits 1 a.width && fits 1 a.localGen && fits 3 a.localId && fits 1 a.remoteGen
    && fits 4 a.remoteKey && fits 8 a.localOffset && fits 8 a.remoteOffset && fits 8 a.operand && fits 8 a.compare

def McastArea.wf (a : McastArea) : Bool :=
  fits 1 a.opFlags && fits 1 a.localGen && fits 3 a.localId && fits 2 a.group && decide (a.length ≤ 2 ^ 32) && fits 8 a.localOffset
    && fits 8 a.remoteOffset

def SendArea.wf (a : SendArea) : Bool :=
  fits 1 a.opFlags && fits 1 a.localGen && fits 3 a.localId && fits 2 a.comm && fits 4 a.length && fits 8 a.localOffset && fits 8 a.tag

def RecvArea.wf (a : RecvArea) : Bool :=
  fits 1 a.opFlags && fits 1 a.localGen && fits 3 a.localId && fits 2 a.comm && fits 4 a.length && fits 4 a.source
    && fits 8 a.localOffset && fits 8 a.tag && fits 8 a.mask && fits 8 a.recordOffset

def CancelArea.wf (a : CancelArea) : Bool := fits 2 a.ring && fits 4 a.index

def CollArea.wf (a : CollArea) : Bool :=
  fits 1 a.kind && fits 1 a.type && fits 1 a.outType && fits 1 a.redOp && fits 1 a.mode && fits 1 a.flags && fits 2 a.group
    && fits 4 a.seq && fits 4 a.count && fits 4 a.root && fits 2 a.stepCounter && fits 1 a.sendGen && fits 1 a.recvGen
    && fits 3 a.sendId && fits 3 a.recvId && fits 8 a.sendOffset && fits 8 a.recvOffset

def CommandArea.wf (a : CommandArea) : Bool := fits 8 a.packet && fits 8 a.reply && fits 4 a.packetLength && fits 4 a.replyLength

/-- Pages as read from the part: 4,096 main bytes and the spare bytes, those in use being the first 288 (R561). -/
def pagesWf (mains spares : List (List Byte)) : Bool :=
  mains.length == spares.length && (mains.all fun m => m.length == 4096) && spares.all fun p => decide (288 ≤ p.length)

/-- The fields of a train header (R98). -/
def TrainHdr.wf (t : TrainHdr) : Bool := decide (t.cells < 16) && decide (t.ackKind < 4) && decide (t.kind < 16)

/-- A fault source of R506. -/
def FaultInfo.wf (x : FaultInfo) : Bool := decide (x.source < 384) && fits 4 x.inst && fits 8 x.address && fits 8 x.syndrome

def Party.wf : Party → Bool
  | .fn f => decide (f < 2048)
  | .mctp | .cores => true

/-- A host write: the access lies in its space, 64 MiB of registers (R24) or the function aperture (R223), 4 or 8 bytes wide. -/
def WriteTarget.wf : WriteTarget → Bool
  | .bar0 offset width => decide (offset < 2 ^ 26) && (width == 4 || width == 8)
  | .aperture offset width => decide (offset < 2 ^ 17) && (width == 4 || width == 8)
  | .config _ => true

/-- Is the command or event well formed? -/
def Instr.wf (i : Instr) : Bool :=
  match i with
  | .deviceInfo h => h.wf
  | .modeSet h mode => h.wf && fits 1 mode
  | .managerSet h attachment => h.wf && fits 1 attachment
  | .deviceReset h => h.wf
  | .blockReset h kind index => h.wf && fits 1 kind && fits 1 index
  | .configSave h flags => h.wf && fits 4 flags
  | .pinConfigSet h pin config => h.wf && fits 2 pin && fits 2 config
  | .balerConfigSet h elideEn => h.wf && fits 1 elideEn
  | .controlAccessSet h enableMask locations => h.wf && fits 1 enableMask && locations.length == 4 && fitAll 2 locations
  | .registerRead h width offset count => h.wf && fits 1 width && fits 4 offset && fits 4 count
  | .registerWrite h width offset value => h.wf && fits 1 width && fits 4 offset && fits 8 value
  | .commandForward h location packet => h.wf && fits 2 location && room 8 1 packet.length
  | .linkEnable h port => h.wf && fits 1 port
  | .linkDisable h port => h.wf && fits 1 port
  | .linkRoleSet h port role peer => h.wf && fits 1 port && fits 1 role && fits 2 peer
  | .linkGraceSet h port graceUs => h.wf && fits 1 port && fits 4 graceUs
  | .linkLanesRestore h port => h.wf && fits 1 port
  | .linkStandby h port => h.wf && fits 1 port
  | .linkWake h port => h.wf && fits 1 port
  | .linkQuery h port => h.wf && fits 1 port
  | .linkModuleSet h port lanes pre main post => h.wf && fits 1 port && fits 1 lanes && fits 2 pre && fits 2 main && fits 2 post
  | .queueWeightSet h egress queue quantum burst => h.wf && fits 1 egress && fits 1 queue && fits 2 quantum && fits 2 burst
  | .queueMapSet h levelMap transitMap => h.wf && fits 8 levelMap && fits 8 transitMap
  | .signalBoxConfigSet h yellowPoolMib => h.wf && fits 1 yellowPoolMib
  | .hostPortSplitSet h port split => h.wf && fits 1 port && fits 1 split
  | .routeTopologySet h nx ny nz routers location datelineX datelineY datelineZ => h.wf && fits 1 nx && fits 1 ny && fits 1 nz
      && fits 1 routers && fits 2 location && fits 1 datelineX && fits 1 datelineY && fits 1 datelineZ
  | .routeEntrySet h station valid dx dy dz => h.wf && fits 2 station && fits 1 valid && fits 1 dx && fits 1 dy && fits 1 dz
  | .routeQuery h station => h.wf && fits 2 station
  | .routeAdaptSet h detourEn downWeight detourPenalty escapeWait => h.wf && fits 1 detourEn && fits 1 downWeight
      && fits 1 detourPenalty && fits 1 escapeWait
  | .poolConfigSet h alpha => h.wf && fits 1 alpha
  | .reasmQuotaSet h attachment quota => h.wf && fits 1 attachment && fits 2 quota
  | .multicastInstall h group ingress mask => h.wf && fits 2 group && fits 1 ingress && fits 16 mask
  | .multicastRemove h group => h.wf && fits 2 group
  | .multicastMemberSet h group domain senderFn member sender window => h.wf && fits 2 group && fits 2 domain
      && fits 2 senderFn && fits 4 member && fits 4 sender && fits 4 window
  | .multicastMemberClear h group => h.wf && fits 2 group
  | .multicastSenderSet h group rankTable first count => h.wf && fits 2 group && fits 2 rankTable && fits 4 first && fits 4 count
  | .multicastSenderClear h group => h.wf && fits 2 group
  | .timeConfig h role priority => h.wf && fits 1 role && fits 1 priority
  | .timeSetSeconds h seconds => h.wf && fits 8 seconds
  | .timetableFractionSet h fraction => h.wf && fits 1 fraction
  | .reservationInstall h id rate rank burst destKind hops sourceFn destFn source dest flight installTime egress => h.wf
      && fits 2 id && fits 2 rate && fits 1 rank && fits 1 burst && fits 1 destKind && fits 1 hops && fits 2 sourceFn && fits 2 destFn && fits 4 source && fits 4 dest && fits 4 flight && fits 8 installTime && fits 16 egress
  | .reservationRemove h id => h.wf && fits 2 id
  | .reservationQuery h id => h.wf && fits 2 id
  | .timeQuery h => h.wf
  | .functionCreate h attachment vf vectors stagingMib fabricTokens resvSlots ringQuota ctxQuota => h.wf && fits 1 attachment
      && fits 1 vf && fits 2 vectors && fits 2 stagingMib && fits 1 fabricTokens && fits 2 resvSlots && fits 2 ringQuota && fits 4 ctxQuota
  | .functionDestroy h => h.wf
  | .functionEnable h => h.wf
  | .functionDisable h => h.wf
  | .functionReset h => h.wf
  | .functionQuery h => h.wf
  | .functionFreeze h limitMs => h.wf && fits 2 limitMs
  | .functionSave h buffer bufferLength => h.wf && fits 8 buffer && fits 8 bufferLength
  | .functionRestore h blob blobLength => h.wf && fits 8 blob && fits 8 blobLength
  | .functionThaw h => h.wf
  | .functionPoolSet h vectors stagingMib fabricTokens vfLimit resvSlots => h.wf && fits 2 vectors && fits 2 stagingMib
      && fits 1 fabricTokens && fits 1 vfLimit && fits 2 resvSlots
  | .functionQuotaSet h ringQuota ctxQuota => h.wf && fits 2 ringQuota && fits 4 ctxQuota
  | .functionHorizonSet h horizonMs => h.wf && fits 2 horizonMs
  | .functionSchedSet h baseLevel laneEn share dwq => h.wf && fits 1 baseLevel && fits 1 laneEn && fits 2 share && fits 1 dwq
  | .functionShaperSet h minRate maxRate => h.wf && fits 4 minRate && fits 4 maxRate
  | .functionPolicerSet h cls enable action cir pir cbs pbs => h.wf && fits 1 cls && fits 1 enable && fits 1 action
      && fits 4 cir && fits 4 pir && fits 2 cbs && fits 2 pbs
  | .functionCcSet h targetNs alpha beta initParcels maxParcels => h.wf && fits 2 targetNs && fits 1 alpha && fits 1 beta
      && fits 1 initParcels && fits 1 maxParcels
  | .flowSpillSet h base capacity enable => h.wf && fits 8 base && fits 4 capacity && fits 1 enable
  | .rankTableWrite h table first entries => h.wf && fits 2 table && fits 4 first && room 16 8 entries.length && fitAll 8 entries
  | .rankTableCreate h table entries => h.wf && fits 2 table && fits 4 entries
  | .rankTableDestroy h table => h.wf && fits 2 table
  | .matchContextSet h enable log2Comms backoff postedMax unexpectedMax unexpectedKib => h.wf && fits 1 enable
      && fits 1 log2Comms && fits 2 backoff && fits 4 postedMax && fits 4 unexpectedMax && fits 4 unexpectedKib
  | .matchCommSet h comm rankTable domain ownRank => h.wf && fits 2 comm && fits 2 rankTable && fits 2 domain && fits 4 ownRank
  | .matchCommClear h comm => h.wf && fits 2 comm
  | .domainCreate h domain log2Ids job => h.wf && fits 2 domain && fits 1 log2Ids && fits 4 job
  | .domainDestroy h domain => h.wf && fits 2 domain
  | .windowOpen h domain rights dirtyTrack id extents => h.wf && fits 2 domain && fits 1 rights && fits 1 dirtyTrack
      && fits 4 id && fits 1 extents.length
      && extents.all fun e => fits 8 e.1 && fits 8 e.2
  | .windowRevoke h domain id => h.wf && fits 2 domain && fits 4 id
  | .windowQuery h domain id => h.wf && fits 2 domain && fits 4 id
  | .windowModify h domain rights lazy id iovas => h.wf && fits 2 domain && fits 1 rights && fits 1 lazy && fits 4 id
      && fits 1 iovas.length && fitAll 8 iovas
  | .windowDirtyEnable h domain id => h.wf && fits 2 domain && fits 4 id
  | .windowDirtyDisable h domain id => h.wf && fits 2 domain && fits 4 id
  | .windowDirtyFetch h domain id buffer bufferLength => h.wf && fits 2 domain && fits 4 id && fits 8 buffer && fits 8 bufferLength
  | .windowDirtyClearMarks h domain id => h.wf && fits 2 domain && fits 4 id
  | .collGroupCreate h group epoch parent anchor depth size children => h.wf && fits 2 group && fits 1 epoch && fits 1 parent
      && fits 1 anchor && fits 1 depth && fits 4 size
      && fits 1 children.length && fitAll 1 children
  | .collGroupDestroy h group => h.wf && fits 2 group
  | .collMemberSet h group attachment rank => h.wf && fits 2 group && fits 1 attachment && fits 4 rank
  | .collGroupReset h group epoch => h.wf && fits 2 group && fits 1 epoch
  | .collGroupQuery h group => h.wf && fits 2 group
  | .tokenGroupRightsSet h group enable first last pfMask => h.wf && fits 1 group && fits 1 enable && fits 2 first
      && fits 2 last && fits 4 pfMask
  | .tokenFabricHomeSet h slot enable => h.wf && fits 1 slot && fits 1 enable
  | .tokenFabricBind h binding homeIndex homeLoc => h.wf && fits 1 binding && fits 1 homeIndex && fits 2 homeLoc
  | .tokenFabricUnbind h binding => h.wf && fits 1 binding
  | .tokenQuery h kind index => h.wf && fits 1 kind && fits 2 index
  | .tokenForceRelease h token => h.wf && fits 2 token
  | .faultSeveritySet h source severity => h.wf && fits 2 source && fits 1 severity
  | .faultStatusRead h => h.wf
  | .faultClear h source => h.wf && fits 2 source
  | .eventRouteSet h event ring enable => h.wf && fits 2 event && fits 2 ring && fits 1 enable
  | .violationLogRead h first count => h.wf && fits 1 first && fits 2 count
  | .journalRead h region count record offset => h.wf && fits 1 region && fits 2 count && fits 4 record && fits 4 offset
  | .journalMark h note => h.wf && note.length == 48
  | .evidenceHold h enable => h.wf && fits 1 enable
  | .fwQuery h => h.wf
  | .fwStageBegin h slot length => h.wf && fits 1 slot && fits 4 length
  | .fwStageData h offset data => h.wf && fits 4 offset && room 8 1 data.length
  | .fwStageEnd h => h.wf
  | .fwActivate h slot => h.wf && fits 1 slot
  | .fwBootSlotSet h slot => h.wf && fits 1 slot
  | .makerProcedure h procedure => h.wf && room 4 1 procedure.length
  | .fwStageAbort h => h.wf
  | .meterRingSet h base log2Size enable => h.wf && fits 8 base && fits 1 log2Size && fits 1 enable
  | .meterRead h => h.wf
  | .telemetryRead h => h.wf
  | .telemetryThresholdSet h sensor warn => h.wf && fits 1 sensor && fits 2 warn
  | .setEndpointId requester tag eid => decide (requester < 256) && decide (tag < 8) && decide (eid < 256)
  | .getEndpointId requester tag => decide (requester < 256) && decide (tag < 8)
  | .getEndpointUuid requester tag => decide (requester < 256) && decide (tag < 8)
  | .getMctpVersionSupport requester tag msgType => decide (requester < 256) && decide (tag < 8) && decide (msgType < 256)
  | .getMessageTypeSupport requester tag => decide (requester < 256) && decide (tag < 8)
  | .getVendorDefinedMessageSupport requester tag selector => decide (requester < 256) && decide (tag < 8) && decide (selector < 256)
  | .i3cEntdaa address => decide (address < 128)
  | .mctpMessageReceive requester tag _ _ => decide (requester < 256) && decide (tag < 8)
  | .controlCellReceive => true
  | .controlTransferTimeout source transfer => decide (source < 2 ^ 16) && decide (transfer < 2 ^ 16)
  | .commandForwardResend transfer => decide (transfer < 2 ^ 16)
  | .commandForwardTimeout transfer => decide (transfer < 2 ^ 16)
  | .doorbell fn value => decide (fn < 2048) && decide (value < 2 ^ 32)
  | .producerIndexReadReturn fn ring _ => decide (fn < 2048) && decide (ring < 16384)
  | .descriptorFetchReturn fn ring _ => decide (fn < 2048) && decide (ring < 16384)
  | .ringCreate fn ring => decide (fn < 2048) && decide (ring < 16384)
  | .ringDestroy fn ring => decide (fn < 2048) && decide (ring < 16384)
  | .ringQuery fn ring => decide (fn < 2048) && decide (ring < 16384)
  | .counterAlloc fn counter => decide (fn < 2048) && decide (counter < 4096)
  | .counterFree fn counter => decide (fn < 2048) && decide (counter < 4096)
  | .counterSet fn counter => decide (fn < 2048) && decide (counter < 4096)
  | .nop fn ring d _ => decide (fn < 2048) && decide (ring < 16384) && d.wf
  | .wait fn ring d counter threshold _ => decide (fn < 2048) && decide (ring < 16384) && d.wf && decide (counter < 2 ^ 16)
      && decide (threshold < 2 ^ 64)
  | .counterAdd fn ring d amount _ => decide (fn < 2048) && decide (ring < 16384) && d.wf && decide (amount < 2 ^ 64)
  | .put fn ring d a => decide (fn < 2048) && decide (ring < 16384) && d.wf && a.wf
  | .get fn ring d a => decide (fn < 2048) && decide (ring < 16384) && d.wf && a.wf
  | .putWithSignal fn ring d a => decide (fn < 2048) && decide (ring < 16384) && d.wf && a.wf
  | .fence fn ring d _ => decide (fn < 2048) && decide (ring < 16384) && d.wf
  | .mcastPut fn ring d a => decide (fn < 2048) && decide (ring < 16384) && d.wf && a.wf
  | .atomic fn ring d a => decide (fn < 2048) && decide (ring < 16384) && d.wf && a.wf
  | .send fn ring d a => decide (fn < 2048) && decide (ring < 16384) && d.wf && a.wf
  | .recv fn ring d a => decide (fn < 2048) && decide (ring < 16384) && d.wf && a.wf
  | .cancel fn ring d a => decide (fn < 2048) && decide (ring < 16384) && d.wf && a.wf
  | .collective fn ring d a => decide (fn < 2048) && decide (ring < 16384) && d.wf && a.wf
  | .command fn ring d a => decide (fn < 2048) && decide (ring < 16384) && d.wf && a.wf
  | .parcelSend pe flow seq _ => decide (pe < 32) && decide (flow < 2 ^ 22) && decide (seq < 4096)
  | .dmaReadCompletion _ _ _ => true
  | .egressCellSelect egress => decide (egress < 96)
  | .trainRelease port => decide (port < 64)
  | .timeExchangeSend port => decide (port < 64)
  | .summarySend port => decide (port < 64)
  | .helloSend port => decide (port < 64)
  | .keepaliveSend port => decide (port < 64)
  | .laneChangeResend port => decide (port < 64)
  | .dataTrainReceive port th cells => decide (port < 64) && th.wf && cells.all fun c => c.payload.length == 64
  | .trainCrcFail port _ => decide (port < 64)
  | .fecUncorrectable port _ _ => decide (port < 64)
  | .idleTrainReceive port th => decide (port < 64) && th.wf
  | .timeTrainReceive port th _ => decide (port < 64) && th.wf
  | .nakTrainReceive port th _ => decide (port < 64) && th.wf
  | .nakRepeatTimeout port => decide (port < 64)
  | .laneChangeTrainReceive port th _ => decide (port < 64) && th.wf
  | .violationTrainReceive port th _ => decide (port < 64) && th.wf
  | .summaryTrainReceive port th _ => decide (port < 64) && th.wf
  | .keepaliveTrainReceive port th _ => decide (port < 64) && th.wf
  | .helloTrainReceive port th _ => decide (port < 64) && th.wf
  | .lanesLocked port _ => decide (port < 64)
  | .trainingTimeout port => decide (port < 64)
  | .handshakeComplete port => decide (port < 64)
  | .noGoodTrainTimeout port => decide (port < 64)
  | .graceExpiry port => decide (port < 64)
  | .laneLockLoss port _ => decide (port < 64)
  | .laneErrorRateCheck port _ => decide (port < 64)
  | .laneChangeTimeout port => decide (port < 64)
  | .exposureCheck port => decide (port < 64)
  | .standbyKeepaliveLoss port => decide (port < 64)
  | .linkDisableDrainEnd port => decide (port < 64)
  | .escapeWaitExpiry egress _ => decide (egress < 96)
  | .reasmCellReceive pe => decide (pe < 32)
  | .reasmEntryTimeout pe tag _ => decide (pe < 32) && decide (tag < 2 ^ 16)
  | .tagQuarantineExpiry pe tag => decide (pe < 32) && decide (tag < 2 ^ 16)
  | .openReceive pe => decide (pe < 32)
  | .putParcelReceive pe => decide (pe < 32)
  | .putElidedReceive pe => decide (pe < 32)
  | .getReqReceive pe => decide (pe < 32)
  | .getRespReceive pe => decide (pe < 32)
  | .atomicParcelReceive pe => decide (pe < 32)
  | .signalReceive pe => decide (pe < 32)
  | .closeReceive pe => decide (pe < 32)
  | .mcastPutReceive pe => decide (pe < 32)
  | .mcastRepairReceive pe => decide (pe < 32)
  | .ackSend pe => decide (pe < 32)
  | .ackReceive pe => decide (pe < 32)
  | .nackReceive pe => decide (pe < 32)
  | .parcelTimeout pe flow seq _ => decide (pe < 32) && decide (flow < 2 ^ 22) && decide (seq < 4096)
  | .retryAfterExpiry pe flow seq => decide (pe < 32) && decide (flow < 2 ^ 22) && decide (seq < 4096)
  | .resourceBackoffExpiry pe flow seq => decide (pe < 32) && decide (flow < 2 ^ 22) && decide (seq < 4096)
  | .horizonExpiry place => decide (place < 2 ^ 20)
  | .flowIdleClose pe flow => decide (pe < 32) && decide (flow < 2 ^ 22)
  | .flowContextFetchComplete pe flow _ => decide (pe < 32) && decide (flow < 2 ^ 22)
  | .msgEagerReceive pe => decide (pe < 32)
  | .msgRtsReceive pe => decide (pe < 32)
  | .msgGetReceive pe => decide (pe < 32)
  | .msgFinReceive pe => decide (pe < 32)
  | .rtsExpiry fn _ => decide (fn < 2048)
  | .recvExpiry place => decide (place < 2 ^ 20)
  | .collUpReceive pe => decide (pe < 32)
  | .collDownReceive pe => decide (pe < 32)
  | .chunkResendTimeout group edge _ => decide (group < 2 ^ 16) && decide (edge < 256)
  | .tickBoundary block _ => decide (block < 128)
  | .meterSnapshot => true
  | .meterOccupancySample fn => decide (fn < 2048)
  | .windowCacheSweep client => decide (client < 34)
  | .revocationComplete domain id => decide (domain < 2 ^ 16) && decide (id < 2 ^ 24)
  | .revocationHoldRelease domain id => decide (domain < 2 ^ 16) && decide (id < 2 ^ 24)
  | .atsInvalidate attachment address length => decide (attachment < 32) && decide (address < 2 ^ 64)
      && decide (length < 18446744073709551617)
  | .generationHoldRelease fn => decide (fn < 2048)
  | .resetPoint fn => decide (fn < 2048)
  | .freezeDrained fn => decide (fn < 2048)
  | .freezeLimitExpiry fn => decide (fn < 2048)
  | .drainComplete => true
  | .flrVf fn => decide (fn < 2048)
  | .flrPf attachment => decide (attachment < 32)
  | .vfEnableClear attachment => decide (attachment < 32)
  | .busMasterEnableClear fn => decide (fn < 2048)
  | .perstAssert port => decide (port < 16)
  | .pcieLinkDown attachment => decide (attachment < 32)
  | .pcieLinkUp attachment speed width _ => decide (attachment < 32) && decide (speed < 16) && decide (width < 17)
  | .hostLinkRetrainSlow attachment speed width _ => decide (attachment < 32) && decide (speed < 16) && decide (width < 17)
  | .msixUnmask fn vector => decide (fn < 2048) && decide (vector < 2048)
  | .badRegisterAccess fn _ => decide (fn < 2048)
  | .viewDeniedAccess fn offset _ => decide (fn < 2048) && decide (offset < 2 ^ 32)
  | .counterFlagClear party offset value => party.wf && decide (offset < 2 ^ 26) && decide (value < 2 ^ 32)
  | .counterLowWordRead party offset => party.wf && decide (offset < 2 ^ 26)
  | .parkPeakRead party => party.wf
  | .hostRegisterWrite fn target value => decide (fn < 2048) && target.wf && decide (value < 2 ^ 64)
  | .localTokenAcquireRead fn token => decide (fn < 2048) && decide (token < 1024)
  | .localTokenWaitRead fn token => decide (fn < 2048) && decide (token < 1024)
  | .localTokenReleaseWrite fn token value => decide (fn < 2048) && decide (token < 1024) && decide (value < 2 ^ 64)
  | .tokenWaitCancelWrite fn _ index value => decide (fn < 2048) && decide (index < 1024) && decide (value < 2 ^ 64)
  | .fabricBindingAcquireRead fn binding => decide (fn < 2048) && decide (binding < 64)
  | .fabricBindingWaitRead fn binding => decide (fn < 2048) && decide (binding < 64)
  | .fabricBindingReleaseWrite fn binding value => decide (fn < 2048) && decide (binding < 64) && decide (value < 2 ^ 64)
  | .tokenMsgAcquire => true
  | .tokenMsgWait => true
  | .tokenMsgCancel => true
  | .tokenMsgRelease => true
  | .tokenMsgRenew => true
  | .tokenMsgAnswer => true
  | .tokenMsgGrant => true
  | .tokenMsgGrantAck => true
  | .tokenRequestRetry binding => decide (binding < 64)
  | .tokenRequestFail binding => decide (binding < 64)
  | .tokenReleaseResend _ => true
  | .tokenRenewSend binding => decide (binding < 64)
  | .tokenWaitResend binding => decide (binding < 64)
  | .tokenLeaseLapse home => decide (home < 64)
  | .tokenGrantLapse home => decide (home < 64)
  | .tokenLeaseDrop binding => decide (binding < 64)
  | .rootOfferTimeout port => decide (port < 64)
  | .holdoverExpiry => true
  | .backupTakeover => true
  | .ppsEdge => true
  | .faultAssert info => info.wf
  | .collectorSelfFault failedWord => decide (failedWord < 256)
  | .haltLanesPowerDown => true
  | .haltRecordWrite => true
  | .degradeDrainComplete source => decide (source < 384)
  | .bankRetire bank => decide (bank < 176)
  | .sramScrub bank _ _ => decide (bank < 176)
  | .hbmScrub stack _ _ => decide (stack < 2)
  | .lockstepTakeoverComplete => true
  | .standbySelftestComplete _ => true
  | .powerOn => true
  | .powerLoss => true
  | .resetNAssert => true
  | .resetNRelease code => decide (code < 256)
  | .bringupStageComplete => true
  | .pllLockRetry _ => true
  | .watchdogExpiry => true
  | .thermalTrip sensor _ => decide (sensor < 16)
  | .thermalTripRelease => true
  | .telemetrySample sensor _ => decide (sensor < 16)
  | .avsAdjust target _ readback => decide (target < 2 ^ 16) && decide (readback < 2 ^ 16)
  | .pmbAlert => true
  | .journalPulseComplete _ => true
  | .evidencePageFlush => true
  | .anchorHourlyWrite => true
  | .journalPatrol block page mains spares => decide (block < 8192) && decide (page + mains.length ≤ 64) && pagesWf mains spares
  | .completionTimeout _ => true
  | .pcieCorrectableError attachment => decide (attachment < 32)
  | .laneChangeComplete port => decide (port < 64)
  | .journalPageReadComplete mains spares => pagesWf mains spares
  | .failedPairSelfTestComplete _ => true

end Sys2Proof
end

