-- ==== Sys2Proof/Safety.lean ====
section
/-! DEFINITION. What the statements are about: a command that comes to be executed (R480), an operation that is accepted, runs that do not
stop, and the invariants that every step keeps. -/
namespace Sys2Proof.Machine

open Sys2Proof

/-- The row `i` is the command `c`, and in `s` it comes to be executed: its transport is served, it duplicates no command running or
answered (R491), command service does not stand still, it passes steps 1 to 7 of R480, and FORCE is set only where it may be (R474). -/
abbrev Accepted (i : Instr) (c : Cmd) (s : State) : Prop :=
  cmdOf i = some c ∧ s.serves c.h.src = true ∧ s.runningDup c = false ∧ s.standsStill = false ∧
    (s.cc.kept.find? fun k => sameOrigin k.hdr c.h) = none ∧ s.refusal c = none ∧ (c.h.force = true → c.forceOk = true)

/-- The state in which an accepted command's own checks and effect run: CC_COMMANDS has counted it. -/
abbrev State.counted (s : State) : State := s.tally 0x40050

/-- A step that does not stop. -/
def SafeStep (s : State) : Prop := ∃ t, step s = .next t

/-- What no step changes: the fuses' variant, and, of a command, the queue behind it. -/
abbrev State.fuses (s : State) : Variant × List Instr := (s.variant, s.pending)

/-- The fuses after `t` agree with those before: the variant is the same, and CC_FW_MINVER is never lowered (R503). -/
abbrev FusesKept (s t : State) : Prop := t.variant = s.variant ∧ s.minVer ≤ t.minVer

/-- Every counter is listed once, by rising offset, with a value that its width holds (R10); one that is not listed reads zero. -/
def CountersFit (t : Tbl Nat) : Prop := (t.map (·.1)).Pairwise (· < ·) ∧ ∀ e ∈ t, 1 ≤ e.2 ∧ e.2 < 2 ^ 64

/-- Of every source at most 64 replies are kept (R491). -/
def RepliesBounded (l : List Kept) : Prop := ∀ x : CmdSrc, (l.filter fun y => srcKey y.hdr.src == srcKey x).length ≤ 64

/-- The invariant that every step keeps. -/
def State.Inv (s : State) : Prop := CountersFit s.ctr ∧ RepliesBounded s.cc.kept

/-- The row that accepts a descriptor whose operation area is `a`. -/
def DescArea.row (f r : Nat) (h : DescHdr) : DescArea → Instr
  | .nop v => .nop f r h v
  | .wait k t v => .wait f r h k t v
  | .counterAdd n v => .counterAdd f r h n v
  | .put a => .put f r h a
  | .get a => .get f r h a
  | .putWithSignal a => .putWithSignal f r h a
  | .fence v => .fence f r h v
  | .mcastPut a => .mcastPut f r h a
  | .atomic a => .atomic f r h a
  | .send a => .send f r h a
  | .recv a => .recv f r h a
  | .cancel a => .cancel f r h a
  | .collective a => .collective f r h a
  | .command a => .command f r h a

/-- A block's boundary and tick number n ticks on, with no overrun (R62). -/
def Lag.onward (l : Lag) : Nat → Lag
  | 0 => l
  | n + 1 => ({ l with boundary := l.next 0, tick := l.tick + 1 }).onward n

end Sys2Proof.Machine
end

