-- ==== Sys2Proof/Certificates/Slice0/Obligations.lean ====
section
/-! DEFINITION. The statements about the model. A statement of what a row does names the whole next state, so that it says what the row leaves
unchanged as well; a shared operation it names is the one that the model's meaning calls. -/
open Sys2Proof Sys2Proof.Machine

/-- A step with a command at the front of the queue is that command's meaning on the queue's rest. Rule: R480. -/
def Obligations.StepRunsTheFront : Prop := ∀ (s : State) (c : Instr) (rest : List Instr),
  step { s with pending := c :: rest } = exec c { s with pending := rest }

/-- Reset has the invariant; and it leaves BRINGUP at stage STRAP, roles and peers of the ports, no operation, no waiting command, no kept
reply and no manager (the model's choice, log entry 8), and registers as their rules give them. Rules: R530, R548, R623. -/
def Obligations.ResetValues : Prop := State.reset.Inv ∧
  (State.reset.rst.mode = .BRINGUP ∧ State.reset.rst.stage = .STRAP ∧ State.reset.pending = [] ∧ State.reset.ops = [] ∧
    State.reset.cc.waiting = [] ∧ State.reset.cc.kept = [] ∧ State.reset.manager = none) ∧
  (∀ p, p < 64 → (State.reset.port p).peer = 0xFFFF ∧ (State.reset.port p).state = .DISABLED ∧
    (State.reset.port p).role = if p < 16 then 1 else 4 + (p - 16) / 8) ∧
  (State.reset.reg .cores 0x20004 = 0x10000000 ∧ State.reset.reg .cores 0x20010 = 1000 ∧ State.reset.reg .cores 0x30030 = 50)

/-- No step changes the variant fuse, none lowers CC_FW_MINVER, and the queue loses at most its front. Rule: R503. -/
def Obligations.FusesNeverLowered : Prop := ∀ (s t : State), step s = .next t → FusesKept s t ∧ t.pending = s.pending.tail

/-- The invariant: the counters are listed once, in rising order, with values that their widths hold, and of every source at most 64 replies
are kept. Every step that answers a next state keeps it, from every state that has it. Rules: R10, R491. -/
def Obligations.InvariantKept : Prop := ∀ (s t : State), s.Inv → step s = .next t → t.Inv

/-- Every command's packet, laid out by R473, R477 and R499, passes the framing checks of R480 and reads back as the same row with the same
operands: no bit of a packet is dropped. Rules: R473, R477, R480, R499. -/
def Obligations.PacketsReadBack : Prop := ∀ (i : Instr) (c : Cmd), cmdOf i = some c → i.wf = true →
  ∃ info, opInfo c.opcode = some info ∧ frameFault c.bytes = none ∧ hdrOf c.h.src c.bytes = c.h ∧
    parseArea info c.h (c.bytes.drop 16) = some c ∧ paddingFault info c (c.bytes.drop 16) = none ∧ instrOf c = some i

/-- The checks of R480 before a command's own, in their order, for every command row: a command that fails one is answered with its status and
has changed nothing else but CC_BAD_PACKETS at step 4; FORCE where R474 does not accept it is BAD_PARAM. What follows the answer is at
most the settling of what waits. Rules: R18, R474, R480. -/
def Obligations.RefusedChangesNothing : Prop := ∀ (i : Instr) (c : Cmd) (s : State) (info : OpInfo), cmdOf i = some c →
  opInfo c.opcode = some info → s.serves c.h.src = true → s.runningDup c = false → s.standsStill = false →
  (s.cc.kept.find? fun k => sameOrigin k.hdr c.h) = none →
  let ends := fun (u : State) => exec i s = .next u ∨ exec i s = .next u.settle ∨ exec i s = .next u.journalSettle ∨ exec i s = .next u.dueReset
  let reply := fun (st : Status) (d : Nat) => replyBytes c.opcode c.h.seq st d []
  (∀ off, s.packetFault info c = some off → ends ((s.evidence 0x40058).sendReply c.h (reply .BAD_PACKET off))) ∧
  (s.packetFault info c = none →
    (s.permitted c = false → ends (s.sendReply c.h (reply .NOT_PERMITTED 0))) ∧
    (s.permitted c = true →
      (c.h.target ≠ 0xFF → s.hasUnit c.h.target = false → ends (s.sendReply c.h (reply .UNIT_ABSENT 0))) ∧
      (c.h.target = 0xFF ∨ s.hasUnit c.h.target = true →
        (s.modeAllows c.opcode = false → ends (s.sendReply c.h (reply .WRONG_MODE 0))) ∧
        (s.modeAllows c.opcode = true → c.h.force = true → c.forceOk = false → ends (s.counted.answer i c .BAD_PARAM 2 [])))))

/-- Duplicates of every command row: a command whose source and sequence match a kept reply is not executed; equal in every byte, it is
answered with that reply and counted in CC_DUPLICATES, otherwise it is answered BAD_PACKET; one equal to a command still running is only
counted. Rule: R491. -/
def Obligations.DuplicatesAnswered : Prop := ∀ (i : Instr) (c : Cmd) (s : State), cmdOf i = some c → s.serves c.h.src = true →
  let ends := fun (u : State) => exec i s = .next u ∨ exec i s = .next u.settle ∨ exec i s = .next u.journalSettle ∨ exec i s = .next u.dueReset
  (s.runningDup c = true → ends (s.evidence 0x4005C)) ∧
  (∀ k, s.runningDup c = false → s.standsStill = false → (s.cc.kept.find? fun k => sameOrigin k.hdr c.h) = some k →
    (k.bytes = c.bytes → ends ((s.evidence 0x4005C).sendReply c.h k.reply)) ∧
    (k.bytes ≠ c.bytes →
      ends (s.sendReply c.h (replyBytes c.opcode c.h.seq .BAD_PACKET (firstDiff k.bytes c.bytes 0) []))))

/-- R491: of each source the replies to the last 64 commands are kept, the oldest giving way, and no other source's. R478: the fields of a
reply's header, each read back from its bytes, and the payload behind them; over MCTP it is sent as it is. Rules: R478, R491. -/
def Obligations.RepliesKeptAndLaidOut : Prop :=
  (∀ (l : List Kept) (k : Kept) (x : CmdSrc),
    let of := fun (x : CmdSrc) (l : List Kept) => l.filter fun y => srcKey y.hdr.src == srcKey x
    (srcKey x ≠ srcKey k.hdr.src → of x (keepReply l k) = of x l) ∧
    ((of k.hdr.src l).length < 64 → of k.hdr.src (keepReply l k) = of k.hdr.src l ++ [k]) ∧
    ((of k.hdr.src l).length = 64 → of k.hdr.src (keepReply l k) = (of k.hdr.src l).tail ++ [k]) ∧
    ((of k.hdr.src l).length ≤ 64 → (of k.hdr.src (keepReply l k)).length ≤ 64)) ∧
  (∀ (s : State) (h : CmdHdr) (opcode detail : Nat) (st : Status) (payload : List Byte),
    opcode < 2 ^ 16 → h.seq < 2 ^ 32 → detail < 2 ^ 32 → payload.length < 2 ^ 16 →
    let b := replyBytes opcode h.seq st detail payload
    (rd b 0 2 = opcode ∧ rd b 2 2 = 0 ∧ rd b 4 4 = h.seq ∧ rd b 8 2 = statusCode st ∧ rd b 10 2 = payload.length ∧ rd b 12 4 = detail ∧
      b.drop 16 = payload ∧ b.length = 16 + payload.length) ∧
    (∀ eid tag, h.src = .mctp eid tag → b.length ≤ maxMessage → s.sendReply h b = s.emit (.mctp eid tag b)))

/-- R10: a TALLY counter wraps modulo 2^64; an EVIDENCE counter holds at 0xFFFF_FFFF, setting its saturation flag and raising one event as it
gets there; a METER holds at 2^64 − 1 and raises one event as it gets there. Rule: R10. -/
def Obligations.CountersAtTheirMaximum : Prop := ∀ (s : State) (off : Nat),
  (s.tally off).counter off = (s.counter off + 1) % 2 ^ 64 ∧
  (s.counter off + 1 < 0xFFFFFFFF → s.evidence off = s.setCounter off (s.counter off + 1)) ∧
  (s.counter off + 1 = 0xFFFFFFFF →
    s.evidence off = ({ s.setCounter off 0xFFFFFFFF with sat := insertNat off s.sat } : State).raise 0x002 none off) ∧
  (s.counter off = 0xFFFFFFFF → s.evidence off = s) ∧
  (∀ f k n, off = meterOff f k → s.rst.mode ≠ .HEATH →
    (s.counter off + n < 2 ^ 64 - 1 → s.meter f k n = s.setCounter off (s.counter off + n)) ∧
    (s.counter off < 2 ^ 64 - 1 → 2 ^ 64 - 1 ≤ s.counter off + n →
      s.meter f k n = (s.setCounter off (2 ^ 64 - 1)).raise 0x003 none (f + k * 65536)) ∧
    (s.counter off = 2 ^ 64 - 1 → s.meter f k n = s)) ∧
  (∀ v, (s.setCounter off v).counter off = v ∧ ∀ o, o ≠ off → (s.setCounter off v).counter o = s.counter o)

/-- R61: the next tick boundary of a block, from its current boundary, its tick number and the time its work finished. Rule: R61. -/
def Obligations.NextTickBoundary : Prop := ∀ (l : Lag) (workEnd : Nat), 1000 * l.tick ≤ l.boundary →
  let lag := l.boundary - 1000 * l.tick
  l.next workEnd = max (if 0 < lag then max (l.boundary + 875) (1000 * (l.tick + 1)) else l.boundary + 1000) workEnd

/-- R62: with no further overrun, a lag of L ns is regained in ⌈L/125⌉ ticks; each but the last lasts 875 ns, and the last ends on the
fabric-time boundary. Rule: R62. -/
def Obligations.LagRegained : Prop := ∀ (l : Lag), 1000 * l.tick ≤ l.boundary →
  (∀ n, n + 1 < (l.ns + 124) / 125 → (l.onward (n + 1)).boundary = (l.onward n).boundary + 875) ∧
  (l.onward ((l.ns + 124) / 125)).boundary = 1000 * (l.tick + (l.ns + 124) / 125) ∧
  (∀ n, n < (l.ns + 124) / 125 → 0 < (l.onward n).ns)

/-- A tick-driven block reaches its next boundary when fabric time does: the block moves on by one tick, its lag is reported, and while the
router is alive its work of the new tick is done: the Signal Box makes its grants and the engines send the answers they have grants for,
an engine's DMA sends its answers and settles its ATS invalidates, the Roundhouse folds; every other block (blocks 1, 3, 4, 64 to 127)
does nothing else. Which block does what at its boundary is the model's own cut of the rules' work (log 2). R63's reports: a lag of 1,000
ns or less raises nothing and ends the DEGRADE reaction; TICK_LATE is raised once when the lag first exceeds 1,000 ns; fault TICK_LAG is
asserted each time the lag rises above 16,000 ns, and no second time while it stays there; TICK_RECOVERED when the lag has gone after a
TICK_LAG. Rules: R36, R45, R60, R61, R63. -/
def Obligations.TicksAndLag : Prop :=
  (∀ (s : State) (i workEnd : Nat), s.rst.mode ≠ .OFF → s.tickBlock i = true →
    (s.lagBefore i).next workEnd ≤ s.ns →
    let n := (s.lagBefore i).tick + 1
    let t := s.reportLag i (s.lagBefore i).ns { s.lagBefore i with boundary := (s.lagBefore i).next workEnd, tick := n }
    (t.alive = true → i = 0 → exec (.tickBoundary i workEnd) s = .next ((Tbl.keys t.engines).foldl State.drainAnswers (t.sbTick n))) ∧
    (t.alive = true → i = 2 → exec (.tickBoundary i workEnd) s = .next t.rhTick) ∧
    (t.alive = true → 32 ≤ i → i < 64 → exec (.tickBoundary i workEnd) s = .next ((t.drainAnswers (i - 32)).settleInvals (i - 32))) ∧
    (t.alive = false ∨ i = 1 ∨ i = 3 ∨ i = 4 ∨ 64 ≤ i → exec (.tickBoundary i workEnd) s = .next t)) ∧
  (∀ (s : State) (i before : Nat) (l : Lag), s.severity (208 + i) = .DEGRADE →
    (l.ns ≤ 1000 → 0 < l.ns → s.reportLag i before l = s.setLag i { l with degraded := false }) ∧
    (1000 < l.ns → l.ns ≤ 16000 → l.late = false →
      s.reportLag i before l = (s.setLag i { l with late := true }).raise 0x010 none i) ∧
    (16000 < l.ns → l.late = true → before ≤ 16000 →
      s.reportLag i before l = (s.setLag i { l with fault := true, degraded := true }).faultOf (208 + i)) ∧
    (16000 < l.ns → l.late = true → 16000 < before → s.reportLag i before l = s.setLag i l) ∧
    (l.ns = 0 → l.fault = true → s.reportLag i before l =
      (s.setLag i { l with late := false, fault := false, degraded := false }).raise 0x011 none i))

/-- On an empty queue a step is one core cycle: fabric time advances by 0.625 ns (40,960 of its 2^-16 ns) and the slew, which is what is left
of a correction within its limit, and in HOLDOVER and UNSYNC the held rate; it never runs backward for a limit of 200 ppm and a held rate
within it, and nothing else but the age clock moves. The step that the model takes on an empty queue is its own choice (log 1). Rules:
R22, R44, R53. -/
def Obligations.TimeMovesForward : Prop := ∀ (s : State), s.pending = [] → s.rst.mode ≠ .OFF → s.tt.slewMax ≤ 8 →
  (s.tt.holding = true → -102400 ≤ s.tt.rate ∧ s.tt.rate ≤ 102400 ∧ 0 ≤ s.tt.ratePart ∧ s.tt.ratePart < 12800) →
  ∃ t, step s = .next t ∧ s.tt.now < t.tt.now ∧ t.tt.now ≤ s.tt.now + 40976 ∧ s.tt.now + 40944 ≤ t.tt.now ∧
    (t.tt.now : Int) - s.tt.now - 40960 = s.tt.slewLeft - t.tt.slewLeft + s.tt.drift.1 ∧
    t = { s with tt := { s.tt with now := t.tt.now, slewLeft := t.tt.slewLeft, ratePart := t.tt.ratePart },
                 jr := s.jr.ageStep (t.tt.now - s.tt.now) }

/-- TIME_CONFIG, TIME_SET_SECONDS and TIMETABLE_FRACTION_SET: the role and priority are set, and a ROOT that no neighbour offers a root
announces itself, while one that is offered a root joins it first; the seconds take effect at once (and no seconds are then pending), or
with the PPS input enabled at its next edge; the fraction is set where every port's charges still fit. RESERVATION_INSTALL and
RESERVATION_REMOVE: a reservation whose parameters are right and that fits on every egress it uses is entered under its id, active, at
risk in UNSYNC and ACQUIRING; a removed one is gone and others are admitted again in its room. Rules: R46, R47, R48, R58, R67, R68, R69,
R70, R177. -/
def Obligations.TimeCommandsAndReservations : Prop :=
  (∀ (s : State) (c : Cmd) (h : CmdHdr),
    (∀ priority, Accepted (.timeConfig h 1 priority) c s → s.candidates = [] → exec (.timeConfig h 1 priority) s =
      .next (({ s.counted with tt := { s.tt with
          role := .ROOT, priority := priority, announcing := false, joining := false, yielded := false,
          noBetterSince := s.ns } } : State).announce.answer
        (.timeConfig h 1 priority) c .OK 0 [])) ∧
    (∀ priority, Accepted (.timeConfig h 1 priority) c s → s.candidates ≠ [] → exec (.timeConfig h 1 priority) s =
      .next (({ s.counted with tt := { s.tt with
          role := .ROOT, priority := priority, announcing := false, joining := true, yielded := false,
          noBetterSince := s.ns } } : State).chooseParent.joined.answer
        (.timeConfig h 1 priority) c .OK 0 [])) ∧
    (∀ role priority, role = 0 ∨ role = 2 → Accepted (.timeConfig h role priority) c s → exec (.timeConfig h role priority) s =
      .next (({ s.counted with tt := { s.tt with
          role := (if role = 2 then .BACKUP else .FOLLOWER), priority := priority, announcing := false, joining := false,
          yielded := false, noBetterSince := s.ns } } : State).chooseParent.answer
        (.timeConfig h role priority) c .OK 0 [])) ∧
    (∀ seconds, Accepted (.timeSetSeconds h seconds) c s → seconds * 1000000000 < 2 ^ 64 → s.tt.joining = false →
      (s.tt.ppsEn = true → exec (.timeSetSeconds h seconds) s =
        .next (({ s.counted with tt := { s.tt with pendingSeconds := some seconds } } : State).answer
          (.timeSetSeconds h seconds) c .OK 0 [])) ∧
      (s.tt.ppsEn = false → exec (.timeSetSeconds h seconds) s =
        .next (({ s.counted with tt := { s.tt with now := seconds * 1000000000 * unit, slewLeft := 0, lags := [], pendingSeconds := none } } : State).answer
          (.timeSetSeconds h seconds) c .OK 0 []))) ∧
    (∀ fraction, Accepted (.timetableFractionSet h fraction) c s → fraction ≤ 75 →
      (∀ e, e < 96 → s.charged e ≤ ({ s with tt := { s.tt with fraction := fraction } } : State).egressLimit e) →
      exec (.timetableFractionSet h fraction) s =
        .next (({ s.counted with tt := { s.tt with fraction := fraction } } : State).rebalance.answer
          (.timetableFractionSet h fraction) c .OK 0 []))) ∧
  (∀ (s : State) (c : Cmd) (h : CmdHdr) (id : Nat),
    (∀ rate rank burst hops sourceFn destFn source dest flight installTime egress p,
      let i : Instr := .reservationInstall h id rate rank burst 0 hops sourceFn destFn source dest flight installTime egress
      let r : Reservation :=
        { rate := rate, rank := rank, burst := burst, destKind := 0, hops := hops, sourceFn := sourceFn, destFn := destFn,
          source := source, dest := dest, flight := flight, installTime := installTime, egress := egress, ports := [],
          atts := s.resvAtts 0 source dest egress, suspended := false, forced := [],
          atRisk := s.tt.sync == .UNSYNC || s.tt.sync == .ACQUIRING, bucket := 0, demoted := 0, late := 0, resentFrame := none }
      Accepted i c s → s.absentHere source = false → s.absentHere dest = false → 1 ≤ rate → rate ≤ 260 → rank ≤ 7 → sourceFn ≤ 2047 →
      destFn ≤ 2047 → s.endpointOk source = true → s.endpointOk dest = true → s.egressOk 0 dest egress = true →
      (epLoc source = s.location → s.attOf sourceFn = source % 32 ∧ s.fnBusy sourceFn = false ∧
        ∃ x, s.fn? sourceFn = some x ∧ s.slotsUsed sourceFn + rate ≤ x.resvSlots) →
      Tbl.has s.tt.resv id = false → s.tt.resv.length < 4096 → s.resvPorts id r egress = some [p] →
      s.fits id { r with ports := [p] } ({ r with ports := [p] } : Reservation).egresses = true →
      exec i s =
        .next (({ s.counted with tt := { s.tt with resv := Tbl.put s.tt.resv id { r with ports := [p] } } } : State).answer i c .OK 0 [])) ∧
    (Accepted (.reservationRemove h id) c s → Tbl.has s.tt.resv id = true → exec (.reservationRemove h id) s =
      .next (({ s.counted with tt := { s.tt with resv := Tbl.del s.tt.resv id } } : State).rebalance.answer (.reservationRemove h id) c .OK
        0 [])))

/-- Events of fabric time: an offer not advanced for 100 µs is no candidate any more: the router takes the best of the others as its parent,
or without one keeps its rate in HOLDOVER with TIME_HOLDOVER; 5 ms of HOLDOVER end in UNSYNC with fault TIME_UNSYNC; a BACKUP without a
better root for 1 ms announces itself, with the root_seq after the highest it has heard; an edge of TIME_PPS_IN sets pending seconds, or
sets the phase error and the slew of 50 ppm that removes it, with TIME_PPS_FAR where it exceeds 1 µs. Rules: R47, R49, R52, R55, R56. -/
def Obligations.TimeEvents : Prop := ∀ (s : State), s.alive = true →
  (∀ p o, (s.port p).offer = some o → o.noRoot = false → o.advanced + 100000 ≤ s.ns → s.tt.announcing = false →
    (bestParent s.candidates = none → s.tt.sync = .LOCKED → exec (.rootOfferTimeout p) s =
      .next ((({ s with tt := { s.tt with announcing := false, holdoverSince := s.ns, slewLeft := 0, goodExchanges := 0 } } : State).setSync
        .HOLDOVER).raise 0x013 none 0)) ∧
    (∀ q best, bestParent s.candidates = some (q, best) → s.tt.sync = .LOCKED → exec (.rootOfferTimeout p) s =
      .next { s with tt := { s.tt with announcing := false, parent := q, hops := best.hops + 1, rootPriority := best.priority,
                                       rootLocation := best.location } })) ∧
  (s.tt.sync = .HOLDOVER → s.tt.holdoverSince + 5000000 ≤ s.ns → exec .holdoverExpiry s =
    .next ((s.setSync .UNSYNC).faultOf 336)) ∧
  (s.tt.role = .BACKUP → s.tt.announcing = false → s.betterOffered = false → s.betterEnded + 1000000 ≤ s.ns →
    exec .backupTakeover s =
      .next (({ s with tt := { s.tt with
        announcing := true, joining := false, yielded := false, hops := 0, parent := 0, rootPriority := s.tt.priority,
        rootLocation := s.location, offset := 0, slewLeft := 0, rootSeq := laterSeq s.tt.heardSeq s.tt.rootSeq } } : State).setSync .ROOT)) ∧
  (s.tt.ppsEn = true → s.tt.role = .ROOT →
    (∀ seconds, s.tt.pendingSeconds = some seconds → exec .ppsEdge s =
      .next { s with tt := { s.tt with
        now := seconds * 1000000000 * unit, slewLeft := 0, lags := [], pendingSeconds := none, phase := 0, ppsLast := some (seconds * 1000000000) } }) ∧
    (s.tt.pendingSeconds = none → s.tt.announcing = true → ∀ e, e = ppsError s.tt.now →
      let t := { s with tt := { s.tt with ppsLast := some s.ns, phase := satSigned 16 (e / (unit : Int)), slewLeft := -e, slewMax := 2 } }
      (-(1000 * (unit : Int)) ≤ e → e ≤ 1000 * (unit : Int) → exec .ppsEdge s = .next t) ∧
      ((e < -(1000 * (unit : Int)) ∨ 1000 * (unit : Int) < e) → exec .ppsEdge s = .next (t.raise 0x012 none (ofSigned 32 (e / (unit : Int)))))))

/-- R83 for an installation: where the active charges of every egress are within its limit, they still are once a reservation that fits is
entered under a new id. Rule: R83. -/
def Obligations.TimetableNeverOversold : Prop := ∀ (s : State) (id : Nat) (r : Reservation), id < 65536 → Tbl.has s.tt.resv id = false →
  (∀ x ∈ s.tt.resv, x.1 < 65536) → s.fits id r r.egresses = true → (∀ e, s.charged e ≤ s.egressLimit e) →
  ∀ e, (s.setResv id r).charged e ≤ (s.setResv id r).egressLimit e

/-- A DATA train on a port in UP or STANDBY, after the fields of its header: the one expected next advances rx_expected, clears a pending NAK,
is counted and its cells go to the Junction; one ahead of it is answered by a NAK and its cells are dropped; one already received is
dropped and counted as a duplicate; one that no window explains is a violation as well. Rule: R105. -/
def Obligations.DataTrainReceived : Prop := ∀ (s : State) (p : Nat) (th : TrainHdr) (cells : List WireCell),
  s.alive = true → p < 64 → ((s.port p).state = .UP ∨ (s.port p).state = .STANDBY) → th.kind = 0 → th.reserved = 0 → 1 ≤ th.cells →
  th.cells ≤ 8 →
  let t := (s.modPort p fun x => { x with lastGood := s.ns }).headerFields p th true
  let d := (th.seq.toNat + 65536 - (t.port p).rxExpected) % 65536
  (d = 0 → exec (.dataTrainReceive p th cells) s =
    .next (((t.modPort p fun x =>
      { x with rxExpected := (x.rxExpected + 1) % 65536, nakAt := none, nakDue := false }).tally (lkBase p + 0x48)).deliverCells p th
        ((s.port p).state == .STANDBY) cells)) ∧
  (0 < d → d < 16384 → exec (.dataTrainReceive p th cells) s = .next (t.askReplay p 2)) ∧
  (16384 ≤ d → d < 49152 → exec (.dataTrainReceive p th cells) s = .next ((t.violation p 4 th).askReplay p 4)) ∧
  (49152 ≤ d → exec (.dataTrainReceive p th cells) s = .next (t.tally (lkBase p + 0x60)))

/-- What a header in order tells a port that carries cells: it takes the XOFF map, and an acknowledgement of a train it has sent frees the
siding up to the sequence it names; a header without one changes nothing else, and an ack_kind of 0b11 is a violation. Every train that
leaves a port: its header carries the port's XOFF map and, in the states that carry cells, an acknowledgement of the train before
rx_expected, or a NAK for rx_expected where one is due, which it then is no more; the train ends with its CRC-32C; the port notes the
time. A train sent in another state carries no acknowledgement (the model's choice, log 99). Rules: R98, R104, R105, R107, R113, R114,
R115. -/
def Obligations.TrainHeaders : Prop :=
  (∀ (s : State) (p : Nat) (th : TrainHdr) (nakHere : Bool),
    let t := s.modPort p fun x => { x with xoffIn := th.xoffMap }
    (th.ackKind = 0 → s.headerFields p th nakHere = t) ∧
    (th.ackKind = 1 → (t.port p).neverSent ((th.ackSeq.toNat + 1) % 65536) = false →
      s.headerFields p th nakHere = t.modPort p fun x => x.free ((th.ackSeq.toNat + 1) % 65536)) ∧
    (th.ackKind = 3 → s.headerFields p th nakHere = t.violation p 5 th)) ∧
  (∀ (s : State) (p kind seq : Nat) (replay : Bool) (cells : List WireCell) (body : List Byte),
    let x := s.port p
    let active := x.state == .UP || x.state == .STANDBY
    let th : TrainHdr :=
      { reserved := 0, replay := replay, cells := cells.length,
        ackKind := if active then (if x.nakDue then 2 else 1) else 0, kind := kind, xoffMap := x.xoffOut,
        ackSeq := if active then BitVec.ofNat 16 (if x.nakDue then x.rxExpected else x.rxExpected + 65535) else 0#16,
        seq := BitVec.ofNat 16 seq }
    s.sendTrain p kind seq replay cells body =
      { s.modPort p (fun y => { y with lastRelease := s.ns, nakDue := if active then false else y.nakDue }) with
        out := s.out ++ [.train p th cells body (crc32c (th.bytes ++ cells.flatMap WireCell.bytes ++ body))] })

/-- A control train that a port in UP or STANDBY hears and that breaks no rule of its layout takes effect: the port has decoded a train, the
fields of its header are used, then its body is: TIME runs the exchange of R51, NAK replays from the sequence it names, a SUMMARY is kept
(in STANDBY it is only decoded, R133), HELLO is kept, LANE_CHANGE runs the lane handshake; IDLE, VIOLATION and KEEPALIVE do no more.
Rules: R51, R98, R102, R104, R107, R126, R129, R133, R138. -/
def Obligations.ControlTrainsHeard : Prop := ∀ (s : State) (p : Nat) (th : TrainHdr) (body : List Byte),
  s.alive = true → p < 64 → ((s.port p).state = .UP ∨ (s.port p).state = .STANDBY) → th.reserved = 0 → th.cells = 0 →
  let d := s.modPort p fun x => { x with lastGood := s.ns }
  let t := d.headerFields p th true
  (th.kind = 1 → exec (.idleTrainReceive p th) s = .next t) ∧
  (th.kind = 2 → rd body 10 1 < 4 → zeroFrom body 30 = true → timeBad body = false →
    exec (.timeTrainReceive p th body) s = .next (t.timeTrain p body)) ∧
  (th.kind = 3 → zeroFrom body 3 = true → 1 ≤ rd body 2 1 → rd body 2 1 ≤ 4 →
    (((d.headerFields p th false).port p).state = .UP ∨ ((d.headerFields p th false).port p).state = .STANDBY) →
    exec (.nakTrainReceive p th body) s = .next ((d.headerFields p th false).replayFrom p (rd body 0 2))) ∧
  (th.kind = 4 → zeroFrom body 4 = true → 1 ≤ rd body 0 1 → rd body 0 1 ≤ 3 →
    exec (.laneChangeTrainReceive p th body) s =
      .next (t.laneTrain p (rd body 0 1) (BitVec.ofNat 8 (rd body 1 1)) (BitVec.ofNat 8 (rd body 2 1)) (rd body 3 1))) ∧
  (th.kind = 5 → zeroFrom body 12 = true → 1 ≤ rd body 0 1 → rd body 0 1 ≤ 8 →
    exec (.violationTrainReceive p th body) s = .next t) ∧
  (th.kind = 6 → (s.port p).state = .UP → zeroFrom body 50 = true → summaryBad body = false → (t.port p).state = .UP →
    exec (.summaryTrainReceive p th body) s =
      .next (t.modPort p fun x => { x with summary := some (Summary.ofBytes body) })) ∧
  (th.kind = 6 → (s.port p).state = .STANDBY → exec (.summaryTrainReceive p th body) s = .next d) ∧
  (th.kind = 7 → zeroFrom body 4 = true → rd body 2 1 ≤ 63 → rd body 3 1 ≤ 5 →
    exec (.keepaliveTrainReceive p th body) s = .next t) ∧
  (th.kind = 8 → rd body 6 1 < 2 → zeroFrom body 20 = true → rd body 2 1 ≤ 63 → rd body 3 1 ≤ 9 → rd body 7 1 ≤ 3 →
    exec (.helloTrainReceive p th body) s = .next (t.modPort p fun x => { x with hello := some (Hello.ofBytes body) }))

/-- A train that breaks its layout is a violation, with the code of R136, and its fields take no effect: an unknown kind, a reserved field of
the header that is set, cells where none belong. It has passed its CRC, so it counts as a decoded train. A DATA train with such a fault is
asked for again. A SUMMARY in STANDBY is not judged. Damage on the way: a train that fails its CRC and codewords that the FEC cannot
correct are counted, and where a DATA train was lost a port in UP or STANDBY asks for a replay, with reason 1 or 3. A NAK under way with
its round trip over is due again. Rules: R96, R102, R104, R106, R136, R138. -/
def Obligations.TrainsRejectedOrLost : Prop :=
  (∀ (s : State) (p : Nat) (th : TrainHdr) (cells : List WireCell) (body : List Byte),
    s.hears p = true →
    let d := s.modPort p fun x => { x with lastGood := s.ns }
    (∀ i ∈ [Instr.idleTrainReceive p th, .timeTrainReceive p th body, .nakTrainReceive p th body, .laneChangeTrainReceive p th body,
        .violationTrainReceive p th body, .keepaliveTrainReceive p th body, .helloTrainReceive p th body], 9 ≤ th.kind →
        exec i s = .next (d.violation p 1 th)) ∧
    ((s.port p).state ≠ .STANDBY → 9 ≤ th.kind → exec (.summaryTrainReceive p th body) s = .next (d.violation p 1 th)) ∧
    (∀ e ∈ [(1, Instr.idleTrainReceive p th), (2, .timeTrainReceive p th body), (3, .nakTrainReceive p th body),
        (4, .laneChangeTrainReceive p th body), (5, .violationTrainReceive p th body), (6, .summaryTrainReceive p th body),
        (7, .keepaliveTrainReceive p th body), (8, .helloTrainReceive p th body)], th.kind = e.1 →
      (e.1 = 6 → (s.port p).state ≠ .STANDBY) →
      (th.reserved ≠ 0 → exec e.2 s = .next (d.violation p 2 th)) ∧
      (th.reserved = 0 → (e.1 = 1 ∨ (zeroFrom body 3 = true ∧ (e.1 = 2 → rd body 10 1 < 4) ∧ (e.1 = 8 → rd body 6 1 < 2))) → th.cells ≠ 0 →
        exec e.2 s = .next (d.violation p 3 th))) ∧
    (((s.port p).state = .UP ∨ (s.port p).state = .STANDBY) →
      (9 ≤ th.kind → exec (.dataTrainReceive p th cells) s = .next (d.violation p 1 th)) ∧
      (th.kind = 0 → th.reserved ≠ 0 → exec (.dataTrainReceive p th cells) s = .next ((d.violation p 2 th).askReplay p 1)) ∧
      (th.kind = 0 → th.reserved = 0 → (th.cells = 0 ∨ 8 < th.cells) →
        exec (.dataTrainReceive p th cells) s = .next ((d.violation p 3 th).askReplay p 1)))) ∧
  (∀ (s : State) (p : Nat), s.hears p = true → (s.port p).nakAt = none →
    let ask := fun (s : State) (reason : Nat) => s.modPort p fun x => { x with nakAt := some s.ns, nakReason := reason, nakDue := true }
    (exec (.trainCrcFail p false) s = .next (s.evidence (lkBase p + 0x68))) ∧
    ((((s.evidence (lkBase p + 0x68)).port p).state = .UP ∨ ((s.evidence (lkBase p + 0x68)).port p).state = .STANDBY) → ((s.evidence (lkBase p + 0x68)).port p).nakAt = none →
      exec (.trainCrcFail p true) s = .next (ask (s.evidence (lkBase p + 0x68)) 1)) ∧
    (∀ n trains, (((s.evidences (lkBase p + 0x6C) n).port p).state = .UP ∨ ((s.evidences (lkBase p + 0x6C) n).port p).state = .STANDBY) → ((s.evidences (lkBase p + 0x6C) n).port p).nakAt = none →
      exec (.fecUncorrectable p n trains) s =
        .next (if 0 < trains then ask (s.evidences (lkBase p + 0x6C) n) 3 else s.evidences (lkBase p + 0x6C) n)) ∧
    (∀ t u, u = s.modPort p (fun x => { x with nakAt := some t }) → t + (u.port p).round ≤ s.ns → s.alive = true →
      exec (.nakRepeatTimeout p) u = .next (u.modPort p fun x => { x with nakAt := some s.ns, nakDue := true })))

/-- TRAIN_RELEASE on a port that carries cells: a train to replay goes before new data, new data before a notice, a notice before an IDLE
train; a NAK of a port in STANDBY goes before IDLE. Trains that are sent in time: SUMMARY each tick in UP, HELLO each tick while shaking
hands, KEEPALIVE every 8 ticks in STANDBY, a TIME request every exchange interval (to the parent and to every other port), and a
LANE_CHANGE request again each 10 µs until it is accepted. Rules: R51, R100, R101, R102, R107, R109, R129, R133, R138. -/
def Obligations.TrainsSent : Prop :=
  (∀ (s : State) (p : Nat), s.alive = true → p < 64 →
    ((s.port p).state = .UP ∨ (s.port p).state = .STANDBY) → (s.port p).change = none →
    (∀ q l y, (s.port p).replay = q :: l → ((s.port p).siding.find? fun y => y.seq == q) = some y → (s.port p).replays y = true →
      exec (.trainRelease p) s = .next ((((s.modPort p fun x =>
        { x with replay := x.replay.drop 1, siding := x.siding.map fun z => if z.seq = q then { z with released := s.ns } else z }).tally
          (lkBase p + 0x40)).tally (lkBase p + 0x50)).sendTrain p 0 q true (y.cells.map (·.wire)) [])) ∧
    ((s.port p).replay = [] → (s.port p).nextCells ≠ [] → (s.port p).sidingRoom (s.port p).nextCells.length = true →
      exec (.trainRelease p) s = .next (s.releaseData p (s.port p).nextCells)) ∧
    (∀ code seq header, (s.port p).replay = [] → (s.port p).nextCells = [] → (s.port p).notice = some (code, seq, header) →
      (s.port p).noticeTick ≠ some s.tickNo → exec (.trainRelease p) s =
        .next ((s.modPort p fun x => { x with notice := none, noticeTick := some s.tickNo }).sendControl p 5 (fitTo 64 (le 1 code ++
          le 1 (minN (if (s.port p).violFrame.1 = s.frame then (s.port p).violFrame.2 else 0) 255) ++ le 2 seq ++ le 8 header)))) ∧
    ((s.port p).replay = [] → (s.port p).nextCells = [] → (s.port p).notice = none →
      ((s.port p).nakDue = false → exec (.trainRelease p) s = .next (s.sendTrain p 1 (s.port p).txNext false [] [])) ∧
      ((s.port p).nakDue = true → (s.port p).state = .STANDBY → exec (.trainRelease p) s =
        .next (s.sendTrain p 3 (s.port p).txNext false [] (fitTo 64 (le 2 (s.port p).rxExpected ++ le 1 (s.port p).nakReason)))))) ∧
  (∀ (s : State) (p : Nat), s.alive = true → p < 64 →
    ((s.port p).state = .UP → (∀ t, (s.port p).lastSummary = some t → t + 1000 ≤ s.ns) →
      ∃ body, exec (.summarySend p) s =
        .next ((s.modPort p fun x => { x with lastSummary := some s.ns }).sendControl p 6 body) ∧ body.length = 64) ∧
    ((s.port p).shaking = true → (∀ t, (s.port p).lastHello = some t → t + 1000 ≤ s.ns) → exec (.helloSend p) s =
      .next ((s.modPort p fun x => { x with lastHello := some s.ns }).sendControl p 8 (s.helloOf p).bytes)) ∧
    ((s.port p).state = .STANDBY → (∀ t, (s.port p).lastHello = some t → t + 8000 ≤ s.ns) → exec (.keepaliveSend p) s =
      .next ((s.modPort p fun x => { x with lastHello := some s.ns }).sendControl p 7
        (fitTo 64 (le 2 s.location ++ le 1 p ++ le 1 (modeCode s.rst.mode))))) ∧
    ((s.port p).state = .UP → s.tt.announcing = false → (∀ t, (s.port p).lastTimeSend = some t → t + (s.port p).timeEvery ≤ s.ns) →
      exec (.timeExchangeSend p) s =
        .next ((s.modPort p fun x =>
          { x with exchangeNo := ((s.port p).exchangeNo + 1) % 256, exchange := some (((s.port p).exchangeNo + 1) % 256, s.tt.now),
                   lastTimeSend := some s.ns }).sendControl p 2
            ((s.modPort p fun x =>
              { x with exchangeNo := ((s.port p).exchangeNo + 1) % 256, exchange := some (((s.port p).exchangeNo + 1) % 256, s.tt.now),
                       lastTimeSend := some s.ns }).timeBody false (((s.port p).exchangeNo + 1) % 256) 0).bytes)) ∧
    (∀ c, (s.port p).change = some c → c.accepted = false → c.lastSent + 10000 ≤ s.ns → exec (.laneChangeResend p) s =
      .next ((s.modPort p fun x => { x with change := some { c with lastSent := s.ns } }).sendControl p 4
        (laneBody 1 c.failed c.active c.change))))

/-- The shared steps of the next statement's link states: entry to HELD keeps the siding and every queued cell, starts the grace timer and
raises LINK_HELD; entry to FLUSHED takes the held cells to other ports or discards them, empties the siding, advances the incarnation and
raises fault LINK_DOWN. Training and handshake: lanes lock and a port in TRAINING goes to HANDSHAKE; 100 ms without lock restart TRAINING
with an event; eight exchanges with a partner of the wrong location or role end in DISABLED with LINK_MISCABLED, and with the right one in
UP at the highest step that fits the good lanes and the larger of the two flights measured in HANDSHAKE, or in STANDBY where none does or
the router is in HEATH. A link that comes up takes the step's lanes from the good ones of both ends and clears what its last life left; it
goes on from the partner's rx_expected and replays its siding where R126 lets it, else it starts at sequence 0 with an empty siding, and a
HELD port is then emptied with its fault. Rules: R117, R119, R120, R121, R122, R123, R124, R125, R126. -/
def Obligations.LinkStates : Prop :=
  (∀ (s : State) (p : Nat), s.alive = true → p < 64 →
    ((s.port p).state = .UP → (s.port p).lastGood + 10000 ≤ s.ns → exec (.noGoodTrainTimeout p) s =
      .next ((((s.modPort p fun x =>
        { x.stopped with lastCause := 2, graceDeadline := some (s.ns + x.grace * 1000), flushed := false, trainSince := s.ns,
                         replay := [] }).portState p .HELD).evidence (lkBase p + 0x78)).raise 0x041 none (p + 2 * 256))) ∧
    (∀ c, (s.port p).state = .UP → (s.port p).change = some c → c.deadline ≤ s.ns → exec (.laneChangeTimeout p) s =
      .next ((((s.modPort p fun x =>
        { x.stopped with lastCause := 5, graceDeadline := some (s.ns + x.grace * 1000), flushed := false, trainSince := s.ns,
                         replay := [] }).portState p .HELD).evidence (lkBase p + 0x78)).raise 0x041 none (p + 5 * 256))) ∧
    (∀ d, (s.port p).state = .HELD → (s.port p).graceDeadline = some d → d ≤ s.ns → exec (.graceExpiry p) s =
      .next ((((s.modPort p fun x =>
        { x.stopped with flushed := true, trainSince := s.ns, incarnation := (x.incarnation + 1) % 65536 }).portState p
          .FLUSHED).emptyPort p).faultOf p)) ∧
    ((s.port p).state = .STANDBY → (s.port p).lastGood + 100000 ≤ s.ns → exec (.standbyKeepaliveLoss p) s =
      .next ((s.modPort p fun x => { x with lastCause := 6 }).enterFlushed p))) ∧
  (∀ (s : State) (p : Nat), s.alive = true → p < 64 →
    (∀ lanes, (s.port p).state = .TRAINING → exec (.lanesLocked p lanes) s =
      .next ((s.modPort p fun x =>
        { x with locked := true, good := lanes, failed := ~~~ lanes, exchanges := 0, hello := none }).portState p .HANDSHAKE)) ∧
    (∀ lanes, ((s.port p).state = .HELD ∨ (s.port p).state = .FLUSHED) → (s.port p).locked = false → exec (.lanesLocked p lanes) s =
      .next (s.modPort p fun x =>
        { x with locked := true, good := lanes, failed := ~~~ lanes, exchanges := 0, hello := none })) ∧
    ((s.port p).state = .TRAINING → (s.port p).trainSince + 100000000 ≤ s.ns → exec (.trainingTimeout p) s =
      .next ((s.modPort p fun x => { x with trainSince := s.ns }).raise 0x040 none p)) ∧
    (∀ hello, (s.port p).shaking = true → (s.port p).hello = some hello → 8 ≤ (s.port p).exchanges →
      ((s.port p).partnerMatches hello = false → exec (.handshakeComplete p) s =
        .next ((((s.modPort p fun x => x.stopped).portState p .DISABLED).emptyPort p).raise 0x045 none
          (p + hello.location * 65536))) ∧
      ((s.port p).partnerMatches hello = true →
        let both := (s.port p).good &&& hello.good &&& ~~~ ((s.port p).failed ||| hello.failed)
        let flight := maxN (s.port p).fHandshake hello.flight
        (∀ step, bestStep hello.rate (popcount8 both) flight = some step →
          (s.rst.mode ≠ .HEATH → exec (.handshakeComplete p) s = .next (s.linkUp p hello .UP step)) ∧
          (s.rst.mode = .HEATH → exec (.handshakeComplete p) s = .next (s.linkUp p hello .STANDBY 3))) ∧
        (bestStep hello.rate (popcount8 both) flight = none → exec (.handshakeComplete p) s =
          .next ((s.linkUp p hello .STANDBY 3).raise 0x043 none (p + exposure 2 flight * 65536)))))) ∧
  (∀ (s : State) (p step : Nat) (hello : Hello) (st : LinkState),
    let x := s.port p
    let both := x.good &&& hello.good &&& ~~~ (x.failed ||| hello.failed)
    let t := if s.resumes p hello = false ∧ x.state = .HELD then (s.emptyPort p).faultOf p else s
    let u : Port := if s.resumes p hello then { (t.port p).free hello.rxExpected with replay := ((t.port p).free hello.rxExpected).siding.map (·.seq) }
      else { t.port p with txNext := 0, sidingBase := 0, rxExpected := 0, siding := [], replay := [], sentTrains := 0 }
    s.linkUp p hello st step =
      (t.setPort p { u with rate := step, active := lowestLanes (lanesOf step) both, peerIncarnation := hello.incarnation,
                            fCurrent := u.fHandshake, lastGood := t.ns, lastRelease := t.ns, nakAt := none, nakDue := false,
                            nakCounts := [], xoffIn := 0#8, change := none, overExposed := 0, graceDeadline := none, locked := true,
                            flushed := false, answered := none }).portState p st)

/-- Lanes that go bad and lanes that change: lanes newly bad on a port in UP are added to the failed mask and the highest step from the
present one down that the good ones carry at HANDSHAKE's flight is asked of the partner, or, where none is left, the port enters HELD
(with cause 1, the model's choice for bad lanes by error ratio, log 102); an accepted change takes effect with LINK_DEGRADED; an exposure
check within the limit clears the count of frames over it and one over the limit adds to it. R118's step down: the third frame in a row
over the limit asks the partner for the lanes of the next rate step, the last of them the standby step, with LINK_RATE_REDUCED. Rules:
R84, R118, R128, R129, R130. -/
def Obligations.LanesDegrade : Prop :=
  (∀ (s : State) (p : Nat), s.alive = true → p < 64 → (s.port p).state = .UP →
    (∀ lanes : BitVec 8, lanes &&& ~~~ (s.port p).failed ≠ 0#8 → ∀ i ∈ [Instr.laneLockLoss p lanes, .laneErrorRateCheck p lanes],
      let t := s.modPort p fun x => { x with failed := (s.port p).failed ||| lanes }
      (∀ step, bestStep (s.port p).rate (popcount8 (~~~ ((s.port p).failed ||| lanes))) (s.port p).fHandshake = some step →
        exec i s = .next (t.requestLanes p ((s.port p).failed ||| lanes)
          (lowestLanes (lanesOf step) (~~~ ((s.port p).failed ||| lanes))) false false)) ∧
      (bestStep (s.port p).rate (popcount8 (~~~ ((s.port p).failed ||| lanes))) (s.port p).fHandshake = none → exec i s = .next ((((t.modPort p fun x =>
        { x.stopped with lastCause := 1, graceDeadline := some (t.ns + x.grace * 1000), flushed := false, trainSince := t.ns,
                         replay := [] }).portState p .HELD).evidence (lkBase p + 0x78)).raise 0x041 none (p + 1 * 256)))) ∧
    (∀ c, (s.port p).change = some c → c.accepted = true → exec (.laneChangeComplete p) s =
      .next ((s.modPort p fun x =>
        { x with change := none, active := c.active, failed := c.failed, rate := stepOf (popcount8 c.active),
                 overExposed := 0, state := if stepOf (popcount8 c.active) = 3 then .STANDBY else x.state }).rebalance.raise 0x042 none (p + c.active.toNat * 256))) ∧
    ((s.port p).exposureFrame ≠ some s.frame →
      (exposure (s.port p).rate (s.port p).fCurrent ≤ exposureLimit → exec (.exposureCheck p) s =
        .next (s.modPort p fun x => { x with overExposed := 0, exposureFrame := some s.frame })) ∧
      (exposureLimit < exposure (s.port p).rate (s.port p).fCurrent → (s.port p).overExposed < 2 → exec (.exposureCheck p) s =
        .next (s.modPort p fun x => { x with overExposed := x.overExposed + 1, exposureFrame := some s.frame })))) ∧
  (∀ (s : State) (p : Nat), s.alive = true → p < 64 → (s.port p).state = .UP →
    (s.port p).exposureFrame ≠ some s.frame → exposureLimit < exposure (s.port p).rate (s.port p).fCurrent → 2 ≤ (s.port p).overExposed →
    (s.port p).rate < 3 → (s.port p).change = none →
    let t := s.modPort p fun x => { x with exposureFrame := some s.frame, overExposed := 0 }
    exec (.exposureCheck p) s =
      .next ((t.requestLanes p (s.port p).failed (lowestLanes (lanesOf ((s.port p).rate + 1)) (~~~ (s.port p).failed)) false true).raise
        0x044 none (p + ((s.port p).rate + 1) * 256)))

/-- LINK_GRACE_SET, LINK_MODULE_SET, QUEUE_WEIGHT_SET, QUEUE_MAP_SET and SIGNALBOX_CONFIG_SET set what they name and nothing else, and answer
OK. LINK_ROLE_SET: the role and peer take effect at once. A port that is not UP only holds them; a port in UP that has a HELLO of its
partner stays UP where they match, and otherwise starts the drain of R132 with cause 7 and raises LINK_MISCABLED. Rules: R125, R186, R191,
R197, R207, R499, R623. -/
def Obligations.LinkSettings : Prop :=
  (∀ (s : State) (c : Cmd) (h : CmdHdr) (p : Nat),
    (∀ us, Accepted (.linkGraceSet h p us) c s → p < 64 → 100 ≤ us → us ≤ 50000 → s.portWaits p = false →
      exec (.linkGraceSet h p us) s =
        .next ((s.counted.modPort p fun x => { x with grace := us }).answer (.linkGraceSet h p us) c .OK 0 [])) ∧
    (∀ lanes pre main post, Accepted (.linkModuleSet h p lanes pre main post) c s → p < 64 → s.portWaits p = false →
      exec (.linkModuleSet h p lanes pre main post) s =
        .next ((s.counted.modPort p fun x => { x with
          module := ((List.range 8).filter fun i => bit lanes i).foldl (fun t i => Tbl.put t i (pre, main, post)) x.module }).answer
            (.linkModuleSet h p lanes pre main post) c .OK 0 [])) ∧
    (∀ q quantum burst, Accepted (.queueWeightSet h p q quantum burst) c s → p < 96 →
      (64 ≤ p → s.hasEngine (p - 64) = true) → q < 16 → 1 ≤ quantum → quantum ≤ 1024 → burst ≤ 1024 →
      exec (.queueWeightSet h p q quantum burst) s =
        .next (({ s.counted with sb := { s.sb with changes := s.sb.changes ++ [.weight p q quantum burst] } } : State).answer
          (.queueWeightSet h p q quantum burst) c .OK 0 [])) ∧
    (∀ levels transit, Accepted (.queueMapSet h levels transit) c s → (le 8 levels).all levelByteOk = true →
      exec (.queueMapSet h levels transit) s =
        .next (({ s.counted with sb := { s.sb with changes := s.sb.changes ++ [.map levels transit] } } : State).answer
          (.queueMapSet h levels transit) c .OK 0 [])) ∧
    (∀ mib, Accepted (.signalBoxConfigSet h mib) c s →
      exec (.signalBoxConfigSet h mib) s =
        .next (({ s.counted with sb := { s.sb with changes := s.sb.changes ++ [.yellow mib] } } : State).answer
          (.signalBoxConfigSet h mib) c .OK 0 []))) ∧
  (∀ (s : State) (c : Cmd) (h : CmdHdr) (p role peer : Nat),
    Accepted (.linkRoleSet h p role peer) c s → p < 64 → role ≤ 9 → (peer = 0xFFFF → role = 3) → s.portWaits p = false →
    let t := s.counted.modPort p fun x => { x with roleSet := true, role := role, peer := peer }
    ((s.port p).state ≠ .UP →
      exec (.linkRoleSet h p role peer) s = .next (t.answer (.linkRoleSet h p role peer) c .OK 0 [])) ∧
    (∀ hello, (s.port p).state = .UP → (s.port p).hello = some hello →
      ((t.port p).partnerMatches hello = true →
        exec (.linkRoleSet h p role peer) s = .next (t.rebalance.answer (.linkRoleSet h p role peer) c .OK 0 [])) ∧
      ((t.port p).partnerMatches hello = false →
        exec (.linkRoleSet h p role peer) s =
          .next (((t.beginDisable p 7).raise 0x045 none (p + hello.location * 65536)).answer
            (.linkRoleSet h p role peer) c .OK 0 []))))

/-- The commands that move a link between its states: LINK_ENABLE takes a DISABLED port to TRAINING, LINK_DISABLE starts the drain of 1 ms and
waits for its end, LINK_LANES_RESTORE asks the partner for all eight lanes, LINK_STANDBY and LINK_WAKE leave UP and STANDBY; a port
already where the command leads stays as it is. The end of a LINK_DISABLE drain: when the port's queues are empty, or its 1 ms has passed,
the port stops, its incarnation advances, it enters DISABLED, what is left is handled as R123 handles cells, and the command that waited
is answered OK. Rules: R119, R123, R130, R131, R132, R135, R624. -/
def Obligations.LinkStateCommands : Prop :=
  (∀ (s : State) (c : Cmd) (h : CmdHdr) (p : Nat), p < 64 → s.portWaits p = false →
    (Accepted (.linkEnable h p) c s → (s.port p).role ≠ 0 →
      ((s.port p).state = .DISABLED → exec (.linkEnable h p) s =
        .next (((s.counted.modPort p fun x => { x with degraded := false, drain := none }).modPort p fun x =>
          { x.stopped with trainSince := s.ns, active := 0#8 }).portState p .TRAINING |>.answer (.linkEnable h p) c .OK 0 [])) ∧
      ((s.port p).state ≠ .DISABLED → exec (.linkEnable h p) s = .next (s.counted.answer (.linkEnable h p) c .OK 0 []))) ∧
    (Accepted (.linkDisable h p) c s →
      ((s.port p).state = .DISABLED → exec (.linkDisable h p) s = .next (s.counted.answer (.linkDisable h p) c .OK 0 [])) ∧
      ((s.port p).state ≠ .DISABLED → (s.port p).drain = none → s.waitFull h = false → exec (.linkDisable h p) s =
        .next (State.conclude (.linkDisable h p) c
          (.wait ((s.counted.modPort p fun x => { x with drain := some (s.ns + 1000000, 7) }).rebalance) (.linkDisable p))))) ∧
    (Accepted (.linkLanesRestore h p) c s → (s.port p).state = .UP → (s.port p).change = none →
      ((s.port p).failed = 0#8 → exec (.linkLanesRestore h p) s = .next (s.counted.answer (.linkLanesRestore h p) c .OK 0 [])) ∧
      (∀ hello step, (s.port p).failed ≠ 0#8 → (s.port p).hello = some hello → bestStep hello.rate 8 (s.port p).fHandshake = some step →
        exec (.linkLanesRestore h p) s =
        .next ((s.counted.requestLanes p 0#8 (lowestLanes (lanesOf step) 0xFF#8) true false).answer
          (.linkLanesRestore h p) c .OK 0 []))) ∧
    (Accepted (.linkStandby h p) c s →
      ((s.port p).state = .UP → exec (.linkStandby h p) s =
        .next (((s.counted.modPort p fun x =>
          { x with rate := 3, active := lowestLanes 1 (x.good &&& ~~~ x.failed), change := none, lastGood := s.ns,
                   lastRelease := s.ns }).portState p .STANDBY).answer (.linkStandby h p) c .OK 0 [])) ∧
      ((s.port p).state = .STANDBY → exec (.linkStandby h p) s = .next (s.counted.answer (.linkStandby h p) c .OK 0 []))) ∧
    (Accepted (.linkWake h p) c s →
      ((s.port p).state = .STANDBY → exec (.linkWake h p) s =
        .next ((((s.counted.modPort p fun x => { x.stopped with trainSince := s.ns, active := 0#8 }).portState p .TRAINING).emptyPort
          p).answer (.linkWake h p) c .OK 0 [])) ∧
      ((s.port p).state = .UP → exec (.linkWake h p) s = .next (s.counted.answer (.linkWake h p) c .OK 0 [])))) ∧
  (∀ (s : State) (p deadline cause : Nat), s.alive = true → p < 64 →
    (s.port p).drain = some (deadline, cause) → (s.portCells p = [] ∨ deadline ≤ s.ns) →
    exec (.linkDisableDrainEnd p) s =
      .next ((((s.modPort p fun x =>
        { x.stopped with lastCause := cause, incarnation := (x.incarnation + 1) % 65536, active := 0#8, drain := none }).portState p
          .DISABLED).emptyPort p).answerOn (.linkDisable p) .OK 0 []))

/-- A cell that has waited escape_wait × 64 ns on an adaptive VC moves to the escape VC of its next bundle, and an egress with room in its
train buffer hands on the cell that its queues choose: to its port's trains, or to the engine behind it. Rules: R176, R189, R192. -/
def Obligations.CellsMove : Prop := ∀ (s : State) (e : Nat), s.alive = true →
  (∀ position q hop, (s.egress e).cells[position]? = some q → (q.vc = 4 ∨ q.vc = 5) → e < 64 →
    q.arrived + s.jn.escapeWait * 64 ≤ s.ns → s.escapeHop q.ingress q.cell.h = some hop →
    exec (.escapeWaitExpiry e position) s =
      .next ((s.setEgress e { s.egress e with cells := removeAt position (s.egress e).cells }).requeue q hop)) ∧
  (∀ i x q, s.selectCell e = some (i, x) → x.cells[i]? = some q →
    let done := fun t : State => match q.queue with
      | .wq _ => (t.endVisit e).refreshXoff
      | _ => t.refreshXoff
    (e < 64 → (s.port e).txReady.length < 8 → q.esc = false → exec (.egressCellSelect e) s =
      .next (done ((s.setEgress e { x with cells := removeAt i x.cells }).modPort e fun y => { y with txReady := y.txReady ++ [q] }))) ∧
    (64 ≤ e → e < 96 → exec (.egressCellSelect e) s =
      .next (done ((s.setEgress e { x with cells := removeAt i x.cells }).modEngine (e - 64) fun n =>
        { n with ejected := n.ejected ++ [q.wire] }))))

/-- The routing and pool settings: ROUTE_TOPOLOGY_SET sets the size, the location and the datelines, drops every route entry and fills the
ports' roles; ROUTE_ENTRY_SET, ROUTE_ADAPT_SET, POOL_CONFIG_SET and REASM_QUOTA_SET set what they name; a new alpha is held against the
XOFF maps at once. Rules: R164, R165, R166, R167, R170, R171, R176, R184, R623. -/
def Obligations.RouteSettings : Prop := ∀ (s : State) (c : Cmd) (h : CmdHdr),
  (∀ nx ny nz routers location dx dy dz,
    let i : Instr := .routeTopologySet h nx ny nz routers location dx dy dz
    Accepted i c s → 1 ≤ nx → nx ≤ 16 → 1 ≤ ny → ny ≤ 16 → 1 ≤ nz → nz ≤ 16 → 1 ≤ routers → routers ≤ 16 → locX location < nx →
    locY location < ny → locZ location < nz → locRouter location < routers → dx < nx → dy < ny → dz < nz → exec i s =
      .next (({ s.counted with jn := { s.jn with
        nx := nx, ny := ny, nz := nz, routers := routers, location := location, datelineX := dx, datelineY := dy, datelineZ := dz,
        topology := true, routes := [] } } : State).fillRoles.answer i c .OK 0 [])) ∧
  (∀ station valid dx dy dz,
    let i : Instr := .routeEntrySet h station valid dx dy dz
    Accepted i c s → s.jn.topology = true → station < 4096 → s.jn.inTorus station = true → valid ≤ 1 →
    dirsOk (s.jn.dirs (station * 16) 0) dx = true → dirsOk (s.jn.dirs (station * 16) 1) dy = true →
    dirsOk (s.jn.dirs (station * 16) 2) dz = true → exec i s =
      .next (({ s.counted with jn := { s.jn with
        routes := Tbl.put s.jn.routes station { valid := valid == 1, dx := dx, dy := dy, dz := dz } } } : State).answer i c .OK 0 [])) ∧
  (∀ en weight penalty wait, Accepted (.routeAdaptSet h en weight penalty wait) c s → en ≤ 1 →
    exec (.routeAdaptSet h en weight penalty wait) s =
      .next (({ s.counted with jn := { s.jn with
        detourEn := en == 1, downWeight := weight, detourPenalty := penalty, escapeWait := wait } } : State).answer
          (.routeAdaptSet h en weight penalty wait) c .OK 0 [])) ∧
  (∀ alpha, Accepted (.poolConfigSet h alpha) c s → 1 ≤ alpha → alpha ≤ 64 → exec (.poolConfigSet h alpha) s =
    .next ((State.refreshXoff { s.counted with jn := { s.jn with alpha := alpha } }).answer (.poolConfigSet h alpha) c .OK 0 [])) ∧
  (∀ att quota, Accepted (.reasmQuotaSet h att quota) c s → s.badAtt att = false → 16 ≤ quota → quota ≤ 1024 →
    exec (.reasmQuotaSet h att quota) s =
      .next ((({ s.counted with jn := { s.jn with quota := Tbl.put s.jn.quota att quota } } : State).answer
        (.reasmQuotaSet h att quota) c .OK 0 []).settle))

/-- MULTICAST_INSTALL and MULTICAST_REMOVE: a group of a legal mask is entered once, and removed; EXISTS and NOT_FOUND change nothing. Members
and senders of a multicast group: a member names a window of its function that may be written by PUT; a sender names a range of its
function's rank table; each is set once and cleared for its own function. The tags of a group that still rest outlive the clearing of its
sender record: they wait in the Junction until the group has a sender again (the model's choice of place, log 122). Rules: R180, R181,
R183, R351, R352. -/
def Obligations.MulticastSettings : Prop :=
  (∀ (s : State) (c : Cmd) (h : CmdHdr) (group : Nat),
    (∀ ingress mask, Accepted (.multicastInstall h group ingress mask) c s → (ingress < 64 ∨ ingress = 0x7F) →
      s.badMask ingress mask = false → Tbl.has s.jn.mcast group = false → group < 4096 →
      exec (.multicastInstall h group ingress mask) s =
        .next (({ s.counted with jn := { s.jn with
          mcast := Tbl.put s.jn.mcast group { ingress := ingress, mask := BitVec.ofNat 80 mask } } } : State).answer
            (.multicastInstall h group ingress mask) c .OK 0 [])) ∧
    (∀ ingress mask, Accepted (.multicastInstall h group ingress mask) c s → (ingress < 64 ∨ ingress = 0x7F) →
      s.badMask ingress mask = false → Tbl.has s.jn.mcast group = true →
      exec (.multicastInstall h group ingress mask) s =
        .next (s.counted.answer (.multicastInstall h group ingress mask) c .EXISTS 0 [])) ∧
    (Accepted (.multicastRemove h group) c s → Tbl.has s.jn.mcast group = true → exec (.multicastRemove h group) s =
      .next (({ s.counted with jn := { s.jn with mcast := Tbl.del s.jn.mcast group } } : State).answer
        (.multicastRemove h group) c .OK 0 [])) ∧
    (Accepted (.multicastRemove h group) c s → Tbl.has s.jn.mcast group = false → exec (.multicastRemove h group) s =
      .next (s.counted.answer (.multicastRemove h group) c .NOT_FOUND 0 []))) ∧
  (∀ (s : State) (c : Cmd) (h : CmdHdr) (group : Nat) (x : Fn), s.fn? h.fn = some x →
    s.fnBusy h.fn = false →
    (∀ domain senderFn member sender window w,
      let i : Instr := .multicastMemberSet h group domain senderFn member sender window
      let m : Member :=
        { fn := h.fn, sender := sender, senderFn := senderFn, index := member, domain := domain, window := window,
          gen := w.gen, base := 0, done := [], busy := [], violFrame := none }
      Accepted i c s → group < 4096 → senderFn < 2048 → member < 65536 → sender < 2097152 → s.windowOf h.fn domain window = some w →
      bit w.rights 2 = true → Tbl.has (s.engine x.att).members group = false → exec i s =
        .next (((s.counted.modEngine x.att fun e => { e with members := Tbl.put e.members group m }).answer i c .OK 0 []).settle)) ∧
    (∀ m, Accepted (.multicastMemberClear h group) c s → Tbl.get? (s.engine x.att).members group = some m → m.fn = h.fn →
      exec (.multicastMemberClear h group) s =
        .next (((s.counted.modEngine x.att fun e => { e with members := Tbl.del e.members group }).answer
          (.multicastMemberClear h group) c .OK 0 []).settle)) ∧
    (∀ rankTable first count t,
      let i : Instr := .multicastSenderSet h group rankTable first count
      let g : Sender :=
        { fn := h.fn, rankTable := rankTable, first := first, count := count, seq := 0, srtt := 20000, out := [],
          resting := Tbl.getD s.jn.mcastRest group [] }
      Accepted i c s → group < 4096 → 1 ≤ count → count ≤ 65536 → Tbl.get? s.cs.rankTables rankTable = some t → t.fn = h.fn →
      first + count ≤ t.size → (s.engines.any fun e => Tbl.has e.2.senders group) = false → s.mapsFull count = false → exec i s =
        .next ((((s.counted.modEngine x.att fun e => { e with senders := Tbl.put e.senders group g }).unrest group).answer i c .OK 0 []).settle)) ∧
    (∀ g, Accepted (.multicastSenderClear h group) c s → Tbl.get? (s.engine x.att).senders group = some g → g.fn = h.fn →
      s.mcastInFlight h.fn group = false → exec (.multicastSenderClear h group) s =
        .next ((((s.counted.keepRest x.att group).modEngine x.att fun e => { e with senders := Tbl.del e.senders group }).answer
          (.multicastSenderClear h group) c .OK 0 []).settle)))

/-- The settings of a function: accepted for a function that exists and that no waiting command acts on, with values in range. The Signal
Box's settings wait in its list of changes for its next tick boundary; the others take effect at once. FUNCTION_CREATE: the lowest free
function number is used, its generation advances, and the reply gives both; where the change of generation is still held by the rate limit
of R221 the command is held until it is free. R1: with 2,048 functions the next FUNCTION_CREATE returns CAPACITY and creates nothing.
Rules: R1, R196, R198, R200, R207, R217, R220, R229, R230, R231, R232, R334. -/
def Obligations.FunctionSettings : Prop :=
  (∀ (s : State) (c : Cmd) (h : CmdHdr) (x : Fn), s.fn? h.fn = some x → s.fnBusy h.fn = false →
    (∀ level lane share dwq, Accepted (.functionSchedSet h level lane share dwq) c s → level ≤ 7 → lane ≤ 1 → share ≠ 0 → dwq ≤ 15 →
      exec (.functionSchedSet h level lane share dwq) s =
        .next (({ s.counted with sb := { s.counted.sb with changes := s.counted.sb.changes ++ [.sched h.fn level (lane == 1) share dwq] } } : State).answer
          (.functionSchedSet h level lane share dwq) c .OK 0 [])) ∧
    (∀ lo hi, Accepted (.functionShaperSet h lo hi) c s → lo ≤ hi → hi ≤ 0xFFFFF → exec (.functionShaperSet h lo hi) s =
      .next (({ s.counted with sb := { s.counted.sb with changes := s.counted.sb.changes ++ [.shaper h.fn lo hi] } } : State).answer (.functionShaperSet h lo hi) c .OK 0 [])) ∧
    (∀ cls en act cir pir cbs pbs, Accepted (.functionPolicerSet h cls en act cir pir cbs pbs) c s → cls ≤ 2 → en ≤ 1 → act ≤ 1 →
      cir ≤ pir → pir ≤ 0xFFFFF → 1024 ≤ cbs → 1024 ≤ pbs → exec (.functionPolicerSet h cls en act cir pir cbs pbs) s =
        .next (({ s.counted with sb := { s.counted.sb with changes :=
          s.counted.sb.changes ++ [.policer h.fn cls (en == 1) act cir pir cbs pbs] } } : State).answer
          (.functionPolicerSet h cls en act cir pir cbs pbs) c .OK 0 [])) ∧
    (∀ target alpha beta init hi, Accepted (.functionCcSet h target alpha beta init hi) c s → 500 ≤ target → 1 ≤ alpha → alpha ≤ 64 →
      1 ≤ beta → beta ≤ 100 → 1 ≤ init → init ≤ hi → hi ≤ 64 → exec (.functionCcSet h target alpha beta init hi) s =
        .next ((s.counted.setCc h.fn target alpha beta init hi).answer (.functionCcSet h target alpha beta init hi) c .OK 0 [])) ∧
    (∀ rings ctx, Accepted (.functionQuotaSet h rings ctx) c s → rings ≤ 16384 → ctx ≤ ctxMax s.variant → x.rings.length ≤ rings →
      s.ringsShort h.fn rings = false → exec (.functionQuotaSet h rings ctx) s =
        .next (((s.counted.modFn h.fn fun y => { y with ringQuota := rings, ctxQuota := ctx }).answer
          (.functionQuotaSet h rings ctx) c .OK 0 []).settle)) ∧
    (∀ vectors staging tokens slots,
      let i : Instr := .functionPoolSet h vectors staging tokens 0 slots
      Accepted i c s → 1 ≤ vectors → vectors ≤ 2048 → tokens ≤ 64 → slots ≤ 4095 → s.manager ≠ some h.fn → x.state = .READY →
      s.poolShort h.fn x.att vectors staging = false → exec i s =
        .next (((s.counted.setPool h.fn x vectors staging tokens 0 slots).answer i c .OK 0 []).settle)) ∧
    (∀ event ring, Accepted (.eventRouteSet h event ring 1) c s → eventToF event = true → x.hasEventRing ring = true →
      exec (.eventRouteSet h event ring 1) s =
        .next ((s.counted.setFn h.fn { x with routes := Tbl.put x.routes event ring }).answer (.eventRouteSet h event ring 1) c .OK 0 []))) ∧
  (∀ (s : State) (c : Cmd) (h : CmdHdr) (att vf vectors staging tokens slots rings ctx : Nat),
    let i : Instr := .functionCreate h att vf vectors staging tokens slots rings ctx
    let f := s.freeFn
    let t := (s.counted.addFn f (Fn.initial att vf vectors staging tokens slots rings ctx s.minute)).advanceGen f
    Accepted i c s → s.badAtt att = false → 1 ≤ vf → vf ≤ (s.att att).vfLimit → 1 ≤ vectors → vectors ≤ 2048 → tokens ≤ 64 → slots ≤ 4095 →
    rings ≤ 16384 → ctx ≤ ctxMax s.variant → s.fnAt att vf = none → f ≤ 2047 → s.poolShort f att vectors staging = false →
    s.ringsShort f rings = false →
    ((t.genOf f).held = 0 → exec i s = .next ((t.answer i c .OK 0 (t.createdReply f)).settle)) ∧
    ((t.genOf f).held ≠ 0 → exec i s = .next ((State.conclude i c (.hold t (.create f))).settle))) ∧
  (∀ (s : State) (c : Cmd) (h : CmdHdr) (att vf vectors staging tokens slots rings ctx : Nat),
    let i : Instr := .functionCreate h att vf vectors staging tokens slots rings ctx
    Accepted i c s → s.badAtt att = false → 1 ≤ vf → vf ≤ (s.att att).vfLimit → 1 ≤ vectors → vectors ≤ 2048 → tokens ≤ 64 → slots ≤ 4095 →
    rings ≤ 16384 → ctx ≤ ctxMax s.variant → s.fnAt att vf = none → (∀ f, 32 ≤ f → f < 2048 → (s.fn? f).isSome) →
    exec i s = .next ((s.counted.answer i c .CAPACITY 0 []).settle))

/-- R89: the horizon is 250 ms when a function is created; FUNCTION_HORIZON_SET sets it from 10 to 10,000 ms in steps of 1 ms; any other value
is BAD_PARAM. A horizon made shorter draws in the deadlines of what is in flight. Rule: R89. -/
def Obligations.FunctionHorizon : Prop := ∀ (s : State) (c : Cmd) (h : CmdHdr) (x : Fn) (ms : Nat),
  (∀ att vf v st tk sl rg cx m, (Fn.initial att vf v st tk sl rg cx m).horizonMs = 250) ∧
  (Accepted (.functionHorizonSet h ms) c s → s.fn? h.fn = some x → s.fnBusy h.fn = false → 10 ≤ ms → ms ≤ 10000 →
    (x.horizonMs ≤ ms → exec (.functionHorizonSet h ms) s =
      .next ((s.counted.modFn h.fn fun y => { y with horizonMs := ms }).answer (.functionHorizonSet h ms) c .OK 0 [])) ∧
    (ms < x.horizonMs → exec (.functionHorizonSet h ms) s =
      .next (({ s.counted.modFn h.fn (fun y => { y with horizonMs := ms }) with
        ops := Tbl.mapVal s.ops fun _ (o : Op) =>
          if o.fn = h.fn then { o with deadline := minN o.deadline (s.ns + ms * 1000000) } else o } : State).answer
        (.functionHorizonSet h ms) c .OK 0 []))) ∧
  (Accepted (.functionHorizonSet h ms) c s → ms < 10 ∨ 10000 < ms → ∃ d, exec (.functionHorizonSet h ms) s =
    .next (s.counted.answer (.functionHorizonSet h ms) c .BAD_PARAM d []))

/-- The life of a function: ENABLE runs a READY function whose host can reach it; DESTROY, DISABLE, RESET and FREEZE start and wait for the
reset point, or for the work in flight; THAW runs a FROZEN function again; a function already where the command leads is answered OK.
Without FORCE a function that still has windows, tokens or reservations is not touched; with FORCE its reservations are suspended or
removed and its windows and tokens revoked first. How a function's data-class work is cut off: the function enters its state with a record
of the reset under way, its generation advances, its work is discarded, its collective groups lose the member, and a FREEZE that waits for
it ends FAILED; withdrawing it (DISABLE, DESTROY) also gives up its tokens. FUNCTION_SAVE and FUNCTION_RESTORE: a FROZEN function's blob
is written to the manager's buffer, and its length is the reply; a buffer that is too short for it is answered CAPACITY with the length,
and nothing is written; RESTORE fetches the blob for a READY function that its host can reach, and waits. Rules: R233, R234, R235, R236,
R237, R238, R241, R242, R243, R616. -/
def Obligations.FunctionLife : Prop :=
  (∀ (s : State) (c : Cmd) (h : CmdHdr) (x : Fn), s.fn? h.fn = some x → s.fnBusy h.fn = false →
    s.waitFull h = false →
    (Accepted (.functionEnable h) c s →
      (x.state = .READY → s.enableOk x = true → exec (.functionEnable h) s =
        .next ((((s.counted.setFn h.fn { x with state := .RUNNING, cause := 0 }).unforce h.fn).answer (.functionEnable h) c .OK 0
          []).settle)) ∧
      (x.state = .RUNNING → exec (.functionEnable h) s = .next ((s.counted.answer (.functionEnable h) c .OK 0 []).settle))) ∧
    (Accepted (.functionDestroy h) c s → (x.state = .READY ∨ x.state = .FROZEN) →
      (h.force = false → s.unquiet h.fn true true true = false → exec (.functionDestroy h) s =
        .next (State.conclude (.functionDestroy h) c (.wait (s.counted.withdraw h.fn false false) (.fnDestroy h.fn))).settle) ∧
      (h.force = true → exec (.functionDestroy h) s =
        .next (State.conclude (.functionDestroy h) c (.wait ((s.counted.forceRemove h.fn).withdraw h.fn true false) (.fnDestroy
          h.fn))).settle)) ∧
    (Accepted (.functionDisable h) c s →
      ((x.state = .RUNNING ∨ x.state = .HALTED) →
        (h.force = false → s.unquiet h.fn true true true = false → exec (.functionDisable h) s =
          .next (State.conclude (.functionDisable h) c (.wait (s.counted.withdraw h.fn false true) (.fnDisable h.fn))).settle) ∧
        (h.force = true → exec (.functionDisable h) s =
          .next (State.conclude (.functionDisable h) c (.wait ((s.counted.forceSuspend h.fn).withdraw h.fn true true) (.fnDisable
            h.fn))).settle)) ∧
      (x.state = .READY → exec (.functionDisable h) s = .next ((s.counted.answer (.functionDisable h) c .OK 0 []).settle))) ∧
    (Accepted (.functionReset h) c s →
      (x.state = .RESETTING → exec (.functionReset h) s =
        .next (State.conclude (.functionReset h) c (.wait s.counted (.fnReset h.fn))).settle) ∧
      (x.state ≠ .RESETTING → (h.force = false → s.unquiet h.fn true true false = false) → exec (.functionReset h) s =
        .next (State.conclude (.functionReset h) c (.wait (s.counted.deviceResetFn h.fn h.force) (.fnReset h.fn))).settle)) ∧
    (∀ ms y, Accepted (.functionFreeze h ms) c s → 1 ≤ ms → ms ≤ 10000 → x.state = .RUNNING →
      (h.force = false → s.unquiet h.fn false true false = false) → 
      let t := s.counted.tokensLost h.fn
      let u := t.modFn h.fn fun z => { z with state := .FREEZING, freeze := some (t.ns + ms * 1000000) }
      u.fn? h.fn = some y → exec (.functionFreeze h ms) s =
        .next (State.conclude (.functionFreeze h ms) c (.wait (u.refuseWaiting h.fn y) (.freeze h.fn))).settle) ∧
    (Accepted (.functionThaw h) c s →
      (x.state = .FROZEN → s.hostReady x = true → exec (.functionThaw h) s =
        .next ((((s.counted.thaw h.fn).unforce h.fn).answer (.functionThaw h) c .OK 0 []).settle)) ∧
      (x.state = .RUNNING → exec (.functionThaw h) s = .next ((s.counted.answer (.functionThaw h) c .OK 0 []).settle)))) ∧
  (∀ (s : State) (f : Nat) (x : Fn), s.fn? f = some x →
    (∀ enters ends, s.cutWork f enters ends true =
      ((((s.modFn f fun y => { y with state := enters, resetRec := some { oldGen := s.gen f, ends := ends, port := false } }).advanceGen
        f).discardWork f x).memberLost f).answerOn (.freeze f) .FAILED 0 []) ∧
    (∀ advance, s.withdraw f false advance = ((s.cutWork f .READY .READY advance).modFn f fun y => { y with cause := 0 }).tokensLost f) ∧
    (∀ advance, s.withdraw f true advance =
      (((s.cutWork f .READY .READY advance).modFn f fun y => { y with cause := 0 }).tokensLost f).forceWindows f)) ∧
  (∀ (s : State) (c : Cmd) (h : CmdHdr) (x : Fn), s.fn? h.fn = some x → s.fnBusy h.fn = false →
    s.waitFull h = false → s.managerReachable = true →
    (∀ buffer n, Accepted (.functionSave h buffer n) c s → x.state = .FROZEN →
      ((s.counted.blobOf h.fn x).length ≤ n → s.gen h.fn = x.freezeGen → exec (.functionSave h buffer n) s =
        .next ((s.counted.managerWrite buffer (s.counted.blobOf h.fn x)).answer (.functionSave h buffer n) c .OK 0
          (le 8 (s.counted.blobOf h.fn x).length))) ∧
      (n < (s.counted.blobOf h.fn x).length → exec (.functionSave h buffer n) s =
        .next (s.counted.answer (.functionSave h buffer n) c .CAPACITY (s.counted.blobOf h.fn x).length []))) ∧
    (∀ blob n a, Accepted (.functionRestore h blob n) c s → 64 ≤ n → x.state = .READY → s.hostReady x = true → s.manager = some a →
      exec (.functionRestore h blob n) s =
        .next (State.conclude (.functionRestore h blob n) c
          (.wait (s.counted.dmaRead a blob n .blob none h.fn) (.restore h.fn))).settle))

/-- Rank tables, the spill region and BL_CFG: a table is created for its function where the region holds it and answered CAPACITY where it
does not, its entries are written, and it is destroyed when nothing is bound to it; the spill region and the elision enable are set. The
matching context of a function: its limits are set where the matching region holds them; a communicator names a rank table and a domain of
the function; clearing one that nothing uses removes it. Rules: R160, R161, R162, R345, R357, R358, R359, R360, R446. -/
def Obligations.ContextAndMatchTables : Prop :=
  (∀ (s : State) (c : Cmd) (h : CmdHdr) (table : Nat),
    (∀ base capacity en, Accepted (.flowSpillSet h base capacity en) c s → base % 4096 = 0 → capacity ≤ 4194304 → en ≤ 1 →
      s.cs.spilled = [] → exec (.flowSpillSet h base capacity en) s =
        .next ((({ s.counted with cs := { s.cs with spillBase := base, spillCapacity := capacity, spillEnable := en == 1 } } :
          State).answer (.flowSpillSet h base capacity en) c .OK 0 []).settle)) ∧
    (∀ en, Accepted (.balerConfigSet h en) c s → en ≤ 1 → exec (.balerConfigSet h en) s =
      .next (({ s.counted with elideEn := en == 1 } : State).answer (.balerConfigSet h en) c .OK 0 [])) ∧
    (∀ n, Accepted (.rankTableCreate h table n) c s → 1 ≤ n → n ≤ 2097152 → (s.fn? h.fn).isSome → s.fnBusy h.fn = false →
      Tbl.has s.cs.rankTables table = false →
      let used := sumNat (s.cs.rankTables.map fun t => 8 * t.2.size)
      (used + 8 * n ≤ rankRegion s.variant → exec (.rankTableCreate h table n) s =
        .next ((({ s.counted with cs := { s.cs with
          rankTables := Tbl.put s.cs.rankTables table { fn := h.fn, size := n, entries := [] } } } : State).answer
            (.rankTableCreate h table n) c .OK 0 []).settle)) ∧
      (rankRegion s.variant < used + 8 * n → exec (.rankTableCreate h table n) s =
        .next ((s.counted.answer (.rankTableCreate h table n) c .CAPACITY (8 * n) []).settle))) ∧
    (∀ first entries t, Accepted (.rankTableWrite h table first entries) c s → entries.all s.entryOk = true →
      Tbl.get? s.cs.rankTables table = some t → first + entries.length ≤ t.size → exec (.rankTableWrite h table first entries) s =
        .next (({ s.counted with cs := { s.cs with
          rankTables := Tbl.put s.cs.rankTables table { t with entries := writeEntries entries first t.entries } } } : State).answer
            (.rankTableWrite h table first entries) c .OK 0 [])) ∧
    (Accepted (.rankTableDestroy h table) c s → Tbl.has s.cs.rankTables table = true → s.tableBound table = false →
      exec (.rankTableDestroy h table) s =
        .next ((({ s.counted with cs := { s.cs with rankTables := Tbl.del s.cs.rankTables table } } : State).answer
          (.rankTableDestroy h table) c .OK 0 []).settle))) ∧
  (∀ (s : State) (c : Cmd) (h : CmdHdr) (x : Fn), s.fn? h.fn = some x → s.fnBusy h.fn = false →
    (∀ en log2 backoff posted unexp kib,
      let i : Instr := .matchContextSet h en log2 backoff posted unexp kib
      Accepted i c s → en ≤ 1 → log2 ≤ 16 → 1 ≤ backoff → backoff ≤ 1000 → posted ≤ 1048576 → unexp ≤ 1048576 → kib ≤ 4194304 →
      s.matchInUse h.fn x en log2 posted unexp kib = false →
      s.grantsBut h.fn (·.matchBytes) + matchBytes log2 posted unexp kib ≤ matchRegion s.variant → exec i s =
        .next (((s.counted.setFn h.fn { x with
          matchEn := en == 1, log2Comms := log2, backoff := backoff, postedMax := posted, unexpectedMax := unexp,
          unexpectedKib := kib }).answer i c .OK 0 []).settle)) ∧
    (∀ comm rankTable domain own t,
      let i : Instr := .matchCommSet h comm rankTable domain own
      Accepted i c s → Tbl.get? s.cs.rankTables rankTable = some t → t.fn = h.fn → s.ownsDomain h.fn domain = true →
      comm < 2 ^ x.log2Comms → own < t.size → s.postedOn h.fn comm = [] → exec i s =
        .next (((s.counted.setFn h.fn { x with
          comms := Tbl.put x.comms comm { rankTable := rankTable, domain := domain, ownRank := own } }).answer i c .OK 0 []).settle)) ∧
    (∀ comm, Accepted (.matchCommClear h comm) c s → Tbl.has x.comms comm = true → s.postedOn h.fn comm = [] →
      ((s.lists h.fn).unexpected.any fun u => u.comm == comm) = false → exec (.matchCommClear h comm) s =
        .next ((((s.counted.forceComm h.fn comm).modFn h.fn fun y => { y with comms := Tbl.del y.comms comm }).answer
          (.matchCommClear h comm) c .OK 0 []).settle)))

/-- Domains and windows: DOMAIN_CREATE takes room for its slots, and a domain without open windows and bound rings is destroyed; while an
invalidation of a window or a command before it is in progress, a WINDOW_REVOKE waits for its turn and a WINDOW_QUERY is held. How an
invalidation of a window starts: it is entered with the time it starts; a second revocation of one window within a frame is held; any
other marks the slot revoked, where it revokes, and goes to every cache. A window command in its turn: a window opened holds its extents,
its rights, a new check byte and the generation of its slot, and the reply carries its key; revoking, modifying without lazy and clearing
marks start an invalidation and wait for it; dirty tracking is switched, and its bitmaps are fetched and cleared. Rules: R282, R283, R284,
R294, R295, R296, R297, R299, R304, R621. -/
def Obligations.WindowCommands : Prop :=
  (∀ (s : State) (c : Cmd) (h : CmdHdr) (domain : Nat),
    (∀ log2 job base, Accepted (.domainCreate h domain log2 job) c s → 4 ≤ log2 → log2 ≤ 24 → (s.fn? h.fn).isSome → s.fnBusy h.fn = false →
      Tbl.has s.wu.domains domain = false → (job ≠ 0 → ∀ d ∈ s.wu.domains, d.2.fn = h.fn → d.2.job ≠ job) →
      s.allocate [] (64 * 2 ^ log2) = some base → exec (.domainCreate h domain log2 job) s =
        .next (({ s.counted with wu := { s.wu with
          domains := Tbl.put s.wu.domains domain { fn := h.fn, job := job, log2Ids := log2, base := base } } } : State).answer
            (.domainCreate h domain log2 job) c .OK 0 [])) ∧
    (Accepted (.domainDestroy h domain) c s → Tbl.has s.wu.domains domain = true → s.domainOpen domain = false →
      s.domainBound domain = false → exec (.domainDestroy h domain) s =
        .next (({ s.counted with wu := { s.wu with
          domains := Tbl.del s.wu.domains domain, slots := s.wu.slots.filter fun w => w.1 / 2 ^ 24 != domain } } : State).answer
            (.domainDestroy h domain) c .OK 0 [])) ∧
    (∀ id, s.waitFull h = false → s.windowBusy domain id = true →
      (Accepted (.windowRevoke h domain id) c s → exec (.windowRevoke h domain id) s =
        .next (State.conclude (.windowRevoke h domain id) c (.wait s.counted (.window domain id))).settle) ∧
      (Accepted (.windowQuery h domain id) c s → exec (.windowQuery h domain id) s =
        .next (State.conclude (.windowQuery h domain id) c (.hold s.counted (.window domain id)))))) ∧
  (∀ (s : State) (domain id : Nat) (why : Inval),
    let held := why.revokes && (match Tbl.get? s.wu.slots (slotKey domain id) with
      | some w => w.revoked == some s.frame
      | none => false)
    let r : Revocation := { domain := domain, id := id, why := why, started := s.ns, held := held }
    let t := { s with wu := { s.wu with revocations := s.wu.revocations ++ [r] } }
    (held = true → s.invalidate domain id why = t) ∧
    (held = false → why.revokes = false → s.invalidate domain id why = t.broadcast domain id false) ∧
    (held = false → why.revokes = true → s.invalidate domain id why =
      ({ t with wu := { t.wu with slots := Tbl.modify t.wu.slots (slotKey domain id) Window.revokedNow } } : State).broadcast domain id true)) ∧
  (∀ (s : State) (c : Cmd) (h : CmdHdr) (domain id : Nat) (d : Domain), s.waitFull h = false →
    s.windowBusy domain id = false → Tbl.get? s.wu.domains domain = some d → id < 2 ^ d.log2Ids →
    (∀ rights track extents base l,
      let i : Instr := .windowOpen h domain rights track id extents
      let check := s.counted.draw.1 % 256
      let w : Window :=
        { valid := true, rights := rights, accessed := false, dirtyTrack := track == 1, check := check, gen := (s.slot domain id).gen,
          fn := d.fn, length := sumNat (extents.map (·.1)), extentBase := base, openTime := s.ns, extents := l,
          revoked := (s.slot domain id).revoked }
      Accepted i c s → track ≤ 1 → extents ≠ [] → extents.length ≤ 8 → extents.all extentOk = true → (s.slot domain id).valid = false →
      s.counted.placeExtents [] (layExtents extents 0) (track == 1) = some (base, l) → exec i s =
        .next ((s.counted.draw.2.setSlot domain id w).answer i c .OK 0 (le 4 (id + at_ check 24) ++ le 1 w.gen))) ∧
    (Accepted (.windowQuery h domain id) c s → (s.slot domain id).valid = true → Tbl.has s.wu.slots (slotKey domain id) = true →
      exec (.windowQuery h domain id) s =
        .next (s.counted.answer (.windowQuery h domain id) c .OK 0
          ((s.slot domain id).bytes domain id ++ (s.slot domain id).extents.flatMap (·.bytes)))) ∧
    ((s.slot domain id).valid = true →
      (Accepted (.windowRevoke h domain id) c s → exec (.windowRevoke h domain id) s =
        .next (State.conclude (.windowRevoke h domain id) c
          (.wait (s.counted.invalidate domain id .revoke) (.revoke domain id))).settle) ∧
      (∀ rights lazy iovas,
        let i : Instr := .windowModify h domain rights lazy id iovas
        let t := s.counted.setSlot domain id { s.slot domain id with
          rights := rights, extents := ((s.slot domain id).extents.zip iovas).map fun x => { x.1 with iova := x.2 } }
        Accepted i c s → lazy ≤ 1 → iovas.length = (s.slot domain id).extents.length → badIova iovas (s.slot domain id).extents = none →
        (lazy = 1 → exec i s = .next (t.answer i c .OK 0 [])) ∧
        (lazy = 0 → exec i s = .next (State.conclude i c (.wait (t.invalidate domain id .modify) (.modify domain id))))) ∧
      (∀ l, Accepted (.windowDirtyEnable h domain id) c s → s.counted.addBitmaps [] (s.slot domain id).extents = some l →
        exec (.windowDirtyEnable h domain id) s =
          .next ((s.counted.setSlot domain id { s.slot domain id with dirtyTrack := true, extents := l }).answer
            (.windowDirtyEnable h domain id) c .OK 0 (le 8 0))) ∧
      (Accepted (.windowDirtyDisable h domain id) c s → exec (.windowDirtyDisable h domain id) s =
        .next ((s.counted.setSlot domain id { s.slot domain id with
          dirtyTrack := false, extents := (s.slot domain id).extents.map fun e => { e with bitmap := none } }).answer
            (.windowDirtyDisable h domain id) c .OK 0 (le 8 0))) ∧
      (∀ buffer n, Accepted (.windowDirtyFetch h domain id buffer n) c s → s.managerReachable = true →
        ((s.slot domain id).extents.flatMap (·.mapBytes)).length ≤ n → exec (.windowDirtyFetch h domain id buffer n) s =
          .next (((s.counted.setSlot domain id { s.slot domain id with
            extents := (s.slot domain id).extents.map fun e =>
              { e with bitmap := e.bitmap.map fun b => (b.1, []) } }).managerWrite buffer
                ((s.slot domain id).extents.flatMap (·.mapBytes))).answer (.windowDirtyFetch h domain id buffer n) c .OK 0
                  (le 8 ((s.slot domain id).extents.flatMap (·.mapBytes)).length))) ∧
      (Accepted (.windowDirtyClearMarks h domain id) c s → exec (.windowDirtyClearMarks h domain id) s =
        .next (State.conclude (.windowDirtyClearMarks h domain id) c
          (.wait ((s.counted.setSlot domain id { s.slot domain id with
            accessed := false, extents := (s.slot domain id).extents.map fun e => { e with dirty := false } }).invalidate domain id .clear)
              (.dirty domain id))))))

/-- The commands of a collective group: create takes the group's tags and enters it READY with no member; destroy and reset act on a group
that is not ACTIVE, destroy with FORCE on any after it has failed with cause COMMAND; a member is set on a READY group; and query replies
with the group. The token commands: rights and homes are set, a binding is made IDLE for its function and removed, a local token is
released by force and its next waiter gets it, and a query replies with the word of what it names. Rules: R390, R391, R392, R394, R395,
R396, R450, R462, R463, R464, R472. -/
def Obligations.CollectiveAndTokenCommands : Prop :=
  (∀ (s : State) (c : Cmd) (h : CmdHdr) (group : Nat), group ≤ 1023 →
    (∀ epoch parent anchor depth size children t,
      let i : Instr := .collGroupCreate h group epoch parent anchor depth size children
      let x := Group.initial epoch parent anchor (groupDepth depth) size children
      Accepted i c s → (parent = 0xFF ∨ (s.edgePort parent = true ∧ children.contains parent = false)) → anchor ≤ 31 →
      s.assigned anchor = true → 2 ≤ groupDepth depth → groupDepth depth ≤ 16 → children.length ≤ 47 → 1 ≤ size → size ≤ 524288 →
      hasRepeat children = false → children.all s.edgePort = true → s.group? group = none → s.rh.groups.length < 1024 →
      x.storeKib ≤ s.rhFreeKib → s.counted.createGroup group x = some t → exec i s = .next ((t.answer i c .OK 0 []).settle)) ∧
    (∀ x, s.group? group = some x →
      (Accepted (.collGroupDestroy h group) c s → x.state ≠ 2 → h.force = false → exec (.collGroupDestroy h group) s =
        .next (((s.counted.removeGroup group x).answer (.collGroupDestroy h group) c .OK 0 []).settle)) ∧
      (Accepted (.collGroupDestroy h group) c s → h.force = true → exec (.collGroupDestroy h group) s =
        .next ((((s.counted.failGroup group causeCOMMAND none).removeGroup group x).answer (.collGroupDestroy h group) c .OK 0 []).settle)) ∧
      (∀ epoch, Accepted (.collGroupReset h group epoch) c s → x.state ≠ 2 → s.groupOps group = [] →
        exec (.collGroupReset h group epoch) s =
          .next (((s.counted.setGroup group (x.restart epoch)).answer (.collGroupReset h group epoch) c .OK 0 []).settle)) ∧
      (∀ att rank f, Accepted (.collMemberSet h group att rank) c s → s.badAtt att = false → s.fn? h.fn = some f → f.att = att →
        rank < x.size → x.state = 1 → s.fnBusy h.fn = false → exec (.collMemberSet h group att rank) s =
          .next (((s.counted.setGroup group { x with
            members := Tbl.put x.members att { fn := h.fn, rank := rank, next := 0 } }).answer
              (.collMemberSet h group att rank) c .OK 0 []).settle)) ∧
      (Accepted (.collGroupQuery h group) c s → exec (.collGroupQuery h group) s =
        .next (s.counted.answer (.collGroupQuery h group) c .OK 0 x.bytes)))) ∧
  (∀ (s : State) (c : Cmd) (h : CmdHdr),
    (∀ group en first last mask,
      let i : Instr := .tokenGroupRightsSet h group en first last mask
      let t : State := { s.counted with tk := { s.tk with
        rights := Tbl.put s.tk.rights group { enable := en == 1, first := first, last := last, pfMask := BitVec.ofNat 32 mask } } }
      Accepted i c s → group ≤ 63 → en ≤ 1 → first ≤ 2047 → last ≤ 2047 → s.counted.rightsBusy t group = false →
      exec i s = .next (t.answer i c .OK 0 [])) ∧
    (∀ slot en, Accepted (.tokenFabricHomeSet h slot en) c s → slot ≤ 63 → en ≤ 1 → (en = 0 → (s.home slot).holder = none) →
      exec (.tokenFabricHomeSet h slot en) s =
        .next ((s.counted.setHome slot { s.home slot with enable := en == 1 }).answer (.tokenFabricHomeSet h slot en) c .OK 0 [])) ∧
    (∀ b index loc f, Accepted (.tokenFabricBind h b index loc) c s → b ≤ 63 → index ≤ 63 → s.fn? h.fn = some f → s.binding? b = none →
      s.fnBusy h.fn = false → s.bindingCount h.fn < f.fabricTokens → exec (.tokenFabricBind h b index loc) s =
        .next ((s.counted.setBinding b (Binding.initial h.fn loc index)).answer (.tokenFabricBind h b index loc) c .OK 0 [])) ∧
    (∀ b x, Accepted (.tokenFabricUnbind h b) c s → b ≤ 63 → (s.fn? h.fn).isSome → s.ownBinding h.fn b = some x → x.state ≠ .HELD →
      x.waits = false → s.fnBusy h.fn = false → exec (.tokenFabricUnbind h b) s =
        .next (({ s.counted with tk := { s.tk with bindings := Tbl.del s.tk.bindings b } } : State).reportLevels.answer
          (.tokenFabricUnbind h b) c .OK 0 [])) ∧
    (∀ token, Accepted (.tokenForceRelease h token) c s → token ≤ 1023 → (s.localToken token).holder.isSome →
      exec (.tokenForceRelease h token) s =
        .next ((s.counted.localRelease token true).reportLevels.answer (.tokenForceRelease h token) c .OK 0 [])) ∧
    (∀ kind index, Accepted (.tokenQuery h kind index) c s → kind ≤ 2 → index < tokenCount kind → exec (.tokenQuery h kind index) s =
      .next (s.counted.answer (.tokenQuery h kind index) c .OK 0
        (if kind = 0 then le 8 (s.counted.localWord index) else if kind = 1 then le 16 (s.counted.homeWord index)
         else le 16 (s.counted.bindWord index)))))

/-- Reads and writes of a local token by a running function that has the right: the free token is taken by the reader; the token of another
stays with its holder, and a WAIT read enters the reader among the waiters once, where the table of waiters has room; its holder's write
of 0 releases it, to the next waiter if there is one, who is told by TOKEN_GRANTED; a write of 0 to the wait alias ends the writer's wait;
any other write of the acquire address is counted and changes nothing. Every access is followed by the report of R460. Reads and writes of
a fabric token through a binding: a read with a request under way answers pending; a held binding is answered here; an answer that has
come is returned once; any other read sends ACQUIRE or WAIT to the home with a new request number and in the function's present
generation; a write of 0 by the holder sends RELEASE, any other write is counted, and a cancel of a wait sends CANCEL. Rules: R454, R455,
R456, R457, R458, R466, R468. -/
def Obligations.TokenAccesses : Prop :=
  (∀ (s : State) (f t : Nat) (x : Fn), t < 1024 → s.alive = true → s.fn? f = some x →
    x.state = .RUNNING → s.tokenRight f x (t / 16) = true →
    let y := s.localToken t
    let told := fun (s : State) (offset value : Nat) => (s.emit (.value (.fn f) (0x2000 + offset) value)).reportLevels
    (y.holder = none → ∀ e ∈ [(Instr.localTokenAcquireRead f t, 8 * t), (.localTokenWaitRead f t, 8 * t + 4)],
      exec e.1 s = .next (told ((s.setLocal t { y with holder := some f, lost := false }).tally 0x60010) e.2
        (tokenValue true y.lost false (s.gen f) f))) ∧
    (y.holder = some f → ∀ e ∈ [(Instr.localTokenAcquireRead f t, 8 * t), (.localTokenWaitRead f t, 8 * t + 4)],
      exec e.1 s = .next (told (s.setLocal t { y with lost := false }) e.2 (tokenValue true y.lost false (s.gen f) f))) ∧
    (∀ g, y.holder = some g → g ≠ f →
      exec (.localTokenAcquireRead f t) s =
        .next (told s (8 * t) (tokenValue false false (y.waiters.any fun w => w.fn == f) (s.gen g) g)) ∧
      ((y.waiters.any fun w => w.fn == f) = true → exec (.localTokenWaitRead f t) s =
        .next (told s (8 * t + 4) (tokenValue false false true (s.gen g) g))) ∧
      ((y.waiters.any fun w => w.fn == f) = false → s.waiterRoom (s.endpoint x.att) f = true → exec (.localTokenWaitRead f t) s =
        .next (told (s.setLocal t { y with waiters := y.waiters ++
          [{ endpoint := s.endpoint x.att, fn := f, gen := s.gen f, binding := 0, priority := x.sched.baseLevel }] })
            (8 * t + 4) (tokenValue false false true (s.gen g) g))) ∧
      ((y.waiters.any fun w => w.fn == f) = false → s.waiterRoom (s.endpoint x.att) f = false → exec (.localTokenWaitRead f t) s =
        .next (told s (8 * t + 4) (tokenValue false false false (s.gen g) g)))) ∧
    (y.holder = some f →
      (nextWaiter y.waiters = none → exec (.localTokenReleaseWrite f t 0) s =
        .next (s.setLocal t { holder := none, lost := false, waiters := [] }).reportLevels) ∧
      (∀ w, nextWaiter y.waiters = some w → exec (.localTokenReleaseWrite f t 0) s =
        .next (((s.setLocal t { holder := some w.fn, lost := false, waiters := y.waiters.erase w }).tally 0x60018).raise 0x140
          (some w.fn) t).reportLevels)) ∧
    (∀ v, v ≠ 0 ∨ y.holder ≠ some f → exec (.localTokenReleaseWrite f t v) s = .next (s.evidence 0x60028).reportLevels) ∧
    (exec (.tokenWaitCancelWrite f false t 0) s =
      .next (s.setLocal t { y with waiters := y.waiters.filter fun w => w.fn != f }).reportLevels)) ∧
  (∀ (s : State) (f b : Nat) (z : Fn) (x : Binding), s.alive = true → s.fn? f = some z →
    z.state = .RUNNING → s.ownBinding f b = some x →
    (∀ e ∈ [(Instr.fabricBindingAcquireRead f b, 8 * b, tmACQUIRE), (.fabricBindingWaitRead f b, 8 * b + 4, tmWAIT)],
      let told := fun (s : State) (value : Nat) => (s.emit (.value (.fn f) (0x4000 + e.2.1) value)).reportLevels
      (x.req.isSome → exec e.1 s = .next (told (s.setBinding b { x with answer := valuePending }) valuePending)) ∧
      (x.req = none → x.ready = none → x.state = .HELD → exec e.1 s =
        .next (told (s.setBinding b { x with lost := false, answer := tokenValue true x.lost false (s.gen x.fn) x.fn })
          (tokenValue true x.lost false (s.gen x.fn) x.fn))) ∧
      (∀ v, x.req = none → x.ready = some v → exec e.1 s = .next (told (s.setBinding b { x with ready := none, answer := v }) v)) ∧
      (x.req = none → x.ready = none → x.state ≠ .HELD →
        let y : Binding := { x with
          gen := s.gen x.fn, state := .PENDING, answer := valuePending,
          req := some { kind := e.2.2, request := s.takeRequest.1, sent := s.ns, wait := 50000, first := s.ns } }
        let t := s.takeRequest.2.setBinding b y
        exec e.1 s = .next (told (t.sendToken x.homeLoc (t.bindMsg b y e.2.2 s.takeRequest.1 false)) valuePending))) ∧
    (x.state = .HELD → exec (.fabricBindingReleaseWrite f b 0) s =
      .next ((s.setBinding b { x with state := .IDLE, lost := false, top := 0, ready := none, renewing := none }).sendRelease x.homeLoc
        (s.bindMsg b x tmRELEASE 0 false)).reportLevels) ∧
    (∀ v, v ≠ 0 ∨ x.state ≠ .HELD → exec (.fabricBindingReleaseWrite f b v) s = .next (s.evidence 0x60028).reportLevels) ∧
    (x.waits = true → exec (.tokenWaitCancelWrite f true b 0) s =
      .next ((s.bindSend b x tmCANCEL).setBinding b { x with state := .IDLE, req := none, renewing := none }).reportLevels))

/-- Token messages at a home slot: of an enabled one, ACQUIRE and WAIT take a free token with a lease of 4 ms; those of another party leave
the holder and are answered, WAIT entering the party among the waiters; RELEASE and RENEW act only for the holder, and are answered; a
repeated request number gets the earlier answer again. CANCEL removes a waiter and GRANT_ACK confirms the grant that it names, and neither
is answered. A slot that is not enabled answers nothing. Token messages at a requester: an ANSWER settles the request it names, and the
binding is HELD exactly when it was won; the ANSWER to a RELEASE ends its resends; a GRANT of a binding that waits makes it HELD with
event TOKEN_GRANTED, and is acknowledged; one that the binding no longer waits for is released, toward the router that sent it. Rules:
R454, R455, R458, R465, R466, R468, R469, R470. -/
def Obligations.TokenMessages : Prop :=
  (∀ (s : State) (loc : Nat) (m : TokenMsg), s.alive = true → m.index < 64 →
    (s.tk.inbox.find? fun n => n.2.kind == m.kind) = some (loc, m) →
    let t : State := { s with tk := { s.tk with inbox := s.tk.inbox.erase (loc, m) } }
    let h := s.home m.index
    let w := msgParty m
    (h.enable = true → h.earlier m = none →
      (∀ e ∈ [(tmACQUIRE, Instr.tokenMsgAcquire), (tmWAIT, .tokenMsgWait)], m.kind = e.1 →
        (h.holder = none → exec e.2 s =
          .next ((((t.setHome m.index { h with holder := some w, lost := false, lease := s.ns + 4000000, granting := none }).tally
            0x60010).homeReply m.index m h.lost).reportLevels)) ∧
        (∀ y, h.holder = some y → y.same w = true → exec e.2 s =
          .next (((t.setHome m.index { h with lost := false }).homeReply m.index m h.lost).reportLevels))) ∧
      (∀ y, m.kind = tmACQUIRE → h.holder = some y → y.same w = false → exec .tokenMsgAcquire s =
        .next ((t.homeReply m.index m false).reportLevels)) ∧
      (∀ y, m.kind = tmWAIT → h.holder = some y → y.same w = false → (h.waiters.any (·.same w)) = false →
        t.waiterRoom w.endpoint w.fn = true → exec .tokenMsgWait s =
          .next (((t.setHome m.index { h with waiters := h.waiters ++ [w] }).homeReply m.index m false).reportLevels)) ∧
      (∀ y, m.kind = tmWAIT → h.holder = some y → y.same w = false →
        (h.waiters.any (·.same w)) = true ∨ t.waiterRoom w.endpoint w.fn = false → exec .tokenMsgWait s =
          .next ((t.homeReply m.index m false).reportLevels)) ∧
      (m.kind = tmRELEASE → exec .tokenMsgRelease s =
        .next (((if h.heldBy w then t.homeRelease m.index m.lost else t).homeReply m.index m false).reportLevels)) ∧
      (m.kind = tmRENEW → exec .tokenMsgRenew s =
        .next (((if h.heldBy w then t.setHome m.index { h with lease := s.ns + 4000000, granting := none, lost := false }
          else t).homeReply m.index m false).reportLevels))) ∧
    (∀ e ∈ [(tmACQUIRE, Instr.tokenMsgAcquire), (tmWAIT, .tokenMsgWait), (tmRELEASE, .tokenMsgRelease), (tmRENEW, .tokenMsgRenew)],
      m.kind = e.1 →
      (h.enable = false → exec e.2 s = .next t.reportLevels) ∧
      (∀ a, h.enable = true → h.earlier m = some a → exec e.2 s = .next (t.sendToken (epLoc m.endpoint) a).reportLevels)) ∧
    (m.kind = tmCANCEL → exec .tokenMsgCancel s =
      .next (t.setHome m.index { h with waiters := h.waiters.filter fun y => !y.same w }).reportLevels) ∧
    (m.kind = tmGRANT_ACK → h.granting = some m.request → h.heldBy w = true → exec .tokenMsgGrantAck s =
      .next (t.setHome m.index { h with granting := none, lost := false, lease := s.ns + 4000000 }).reportLevels)) ∧
  (∀ (s : State) (loc : Nat) (m : TokenMsg), s.alive = true →
    (s.tk.inbox.find? fun n => n.2.kind == m.kind) = some (loc, m) →
    let t : State := { s with tk := { s.tk with inbox := s.tk.inbox.erase (loc, m) } }
    (m.kind = tmANSWER → Tbl.has s.tk.releases m.request = true → exec .tokenMsgAnswer s =
      .next ({ t with tk := { t.tk with releases := Tbl.del t.tk.releases m.request } } : State).reportLevels) ∧
    (∀ x, s.binding? m.binding = some x → x.state ≠ .HELD →
      (∀ q, m.kind = tmANSWER → Tbl.has s.tk.releases m.request = false → x.req = some q → q.request = m.request →
        exec .tokenMsgAnswer s = .next (t.setBinding m.binding { x with
          req := none, ready := some (tokenValue m.won m.lost m.queued m.generation m.function), top := m.priority, renewed := q.first,
          renewing := none, state := if m.won then .HELD else if m.queued then .WAITING else .IDLE }).reportLevels) ∧
      (m.kind = tmGRANT → x.named m = true → x.homeLoc = loc → x.waits = true → exec .tokenMsgGrant s =
        .next ((((t.setBinding m.binding { x with
          state := .HELD, req := none, ready := none, lost := m.lost, top := m.priority, renewed := s.ns, renewing := none }).grantAck
            x m).raise 0x140 (some x.fn) (m.binding + 32768)).reportLevels)) ∧
      (m.kind = tmGRANT → (x.named m = false ∨ x.homeLoc ≠ loc ∨ x.waits = false) → exec .tokenMsgGrant s =
        .next (t.sendRelease loc { m with lost := false, won := false, queued := false }).reportLevels)))

/-- Tokens in time: a request whose wait is over is sent again with the wait doubled up to 1 ms, where that wait ends by its horizon, and at
the horizon it fails with an event; a release is sent again; a held binding renews and a waiting one repeats its WAIT at each frame
boundary; a held one is dropped 3 ms after the last RENEW that was answered; a lease or a grant that runs out at its home is counted and
the token passes to the next waiter, marked lost. Rules: R467, R468, R469, R470, R471. -/
def Obligations.TokensInTime : Prop := ∀ (s : State) (b : Nat) (x : Binding), s.alive = true → s.binding? b = some x →
  (∀ q, x.req = some q → q.sent + q.wait ≤ s.ns → s.ns + minN (2 * q.wait) 1000000 ≤ s.requestLimit x q →
    let t := s.setBinding b { x with req := some { q with sent := s.ns, wait := minN (2 * q.wait) 1000000 } }
    exec (.tokenRequestRetry b) s = .next (t.sendToken x.homeLoc (s.bindMsg b x q.kind q.request false)).reportLevels) ∧
  (∀ q, x.req = some q → s.requestLimit x q ≤ s.ns → exec (.tokenRequestFail b) s =
    .next ((s.setBinding b { x with req := none, ready := some valueFailed, state := .FAILED }).raise 0x141 (some x.fn)
      b).reportLevels) ∧
  (∀ r n, Tbl.get? s.tk.releases n = some r → r.sent + r.wait ≤ s.ns → exec (.tokenReleaseResend n) s =
    .next (({ s with tk := { s.tk with
      releases := Tbl.put s.tk.releases n { r with sent := s.ns, wait := minN (2 * r.wait) 1000000 } } } : State).sendToken r.homeLoc
        r.msg)) ∧
  (∀ e ∈ [(Instr.tokenRenewSend b, BindState.HELD, tmRENEW), (.tokenWaitResend b, .WAITING, tmWAIT)], x.state = e.2.1 →
    x.lastSent / 1000000 < s.frame →
    let t := s.takeRequest.2.setBinding b { x with renewing := some (s.takeRequest.1, s.ns) }
    exec e.1 s = .next (t.sendToken x.homeLoc (s.bindMsg b x e.2.2 s.takeRequest.1 false)).reportLevels) ∧
  (x.state = .HELD → x.renewed + 3000000 ≤ s.ns → exec (.tokenLeaseDrop b) s =
    .next ((s.setBinding b { x with
      state := .IDLE, lost := false, top := 0, renewing := none,
      ready := some (tokenValue false false false (s.gen x.fn) x.fn) }).raise 0x142 (some x.fn) b).reportLevels) ∧
  (∀ e ∈ [(Instr.tokenLeaseLapse b, false), (.tokenGrantLapse b, true)], (s.home b).holder.isSome = true →
    (s.home b).granting.isSome = e.2 → (s.home b).lease ≤ s.ns → exec e.1 s = .next ((s.evidence 0x60020).homeRelease b true))

/-- A query answers OK with what it asks for, and beside its count and its reply it changes nothing, but for the latches and read-to-clear
bits that a REGISTER_READ's own reads change: the words of the registers, tables and logs that it names. Rules: R71, R202, R475, R499,
R518, R602, R615. -/
def Obligations.Queries : Prop := ∀ (s : State) (c : Cmd) (h : CmdHdr),
  let reg := fun (off : Nat) => le 4 (s.counted.reg .cores off)
  (Accepted (.deviceInfo h) c s → exec (.deviceInfo h) s =
    .next (s.counted.answer (.deviceInfo h) c .OK 0 (le 4 s.deviceId ++ le 1 (modeCode s.rst.mode) ++ le 1 s.cc.running ++ le 2 0 ++
      le 8 (unitPresent s.variant) ++ le 8 Config.serial ++ le 4 (s.fwSlot s.cc.running).version))) ∧
  (∀ p, Accepted (.linkQuery h p) c s → p < 64 → s.portWaits p = false → exec (.linkQuery h p) s =
    .next (s.counted.answer (.linkQuery h p) c .OK 0 ((List.range 32).flatMap fun i => reg (lkBase p + 4 * i)))) ∧
  (∀ station, Accepted (.routeQuery h station) c s → station ≤ 4095 → exec (.routeQuery h station) s =
    .next (s.counted.answer (.routeQuery h station) c .OK 0 (reg (0x110000 + 4 * station)))) ∧
  (Accepted (.timeQuery h) c s → exec (.timeQuery h) s =
    .next (s.counted.answer (.timeQuery h) c .OK 0
      (le 8 (s.ns % 2 ^ 64) ++ le 4 (s.tt.now % unit) ++ reg 0x30018 ++ reg 0x3001C))) ∧
  (∀ id r, Accepted (.reservationQuery h id) c s → Tbl.get? s.tt.resv id = some r → exec (.reservationQuery h id) s =
    .next (s.counted.answer (.reservationQuery h id) c .OK 0 (le 1 (Config.resvStateByte r.suspended) ++
      le 1 (b2n (s.counted.resvAtRisk r)) ++ le 6 0 ++ le 8 r.demoted ++ le 4 r.late))) ∧
  (∀ x, Accepted (.functionQuery h) c s → s.fn? h.fn = some x → s.fnBusy h.fn = false → exec (.functionQuery h) s =
    .next (s.counted.answer (.functionQuery h) c .OK 0 (le 16 (x.word h.fn (s.gen h.fn) (s.manager == some h.fn))))) ∧
  (Accepted (.meterRead h) c s → (s.fn? h.fn).isSome → s.fnBusy h.fn = false → exec (.meterRead h) s =
    .next (s.counted.answer (.meterRead h) c .OK 0 ((s.counted.meters h.fn).flatMap (le 8)))) ∧
  (Accepted (.telemetryRead h) c s → exec (.telemetryRead h) s =
    .next (s.counted.answer (.telemetryRead h) c .OK 0 ((List.range 16).flatMap s.counted.sensorBytes))) ∧
  (Accepted (.faultStatusRead h) c s → exec (.faultStatusRead h) s =
    .next (s.counted.answer (.faultStatusRead h) c .OK 0 ((List.range 12).flatMap fun w => le 4 (s.counted.fsw w)))) ∧
  (∀ first count, Accepted (.violationLogRead h first count) c s → 1 ≤ count → count ≤ 256 → exec (.violationLogRead h first count) s =
    .next (s.counted.answer (.violationLogRead h first count) c .OK 0
      ((List.range count).flatMap fun i => fitTo 32 (Tbl.getD s.fc.vLog ((first + i) % 256) [])))) ∧
  (Accepted (.fwQuery h) c s → exec (.fwQuery h) s =
    .next (s.counted.answer (.fwQuery h) c .OK 0
      (le 1 s.cc.running ++ le 1 s.cc.boot ++ le 6 0 ++ (List.range 3).flatMap fun i => le 8 (s.fwSlot i).word))) ∧
  (∀ width off count, Accepted (.registerRead h width off count) c s → badWidth width = false → off % width = 0 → 1 ≤ count →
    count ≤ 1024 → off < 67108864 → off + count * width ≤ 67108864 → exec (.registerRead h width off count) s =
      .next ((State.readRegs (cmdParty h.src) width count off s.counted).1.answer (.registerRead h width off count) c .OK 0
        (State.readRegs (cmdParty h.src) width count off s.counted).2))

/-- Settings of the device: each sets what it names and answers OK; a FAULT_CLEAR while the condition persists is answered BUSY and clears
nothing. Rules: R11, R206, R489, R499, R507, R511, R555, R603, R615. -/
def Obligations.DeviceSettings : Prop := ∀ (s : State) (c : Cmd) (h : CmdHdr),
  (∀ pin config, Accepted (.pinConfigSet h pin config) c s → pin ≤ 15 → bits config 1 0 ≠ 3 → bits config 3 2 ≠ 3 →
    let g : Gpio := { (Tbl.getD s.rst.gpio pin ⟨false, 1, 0, false⟩ : Gpio) with
      level := bit config 4, pull := bits config 3 2, fn := bits config 1 0 }
    let t : State := { s.counted with rst := { s.rst with gpio := Tbl.put s.rst.gpio pin g } }
    exec (.pinConfigSet h pin config) s =
      .next ((if bits config 1 0 = 0 then t else t.emit (.gpio pin g.level)).answer (.pinConfigSet h pin config) c .OK 0 [])) ∧
  (∀ mask locations, Accepted (.controlAccessSet h mask locations) c s → mask ≤ 15 → locations.length = 4 →
    exec (.controlAccessSet h mask locations) s =
      .next (({ s.counted with cc := { s.cc with remoteEn := mask, remote := locations } } : State).answer
        (.controlAccessSet h mask locations) c .OK 0 [])) ∧
  (∀ width off v, Accepted (.registerWrite h width off v) c s → badWidth width = false → off % width = 0 → off + width ≤ 67108864 →
    (width = 4 → v < 2 ^ 32) → exec (.registerWrite h width off v) s =
      .next ((s.counted.writeReg off width v).answer (.registerWrite h width off v) c .OK 0 [])) ∧
  (∀ sensor warn, Accepted (.telemetryThresholdSet h sensor warn) c s → sensor ≤ 15 → (defaultWarn sensor).isSome →
    (sensor < 10 → warnValue sensor warn ≤ 1680) → exec (.telemetryThresholdSet h sensor warn) s =
      .next ((s.counted.judgeSensor sensor { s.sensor sensor with warn := warnValue sensor warn }).answer
        (.telemetryThresholdSet h sensor warn) c .OK 0 [])) ∧
  (∀ source v row, Accepted (.faultSeveritySet h source v) c s → faultRow source = some row → v ≤ 3 →
    row.2.contains (severityOfCode v) = true → exec (.faultSeveritySet h source v) s =
      .next (({ s.counted with fc := { s.fc with
        severity := if severityOfCode v = row.1 then Tbl.del s.fc.severity source
          else Tbl.put s.fc.severity source (severityOfCode v) } } : State).answer (.faultSeveritySet h source v) c .OK 0 [])) ∧
  (∀ source, Accepted (.faultClear h source) c s → (faultRow source).isSome → s.faultPersists source = false →
    exec (.faultClear h source) s =
      .next (({ s.counted with fc := { s.fc with latched := s.fc.latched.filter fun (n : Nat) => n != source } } : State).answer
        (.faultClear h source) c .OK 0 [])) ∧
  (∀ source, Accepted (.faultClear h source) c s → (faultRow source).isSome → s.faultPersists source = true →
    exec (.faultClear h source) s = .next (s.counted.answer (.faultClear h source) c .BUSY 0 [])) ∧
  (∀ base log2 en, Accepted (.meterRingSet h base log2 en) c s → base % 64 = 0 → 6 ≤ log2 → log2 ≤ 16 → en ≤ 1 →
    exec (.meterRingSet h base log2 en) s =
      .next (({ s.counted with sb := { s.sb with ringBase := base, ringLog2 := log2, ringEnable := en == 1 } } : State).answer
        (.meterRingSet h base log2 en) c .OK 0 []))

/-- MODE_SET: a mode already held is answered OK; BRINGUP goes to SERVICE once the manager's part is awaited and the topology is set: the
assigned attachments get their physical functions and the rest of the configuration record is replayed; SERVICE goes to DRAIN, which waits
until nothing is in flight; DRAIN goes back to SERVICE, where the waiting MODE_SET ends FAILED and the doorbells recorded meanwhile are
served, or to HEATH once it has drained, where the links go to STANDBY; HEATH waits for its wake; DRAIN and HEATH asked for from a mode
that does not lead there are WRONG_MODE and change nothing. Rules: R531, R532, R534. -/
def Obligations.ModeSet : Prop := ∀ (s : State) (c : Cmd) (h : CmdHdr) (mode : Nat), Accepted (.modeSet h mode) c s →
  mode = 2 ∨ mode = 3 ∨ mode = 4 → s.waitFull h = false →
  let i : Instr := .modeSet h mode
  (modeCode s.rst.mode = mode → exec i s = .next ((s.counted.answer i c .OK 0 []).settle)) ∧
  (mode = 2 → s.rst.mode = .BRINGUP → s.rst.stage = .AWAIT → s.jn.topology = true →
    exec i s = .next ((({ s.counted with
      rst := { s.rst with mode := .SERVICE, stage := .DONE, drained := false, wake := none }
      tt := { s.tt with pendingSeconds := none } } : State).createPfs.replayRest.answer i c .OK 0 []).settle)) ∧
  (mode = 2 → s.rst.mode = .DRAIN → exec i s = .next ((((({ s.counted with
    rst := { s.rst with mode := .SERVICE, stage := .DONE, drained := false, wake := none } } : State).answerOn .drain .FAILED 0
      []).serveRecorded).answer i c .OK 0 []).settle)) ∧
  (mode = 2 → s.rst.mode = .HEATH → s.avsStopped = false → exec i s = .next (State.conclude i c (.wait s.counted .wake)).settle) ∧
  (mode = 3 → s.rst.mode = .SERVICE → exec i s =
    .next (State.conclude i c (.wait { s.counted with rst := { s.rst with mode := .DRAIN, drained := false } } .drain)).settle) ∧
  (mode = 4 → s.rst.mode = .DRAIN → s.rst.drained = true → exec i s = .next ((({ s.counted with
    rst := { s.rst with mode := .HEATH, drained := false, wake := none } } : State).sleepLinks.answer i c .OK 0 []).settle)) ∧
  ((mode = 3 ∧ (s.rst.mode = .BRINGUP ∨ s.rst.mode = .HEATH)) ∨ (mode = 4 ∧ (s.rst.mode = .BRINGUP ∨ s.rst.mode = .SERVICE)) →
    exec i s = .next ((s.counted.answer i c .WRONG_MODE 0 []).settle))

/-- MANAGER_SET, DEVICE_RESET, BLOCK_RESET and HOST_PORT_SPLIT_SET: naming the manager there is changes nothing; another manager, or none, is
entered and the admin ring of the one before closes; a device reset is replied to and is then due; a reset of a port clears its counters,
advances its incarnation and trains it anew; one of an engine clears its counters and its reassembly entries and resets the functions of
its attachment with FORCE, and the command is held until they have come to their reset points; one of a host port clears its counters and
acts as PERST#; a split other than the present one retrains the port's attachments, and the attachment that goes loses its functions.
COMMAND_FORWARD: the packet goes to the router named as a COMMAND transfer over the CONTROL VC, with a transfer number of its own, and its
reply is waited for; it is sent again after 10 ms, and without a reply the waiting command ends in TIMEOUT after 1 s. Rules: R214, R486,
R488, R490, R492, R540, R556, R557, R613. -/
def Obligations.ManagerResetsAndForwards : Prop :=
  (∀ (s : State) (c : Cmd) (h : CmdHdr),
    (∀ a, Accepted (.managerSet h a) c s → (a = 0xFF ∨ s.badAtt a = false) → s.adminBusy h.src = false →
      let new := if a = 0xFF then none else some a
      (new = s.manager → exec (.managerSet h a) s = .next ((s.counted.answer (.managerSet h a) c .OK 0 []).settle)) ∧
      (new ≠ s.manager → s.manager = none → exec (.managerSet h a) s =
        .next ((({ s.counted with manager := new } : State).answer (.managerSet h a) c .OK 0 []).settle)) ∧
      (∀ f, new ≠ s.manager → s.manager = some f → exec (.managerSet h a) s =
        .next ((({ s.counted.closeAdmin f with manager := new } : State).answer (.managerSet h a) c .OK 0 []).settle))) ∧
    (Accepted (.deviceReset h) c s → s.rst.mode ≠ .OFF → s.rst.deferred = none → exec (.deviceReset h) s =
      .next (({ s.counted with rst := { s.rst with deferred := some (commandCause h.src) } } : State).answer (.deviceReset h) c .OK 0
        []).dueReset) ∧
    (∀ p, Accepted (.blockReset h 1 p) c s → p ≤ 63 → (s.port p).state ≠ .DISABLED → s.portWaits p = false →
      exec (.blockReset h 1 p) s =
        .next (((((((s.counted.clearCounters (lkBase p) (lkBase (p + 1))).modPort p fun x =>
          { x with incarnation := (x.incarnation + 1) % 65536, lastCause := 7 }).beginTraining p).emptyPort p).faultOf p).answer
            (.blockReset h 1 p) c .OK 0 []).settle)) ∧
    (∀ n, Accepted (.blockReset h 2 n) c s → n ≤ 31 →
      let t := (s.counted.clearCounters (peBase n) (peBase (n + 1))).modEngine n fun e =>
        { e with tags := Tbl.mapVal e.tags (fun _ g => { g with entry := none }), mreasm := [], degraded := false, draining := false }
      let u := ((t.fnsOf n).foldl (fun s f => s.deviceResetFn f true) t).refreshXoff
      (u.fnsOf n = [] → exec (.blockReset h 2 n) s = .next ((u.answer (.blockReset h 2 n) c .OK 0 []).settle)) ∧
      (u.fnsOf n ≠ [] → exec (.blockReset h 2 n) s = .next (State.conclude (.blockReset h 2 n) c (.hold u (.engineReset n))).settle)) ∧
    (∀ p, Accepted (.blockReset h 3 p) c s → p ≤ 15 →
      let t := s.counted.clearCounters (hpcBase p) (hpcBase (p + 1))
      let z : HostPort := { (t.perst p).hostPort p with perst := (t.hostPort p).perst, degraded := false, draining := false }
      exec (.blockReset h 3 p) s = .next ((((t.perst p).setHostPort p z).answer (.blockReset h 3 p) c .OK 0 []).settle)) ∧
    (∀ p, p ≤ 15 →
      (Accepted (.hostPortSplitSet h p 1) c s → s.splitBusy p 1 = false →
        let t := s.counted.setHostPort p { s.counted.hostPort p with split := 1, nextSplit := 1 }
        exec (.hostPortSplitSet h p 1) s =
          .next ((((t.attsOf p).foldl (fun s a => s.retrain a) t).rebalance.answer (.hostPortSplitSet h p 1) c .OK 0 []).settle)) ∧
      (Accepted (.hostPortSplitSet h p 0) c s → s.splitBusy p 0 = false →
        let u := ((s.counted.fnsOf (2 * p + 1)).foldl (fun s f => s.destroyReady f) s.counted).setAtt (2 * p + 1) Att.initial
        let t := u.setHostPort p { u.hostPort p with split := 0, nextSplit := 0 }
        exec (.hostPortSplitSet h p 0) s =
          .next ((((t.attsOf p).foldl (fun s a => s.retrain a) t).rebalance.answer (.hostPortSplitSet h p 0) c .OK 0 []).settle)))) ∧
  (∀ (s : State) (h : CmdHdr),
    (∀ c loc packet, Accepted (.commandForward h loc packet) c s → rd packet 0 2 ≠ 0x010C → s.waitFull h = false →
      let n := s.cc.nextTransfer
      exec (.commandForward h loc packet) s =
        .next (State.conclude (.commandForward h loc packet) c
          (.wait (({ s.counted with cc := { s.cc with
            nextTransfer := (n + 1) % 65536,
            forwards := Tbl.put s.cc.forwards n
              { location := loc, packet := packet, sent := s.ns, deadline := s.ns + 1000000000 } } } : State).sendMessage loc 1 n packet)
            (.forward n)))) ∧
    (∀ n x, s.alive = true → Tbl.get? s.cc.forwards n = some x →
      (x.sent + 10000000 ≤ s.ns → exec (.commandForwardResend n) s =
        .next (({ s with cc := { s.cc with forwards := Tbl.put s.cc.forwards n { x with sent := s.ns } } } : State).sendMessage x.location 1
          n x.packet)) ∧
      (x.deadline ≤ s.ns → exec (.commandForwardTimeout n) s =
        .next (({ s with cc := { s.cc with forwards := Tbl.del s.cc.forwards n } } : State).answerOn (.forward n) .TIMEOUT 0 []))))

/-- The journal's and the firmware's commands: each that passes its own checks is put at the end of the Journal unit's queue as its operations
followed by its answer, an idle unit starts, and the command waits; EVIDENCE_HOLD of the state held already is answered at once. A
configuration record takes its number when its pages are programmed. JOURNAL_MARK: a MARK record of the time and the note joins the
buffered evidence, and the page of all that is buffered goes to the medium before the answer. Rules: R496, R501, R502, R503, R504, R519,
R565, R572, R581, R582. -/
def Obligations.JournalCommands : Prop :=
  (∀ (s : State) (c : Cmd) (h : CmdHdr), s.waitFull h = false → s.jr.state ≠ .UNSUPPORTED →
    let run := fun (i : Instr) (op : Nat) (t : State) (ops : List JOp) =>
      (State.conclude i c (.wait
        ({ t with jr := { t.jr with queue := t.jr.queue ++ (ops ++ [JOp.answer op h false]) } } : State).journalStart .journal)).journalSettle
    (∀ flags, Accepted (.configSave h flags) c s →
      let r : JRec := { type := 0x20, number := 0, payload := s.counted.configPayload flags }
      r.size ≤ 1048576 → exec (.configSave h flags) s = .next (run (.configSave h flags) 0x0106 s.counted (configOps r))) ∧
    (∀ region count record offset, Accepted (.journalRead h region count record offset) c s → region ≤ 2 → 1 ≤ count → count ≤ 1024 →
      (region = 2 → count = 1 ∧ offset ≤ s.configLength record) → (region ≠ 2 → offset = 0) → s.pastNewest region record = false →
      exec (.journalRead h region count record offset) s =
        .next (run (.journalRead h region count record offset) 0x0906 s.counted [.read])) ∧
    (∀ en, Accepted (.evidenceHold h en) c s → en ≤ 1 →
      (s.jr.hold = (en == 1) → exec (.evidenceHold h en) s =
        .next (s.counted.answer (.evidenceHold h en) c .OK 0 []).journalSettle) ∧
      (s.jr.hold ≠ (en == 1) → exec (.evidenceHold h en) s = .next (run (.evidenceHold h en) 0x0908 s.counted [.anchor]))) ∧
    (s.fwBusy = false →
      (∀ slot length, Accepted (.fwStageBegin h slot length) c s → slot ≤ 2 → slot ≠ s.cc.running → (slot = 2 → h.force = true) →
        length ≤ 33554432 → s.cc.stage = none → s.jr.slotBad.getD slot 0 + ceilDiv (256 + length) 262144 ≤ 144 →
        exec (.fwStageBegin h slot length) s = .next (run (.fwStageBegin h slot length) 0x0A02 s.counted [.anchor])) ∧
      (∀ g, s.cc.stage = some g →
        (∀ offset data, Accepted (.fwStageData h offset data) c s → data ≠ [] → data.length ≤ 32768 →
          s.beyondStage offset data.length = false →
          exec (.fwStageData h offset data) s = .next (run (.fwStageData h offset data) 0x0A03 s.counted [.slot g.slot offset data])) ∧
        (Accepted (.fwStageEnd h) c s → exec (.fwStageEnd h) s = .next (run (.fwStageEnd h) 0x0A04 s.counted
          ((if (List.range g.pages).all g.whole then [] else [.slot g.slot 0 []]) ++ [.read]))) ∧
        (Accepted (.fwStageAbort h) c s → exec (.fwStageAbort h) s = .next (run (.fwStageAbort h) 0x0A08 s.counted [.anchor]))) ∧
      (∀ slot, Accepted (.fwActivate h slot) c s → slot ≤ 1 → (s.fwSlot slot).state = .VALID → s.cc.standbyReady = true →
        exec (.fwActivate h slot) s = .next (run (.fwActivate h slot) 0x0A05 s.counted [.read])) ∧
      (∀ slot, Accepted (.fwBootSlotSet h slot) c s → slot ≤ 1 →
        exec (.fwBootSlotSet h slot) s = .next (run (.fwBootSlotSet h slot) 0x0A06 s.counted [.anchor])))) ∧
  (∀ (s : State) (c : Cmd) (h : CmdHdr) (note : List Byte), Accepted (.journalMark h note) c s →
    s.waitFull h = false → s.jr.state ≠ .UNSUPPORTED → s.jr.evidenceFull = false →
    let t := s.counted.evidenceRecord 5 (le 8 s.ns ++ note)
    let u : State := { t with jr := { t.jr with evBuf := [], evSince := none } }
    u.waitFull h = false → u.jr.state ≠ .UNSUPPORTED →
    exec (.journalMark h note) s =
      .next (State.conclude (.journalMark h note) c (.wait
        ({ u with jr := { u.jr with queue := u.jr.queue ++ [.program 3 0 t.jr.evBuf, .answer 0x0907 h false] } } : State).journalStart
          .journal)).journalSettle)

/-- MAKER_PROCEDURE: a procedure without a valid maker signature is answered BAD_SIGNATURE and changes nothing; one with a valid signature,
which is the maker's own and has no effect in the spec, stops the model by its name. Rule: R505. -/
def Obligations.MakerProcedure : Prop := ∀ (s : State) (c : Cmd) (h : CmdHdr) (b : List Byte), Accepted (.makerProcedure h b) c s →
  (Config.makerProcedureVerifies b = false → exec (.makerProcedure h b) s =
    .next (s.counted.answer (.makerProcedure h b) c .BAD_SIGNATURE 0 [])) ∧
  (Config.makerProcedureVerifies b = true → exec (.makerProcedure h b) s = .refused .makerProcedure)

/-- The Journal unit's own events: a program pulse that ends well leaves its page on the medium with the next page sequence, an erase leaves
its block empty and counts against it, a pulse that fails makes its block bad, and each starts what waits next; a page read counts the
corrections of the BCH code of its sectors and the sectors beyond it; evidence buffered for 1 s is paged; the anchor is written each hour
of age clock; the patrol counts what it corrects, loses the records of a sector beyond correction, and refreshes a worn or old block.
FW_ACTIVATE's end: a standby pair that passes its self-test takes over with the new slot running and as boot slot, CC_FW_MINVER rises to
the image's security version and is never lowered, the anchor is written and the command answered OK; one that fails leaves the old pair
serving, the slot INVALID and the command FAILED. Commands held meanwhile then go on; the clauses' last premise says that none goes on at
once. Rules: R503, R544, R560, R562, R565, R572, R579, R580. -/
def Obligations.JournalEvents : Prop :=
  (∀ (s : State), s.alive = true → s.rst.deferred = none →
    let t : State := { s with jr := { s.jr with current := none, pulse := none } }
    let goes := fun (u : State) => u.journalStart.journalSettle
    (∀ flags recs, s.jr.current = some (.program 3 flags recs) →
      let v := t.programPage (t.jr.evBlocks.getLast?.getD 0) t.jr.evFill 3 flags [] (numbered t.jr.evNext recs)
      let u : State := { v with jr := { v.jr with evFill := v.jr.evFill + 1, evNext := (v.jr.evNext + recs.length) % 2 ^ 32 } }
      u.rst.deferred = none → exec (.journalPulseComplete true) s = .next (goes u)) ∧
    (s.jr.current = some .anchor →
      let v := t.programPage t.jr.anchorBlock t.jr.anchorFill 1 3 [] [{ type := 0x30, number := t.jr.anchorNext, payload := [] }]
      let u : State := { v with jr := { v.jr with
        anchorFill := v.jr.anchorFill + 1, anchorAge := v.jr.age, anchorNext := (v.jr.anchorNext + 1) % 2 ^ 32 } }
      u.rst.deferred = none → exec (.journalPulseComplete true) s = .next (goes u)) ∧
    (∀ b, s.jr.current = some (.erase b) →
      let j : JR := { t.jr with
        pages := t.jr.pages.filter fun p => p.block != b, erases := Tbl.put t.jr.erases b (Tbl.getD t.jr.erases b 0 + 1) }
      let u := (({ t with jr := j.level } : State).tally 0x50038).emit (.erase b)
      u.rst.deferred = none → exec (.journalPulseComplete true) s = .next (goes u)) ∧
    (∀ o, s.jr.current = some o → o.isPulse = true → (t.pulseFailed o).rst.deferred = none →
      exec (.journalPulseComplete false) s = .next (goes (t.pulseFailed o))) ∧
    (∀ mains spares, s.jr.current = some .read →
      let x := readPages mains spares
      let u := (({ s with jr := { s.jr with current := none } } : State).tally 0x50040 x.1).evidences 0x50050 x.2.2
      (x.2.2 = 0 → exec (.journalPageReadComplete mains spares) s = .next u.journalSettle.journalStart) ∧
      exec (.journalPageReadComplete mains spares) s = .next (u.readSpoilt x.2.2).journalSettle.journalStart) ∧
    (∀ since, s.jr.evSince = some since → since + 1000000000 ≤ s.ns → s.jr.evBuf ≠ [] → s.jr.state ≠ .UNSUPPORTED →
      let u : State := { s with jr := { s.jr with evBuf := [], evSince := none } }
      exec .evidencePageFlush s =
        .next ({ u with jr := u.jr.push (.program 3 0 s.jr.evBuf) } : State).journalStart.journalSettle) ∧
    (s.jr.anchorAge + 3600 ≤ s.jr.age → s.jr.queue.contains .anchor = false → s.jr.current ≠ some .anchor → s.jr.state ≠ .UNSUPPORTED →
      exec .anchorHourlyWrite s = .next ({ s with jr := s.jr.push .anchor } : State).journalStart.journalSettle) ∧
    (∀ block page mains spares, s.jr.state = .READY →
      let x := readPages mains spares
      let u := ((s.tally 0x50040 x.1).evidences 0x50050 x.2.2).loseSectors block (unreadable page mains spares)
      (x.2.1 ≤ 24 → u.jr.oldBlock block = false → exec (.journalPatrol block page mains spares) s = .next u) ∧
      (24 < x.2.1 ∨ u.jr.oldBlock block = true → exec (.journalPatrol block page mains spares) s = .next (u.refreshBlock block).journalSettle))) ∧
  (∀ (s : State) (w : Waiting), s.alive = true →
    (s.cc.waiting.find? fun w => w.on == .activate) = some w →
    let slot := activatedSlot w.instr
    let t := ((({ s with cc := { s.cc with running := slot, boot := slot }, jr := { s.jr with bootSlot := some slot },
                         minVer := max s.minVer (s.fwSlot slot).security } : State).swapPairs.journalPush .anchor).answerOn .activate .OK 0 [])
    let u := (({ s.setFwSlot slot { s.fwSlot slot with state := .INVALID } with cc := { s.cc with reloading := true } } : State).answerOn
      .activate .FAILED 0 [])
    (exec (.standbySelftestComplete true) s = t.goOn) ∧ (exec (.standbySelftestComplete false) s = u.goOn) ∧
    (t.standsStill = true ∨ t.cc.held = [] → exec (.standbySelftestComplete true) s = .next t) ∧
    (u.standsStill = true ∨ u.cc.held = [] → exec (.standbySelftestComplete false) s = .next u))

/-- Bring-up, DRAIN's end and the core supply: a stage of bring-up that ends leads to the next: STRAP to FUSE with what the strap chose, FUSE
to PLL, PLL to SRAM, where the host links start to train, SRAM to BOOT, HBM to LINKS, where the fabric links train, LINKS to CONFIG,
CONFIG to the wait for the manager; a PLL that does not lock is tried again after 10 ms; DRAIN is complete once nothing is in flight, and
MODE_SET is answered; a confirmed adjustment of VDD_CORE within its limits becomes the target, ends a wake from HEATH once the supply is
back, and an unconfirmed one stops adjustment, fails the wake and warns; a sample of a sensor is kept and judged. Rules: R531, R534, R548,
R588, R589. -/
def Obligations.BringUpAndSupply : Prop := ∀ (s : State),
  (s.bringing = true →
    let to_ := fun (s : State) (st : BootStage) => ({ s with rst := { s.rst with stage := st } } : State)
    let hosts := fun (s : State) => (List.range 32).foldl (fun s a =>
      if s.assigned a ∧ !(s.hostPort (a / 2)).perst then s.setAtt a { s.att a with state := .TRAINING } else s) s
    let fabric := fun (s : State) => ((List.range 64).filter fun p => (s.port p).state == .DISABLED && (s.port p).role != 0).foldl
      (fun s p => s.beginTraining p) s
    (s.rst.stage = .STRAP → exec .bringupStageComplete s = .next s.endStrap) ∧
    (s.rst.stage = .FUSE → exec .bringupStageComplete s = .next (to_ s .PLL)) ∧
    (s.rst.stage = .PLL → exec .bringupStageComplete s =
      .next (hosts { s with rst := { s.rst with stage := .SRAM, pllRetry := none } })) ∧
    (s.rst.stage = .SRAM → exec .bringupStageComplete s = .next (to_ s .BOOT)) ∧
    (s.rst.stage = .BOOT → s.endBoot.rst.stage ≠ .LINKS → exec .bringupStageComplete s = .next s.endBoot) ∧
    (s.rst.stage = .BOOT → s.endBoot.rst.stage = .LINKS → exec .bringupStageComplete s = .next (fabric s.endBoot)) ∧
    (s.rst.stage = .HBM → exec .bringupStageComplete s = .next (fabric (to_ { s with fc := { s.fc with softRepairs := [] } } .LINKS))) ∧
    (s.rst.stage = .LINKS → exec .bringupStageComplete s = .next (to_ s .CONFIG)) ∧
    (s.rst.stage = .CONFIG → exec .bringupStageComplete s = .next s.endConfig) ∧
    (s.rst.stage = .PLL → exec (.pllLockRetry true) s =
      .next (hosts { s with rst := { s.rst with stage := .SRAM, pllRetry := none } }) ∧
      exec (.pllLockRetry false) s = .next { s with rst := { s.rst with pllRetry := some (s.ns + 10000000) } })) ∧
  (s.rst.mode = .DRAIN → s.rst.drained = false → s.hasDrained = true → exec .drainComplete s =
    .next (({ s with rst := { s.rst with drained := true } } : State).answerOn .drain .OK 0 [])) ∧
  (∀ target readback, s.running = true → s.avsStopped = false → 2 ≤ stageCode s.rst.stage → s.targetLegal target = true →
    (s.rst.mode ≠ .HEATH → exec (.avsAdjust target true readback) s =
      .next { s with avsTarget := target, avsAt := some s.ns, out := s.out ++ [.pmbus target] }) ∧
    (s.rst.mode = .HEATH → s.waking = true →
      let t : State := { s with avsTarget := target, avsAt := some s.ns, out := s.out ++ [.pmbus target] }
      exec (.avsAdjust target true readback) s =
        .next (if coreFloor ≤ readback then t.enterService else (t.raise 0x180 none 12).answerOn .wake .FAILED 0 [])) ∧
    (exec (.avsAdjust target false readback) s =
      .next ((({ s with avsStopped := true } : State).raise 0x180 none 12).answerOn .wake .FAILED 0 []))) ∧
  (s.running = true → exec .pmbAlert s = .next (s.raise 0x180 none 12)) ∧
  (∀ sensor value, s.running = true → s.rst.thermalHold = false → s.sensorPresent sensor = true → sensor ≠ 12 →
    (sensor < 8 → value < 1792) → exec (.telemetrySample sensor value) s =
      .next (s.judgeSensor sensor { s.sensor sensor with value := value, valid := true }))

/-- Device resets: each source asks for a reset with its own cause, which starts once no pulse is in progress (the part of what is due says
how); THERMTRIP holds the device in reset until its sensors have been cool for 1 s; power loss ends in OFF, from where power brings the
block back to BRINGUP with what R541 keeps. A device reset that is due: asked for while none is due, it is due with its cause and source;
it waits while a pulse of the Journal unit is in progress, and then starts: in BRINGUP the sequence restarts from its first stage, with
the counters and RST_CAUSE kept, the restart's cause and stage recorded and the restart counted; else the whole device is reset and
RST_CAUSE records cause, source and the mode it was in. What a whole-device reset keeps and clears: the fuses, the journal store and the
HBM repair records stay; every register, counter, function, flow and command in progress is as after power-on; generations and
incarnations are drawn anew (the model's choice, log entries 6 and 7). Rules: R527, R531, R540, R541, R543, R544, R546, R547, R548. -/
def Obligations.DeviceResets : Prop :=
  (∀ (s : State),
    (s.rst.mode ≠ .OFF → s.rst.resetN = false → exec .resetNAssert s =
      .next (({ s with rst := { s.rst with resetN := true } } : State).resetDue 2 0)) ∧
    (∀ code, s.rst.mode = .BRINGUP → s.rst.stage = .STRAP → exec (.resetNRelease code) s =
      .next { s with rst := { s.rst with resetN := false, strapCode := code % 256 } }) ∧
    (s.rst.watchdog = true → exec .watchdogExpiry s = .next (s.resetDue 3 0)) ∧
    (∀ sensor value, s.rst.mode ≠ .OFF → s.rst.thermalHold = false → sensor < 8 → 1792 ≤ value →
      let t := (({ s with rst := { s.rst with thermalHold := true, hotAt := s.ns } } : State).emit (.thermTripN true)).resetDue 6 0
      exec (.thermalTrip sensor value) s = .next { t with rst := { t.rst with hotAt := t.ns } }) ∧
    (s.rst.mode ≠ .OFF → s.rst.thermalHold = true → s.rst.deferred = none → s.rst.hotAt + 1000000000 ≤ s.ns →
      exec .thermalTripRelease s =
        .next { s with rst := { s.rst with thermalHold := false }, out := s.out ++ [.thermTripN false] }) ∧
    (s.rst.mode ≠ .OFF → exec .powerLoss s =
      .next { s.linksGo.reborn with hostPorts := [], rst := { RST.reset with mode := .OFF, strapCode := s.rst.strapCode } }) ∧
    (s.rst.mode = .OFF → exec .powerOn s = .next { s.reborn with rst := { RST.reset with strapCode := s.rst.strapCode } })) ∧
  (∀ (s : State) (cause source : Nat),
    (s.rst.mode ≠ .OFF → s.rst.deferred = none →
      s.resetDue cause source = ({ s with rst := { s.rst with deferred := some (cause, source) } } : State).dueReset) ∧
    (s.rst.deferred = some (cause, source) → s.jr.pulse.isSome = true → s.dueReset = s) ∧
    (s.rst.deferred = some (cause, source) → s.jr.pulse = none → s.rst.mode = .BRINGUP → s.dueReset =
      ({ s.linksGo.reborn with
         ctr := s.ctr, sat := s.sat,
         rst := { s.rst.through with
           cause := s.rst.cause, source := s.rst.source, modeAtReset := s.rst.modeAtReset, restartCause := cause,
           restartStage := stageCode s.rst.stage } } : State).evidence 0x20018) ∧
    (s.rst.deferred = some (cause, source) → s.jr.pulse = none → s.rst.mode ≠ .BRINGUP → s.dueReset =
      { s.linksGo.reborn with rst := { s.rst.through with
        cause := cause, source := source, modeAtReset := modeCode s.rst.mode, restartCause := 0, restartStage := 0xF } })) ∧
  (∀ (s : State),
    s.reborn.variant = s.variant ∧ s.reborn.minVer = s.minVer ∧ s.reborn.jr = s.jr.afterReset ∧ s.reborn.fc.repairs = s.fc.repairs ∧
    s.reborn.pending = s.pending ∧ s.reborn.out = s.out ∧ s.reborn.ctr = [] ∧ s.reborn.sat = [] ∧ s.reborn.fns = [] ∧ s.reborn.ports = [] ∧
    s.reborn.ops = [] ∧ s.reborn.engines = [] ∧ s.reborn.wu = State.reset.wu ∧ s.reborn.tk = State.reset.tk ∧ s.reborn.rh = State.reset.rh ∧
    s.reborn.cc = State.reset.cc ∧ s.reborn.jn = State.reset.jn ∧ s.reborn.sb = State.reset.sb ∧ s.reborn.tt = State.reset.tt ∧
    s.reborn.manager = none ∧ s.reborn.freeBase = s.freeCount)

/-- Faults: an asserted source that is present is latched with its record and its event, and then comes the reaction of its severity: none for
LOG, HALT for HALT, and for CONTAIN and DEGRADE the source's own; a mismatch of the control-core pair with a standby pair ready starts the
takeover, which when complete makes the standby pair serve; the self-fault path halts at once; HALT powers the lanes down after 100 µs and
writes the buffered evidence and the HALT record to the reserved block; a degraded engine or host port that has drained is contained; a
retired bank leaves. Scrubbing: every correction is counted; a row corrected a second time within 24 h is replaced by a spare of its bank,
and an HBM row by a repair; the first correction of a row is remembered. Rules: R508, R509, R514, R515, R516, R528, R537, R574. -/
def Obligations.FaultEvents : Prop :=
  (∀ (s : State),
    (∀ info, s.running = true → s.asserts (s.sourceOf info).source = true → (s.sourceOf info).source ≠ 356 →
      (s.sourceOf info).source ≠ 337 → (s.sourceOf info).source ≠ 350 → ((s.sourceOf info).source = 354 → s.railsWatched = true) →
      let i := s.sourceOf info
      (s.severity i.source = .LOG → exec (.faultAssert info) s = .next (s.latchFault i .LOG false)) ∧
      (s.severity i.source = .HALT → exec (.faultAssert info) s = .next (s.latchFault i .HALT false).enterHalt) ∧
      (∀ u, u = s.latchFault i (s.applied i.source (s.severity i.source)) false → u.rst.mode ≠ .HALT →
        (s.severity i.source = .CONTAIN → exec (.faultAssert info) s = .next (u.contain i (s.fc.latched.contains i.source))) ∧
        (s.severity i.source = .DEGRADE → exec (.faultAssert info) s = .next (u.degrade i)))) ∧
    (∀ info, s.running = true → info.source = 350 → s.asserts 350 = true → s.cc.standbyReady = true → s.severity 350 = .LOG →
      exec (.faultAssert info) s = .next (s.latchFault info .LOG false).beginTakeover) ∧
    (∀ t, s.alive = true → s.cc.takeover = some t → s.swapPairs.cc.held = [] →
      exec .lockstepTakeoverComplete s =
        .next (({ s with cc := { s.cc with
          activePair := !s.cc.activePair, takeover := none, reloading := true, standbyReady := false } } : State).evidence 0x40060)) ∧
    (∀ pass, s.alive = true → s.cc.reloading = true → exec (.failedPairSelfTestComplete pass) s =
      .next { s with cc := { s.cc with reloading := false, standbyReady := pass } }) ∧
    (∀ w, s.running = true → s.fc.selfFault = false → failedWordOk w = true → exec (.collectorSelfFault w) s =
      .next ((({ s with fc := { s.fc with selfFault := true, failedWord := w } } : State).latchFault
        { source := 356, inst := 0, address := 0, syndrome := 0 } .HALT true).enterHalt)) ∧
    (s.rst.mode = .HALT → s.rst.haltAt + 100000 ≤ s.ns → exec .haltLanesPowerDown s =
      .next { s with ports := Tbl.mapVal s.ports fun _ (x : Port) => { x with state := .DISABLED } }) ∧
    (s.rst.mode = .HALT → s.rst.haltRecorded = false → s.jr.pulse = none → s.jr.usable = true →
      let recs := numbered s.jr.evNext (s.jr.evBuf ++ [{ type := 2, number := 0, payload := s.haltPayload }])
      exec .haltRecordWrite s = .next ((pageCut recs [] 0).zipIdx.foldl
        (fun s p => s.programPage s.jr.haltBlock p.2 3 8 [] p.1)
        { s with rst := { s.rst with haltRecorded := true },
                 jr := { s.jr with evBuf := [], evSince := none, evNext := (s.jr.evNext + recs.length) % 2 ^ 32 } })) ∧
    (∀ n, n < 32 → s.alive = true → (s.engine n).draining = true → s.attWork n = false → exec (.degradeDrainComplete (128 + n)) s =
      .next ((s.containEngine n).modEngine n fun e => { e with draining := false, degraded := true })) ∧
    (∀ p, p < 16 → s.alive = true → (s.hostPort p).draining = true → s.attWork (2 * p) = false → s.attWork (2 * p + 1) = false →
      exec (.degradeDrainComplete (160 + p)) s =
        .next ((s.containHostPort p).setHostPort p { (s.containHostPort p).hostPort p with degraded := true })) ∧
    (∀ bank, s.jn.banksLeaving.contains bank = true → exec (.bankRetire bank) s =
      .next { s with jn := { s.jn with
        banksLeaving := s.jn.banksLeaving.filter (fun (b : Nat) => b != bank), banksGone := insertNat bank s.jn.banksGone } })) ∧
  (∀ (s : State) (row n : Nat), s.running = true → n ≠ 0 →
    (∀ bank, bank < 176 →
      let l := recent s.ns s.fc.corrected
      let t : State := { s.tally 0x10118 n with fc := { s.fc with corrected := l } }
      (secondCorrection l bank row n = true → exec (.sramScrub bank row n) s = .next (t.spareRow bank row)) ∧
      (secondCorrection l bank row n = false → exec (.sramScrub bank row n) s =
        .next { t with fc := { s.fc with corrected := l ++ [(bank, row, s.ns)] } })) ∧
    (∀ stack, stack < 2 → s.hasUnit (48 + stack) = true →
      let l := recent s.ns s.fc.hbmCorrected
      let t : State := { s.tally 0x10120 n with fc := { s.fc with hbmCorrected := l } }
      (secondCorrection l stack row n = true → exec (.hbmScrub stack row n) s = .next (t.repairRow stack row)) ∧
      (secondCorrection l stack row n = false → exec (.hbmScrub stack row n) s =
        .next { t with fc := { s.fc with hbmCorrected := l ++ [(stack, row, s.ns)] } })))

/-- HALT: command service ends, waiting commands of MCTP are answered FAILED and no others, HALT_N is driven, and in HALT the block issues no
DMA, no message and no interrupt. Rules: R515, R537, R538. -/
def Obligations.HaltStopsTheBlock : Prop := ∀ (s : State), s.rst.mode ≠ .HALT → s.rst.mode ≠ .OFF →
  s.enterHalt.rst.mode = .HALT ∧ s.enterHalt.rst.watchdog = false ∧ s.enterHalt.cc.waiting = [] ∧ s.enterHalt.cc.pause = none ∧
  s.enterHalt.alive = false ∧
  (∀ f addr b, s.enterHalt.write f addr b = s.enterHalt) ∧ (∀ f v, s.enterHalt.interrupt f v = s.enterHalt) ∧
  (∀ w ∈ s.cc.waiting, ∀ eid tag, w.hdr.src = .mctp eid tag →
    Output.mctp eid tag (replyBytes w.opcode w.hdr.seq .FAILED 0 []) ∈ s.enterHalt.out) ∧
  Output.haltN true ∈ s.enterHalt.out

/-- MCTP control messages: while MCTP is served, each request gets one response with its completion code; SET_ENDPOINT_ID takes an id other
than the null and broadcast ids, GET_MESSAGE_TYPE_SUPPORT names type 0x7F, and ENTDAA assigns the I3C address. The codes of DSP0236 are
the model's reading (log entry 66). Packets that arrive: an MCTP message with the integrity bit set is discarded and counted; a packet in
bad form or of an unknown opcode is refused; one that spells a command is run as that command; a CONTROL cell with low destination bits or
a reserved class is discarded and counted, a TOKEN cell goes to the Token unit, a fragment to its transfer; and a transfer without a
fragment for 1 ms is discarded and counted. Rules: R480, R483, R484, R485, R486, R487, R488. -/
def Obligations.ManagementAndPackets : Prop :=
  (∀ (s : State) (requester tag : Nat), s.serves (.mctp 0 0) = true →
    let reply := fun (s : State) (command : Nat) (b : List Byte) => Host.Outcome.next (φ := Fault) (ρ := Refusal)
      ({ s with out := s.out ++ [.mctpControl requester tag command b] } : State)
    (∀ eid, 1 ≤ eid → eid < 255 → exec (.setEndpointId requester tag eid) s =
      reply { s with cc := { s.cc with eid := eid } } 1 (le 1 0 ++ (le 1 0 ++ le 1 eid ++ le 1 0))) ∧
    (exec (.getEndpointId requester tag) s = reply s 2 (le 1 0 ++ (le 1 s.cc.eid ++ le 1 0 ++ le 1 0))) ∧
    (exec (.getEndpointUuid requester tag) s = reply s 3 (le 1 0 ++ fitTo 16 Config.uuid)) ∧
    (exec (.getMctpVersionSupport requester tag 0x7F) s = reply s 4 (le 1 0 ++ (le 1 (Config.mctpVersions 0x7F).length ++
      (Config.mctpVersions 0x7F).flatMap fun v => (le 4 v.toNat).reverse))) ∧
    (exec (.getMessageTypeSupport requester tag) s = reply s 5 (le 1 0 ++ (le 1 1 ++ le 1 0x7F))) ∧
    (exec (.getVendorDefinedMessageSupport requester tag 0) s = reply s 6 (le 1 0 ++ (le 1 0xFF ++ le 1 1 ++
      (le 4 Config.enterprise).reverse ++ le 2 Config.commandSetVersion))) ∧
    (∀ address, exec (.i3cEntdaa address) s = .next { s with cc := { s.cc with address := address % 128, addressValid := true } })) ∧
  (∀ (s : State),
    (∀ requester tag packet, s.mctpOn = true → exec (.mctpMessageReceive requester tag true packet) s = .next (s.evidence 0x40058)) ∧
    (∀ requester tag packet, requester < 256 → tag < 8 → s.serves (.mctp requester tag) = true → s.mctpOn = true →
      let h := hdrOf (.mctp requester tag) packet
      (∀ st detail, frameFault packet = some (st, detail) →
        exec (.mctpMessageReceive requester tag false packet) s = .next (s.refusePacket h packet st detail)) ∧
      (frameFault packet = none → opInfo (rd packet 0 2) = none →
        exec (.mctpMessageReceive requester tag false packet) s = .next (s.refusePacket h packet .UNKNOWN_OPCODE 0)) ∧
      (∀ i, frameFault packet = none → opInfo (rd packet 0 2) = some i → parseArea i h (packet.drop 16) = none →
        exec (.mctpMessageReceive requester tag false packet) s = .next (s.refusePacket h packet .BAD_PACKET 8)) ∧
      (∀ i c row, frameFault packet = none → opInfo (rd packet 0 2) = some i → parseArea i h (packet.drop 16) = some c →
        paddingFault i c (packet.drop 16) = none → instrOf c = some row →
        exec (.mctpMessageReceive requester tag false packet) s = runCmd row s)) ∧
    (∀ q rest, s.alive = true → s.cc.controlIn = q :: rest →
      let t := State.refreshXoff { s with cc := { s.cc with controlIn := rest } }
      let c := q.cell
      let cls := rd c.payload 0 1
      let a := t.cc.assembly (controlSource c.payload) c.h.tag cls t.ns
      let others := t.cc.assemblies.filter fun x => !(x.source == a.source && x.transfer == a.transfer && x.cls == a.cls)
      let k := rd c.payload 2 2
      let a' : Assembly := { a with frags := Tbl.put a.frags k (c.payload.drop 8),
                                    last := if bit (rd c.payload 1 1) 1 then some k else a.last, at_ := t.ns }
      let done : State := { t with cc := { t.cc with assemblies := others } }
      ((c.h.dest % 32 ≠ 0 ∨ cls = 0 ∨ 3 < cls) → exec .controlCellReceive s = .next (t.evidence 0x40058)) ∧
      (c.h.dest % 32 = 0 → cls = 3 → envelopeOk c.payload = true → tokenOk (c.payload.drop 8) = true →
        exec .controlCellReceive s = .next { t with
          tk := { t.tk with inbox := t.tk.inbox ++ [(rd c.payload 4 4 / 32 % 65536, tokenOf (c.payload.drop 8))] } }) ∧
      (c.h.dest % 32 = 0 → (cls = 1 ∨ cls = 2) → envelopeOk c.payload = true →
        (8 ≤ others.length → exec .controlCellReceive s = .next (t.evidence 0x40058)) ∧
        (others.length < 8 → a'.last = none →
          exec .controlCellReceive s = .next { t with cc := { t.cc with assemblies := others ++ [a'] } }) ∧
        (∀ n i, others.length < 8 → a'.last = some n → i ≤ n → Tbl.has a'.frags i = false →
          exec .controlCellReceive s = .next { t with cc := { t.cc with assemblies := others ++ [a'] } }) ∧
        (∀ n, others.length < 8 → a'.last = some n → (∀ i, i ≤ n → Tbl.has a'.frags i = true) →
          let b := trimMessage cls ((List.range (n + 1)).flatMap fun i => Tbl.getD a'.frags i [])
          (cls = 1 → a'.cls = 1 → exec .controlCellReceive s = done.packetArrives (.control a'.source a'.transfer) b) ∧
          (∀ x, cls = 2 → a'.cls = 2 → Tbl.get? t.cc.forwards a'.transfer = some x → x.location = a'.source →
            exec .controlCellReceive s = .next (done.endForward a'.transfer .OK b))))) ∧
    (∀ source transfer a, s.alive = true → s.cc.assemblies = [a] → a.source = source → a.transfer = transfer → a.at_ + 1000000 ≤ s.ns →
      exec (.controlTransferTimeout source transfer) s =
        .next (({ s with cc := { s.cc with assemblies := [] } } : State).evidence 0x40058)))

/-- Ends of what commands wait for: the reset point, a generation or revocation released from its rate limit, an invalidation that is
complete, and a takeover; where no command is held, or the block stands still for one in progress, that is the whole step, and else the
held commands go on in order. A pair that failed becomes standby only if it passes its self-test. Read completions: a completion or
timeout that no sent read waits for changes nothing; a stale one, of a generation that has passed, is counted in HPC_STALE and dropped;
data goes to the use the read was for; an error completion, a timeout among them, fails it. Rules: R217, R221, R227, R237, R298, R299,
R301, R503, R529. -/
def Obligations.WaitsAndCompletions : Prop :=
  (∀ (s : State), s.alive = true →
    let goesOn := fun (t : State) (i : Instr) =>
      exec i s = t.goOn ∧ ((t.cc.held = [] ∨ t.standsStill = true) → exec i s = .next t)
    (∀ f, goesOn (s.resetPoint f).settle (.resetPoint f)) ∧
    (∀ f x r, s.fn? f = some x → x.resetRec = some r → s.atResetPoint f x r = true → s.resetPoint f = s.endReset f x r) ∧
    (∀ f, (s.genOf f).held = 1 → (s.genOf f).frame ≠ some s.frame →
      let next := match (s.genOf f).goal with | some v => v | none => ((s.genOf f).gen + 1) % 256
      let t : State := { s with gens := Tbl.put s.gens f { gen := next, frame := some s.frame, held := 0, goal := none } }
      s.generationRelease f = (t.answerOn (.create f) .OK 0 (t.createdReply f)).answerOn (.restore f) .OK 0 []) ∧
    (∀ f, goesOn (s.generationRelease f) (.generationHoldRelease f)) ∧
    (∀ d id, goesOn (s.revocationDone d id) (.revocationComplete d id)) ∧
    (∀ d id r, s.wu.revocations = [r] → r.domain = d → r.id = id → r.held = false → r.why = .revoke →
      let w := s.slot d id
      let t := ({ s with wu := { s.wu with revocations := [], lastNs := minN 8191 (s.ns - r.started) } } : State).setSlot d id
        { w with revoked := some s.frame }
      (∀ x ∈ (t.answerOn (.revoke d id) .OK 0 (le 1 w.gen)).cc.waiting, x.on ≠ .window d id) →
      (t.answerOn (.revoke d id) .OK 0 (le 1 w.gen)).cc.pause = none →
      s.revocationDone d id = t.answerOn (.revoke d id) .OK 0 (le 1 w.gen)) ∧
    (∀ d id, goesOn (s.revocationRelease d id) (.revocationHoldRelease d id)) ∧
    (∀ d id r, s.wu.revocations = [r] → r.domain = d → r.id = id → r.held = true → (s.slot d id).revoked ≠ some s.frame →
      s.revocationRelease d id = ({ s with wu := { s.wu with
        revocations := [{ r with held := false, started := s.ns }] } } : State).beginInval { r with held := false, started := s.ns }) ∧
    (s.cc.takeover.isSome = true → goesOn (({ s with cc := { s.cc with
        activePair := !s.cc.activePair, takeover := none, reloading := true, standbyReady := false } } : State).evidence 0x40060)
      .lockstepTakeoverComplete) ∧
    (∀ pass w, s.cc.waiting.find? (fun w => w.on == .activate) = some w →
      goesOn (if pass then s.activated (activatedSlot w.instr) else s.activateFails (activatedSlot w.instr)) (.standbySelftestComplete pass)) ∧
    (∀ pass, s.cc.reloading = true → exec (.failedPairSelfTestComplete pass) s =
      .next { s with cc := { s.cc with reloading := false, standbyReady := pass } }) ∧
    (∀ client, exec (.windowCacheSweep client) s =
      .next { s with wu := { s.wu with cache := (s.wu.cache.filter fun c => !(c.client == client && !s.fresh c.frame)).map fun c =>
        if c.client = client then { c with extents := c.extents.filter fun e => s.fresh e.2 } else c } })) ∧
  (∀ (s : State) (tag : Nat),
    (∀ c busy, Tbl.get? s.dma tag = none → exec (.dmaReadCompletion tag c busy) s = .next s ∧ exec (.completionTimeout tag) s = .next s) ∧
    (∀ d, s.alive = true → Tbl.get? s.dma tag = some d → d.sent = true →
      let t := s.endRead tag d
      let stale := attBase d.att + 0x28
      (d.use ≠ .blob → (∀ k, d.use ≠ .packet k) → (∀ r, d.use ≠ .index r) → (∀ r a b, d.use ≠ .descriptors r a b) →
        (t.staleData d = true → ∀ c busy, exec (.dmaReadCompletion tag c busy) s = .next (t.tally stale) ∧
          exec (.completionTimeout tag) s = .next (t.tally stale)) ∧
        (t.staleData d = false →
          (∀ b busy, exec (.dmaReadCompletion tag (.data b) busy) s = .next (t.readDone tag d b busy).settle) ∧
          (∀ e off busy, exec (.dmaReadCompletion tag (.error e off) busy) s = .next (t.readFails d e off).settle) ∧
          exec (.completionTimeout tag) s = .next (t.readFails d .timeout 0).settle)) ∧
      (∀ r, d.use = .index r → ∀ c busy,
        exec (.dmaReadCompletion tag c busy) s = .next ((s.indexReturn tag r d c).afterIndex d.fn) ∧
        exec (.completionTimeout tag) s = .next ((s.indexReturn tag r d (.error .timeout 0)).afterIndex d.fn)) ∧
      (∀ r first count, d.use = .descriptors r first count →
        (t.staleRead d = true → ∀ c busy, exec (.dmaReadCompletion tag c busy) s = .next (t.tally stale) ∧
          exec (.completionTimeout tag) s = .next (t.tally stale)) ∧
        (t.staleRead d = false →
          let fails := fun e => (t.reportRead d.fn e).fetchFailed d.fn r true fun s => s.dmaRead d.fn d.addr d.len d.use none 0
          (∀ b busy, exec (.dmaReadCompletion tag (.data b) busy) s = .next (t.acceptAll d.fn r first count b)) ∧
          (∀ e off busy, exec (.dmaReadCompletion tag (.error e off) busy) s = .next (fails e)) ∧
          exec (.completionTimeout tag) s = .next (fails .timeout))) ∧
      (d.use = .blob →
        (t.staleRead d = true → ∀ c busy,
          exec (.dmaReadCompletion tag c busy) s = .next ((t.tally stale).blobRead d.offset (.error .refused 0))) ∧
        (t.staleRead d = false →
          (∀ b busy, exec (.dmaReadCompletion tag (.data b) busy) s = .next (t.blobRead d.offset (.data b))) ∧
          (∀ e off busy, exec (.dmaReadCompletion tag (.error e off) busy) s =
            .next ((t.reportRead d.fn e).blobRead d.offset (.error e off))))) ∧
      (∀ k, d.use = .packet k → t.staleRead d = true → ∀ c busy,
        exec (.dmaReadCompletion tag c busy) s = .next (t.tally stale))))

/-- Resets and links of a host: FLR, VF Enable cleared, PERST# and a link that goes down reset the functions concerned with FORCE, each with
its event and count; an assertion of PERST# counts whether or not the link trained since the last; a link that comes up makes its PF, one
below the limit of R210 halts its functions; bus mastering cleared halts a running function. Freezes, invalidations, vectors and errors of
a host port: a function with nothing in flight is FROZEN and one whose limit runs out goes on; an ATS invalidation drops the pages it
covers, and is acknowledged when nothing uses them; an unmasked vector that pends is sent once; an access that R8 forbids is counted and
reported with its header, a read of it with Completer Abort, as is every read in HALT; a correctable error is counted and reported. Rules:
R210, R214, R216, R224, R226, R227, R228, R240, R241, R247, R250, R543. -/
def Obligations.HostPortEvents : Prop :=
  (∀ (s : State), s.hosts = true →
    (∀ f x, s.fn? f = some x → x.vf ≠ 0 → exec (.flrVf f) s = .next ((s.hostResetFn f).raise 0x082 (some f) 0)) ∧
    (∀ f x y, s.fn? f = some x → ((s.beginReset f true .READY).modFn f Fn.flr).fn? f = some y →
      s.hostResetFn f = ((s.beginReset f true .READY).modFn f Fn.flr).setAtt y.att
        { ((s.beginReset f true .READY).modFn f Fn.flr).att y.att with
          ats := (((s.beginReset f true .READY).modFn f Fn.flr).att y.att).ats.filter fun e => e.fn != f }) ∧
    (∀ a, s.clearVfs a = (State.vfsOf (s.setAtt a { s.att a with vfEnable := false, numVfs := 0 }) a).foldl
      (fun s f => s.hostResetFn f) (s.setAtt a { s.att a with vfEnable := false, numVfs := 0 })) ∧
    (∀ a, (s.fn? a).isSome = true → exec (.flrPf a) s = .next (((s.clearVfs a).hostResetFn a).raise 0x082 (some a) 1)) ∧
    (∀ a, (s.att a).vfEnable = true → exec (.vfEnableClear a) s = .next ((s.clearVfs a).raise 0x082 (some a) 2)) ∧
    (∀ f x, s.fn? f = some x → x.busMaster = true → x.state = .RUNNING → exec (.busMasterEnableClear f) s =
      .next (((s.setFn f { x with busMaster := false }).haltFn f 3).raise 0x082 (some f) 3)) ∧
    (∀ f x, s.fn? f = some x → x.busMaster = true → x.state ≠ .RUNNING → exec (.busMasterEnableClear f) s =
      .next (s.setFn f { x with busMaster := false })) ∧
    (∀ p, s.hasHostPort p = true →
      let t := ((s.setHostPort p { s.hostPort p with perst := true }).evidence (hpcBase p + 0x10)).raise 0x081 none (p + 256)
      exec (.perstAssert p) s = .next ((t.attsOf p).foldl (fun s a => s.linkLost a) t)) ∧
    (∀ a, s.assigned a = true → (s.att a).state ≠ .DOWN →
      exec (.pcieLinkDown a) s = .next (((s.evidence (attBase a + 0x44)).raise 0x081 none (a / 2)).linkLost a)) ∧
    (∀ (s : State) a,
      let d := s.setAtt a { s.att a with state := .DOWN, speed := 0, width := 0, flit := false, vfEnable := false, numVfs := 0,
                                         vfBar := 0, ats := [], invals := [], maxPayload := 128, maxRead := 512, l12 := false }
      s.linkLost a = (((d.fnsOf a).foldl (fun s f => (s.hostResetFn f).modFn f fun x =>
        { x with resetRec := x.resetRec.map fun r => { r with port := true } }) d).loseReads a).rebalance) ∧
    (∀ (s : State) a speed width flit, linkCarries speed width = true → s.linkTrained a speed width flit =
      (s.setAtt a { s.att a with state := .UP, speed := speed, width := width, flit := flit }).rebalance) ∧
    (∀ (s : State) a speed width flit, linkCarries speed width = false →
      let t := (s.setAtt a { s.att a with state := .SLOW, speed := speed, width := width, flit := flit }).raise 0x080 none a
      s.linkTrained a speed width flit = ((State.fnsOf
        (s.setAtt a { s.att a with state := .SLOW, speed := speed, width := width, flit := flit }) a).foldl (fun s f => s.haltFn f 4) t).rebalance) ∧
    (∀ a speed width flit, s.assigned a = true →
      ((s.hostPort (a / 2)).degraded = false →
        let t := (s.setHostPort (a / 2) { s.hostPort (a / 2) with perst := false }).linkTrained a speed width flit
        (linkCarries speed width = true → t.served = true → exec (.pcieLinkUp a speed width flit) s = .next (t.addPf a)) ∧
        ((linkCarries speed width = false ∨ t.served = false) → exec (.pcieLinkUp a speed width flit) s = .next t)) ∧
      ((s.att a).state ≠ .DOWN → linkCarries speed width = false →
        exec (.hostLinkRetrainSlow a speed width flit) s = .next (s.linkTrained a speed width flit)))) ∧
  (∀ (s : State),
    (∀ f x, s.fn? f = some x → x.state = .FREEZING → s.workOf f x = false → exec (.freezeDrained f) s =
      .next ((s.setFn f { x with state := .FROZEN, freeze := none, freezeTime := s.ns, freezeGen := s.gen f }).answerOn (.freeze f)
        .OK 0 [])) ∧
    (∀ f x d, s.fn? f = some x → x.state = .FREEZING → x.freeze = some d → d ≤ s.ns → exec (.freezeLimitExpiry f) s =
      .next (((s.modFn f fun x => { x with state := .RUNNING, freeze := none }).serveBells f).answerOn (.freeze f) .TIMEOUT 0 [])) ∧
    (∀ f x, s.fn? f = some x → s.rst.mode = .HALT → exec (.badRegisterAccess f true) s = .next (s.emit (.completerAbort f))) ∧
    (s.hosts = true →
      (∀ a address length, s.assigned a = true →
        let hit := fun (e : AtsEntry) => decide (address < e.page + 4096) && decide (e.page < address + length)
        let pages := ((s.att a).ats.filter hit).map (·.target)
        let used := fun (addr : Nat) => pages.contains (addr / 4096 * 4096)
        let t := s.setAtt a { s.att a with ats := (s.att a).ats.filter fun e => !hit e }
        let u := (t.flushPlacings a used).redoAtomics a false fun j => used j.addr
        exec (.atsInvalidate a address length) s =
          .next ((u.setAtt a { u.att a with
            invals := (u.att a).invals ++ [{ addr := address, due := u.ns + 10000,
                                             tags := (u.dma.filter fun d => d.2.att == a && !d.2.sent && used d.2.addr).map (·.1) }] }).settleInvals a)) ∧
      (∀ f x v, s.fn? f = some x → v < x.tableSize →
        let e := Tbl.getD x.msix v Vector.initial
        let keeps := fun p => s.setFn f { x with msix := Tbl.put x.msix v { e with masked := false, pending := p } }
        (e.pending = true → x.msixMask = false → x.msixEnable = true → s.mayIssue x.att = true →
          exec (.msixUnmask f v) s = .next ((keeps false).emit (.msix f v e.addr e.data))) ∧
        (e.pending = true → (x.msixMask = true ∨ x.msixEnable = false ∨ s.mayIssue x.att = false) →
          exec (.msixUnmask f v) s = .next (keeps true)) ∧
        (e.pending = false → exec (.msixUnmask f v) s = .next (keeps false))) ∧
      (∀ f x, s.fn? f = some x →
        let t := s.evidence (attBase x.att + 0x38)
        let u := ({ t with freeCount := t.freeCount + 1 } : State).emit (.aerHeader f .completerAbort (Config.requestHeader t.freeCount))
        exec (.badRegisterAccess f false) s = .next u ∧ exec (.badRegisterAccess f true) s = .next (u.emit (.completerAbort f))) ∧
      (∀ a, s.assigned a = true → exec (.pcieCorrectableError a) s =
        .next ((s.tally (attBase a + 0x20)).emit (.aer a .correctable)))))

/-- Register accesses of a party: outside a PF's view a read gives zero and a write is ignored, each counted; a write to a flags register
clears the counters that it names; a read of a low word latches the high word; a read of CS_PARK clears the peak; a host's write reaches
BAR0, its aperture or a configuration control; a doorbell is the write at offset 0. Rules: R6, R9, R11, R13, R14, R15, R25, R26, R27, R93. -/
def Obligations.RegisterAccesses : Prop := ∀ (s : State),
  (∀ f x off, s.fn? f = some x → x.vf = 0 → s.hosts = true → s.inView f off = false →
    exec (.viewDeniedAccess f off true) s = .next ((s.evidence 0x18).emit (.value (.fn f) off 0)) ∧
    exec (.viewDeniedAccess f off false) s = .next (s.evidence 0x18)) ∧
  (∀ p off v, flagCounters off ≠ [] → s.reaches p = true → (∀ f, p ≠ .fn f) →
    exec (.counterFlagClear p off v) s = .next (s.writeReg off 4 v)) ∧
  (∀ f off v, flagCounters off ≠ [] → s.reaches (.fn f) = true → s.inView f off = true → s.viewWrites f off = true →
    exec (.counterFlagClear (.fn f) off v) s = .next (s.writeReg off 4 v)) ∧
  (∀ off v, flagCounters off ≠ [] → off ≠ 0x30020 → off ≠ 0x80030 → off ≠ 0x2000C → off ≠ 0x20010 →
    s.writeReg off 4 v = ((flagCounters off).mapIdx fun i c => (i, c)).foldl
      (fun s x => if bit (v % 2 ^ 32) x.1 then s.clearEvidence x.2 else s) s) ∧
  (∀ p off, counter64 off = true → s.reaches p = true → (∀ f, p ≠ .fn f) → off ≠ 0x30000 → off ≠ 0x30008 →
    exec (.counterLowWordRead p off) s =
      .next ((s.setLatch p off (some (s.reg p (off + 4)))).emit (.value p off (s.reg p off)))) ∧
  (∀ p, s.reaches p = true → (∀ f, p ≠ .fn f) →
    exec (.counterLowWordRead p 0x30000) s = .next (((s.setLatch p 0x30000 (some (s.reg p 0x30004))).setLatch p 0x30008
      (some (s.tt.now % unit))).emit (.value p 0x30000 (s.reg p 0x30000)))) ∧
  (∀ p, s.reaches p = true → (∀ f, p ≠ .fn f) → exec (.parkPeakRead p) s =
    .next (({ s with cs := { s.cs with parkPeak := 0 } } : State).emit (.value p 0x500118 (s.reg p 0x500118)))) ∧
  (∀ f off, s.reaches (.fn f) = true → s.inView f off = true → counter64 off = true → off ≠ 0x30000 → off ≠ 0x30008 →
    exec (.counterLowWordRead (.fn f) off) s =
      .next ((s.setLatch (.fn f) off (some (s.reg (.fn f) (off + 4)))).emit (.value (.fn f) off (s.reg (.fn f) off)))) ∧
  (∀ f x off width v, s.fn? f = some x → (width = 4 ∨ width = 8) → off % width = 0 → s.reaches (.fn f) = true →
    (s.inView f off = true → s.viewWrites f off = true →
      exec (.hostRegisterWrite f (.bar0 off width) v) s = .next (s.writeReg off width (v % 2 ^ (8 * width)))) ∧
    (s.inView f off = true → s.viewWrites f off = false → exec (.hostRegisterWrite f (.bar0 off width) v) s = .next s) ∧
    (s.inView f off = false → exec (.hostRegisterWrite f (.bar0 off width) v) s = .next (s.evidence 0x18))) ∧
  (∀ f x v, s.fn? f = some x → s.hosts = true →
    exec (.hostRegisterWrite f (.aperture 0 4) v) s = exec (.doorbell f (v % 2 ^ 32)) s ∧
    exec (.hostRegisterWrite f (.aperture 0x8 4) v) s = .next (s.setFn f
      { x with setupAddr := setWord x.setupAddr 0 (v % 2 ^ 32) / 8 * 8 }) ∧
    exec (.hostRegisterWrite f (.aperture 0x18 4) v) s = .next (s.setFn f { x with counterValue := setWord x.counterValue 0 (v % 2 ^ 32) }) ∧
    exec (.hostRegisterWrite f (.aperture 0x1 4) v) s = exec (.badRegisterAccess f false) s) ∧
  (∀ f x v, s.fn? f = some x → s.hosts = true →
    let pf := x.vf = 0
    let a := s.att x.att
    let w := fun field => exec (.hostRegisterWrite f (.config field) v) s
    (bit v 0 = true → w .busMasterEnable = .next (s.setFn f { x with busMaster := true })) ∧
    (bit v 0 = false → w .busMasterEnable = exec (.busMasterEnableClear f) s) ∧
    (pf → bit v 0 = true → w .vfEnable = .next (s.setAtt x.att { a with vfEnable := true })) ∧
    (pf → bit v 0 = false → w .vfEnable = exec (.vfEnableClear x.att) s) ∧
    (pf → a.vfEnable = false → v ≤ a.vfLimit → w .numVfs = .next (s.setAtt x.att { a with numVfs := v })) ∧
    w .atomicOpEnable = .next (s.setFn f { x with atomicEnable := bit v 0 }) ∧
    w .atsEnable = .next (s.setFn f { x with atsEnable := bit v 0 }) ∧
    w .msixEnable = .next ((s.setFn f { x with msixEnable := bit v 0 }).sendPending f) ∧
    w .msixFunctionMask = .next ((s.setFn f { x with msixMask := bit v 0 }).sendPending f) ∧
    (pf → v % 8 ≤ 3 → w .maxPayload = .next (s.setAtt x.att { a with maxPayload := 128 * 2 ^ (v % 8) })) ∧
    (pf → v % 8 ≤ 5 → w .maxReadRequest = .next (s.setAtt x.att { a with maxRead := 128 * 2 ^ (v % 8) })) ∧
    (pf → w .bar0 = .next (s.setFn f { x with bar0 := v % 2 ^ 64 / 67108864 * 67108864 })) ∧
    (pf → w .bar2 = .next (s.setFn f { x with bar2 := v % 2 ^ 64 / 131072 * 131072 })) ∧
    (pf → w .vfBar = .next (s.setAtt x.att { a with vfBar := v % 2 ^ 64 / 131072 * 131072 })))

/-- Setup actions and doorbells: of a RUNNING function each ends with the status the rules give; of a function that freezes a doorbell is
recorded, of one that is READY, RESETTING or HALTED dropped and counted; an action of a function that is not RUNNING is BUSY, and one
while another is in progress is ignored. The block's own reads of a ring: data are accepted or taken for the producer index; one failed
read of either kind is made again; the second freezes the ring with cause 2, and raises RING_FROZEN; one of a generation that has passed
is counted. Rules: R233, R241, R252, R255, R256, R257, R261, R262, R263, R277, R278. -/
def Obligations.RingsServed : Prop :=
  (∀ (s : State) (f : Nat) (x : Fn), s.alive = true → s.fn? f = some x →
    (∀ v, (x.state = .READY ∨ x.state = .RESETTING ∨ x.state = .HALTED ∨ 16384 ≤ v ∨ s.ring? f v = none) →
      exec (.doorbell f v) s = .next (s.evidence (attBase x.att + 0x3C))) ∧
    (∀ r g, s.ring? f r = some g → r < 16384 → (x.state = .FREEZING ∨ x.state = .FROZEN) → g.state ≠ .FROZEN → (g.kind = 0 ∨ g.kind = 3) →
      exec (.doorbell f r) s = .next (s.setFn f { x with bells := insertNat r x.bells })) ∧
    (x.state = .RUNNING →
      (∀ r g, s.ring? f r = some g → g.state = .ACTIVE → (g.kind = 0 ∨ g.kind = 3) → r < 16384 → s.rst.mode = .SERVICE →
        exec (.doorbell f r) s = .next (s.readIndex f r)) ∧
      (∀ r g, s.ring? f r = some g → g.state = .WAITING → (g.kind = 0 ∨ g.kind = 3) → r < 16384 → s.rst.mode = .SERVICE →
        exec (.doorbell f r) s = .next (s.setRing f r { g with bell := true })) ∧
      (∀ r g, s.ring? f r = some g → (g.state = .FROZEN ∨ g.kind = 1 ∨ g.kind = 2) → r < 16384 →
        exec (.doorbell f r) s = .next (s.evidence (attBase x.att + 0x3C)))) ∧
    (∀ r, (x.setup.isSome = true → exec (.ringCreate f r) s = .next s ∧ exec (.ringDestroy f r) s = .next s ∧
        exec (.ringQuery f r) s = .next s ∧ exec (.counterAlloc f r) s = .next s ∧ exec (.counterFree f r) s = .next s ∧
        exec (.counterSet f r) s = .next s) ∧
      (x.setup = none → x.state ≠ .RUNNING → exec (.ringCreate f r) s = .next (s.setupEnd f .BUSY) ∧
        exec (.ringDestroy f r) s = .next (s.setupEnd f .BUSY) ∧ exec (.ringQuery f r) s = .next (s.setupEnd f .BUSY) ∧
        exec (.counterAlloc f r) s = .next (s.setupEnd f .BUSY) ∧ exec (.counterFree f r) s = .next (s.setupEnd f .BUSY) ∧
        exec (.counterSet f r) s = .next (s.setupEnd f .BUSY))) ∧
    (x.setup = none → x.state = .RUNNING →
      (∀ r, (x.setupAddr % 64 = 0 → exec (.ringCreate f r) s = .next
          ((s.setFn f { x with setup := some { action := 1, target := r, tag := s.nextDma } }).dmaRead f x.setupAddr 64 .setup none 0)) ∧
        (x.setupAddr % 64 ≠ 0 → exec (.ringCreate f r) s = .next (s.setupEnd f .BAD_PARAM))) ∧
      (∀ r, Tbl.get? x.rings r = none →
        exec (.ringDestroy f r) s = .next (s.setupEnd f .NOT_FOUND) ∧
        exec (.ringQuery f r) s = .next ((s.setFn f { x with setupState := 0, setupCause := 0 }).setupEnd f .NOT_FOUND)) ∧
      (∀ r g, Tbl.get? x.rings r = some g →
        (g.entries = [] → g.state ≠ .WAITING → (g.kind = 2 → x.rings.length ≤ 1) → exec (.ringDestroy f r) s =
          .next (((s.setFn f { x with
            rings := Tbl.del x.rings r, routes := x.routes.filter (fun q => q.2 != r),
            bells := x.bells.filter (· != r) }).dropRingReads f r).setupEnd f .OK)) ∧
        ((g.entries ≠ [] ∨ g.state = .WAITING ∨ (g.kind = 2 ∧ 1 < x.rings.length)) →
          exec (.ringDestroy f r) s = .next (s.setupEnd f .BUSY)) ∧
        exec (.ringQuery f r) s =
          .next ((s.setFn f { x with setupState := ringStateCode g.state, setupCause := g.cause }).setupEnd f .OK)) ∧
      (∀ k, k ≤ 4095 → x.setupAddr % 8 = 0 →
        (Tbl.get? x.counters k = none → s.countersUsed < 65536 → exec (.counterAlloc f k) s = .next
          ((s.setFn f { x with counters := Tbl.put x.counters k { value := 0, broken := false, mirror := x.setupAddr } }).setupEnd f .OK)) ∧
        (Tbl.get? x.counters k = none → 65536 ≤ s.countersUsed → exec (.counterAlloc f k) s = .next (s.setupEnd f .CAPACITY)) ∧
        ((Tbl.get? x.counters k).isSome → exec (.counterAlloc f k) s = .next (s.setupEnd f .EXISTS))) ∧
      (∀ k, (4095 < k ∨ x.setupAddr % 8 ≠ 0) → exec (.counterAlloc f k) s = .next (s.setupEnd f .BAD_PARAM)) ∧
      (∀ k v, k ≤ 4095 → Tbl.get? x.counters k = some v →
        exec (.counterFree f k) s = .next ((s.setFn f { x with counters := Tbl.del x.counters k }).setupEnd f .OK) ∧
        exec (.counterSet f k) s =
          .next ((s.writeCounter f k { v with value := x.counterValue, broken := false }).setupEnd f .OK).settle) ∧
      (∀ k, k ≤ 4095 → Tbl.get? x.counters k = none → exec (.counterFree f k) s = .next (s.setupEnd f .NOT_FOUND) ∧
        exec (.counterSet f k) s = .next (s.setupEnd f .NOT_FOUND)) ∧
      (∀ k, 4095 < k → exec (.counterFree f k) s = .next (s.setupEnd f .BAD_PARAM) ∧
        exec (.counterSet f k) s = .next (s.setupEnd f .BAD_PARAM)))) ∧
  (∀ (s : State) (f r tag : Nat) (d : DmaRead), s.alive = true → d.fn = f →
    let t := s.endRead tag d
    (∀ first count, d.use = .descriptors r first count →
      s.readFor f (fun u => match u with | .descriptors q _ _ => q == r | _ => false) = some (tag, d) →
      (t.staleRead d = true → ∀ c, exec (.descriptorFetchReturn f r c) s = .next (t.tally (attBase d.att + 0x28))) ∧
      (t.staleRead d = false →
        (∀ bs, exec (.descriptorFetchReturn f r (.data bs)) s = .next (t.acceptAll f r first count bs)) ∧
        (∀ e n g, (t.reportRead f e).ring? f r = some g → g.retriedDesc = false → exec (.descriptorFetchReturn f r (.error e n)) s =
          .next (((t.reportRead f e).setRing f r { g with retriedDesc := true }).dmaRead f d.addr d.len d.use none 0)) ∧
        (∀ e n g, (t.reportRead f e).ring? f r = some g → g.retriedDesc = true → g.held = [] → g.state ≠ .FROZEN →
          exec (.descriptorFetchReturn f r (.error e n)) s = .next (((t.reportRead f e).setRing f r
            { g with fetching := none, state := .FROZEN, cause := 2 }).raise 0x0C0 (some f) r)))) ∧
    (d.use = .index r → s.readFor f (fun u => u == .index r) = some (tag, d) →
      (t.staleRead d = true → ∀ c, exec (.producerIndexReadReturn f r c) s = .next ((t.tally (attBase d.att + 0x28)).afterIndex f)) ∧
      (t.staleRead d = false →
        (∀ bs, exec (.producerIndexReadReturn f r (.data bs)) s = .next ((t.indexRead f r (rd bs 0 4)).afterIndex f)) ∧
        (∀ e n g, (t.reportRead f e).ring? f r = some g → g.retried = false → exec (.producerIndexReadReturn f r (.error e n)) s =
          .next ((((t.reportRead f e).setRing f r { g with retried := true }).dmaRead f d.addr 4 (.index r) none 0).afterIndex f)) ∧
        (∀ e n g, (t.reportRead f e).ring? f r = some g → g.retried = true → g.held = [] → g.state ≠ .FROZEN →
          exec (.producerIndexReadReturn f r (.error e n)) s = .next ((((t.reportRead f e).setRing f r
            { g with reading := false, again := false, state := .FROZEN, cause := 2 }).raise 0x0C0 (some f) r).afterIndex f)))))

/-- An entry that a ring accepts: well formed, it enters the ring, holds an operation with the horizon's deadline, is metered and begins, each
opcode in its own way; malformed, it freezes the ring; a RECV with no room on the posted list waits for it. Rules: R33, R38, R262, R264,
R266, R267, R273, R274, R275, R308, R381. -/
def Obligations.DescriptorsAccepted : Prop := ∀ (s : State) (f r : Nat) (x : Fn) (g : Ring) (h : DescHdr),
  s.acceptsNext f r = true → s.fn? f = some x → s.ring? f r = some g →
  let ends := fun (a : DescArea) (i : Instr) (begins : Nat → Op → State → State) =>
    (∀ place, s.malformedReason f x g h a = none → s.postedFull f x a = false → s.freePlace = some place →
      let o := s.newOp f r x g h a
      let t := begins place o (s.enter f r g place o)
      exec i s = .next (t.settleWaits t.ops.length).settle ∧ o.deadline = s.ns + x.horizonMs * 1000000 ∧ o.index = g.next) ∧
    (s.malformedReason f x g h a = none → s.postedFull f x a = false → s.freePlace = none →
      exec i s = .next (s.stall f r .place).settle) ∧
    (∀ why, s.malformedReason f x g h a = some why →
      exec i s = .next ((s.malformed f r g.next why (descBytes h a)).memberLost f).settle)
  (∀ z, ends (.nop z) (.nop f r h z) fun _ _ s => s) ∧
  (∀ c t z, ends (.wait c t z) (.wait f r h c t z) fun _ _ s => s.modRing f r fun g => { g with state := .WAITING }) ∧
  (∀ n z, ends (.counterAdd n z) (.counterAdd f r h n z) fun p _ s => (s.advance f h.counter n).finish p .SUCCESS 0 0) ∧
  (∀ a, ends (.put a) (.put f r h a) fun p o s => s.beginPut p o a .read g.rankTable) ∧
  (∀ a, ends (.get a) (.get f r h a) fun p o s => s.beginPut p o a .write g.rankTable) ∧
  (∀ a, ends (.putWithSignal a) (.putWithSignal f r h a) fun p o s => s.beginPut p o a .read g.rankTable) ∧
  (∀ z, ends (.fence z) (.fence f r h z) fun _ _ s => s) ∧
  (∀ a, ends (.mcastPut a) (.mcastPut f r h a) fun p o s => s.beginMcast p o a) ∧
  (∀ a, ends (.atomic a) (.atomic f r h a) fun p o s => s.beginAtomic p o a g.rankTable) ∧
  (∀ a, ends (.send a) (.send f r h a) fun p o s => s.beginSend p o a g.rankTable) ∧
  (∀ a, ends (.recv a) (.recv f r h a) fun p o s => s.acceptRecv p o a) ∧
  (∀ a, s.malformedReason f x g h (.recv a) = none → s.recvFull f x a = true →
    exec (.recv f r h a) s = .next (s.stallPosted f r x).settle) ∧
  (∀ a, ends (.cancel a) (.cancel f r h a) fun p o s => s.acceptCancel p o a) ∧
  (∀ a, ends (.collective a) (.collective f r h a) fun p o s => s.beginCollective p o a) ∧
  (∀ a, ends (.command a) (.command f r h a) fun p o s => s.beginCommand p o a)

/-- Reassembly: the engine takes its oldest ejected data cell, by the cell's kind and op; an entry silent for 4 frames is freed and counted; a
quarantined tag is free after its time. Rules: R150, R151, R152, R153, R154, R155, R156, R157, R158, R159. -/
def Obligations.Reassembly : Prop := ∀ (s : State) (n : Nat), s.engineWorks n = true →
  (∀ c e, (s.engine n).takeCell isDataCell = some (c, e) →
    let t := s.setEngine n e
    (c.h.kind = 6 → exec (.reasmCellReceive n) s = .next (t.mcastCell n c).refreshXoff) ∧
    (c.h.kind = 3 → isTaggedSingle c.parcel.op = true → exec (.reasmCellReceive n) s = .next (t.taggedSingle n c c.parcel).refreshXoff) ∧
    (c.h.kind = 3 → isTaggedSingle c.parcel.op = false → c.parcel.op = opOPEN →
      exec (.reasmCellReceive n) s = .next (t.openSingle n c c.parcel).refreshXoff) ∧
    (c.h.kind = 3 → isTaggedSingle c.parcel.op = false → c.parcel.op ≠ opOPEN →
      exec (.reasmCellReceive n) s = .next (t.flowSingle n c c.parcel).refreshXoff) ∧
    (c.h.kind ≠ 6 → c.h.kind ≠ 3 → exec (.reasmCellReceive n) s = .next (t.taggedCell n c).refreshXoff)) ∧
  (∀ (t : State) c h x, t.dstFlow? n h.flow = some x →
    t.flowSingle n c h = (t.meter x.fn 1 1).completeFlow n h.flow 0 h (parcelCells h.length == 1) [c] t.ns) ∧
  (∀ (t : State) c, Tbl.get? (t.engine n).tags c.h.tag = none → t.taggedCell n c = t.strayCell n none true) ∧
  (∀ (t : State) c y r, Tbl.get? (t.engine n).tags c.h.tag = some y → y.quarantine = none → y.entry = some r →
    t.taggedCell n c = t.recordCell n c.h.tag y r c) ∧
  (∀ tag t r, Tbl.get? (s.engine n).tags tag = some t → t.entry = some r →
    (r.last + 4000000 ≤ s.ns → exec (.reasmEntryTimeout n tag false) s =
      .next ((s.setTag n tag { t with entry := none }).evidence (peBase n + 0x7014)).refreshXoff) ∧
    (s.ns < r.last + 4000000 → exec (.reasmEntryTimeout n tag false) s = .next s)) ∧
  (∀ tag r, Tbl.get? (s.engine n).mreasm tag = some r → r.last + 4000000 ≤ s.ns → exec (.reasmEntryTimeout n tag true) s =
    .next ((s.setEngine n { s.engine n with mreasm := Tbl.del (s.engine n).mreasm tag }).evidence (peBase n + 0x7014)).refreshXoff) ∧
  (∀ tag t u, Tbl.get? (s.engine n).tags tag = some t → t.quarantine = some u →
    (u ≤ s.ns → exec (.tagQuarantineExpiry n tag) s = .next (s.modEngine n fun e => { e with tags := Tbl.del e.tags tag })) ∧
    (s.ns < u → exec (.tagQuarantineExpiry n tag) s = .next s))

/-- Answers reach the flow that sent the parcel: of a cached flow of the named generation, an ACK acknowledges the parcel it names and does
what its op asks, a NACK does what its kind asks; of no such flow, or in bad form, it is counted stale. Rules: R7, R327, R328, R329, R330,
R331, R332, R337, R338, R347. -/
def Obligations.AnswersArrive : Prop := ∀ (s : State) (n : Nat) (c : WireCell) (e : Engine), s.engineWorks n = true →
  let a := AnswerCell.ofCell c
  let t := s.setEngine n e
  ((s.engine n).takeCell isAck = some (c, e) →
    (answerOk c = false → exec (.ackReceive n) s = .next (t.staleArrival n).settle) ∧
    (answerOk c = true → a.nack = false → t.chunkAcked n a = none → a.mcast = false →
      (t.answered n a = none → exec (.ackReceive n) s = .next (t.staleArrival n).settle) ∧
      (∀ x, t.answered n a = some x → t.isCached n a.flow true = true →
        exec (.ackReceive n) s = .next ((t.touch (n, a.flow, true)).flowAck n a.flow x a).settle))) ∧
  (∀ (t : State) x p, bit a.code 0 = false → (x.parcels.find? fun p => p.seq == a.seq) = some p → p.sendings ≠ 0 → p.op ≠ opOPEN →
    let u := t.acknowledge n a.flow (x.grant a) p a.value
    (p.op = opCLOSE → t.flowAck n a.flow x a = u.removeSrc n a.flow) ∧
    (∀ place, p.op ≠ opCLOSE → p.place = some place →
      t.flowAck n a.flow x a = u.opAcked n a.flow place p (if bit a.code 1 then some a.result else none))) ∧
  ((s.engine n).takeCell isNack = some (c, e) →
    (answerOk c = false → exec (.nackReceive n) s = .next (t.staleArrival n).settle) ∧
    (answerOk c = true → a.nack = true →
      let u := t.tally (peBase n + 0x6018)
      u.chunkAcked n a = none → a.mcast = false → ∀ x, u.answered n a = some x → u.isCached n a.flow true = true →
        exec (.nackReceive n) s = .next ((u.touch (n, a.flow, true)).flowNack n a.flow x a).settle)) ∧
  (∀ p, (s.engine n).takeHanded (fun p => p.op == opGET_RESP) = some (p, e) →
    (t.srcFlow? n p.flow = none → exec (.getRespReceive n) s = .next (t.staleArrival n).settle) ∧
    (∀ x q place o, t.srcFlow? n p.flow = some x → t.isCached n p.flow true = true →
      (x.parcels.find? fun q => q.seq == p.seq && q.asksTag && q.respTag == some p.tag) = some q → q.place = some place →
      let u := ((t.touch (n, p.flow, true)).acknowledge n p.flow x q (rd p.area 0 4)).freeTag n p.tag
      Tbl.get? u.ops place = some o →
        exec (.getRespReceive n) s = .next (u.responsePlaced place o q p.data).settle))

/-- Parcels at their sources: one that may leave is sent; one unanswered in time halves the window at most once a round trip and is sent
again, the second timeout in a row reopening the flow first; a back-off that ends sends it again; a multicast parcel is sent, and
repaired, by its sender record; a flow idle for 16 frames is closed; a context fetched is used. Rules: R193, R316, R319, R324, R333, R335,
R336, R337, R338, R347, R353, R380. -/
def Obligations.ParcelsInTime : Prop := ∀ (s : State) (n fid seq : Nat) (x : SrcFlow) (p : OutParcel), s.engineWorks n = true →
  s.srcFlow? n fid = some x →
  (x.named seq = some p →
    (p.left ≠ [] → exec (.parcelSend n fid seq false) s =
      .next (s.sendLeft n fid x p (s.outClass x p).1 (s.outClass x p).2).settle) ∧
    (p.left = [] → p.due = true → exec (.parcelSend n fid seq false) s = .next (s.release n fid x p).settle) ∧
    (p.left = [] → p.due = false → exec (.parcelSend n fid seq false) s = .next s.settle) ∧
    (p.retryAt = none → p.due = false → ∀ t, p.timeout = some t →
      (s.ns < t → exec (.parcelTimeout n fid seq false) s = .next s) ∧
      (t ≤ s.ns →
        let cut := match x.lastCut with | some c => decide (x.srtt ≤ s.ns - c) | none => true
        let y := { x with timeouts := x.timeouts + 1, cwnd := if cut then maxN (x.cwnd / 2) 1024 else x.cwnd,
                          lastCut := if cut then some s.ns else x.lastCut }
        let u := (s.tally (peBase n + 0x6010)).setSrc n fid y
        (y.timeouts = 1 → exec (.parcelTimeout n fid seq false) s = .next (u.resend n fid y p).settle) ∧
        (p.op ≠ opOPEN → 2 ≤ y.timeouts → y.opening = none → u.mayResend y p = true →
          exec (.parcelTimeout n fid seq false) s = .next (u.reopen n fid y p).settle))) ∧
    (∀ t, p.retryAt = some (t, false) → t ≤ s.ns →
      exec (.retryAfterExpiry n fid seq) s = .next (s.resend n fid x p).settle) ∧
    (∀ t, p.retryAt = some (t, true) → t ≤ s.ns →
      exec (.resourceBackoffExpiry n fid seq) s = .next (s.resend n fid x p).settle) ∧
    (∀ t k, p.retryAt = some (t, k) → s.ns < t →
      exec (.retryAfterExpiry n fid seq) s = .next s ∧ exec (.resourceBackoffExpiry n fid seq) s = .next s)) ∧
  (∀ g, exec (.parcelSend n g seq true) s = .next (s.sendMcast n g seq).settle) ∧
  (∀ g y m t, s.sender? n g = some y → (y.out.find? fun m => m.seq == seq) = some m → m.timeout = some t →
    (t ≤ s.ns → exec (.parcelTimeout n g seq true) s = .next (s.mcastTimeout n g y m t).settle) ∧
    (s.ns < t → exec (.parcelTimeout n g seq true) s = .next s)) ∧
  (x.state = .OPEN → x.parcels = [] → x.queue = [] → x.opening = none → x.lastUse + 16000000 ≤ s.ns →
    exec (.flowIdleClose n fid) s = .next (s.modSrc n fid fun y =>
      { y with state := .CLOSING, nextSeq := (y.nextSeq + 1) % 4096,
               parcels := y.parcels ++ [{ closeParcel y.roleGen with seq := y.nextSeq }] })) ∧
  (s.ns < x.lastUse + 16000000 → exec (.flowIdleClose n fid) s = .next s) ∧
  (∀ src, s.cs.fetching.contains (n, fid, src) = true → s.spillReading n fid src = false →
    exec (.flowContextFetchComplete n fid src) s =
      .next ((({ s with cs := { s.cs with fetching := s.cs.fetching.filter (· != (n, fid, src)) } } : State).touch (n, fid, src)).modEngine
        n fun e => e.unpark fid src))

/-- A complete parcel at its destination: when its context is cached and its role current, a sequence number not yet seen is carried out by
its op (on an ordered flow only in order, else it is staged), one done is answered again, and one in progress is dropped; a flow that is
closed answers NO_FLOW, and a CLOSE of it is acknowledged. Rules: R324, R325, R330, R333, R337, R338, R339, R340, R341, R347, R354. -/
def Obligations.ParcelsCarried : Prop := ∀ (s : State) (n : Nat) (p : Parcel) (e : Engine) (i : Instr) (op : Nat)
    (carries : State → DstFlow → State),
  (i, op, carries) ∈ ([(.putParcelReceive n, opPUT, fun s x => if p.op = opPUT then s.carryPut n p.flow x p else s.badOp n p.flow p),
    (.putElidedReceive n, opPUT_ELIDED, fun s x => s.carryElided n p.flow x p),
    (.getReqReceive n, opGET_REQ, fun s x => s.carryGet n p.flow x p),
    (.atomicParcelReceive n, opATOMIC, fun s x => s.carryAtomic n p.flow x p),
    (.signalReceive n, opSIGNAL, fun s x => s.carrySignal n p.flow x p),
    (.closeReceive n, opCLOSE, fun s x => s.carryClose n p.flow x p),
    (.mcastRepairReceive n, opMCAST_REPAIR, fun s x => s.carryRepair n p.flow x p),
    (.msgEagerReceive n, opMSG_EAGER, fun s x => s.carryMessage n p.flow x p),
    (.msgRtsReceive n, opMSG_RTS, fun s x => s.carryMessage n p.flow x p),
    (.msgGetReceive n, opMSG_GET, fun s x => s.carryMsgGet n p.flow x p),
    (.msgFinReceive n, opMSG_FIN, fun s x => s.carryMsgFin n p.flow x p)] : List (Instr × Nat × (State → DstFlow → State))) →
  s.engineWorks n = true →
  (s.engine n).takeHanded (fun q => !q.mcast && (q.op == op || (op == opPUT && !listedOp q.op))) = some (p, e) →
  let t := s.setEngine n e
  (∀ o, t.dstFlow? n p.flow = none → Tbl.get? (t.engine n).gone p.flow = some o →
    (op ≠ opCLOSE → exec i s = .next (t.nackOrigin n n o p.seq nackNO_FLOW 0).settle) ∧
    (op = opCLOSE → exec i s = .next (t.sendCell n n ((o.answer p.seq) : AnswerCell).cell).settle)) ∧
  (∀ x u, t.dstFlow? n p.flow = some x → t.isCached n p.flow false = true →
    (t.touch (n, p.flow, false)).roleRefusal x.fn p.roleGen = (u, none) →
    let y := { x with busy := x.busy ++ [p.seq] }
    (classifySeq x.base x.done x.busy p.seq = .fresh → x.ordered = false ∨ p.seq = x.base →
      exec i s = .next ((carries (u.setDst n p.flow y) y).unstage n p.flow 5).settle) ∧
    (classifySeq x.base x.done x.busy p.seq = .fresh → x.ordered = true → p.seq ≠ x.base →
      exec i s = .next (u.stage n p.flow x p).settle) ∧
    (classifySeq x.base x.done x.busy p.seq = .again → exec i s = .next (u.answerAgain n p.flow x p).settle) ∧
    (classifySeq x.base x.done x.busy p.seq = .busy → exec i s = .next u.settle)) ∧
  (∀ x u k det, t.dstFlow? n p.flow = some x → t.isCached n p.flow false = true →
    (t.touch (n, p.flow, false)).roleRefusal x.fn p.roleGen = (u, some (k, det)) →
    exec i s = .next (u.nack n x p.tag p.seq k 0 det).settle)

/-- OPEN, multicast parcels, collective chunks and the last write of a placement at their destination: an OPEN of a flow held already is
answered again, a new one opens it; a member record's parcel is placed, answered again or refused. Chunks resent: an unacknowledged chunk
of an edge that is up goes again, its timeout doubled, and after 8 resends the group fails with cause EDGE; an edge that is not up only
waits, and none goes again whose wait would outlast a deadline. Rules: R91, R319, R320, R321, R322, R330, R353, R354, R405, R407, R408,
R422. -/
def Obligations.OpensAndChunks : Prop :=
  (∀ (s : State) (n : Nat), s.engineWorks n = true →
    (∀ p e, (s.engine n).takeHanded (fun q => !q.mcast && q.op == opOPEN) = some (p, e) →
      exec (.openReceive n) s = .next ((s.setEngine n e).carryOpen n p)) ∧
    (∀ (t u : State) p,
      let v := rd p.area 0 12
      let o : Origin := { endpoint := bits v 20 0, fn := bits v 31 21, flow := p.flow, gen := rd p.data 0 1 }
      let same := fun (x : Nat × DstFlow) => x.2.endpoint == o.endpoint && x.2.srcFn == o.fn && x.2.srcFlow == o.flow
        && x.2.srcGen == o.gen && x.2.fn == bits v 42 32
      (∀ k det, t.roleRefusal (bits v 42 32) p.roleGen = (u, some (k, det)) → t.carryOpen n p = u.nackOrigin n (bits v 42 32) o p.seq k det) ∧
      (t.roleRefusal (bits v 42 32) p.roleGen = (u, none) →
        (∀ d x, (u.engine n).dst.find? same = some (d, x) → u.isCached n d false = true →
          t.carryOpen n p = (u.touch (n, d, false)).openAnswer n d x p.seq p.delay) ∧
        ((u.engine n).dst.find? same = none → bits v 47 43 = 0 → bits v 95 82 = 0 → p.data.length = 8 → rd p.data 2 6 = 0 → bit v 81 = false →
          (u.rst.mode = .DRAIN → t.carryOpen n p = u.nackOrigin n (bits v 42 32) o p.seq nackRETRY_AFTER 16) ∧
          (u.rst.mode ≠ .DRAIN → t.carryOpen n p = u.createFlow n (bits v 42 32) o p (bit v 80) (bits v 79 48))))) ∧
    (∀ p e, (s.engine n).takeHanded (fun q => q.mcast) = some (p, e) →
      let t := s.setEngine n e
      (t.member? n (p.flow % 4096) = none → exec (.mcastPutReceive n) s = .next (t.evidence (peBase n + 0x7010))) ∧
      (∀ m u, t.member? n (p.flow % 4096) = some m → t.roleRefusal m.fn (t.gen m.fn) = (u, none) →
        (classifySeq m.base m.done m.busy p.seq = .again →
          exec (.mcastPutReceive n) s = .next (u.memberAnswer n (p.flow % 4096) m p.tag p.seq false 0 0 p.delay)) ∧
        (classifySeq m.base m.done m.busy p.seq = .busy → exec (.mcastPutReceive n) s = .next u) ∧
        (∀ v, classifySeq m.base m.done m.busy p.seq = .fresh → p.op = opMCAST_PUT → rd p.area 4 6 < 2 ^ 43 → rd p.area 10 1 < 2 →
          rd p.area 11 1 = 0 → u.placeMember n (p.flow % 4096) m (rd p.area 4 6) p.seq p.tag p.delay p.data none = (v, none) →
          exec (.mcastPutReceive n) s = .next v) ∧
        (classifySeq m.base m.done m.busy p.seq = .fresh → p.op ≠ opMCAST_PUT →
          exec (.mcastPutReceive n) s = .next (u.memberAnswer n (p.flow % 4096) m p.tag p.seq true nackBAD_OP 0 p.seq)))) ∧
    (∀ y t, (s.nextChunk n opCOLL_UP = some (y, t) → (t.takeChunk y.1 y.2).lagging 2 = false → exec (.collUpReceive n) s =
        .next ((((t.takeChunk y.1 y.2).startSeq (y.2.flow % 1024)).closeDowns (y.2.flow % 1024)).settle)) ∧
      (s.nextChunk n opCOLL_DOWN = some (y, t) → (t.takeChunk y.1 y.2).lagging 2 = false → exec (.collDownReceive n) s =
        .next ((((t.takeChunk y.1 y.2).startSeq (y.2.flow % 1024)).closeDowns (y.2.flow % 1024)).settle)) ∧
      (s.nextChunk n opCOLL_UP = some (y, t) → (t.takeChunk y.1 y.2).lagging 2 = true → exec (.collUpReceive n) s =
        .next (((t.takeChunk y.1 y.2).closeDowns (y.2.flow % 1024)).settle))) ∧
    (∀ w t, (s.engine n).placing = w :: t → w.flow = none →
      exec (.ackSend n) s = .next ((s.setEngine n { s.engine n with placing := t }).endPlacing n w).settle) ∧
    (∀ w t d q, (s.engine n).placing = w :: t → w.flow = some (d, q) →
      exec (.ackSend n) s = .next (((s.setEngine n { s.engine n with placing := t }).endPlacing n w).unstage n d 5).settle)) ∧
  (∀ (s : State) (g edge chunk : Nat) (x : Group) (o : EdgeOut) (slot : Nat), s.alive = true →
    s.rst.mode ≠ .HEATH → s.group? g = some x →
    (x.out.find? fun o => o.edge == edge && o.chunk == chunk && o.slot.isSome && decide (o.timeout ≤ s.ns)) = some o → o.slot = some slot →
    let keep := fun (o' : EdgeOut) => s.setGroup g { x with out := x.out.map fun z => if z = o then o' else z }
    (s.edgeUp x o.edge = false →
      exec (.chunkResendTimeout g edge chunk) s = .next (keep { o with timeout := s.ns + 20000 * 2 ^ o.resends }).settle) ∧
    (s.edgeUp x o.edge = true → 8 ≤ o.resends → exec (.chunkResendTimeout g edge chunk) s =
      .next ((s.setGroup g { x with out := x.out.filter (· != o) }).failGroup g causeEDGE none).settle) ∧
    (s.edgeUp x o.edge = true → o.resends < 8 → s.chunkMay g o (20000 * 2 ^ (o.resends + 1)) = true →
      exec (.chunkResendTimeout g edge chunk) s =
        .next (((keep { o with resends := o.resends + 1, timeout := s.ns + 20000 * 2 ^ (o.resends + 1) }).tally 0x600028).sendChunk g x o
          slot).settle) ∧
    (s.edgeUp x o.edge = true → o.resends < 8 → s.chunkMay g o (20000 * 2 ^ (o.resends + 1)) = false →
      exec (.chunkResendTimeout g edge chunk) s = .next s.settle))

/-- The horizon: no operation outlives its deadline; it ends HORIZON_EXPIRED, a COLLECTIVE fails its group, and a posted receive or a message
offered without data goes at its own deadline. Metering in time: each fabric-time minute is recorded once, at the Signal Box's own tick of
that boundary, for every function, in the meter ring and in the journal; occupancy is added once in a frame, in units of 4 KiB, rounded
up. Rules: R38, R91, R202, R204, R373, R383, R424. -/
def Obligations.DeadlinesAndMeters : Prop :=
  (∀ (s : State), s.alive = true →
    (∀ place o, Tbl.get? s.ops place = some o →
      (o.deadline ≤ s.ns →
        (∀ a, o.area = .mcastPut a → exec (.horizonExpiry place) s = .next (s.finish place .HORIZON_EXPIRED 0 (s.lacking place o a)).settle) ∧
        ((∀ a, o.area ≠ .mcastPut a) → (∀ a, o.area ≠ .recv a) → (∀ a, o.area ≠ .collective a) →
          exec (.horizonExpiry place) s = .next (s.finish place .HORIZON_EXPIRED 0 o.resends).settle) ∧
        (∀ a, o.area = .recv a → o.phase = .posted →
          exec (.horizonExpiry place) s = .next (s.finish place .HORIZON_EXPIRED 0 o.resends).settle) ∧
        (∀ a, o.area = .collective a → exec (.horizonExpiry place) s =
          .next (((if bit a.flags 0 then s.breakCounter o.fn a.stepCounter else s).finish place .HORIZON_EXPIRED 0 o.resends).failGroup
            a.group causeHORIZON none).settle) ∧
        (o.phase = .posted → exec (.recvExpiry place) s = .next (s.finish place .HORIZON_EXPIRED 0 0).settle)) ∧
      (s.ns < o.deadline → exec (.horizonExpiry place) s = .next s ∧ exec (.recvExpiry place) s = .next s)) ∧
    (∀ f i u, (s.lists f).unexpected[i]? = some u → u.data = none →
      (u.deadline < s.ns → exec (.rtsExpiry f i) s =
        .next ((s.setLists f { s.lists f with unexpected := removeAt i (s.lists f).unexpected }).evidence (peBase (s.engineOf f) + 0x5028))) ∧
      (s.ns ≤ u.deadline → exec (.rtsExpiry f i) s = .next s))) ∧
  (∀ (s : State), s.alive = true →
    (∀ k, (s.lag 0).tick = 60000000 * k →
      (s.sb.lastMinute < k → exec .meterSnapshot s =
        .next (((s.snapshotRecords k).foldl State.meterRing
          { s with sb := { s.sb with lastMinute := k, ghosts := [] } }).journalMeters (s.snapshotRecords k))) ∧
      (k ≤ s.sb.lastMinute → exec .meterSnapshot s = .next s)) ∧
    ((s.lag 0).tick % 60000000 ≠ 0 → exec .meterSnapshot s = .next s) ∧
    (∀ f x, s.fn? f = some x →
      (x.occFrame ≠ some s.frame → exec (.meterOccupancySample f) s =
        .next ((s.setFn f { x with occFrame := some s.frame }).meter f 5 (ceilDiv (s.storeBytes f x) 4096))) ∧
      (x.occFrame = some s.frame → exec (.meterOccupancySample f) s = .next s)))
end

