-- ==== Sys2Proof/Laws/Tables.lean ====
section
/-! SUPPORT. Laws of tables, of little-endian fields and of the list of kept replies. -/
namespace Sys2Proof.Machine

/-! ### Tables -/

@[simp] theorem Tbl.get?_put {α : Type} (t : Tbl α) (i : Nat) (a : α) : Tbl.get? (Tbl.put t i a) i = some a := by
  induction t with
  | nil => simp [Tbl.put, Tbl.get?]
  | cons e t ih =>
    obtain ⟨k, v⟩ := e
    simp only [Tbl.put]
    split
    · simp [Tbl.get?]
    · split
      · simp [Tbl.get?]
      · simp [Tbl.get?, *]

@[simp] theorem Tbl.get?_put_of_ne {α : Type} (t : Tbl α) {i j : Nat} (a : α) (h : j ≠ i) : Tbl.get? (Tbl.put t i a) j = Tbl.get? t j := by
  induction t with
  | nil => simp [Tbl.put, Tbl.get?, Ne.symm h]
  | cons e t ih =>
    obtain ⟨k, v⟩ := e
    simp only [Tbl.put]
    split
    · simp [Tbl.get?, Ne.symm h]
    · split
      · subst_vars; simp [Tbl.get?, Ne.symm h]
      · simp only [Tbl.get?]; split
        · rfl
        · exact ih

@[simp] theorem Tbl.get?_del {α : Type} (t : Tbl α) (i : Nat) : Tbl.get? (Tbl.del t i) i = none := by
  induction t with
  | nil => rfl
  | cons e t ih =>
    obtain ⟨k, v⟩ := e
    by_cases h : k = i
    · subst h; simpa [Tbl.del] using ih
    · have h' : (k != i) = true := by simpa using h
      simp only [Tbl.del, List.filter_cons, h', if_true, Tbl.get?, h, if_false]
      exact ih

@[simp] theorem Tbl.get?_del_of_ne {α : Type} (t : Tbl α) {i j : Nat} (h : j ≠ i) : Tbl.get? (Tbl.del t i) j = Tbl.get? t j := by
  induction t with
  | nil => rfl
  | cons e t ih =>
    obtain ⟨k, v⟩ := e
    by_cases hk : k = i
    · subst hk; simpa [Tbl.del, Tbl.get?, Ne.symm h] using ih
    · have h' : (k != i) = true := by simpa using hk
      simp only [Tbl.del, List.filter_cons, h', if_true, Tbl.get?]
      split
      · rfl
      · exact ih

@[simp] theorem Tbl.getD_put {α : Type} (t : Tbl α) (i : Nat) (a d : α) : Tbl.getD (Tbl.put t i a) i d = a := by simp [Tbl.getD]
@[simp] theorem Tbl.getD_put_of_ne {α : Type} (t : Tbl α) {i j : Nat} (a d : α) (h : j ≠ i) :
    Tbl.getD (Tbl.put t i a) j d = Tbl.getD t j d := by simp [Tbl.getD, h]
@[simp] theorem Tbl.getD_del {α : Type} (t : Tbl α) (i : Nat) (d : α) : Tbl.getD (Tbl.del t i) i d = d := by simp [Tbl.getD]
@[simp] theorem Tbl.getD_del_of_ne {α : Type} (t : Tbl α) {i j : Nat} (d : α) (h : j ≠ i) :
    Tbl.getD (Tbl.del t i) j d = Tbl.getD t j d := by simp [Tbl.getD, h]

/-! ### Little-endian fields -/

@[simp] theorem le_length (n v : Nat) : (le n v).length = n := by
  induction n generalizing v with
  | zero => rfl
  | succ n ih => simp [le, ih]

theorem ofLe_le (n v : Nat) : ofLe (le n v) = v % 256 ^ n := by
  induction n generalizing v with
  | zero => simp [le, ofLe, Nat.mod_one]
  | succ n ih =>
    simp only [le, ofLe, ih, BitVec.toNat_ofNat]
    rw [show 256 ^ (n + 1) = 256 * 256 ^ n from by rw [Nat.pow_succ, Nat.mul_comm], Nat.mod_mul]

/-- A field that stands at an offset is read back. -/
theorem rd_append (a b : List Byte) (n v : Nat) (h : v < 256 ^ n) : rd (a ++ le n v ++ b) a.length n = v := by
  simp [rd, ofLe_le, Nat.mod_eq_of_lt h]

/-- The same with the offset as a hypothesis. -/
theorem rd_field {bs a b : List Byte} {o n v : Nat} (hb : bs = a ++ le n v ++ b) (ho : o = a.length) (h : v < 256 ^ n) :
    rd bs o n = v := by subst hb; subst ho; exact rd_append a b n v h

end Sys2Proof.Machine
end

