-- ==== Sys2Proof/Laws/State.lean ====
section
/-! SUPPORT. One lemma per field per named update of the state: the fields that the update leaves, and what it puts where. -/
namespace Sys2Proof.Machine

/-! ### setPort -/

@[simp] theorem State.setPort_variant (s : State) (p : Nat) (x : Port) : (s.setPort p x).variant = s.variant := rfl
@[simp] theorem State.setPort_manager (s : State) (p : Nat) (x : Port) : (s.setPort p x).manager = s.manager := rfl
@[simp] theorem State.setPort_tt (s : State) (p : Nat) (x : Port) : (s.setPort p x).tt = s.tt := rfl
@[simp] theorem State.setPort_jn (s : State) (p : Nat) (x : Port) : (s.setPort p x).jn = s.jn := rfl
@[simp] theorem State.setPort_sb (s : State) (p : Nat) (x : Port) : (s.setPort p x).sb = s.sb := rfl
@[simp] theorem State.setPort_hostPorts (s : State) (p : Nat) (x : Port) : (s.setPort p x).hostPorts = s.hostPorts := rfl
@[simp] theorem State.setPort_atts (s : State) (p : Nat) (x : Port) : (s.setPort p x).atts = s.atts := rfl
@[simp] theorem State.setPort_fns (s : State) (p : Nat) (x : Port) : (s.setPort p x).fns = s.fns := rfl
@[simp] theorem State.setPort_gens (s : State) (p : Nat) (x : Port) : (s.setPort p x).gens = s.gens := rfl
@[simp] theorem State.setPort_engines (s : State) (p : Nat) (x : Port) : (s.setPort p x).engines = s.engines := rfl
@[simp] theorem State.setPort_ops (s : State) (p : Nat) (x : Port) : (s.setPort p x).ops = s.ops := rfl
@[simp] theorem State.setPort_reuse (s : State) (p : Nat) (x : Port) : (s.setPort p x).reuse = s.reuse := rfl
@[simp] theorem State.setPort_matching (s : State) (p : Nat) (x : Port) : (s.setPort p x).matching = s.matching := rfl
@[simp] theorem State.setPort_cs (s : State) (p : Nat) (x : Port) : (s.setPort p x).cs = s.cs := rfl
@[simp] theorem State.setPort_dma (s : State) (p : Nat) (x : Port) : (s.setPort p x).dma = s.dma := rfl
@[simp] theorem State.setPort_nextDma (s : State) (p : Nat) (x : Port) : (s.setPort p x).nextDma = s.nextDma := rfl
@[simp] theorem State.setPort_wu (s : State) (p : Nat) (x : Port) : (s.setPort p x).wu = s.wu := rfl
@[simp] theorem State.setPort_rh (s : State) (p : Nat) (x : Port) : (s.setPort p x).rh = s.rh := rfl
@[simp] theorem State.setPort_elideEn (s : State) (p : Nat) (x : Port) : (s.setPort p x).elideEn = s.elideEn := rfl
@[simp] theorem State.setPort_tk (s : State) (p : Nat) (x : Port) : (s.setPort p x).tk = s.tk := rfl
@[simp] theorem State.setPort_cc (s : State) (p : Nat) (x : Port) : (s.setPort p x).cc = s.cc := rfl
@[simp] theorem State.setPort_fc (s : State) (p : Nat) (x : Port) : (s.setPort p x).fc = s.fc := rfl
@[simp] theorem State.setPort_rst (s : State) (p : Nat) (x : Port) : (s.setPort p x).rst = s.rst := rfl
@[simp] theorem State.setPort_jr (s : State) (p : Nat) (x : Port) : (s.setPort p x).jr = s.jr := rfl
@[simp] theorem State.setPort_sensors (s : State) (p : Nat) (x : Port) : (s.setPort p x).sensors = s.sensors := rfl
@[simp] theorem State.setPort_avsTarget (s : State) (p : Nat) (x : Port) : (s.setPort p x).avsTarget = s.avsTarget := rfl
@[simp] theorem State.setPort_avsStopped (s : State) (p : Nat) (x : Port) : (s.setPort p x).avsStopped = s.avsStopped := rfl
@[simp] theorem State.setPort_avsAt (s : State) (p : Nat) (x : Port) : (s.setPort p x).avsAt = s.avsAt := rfl
@[simp] theorem State.setPort_minVer (s : State) (p : Nat) (x : Port) : (s.setPort p x).minVer = s.minVer := rfl
@[simp] theorem State.setPort_ctr (s : State) (p : Nat) (x : Port) : (s.setPort p x).ctr = s.ctr := rfl
@[simp] theorem State.setPort_sat (s : State) (p : Nat) (x : Port) : (s.setPort p x).sat = s.sat := rfl
@[simp] theorem State.setPort_latch (s : State) (p : Nat) (x : Port) : (s.setPort p x).latch = s.latch := rfl
@[simp] theorem State.setPort_freeCount (s : State) (p : Nat) (x : Port) : (s.setPort p x).freeCount = s.freeCount := rfl
@[simp] theorem State.setPort_freeBase (s : State) (p : Nat) (x : Port) : (s.setPort p x).freeBase = s.freeBase := rfl
@[simp] theorem State.setPort_out (s : State) (p : Nat) (x : Port) : (s.setPort p x).out = s.out := rfl
@[simp] theorem State.setPort_pending (s : State) (p : Nat) (x : Port) : (s.setPort p x).pending = s.pending := rfl

/-! ### setEngine -/

@[simp] theorem State.setEngine_variant (s : State) (n : Nat) (x : Engine) : (s.setEngine n x).variant = s.variant := rfl
@[simp] theorem State.setEngine_manager (s : State) (n : Nat) (x : Engine) : (s.setEngine n x).manager = s.manager := rfl
@[simp] theorem State.setEngine_tt (s : State) (n : Nat) (x : Engine) : (s.setEngine n x).tt = s.tt := rfl
@[simp] theorem State.setEngine_ports (s : State) (n : Nat) (x : Engine) : (s.setEngine n x).ports = s.ports := rfl
@[simp] theorem State.setEngine_jn (s : State) (n : Nat) (x : Engine) : (s.setEngine n x).jn = s.jn := rfl
@[simp] theorem State.setEngine_sb (s : State) (n : Nat) (x : Engine) : (s.setEngine n x).sb = s.sb := rfl
@[simp] theorem State.setEngine_hostPorts (s : State) (n : Nat) (x : Engine) : (s.setEngine n x).hostPorts = s.hostPorts := rfl
@[simp] theorem State.setEngine_atts (s : State) (n : Nat) (x : Engine) : (s.setEngine n x).atts = s.atts := rfl
@[simp] theorem State.setEngine_fns (s : State) (n : Nat) (x : Engine) : (s.setEngine n x).fns = s.fns := rfl
@[simp] theorem State.setEngine_gens (s : State) (n : Nat) (x : Engine) : (s.setEngine n x).gens = s.gens := rfl
@[simp] theorem State.setEngine_ops (s : State) (n : Nat) (x : Engine) : (s.setEngine n x).ops = s.ops := rfl
@[simp] theorem State.setEngine_reuse (s : State) (n : Nat) (x : Engine) : (s.setEngine n x).reuse = s.reuse := rfl
@[simp] theorem State.setEngine_matching (s : State) (n : Nat) (x : Engine) : (s.setEngine n x).matching = s.matching := rfl
@[simp] theorem State.setEngine_cs (s : State) (n : Nat) (x : Engine) : (s.setEngine n x).cs = s.cs := rfl
@[simp] theorem State.setEngine_dma (s : State) (n : Nat) (x : Engine) : (s.setEngine n x).dma = s.dma := rfl
@[simp] theorem State.setEngine_nextDma (s : State) (n : Nat) (x : Engine) : (s.setEngine n x).nextDma = s.nextDma := rfl
@[simp] theorem State.setEngine_wu (s : State) (n : Nat) (x : Engine) : (s.setEngine n x).wu = s.wu := rfl
@[simp] theorem State.setEngine_rh (s : State) (n : Nat) (x : Engine) : (s.setEngine n x).rh = s.rh := rfl
@[simp] theorem State.setEngine_elideEn (s : State) (n : Nat) (x : Engine) : (s.setEngine n x).elideEn = s.elideEn := rfl
@[simp] theorem State.setEngine_tk (s : State) (n : Nat) (x : Engine) : (s.setEngine n x).tk = s.tk := rfl
@[simp] theorem State.setEngine_cc (s : State) (n : Nat) (x : Engine) : (s.setEngine n x).cc = s.cc := rfl
@[simp] theorem State.setEngine_fc (s : State) (n : Nat) (x : Engine) : (s.setEngine n x).fc = s.fc := rfl
@[simp] theorem State.setEngine_rst (s : State) (n : Nat) (x : Engine) : (s.setEngine n x).rst = s.rst := rfl
@[simp] theorem State.setEngine_jr (s : State) (n : Nat) (x : Engine) : (s.setEngine n x).jr = s.jr := rfl
@[simp] theorem State.setEngine_sensors (s : State) (n : Nat) (x : Engine) : (s.setEngine n x).sensors = s.sensors := rfl
@[simp] theorem State.setEngine_avsTarget (s : State) (n : Nat) (x : Engine) : (s.setEngine n x).avsTarget = s.avsTarget := rfl
@[simp] theorem State.setEngine_avsStopped (s : State) (n : Nat) (x : Engine) : (s.setEngine n x).avsStopped = s.avsStopped := rfl
@[simp] theorem State.setEngine_avsAt (s : State) (n : Nat) (x : Engine) : (s.setEngine n x).avsAt = s.avsAt := rfl
@[simp] theorem State.setEngine_minVer (s : State) (n : Nat) (x : Engine) : (s.setEngine n x).minVer = s.minVer := rfl
@[simp] theorem State.setEngine_ctr (s : State) (n : Nat) (x : Engine) : (s.setEngine n x).ctr = s.ctr := rfl
@[simp] theorem State.setEngine_sat (s : State) (n : Nat) (x : Engine) : (s.setEngine n x).sat = s.sat := rfl
@[simp] theorem State.setEngine_latch (s : State) (n : Nat) (x : Engine) : (s.setEngine n x).latch = s.latch := rfl
@[simp] theorem State.setEngine_freeCount (s : State) (n : Nat) (x : Engine) : (s.setEngine n x).freeCount = s.freeCount := rfl
@[simp] theorem State.setEngine_freeBase (s : State) (n : Nat) (x : Engine) : (s.setEngine n x).freeBase = s.freeBase := rfl
@[simp] theorem State.setEngine_out (s : State) (n : Nat) (x : Engine) : (s.setEngine n x).out = s.out := rfl
@[simp] theorem State.setEngine_pending (s : State) (n : Nat) (x : Engine) : (s.setEngine n x).pending = s.pending := rfl

/-! ### setEgress -/

@[simp] theorem State.setEgress_variant (s : State) (e : Nat) (x : Egress) : (s.setEgress e x).variant = s.variant := rfl
@[simp] theorem State.setEgress_manager (s : State) (e : Nat) (x : Egress) : (s.setEgress e x).manager = s.manager := rfl
@[simp] theorem State.setEgress_tt (s : State) (e : Nat) (x : Egress) : (s.setEgress e x).tt = s.tt := rfl
@[simp] theorem State.setEgress_ports (s : State) (e : Nat) (x : Egress) : (s.setEgress e x).ports = s.ports := rfl
@[simp] theorem State.setEgress_jn (s : State) (e : Nat) (x : Egress) : (s.setEgress e x).jn = s.jn := rfl
@[simp] theorem State.setEgress_hostPorts (s : State) (e : Nat) (x : Egress) : (s.setEgress e x).hostPorts = s.hostPorts := rfl
@[simp] theorem State.setEgress_atts (s : State) (e : Nat) (x : Egress) : (s.setEgress e x).atts = s.atts := rfl
@[simp] theorem State.setEgress_fns (s : State) (e : Nat) (x : Egress) : (s.setEgress e x).fns = s.fns := rfl
@[simp] theorem State.setEgress_gens (s : State) (e : Nat) (x : Egress) : (s.setEgress e x).gens = s.gens := rfl
@[simp] theorem State.setEgress_engines (s : State) (e : Nat) (x : Egress) : (s.setEgress e x).engines = s.engines := rfl
@[simp] theorem State.setEgress_ops (s : State) (e : Nat) (x : Egress) : (s.setEgress e x).ops = s.ops := rfl
@[simp] theorem State.setEgress_reuse (s : State) (e : Nat) (x : Egress) : (s.setEgress e x).reuse = s.reuse := rfl
@[simp] theorem State.setEgress_matching (s : State) (e : Nat) (x : Egress) : (s.setEgress e x).matching = s.matching := rfl
@[simp] theorem State.setEgress_cs (s : State) (e : Nat) (x : Egress) : (s.setEgress e x).cs = s.cs := rfl
@[simp] theorem State.setEgress_dma (s : State) (e : Nat) (x : Egress) : (s.setEgress e x).dma = s.dma := rfl
@[simp] theorem State.setEgress_nextDma (s : State) (e : Nat) (x : Egress) : (s.setEgress e x).nextDma = s.nextDma := rfl
@[simp] theorem State.setEgress_wu (s : State) (e : Nat) (x : Egress) : (s.setEgress e x).wu = s.wu := rfl
@[simp] theorem State.setEgress_rh (s : State) (e : Nat) (x : Egress) : (s.setEgress e x).rh = s.rh := rfl
@[simp] theorem State.setEgress_elideEn (s : State) (e : Nat) (x : Egress) : (s.setEgress e x).elideEn = s.elideEn := rfl
@[simp] theorem State.setEgress_tk (s : State) (e : Nat) (x : Egress) : (s.setEgress e x).tk = s.tk := rfl
@[simp] theorem State.setEgress_cc (s : State) (e : Nat) (x : Egress) : (s.setEgress e x).cc = s.cc := rfl
@[simp] theorem State.setEgress_fc (s : State) (e : Nat) (x : Egress) : (s.setEgress e x).fc = s.fc := rfl
@[simp] theorem State.setEgress_rst (s : State) (e : Nat) (x : Egress) : (s.setEgress e x).rst = s.rst := rfl
@[simp] theorem State.setEgress_jr (s : State) (e : Nat) (x : Egress) : (s.setEgress e x).jr = s.jr := rfl
@[simp] theorem State.setEgress_sensors (s : State) (e : Nat) (x : Egress) : (s.setEgress e x).sensors = s.sensors := rfl
@[simp] theorem State.setEgress_avsTarget (s : State) (e : Nat) (x : Egress) : (s.setEgress e x).avsTarget = s.avsTarget := rfl
@[simp] theorem State.setEgress_avsStopped (s : State) (e : Nat) (x : Egress) : (s.setEgress e x).avsStopped = s.avsStopped := rfl
@[simp] theorem State.setEgress_avsAt (s : State) (e : Nat) (x : Egress) : (s.setEgress e x).avsAt = s.avsAt := rfl
@[simp] theorem State.setEgress_minVer (s : State) (e : Nat) (x : Egress) : (s.setEgress e x).minVer = s.minVer := rfl
@[simp] theorem State.setEgress_ctr (s : State) (e : Nat) (x : Egress) : (s.setEgress e x).ctr = s.ctr := rfl
@[simp] theorem State.setEgress_sat (s : State) (e : Nat) (x : Egress) : (s.setEgress e x).sat = s.sat := rfl
@[simp] theorem State.setEgress_latch (s : State) (e : Nat) (x : Egress) : (s.setEgress e x).latch = s.latch := rfl
@[simp] theorem State.setEgress_freeCount (s : State) (e : Nat) (x : Egress) : (s.setEgress e x).freeCount = s.freeCount := rfl
@[simp] theorem State.setEgress_freeBase (s : State) (e : Nat) (x : Egress) : (s.setEgress e x).freeBase = s.freeBase := rfl
@[simp] theorem State.setEgress_out (s : State) (e : Nat) (x : Egress) : (s.setEgress e x).out = s.out := rfl
@[simp] theorem State.setEgress_pending (s : State) (e : Nat) (x : Egress) : (s.setEgress e x).pending = s.pending := rfl

/-! ### setHostPort -/

@[simp] theorem State.setHostPort_variant (s : State) (p : Nat) (x : HostPort) : (s.setHostPort p x).variant = s.variant := rfl
@[simp] theorem State.setHostPort_manager (s : State) (p : Nat) (x : HostPort) : (s.setHostPort p x).manager = s.manager := rfl
@[simp] theorem State.setHostPort_tt (s : State) (p : Nat) (x : HostPort) : (s.setHostPort p x).tt = s.tt := rfl
@[simp] theorem State.setHostPort_ports (s : State) (p : Nat) (x : HostPort) : (s.setHostPort p x).ports = s.ports := rfl
@[simp] theorem State.setHostPort_jn (s : State) (p : Nat) (x : HostPort) : (s.setHostPort p x).jn = s.jn := rfl
@[simp] theorem State.setHostPort_sb (s : State) (p : Nat) (x : HostPort) : (s.setHostPort p x).sb = s.sb := rfl
@[simp] theorem State.setHostPort_atts (s : State) (p : Nat) (x : HostPort) : (s.setHostPort p x).atts = s.atts := rfl
@[simp] theorem State.setHostPort_fns (s : State) (p : Nat) (x : HostPort) : (s.setHostPort p x).fns = s.fns := rfl
@[simp] theorem State.setHostPort_gens (s : State) (p : Nat) (x : HostPort) : (s.setHostPort p x).gens = s.gens := rfl
@[simp] theorem State.setHostPort_engines (s : State) (p : Nat) (x : HostPort) : (s.setHostPort p x).engines = s.engines := rfl
@[simp] theorem State.setHostPort_ops (s : State) (p : Nat) (x : HostPort) : (s.setHostPort p x).ops = s.ops := rfl
@[simp] theorem State.setHostPort_reuse (s : State) (p : Nat) (x : HostPort) : (s.setHostPort p x).reuse = s.reuse := rfl
@[simp] theorem State.setHostPort_matching (s : State) (p : Nat) (x : HostPort) : (s.setHostPort p x).matching = s.matching := rfl
@[simp] theorem State.setHostPort_cs (s : State) (p : Nat) (x : HostPort) : (s.setHostPort p x).cs = s.cs := rfl
@[simp] theorem State.setHostPort_dma (s : State) (p : Nat) (x : HostPort) : (s.setHostPort p x).dma = s.dma := rfl
@[simp] theorem State.setHostPort_nextDma (s : State) (p : Nat) (x : HostPort) : (s.setHostPort p x).nextDma = s.nextDma := rfl
@[simp] theorem State.setHostPort_wu (s : State) (p : Nat) (x : HostPort) : (s.setHostPort p x).wu = s.wu := rfl
@[simp] theorem State.setHostPort_rh (s : State) (p : Nat) (x : HostPort) : (s.setHostPort p x).rh = s.rh := rfl
@[simp] theorem State.setHostPort_elideEn (s : State) (p : Nat) (x : HostPort) : (s.setHostPort p x).elideEn = s.elideEn := rfl
@[simp] theorem State.setHostPort_tk (s : State) (p : Nat) (x : HostPort) : (s.setHostPort p x).tk = s.tk := rfl
@[simp] theorem State.setHostPort_cc (s : State) (p : Nat) (x : HostPort) : (s.setHostPort p x).cc = s.cc := rfl
@[simp] theorem State.setHostPort_fc (s : State) (p : Nat) (x : HostPort) : (s.setHostPort p x).fc = s.fc := rfl
@[simp] theorem State.setHostPort_rst (s : State) (p : Nat) (x : HostPort) : (s.setHostPort p x).rst = s.rst := rfl
@[simp] theorem State.setHostPort_jr (s : State) (p : Nat) (x : HostPort) : (s.setHostPort p x).jr = s.jr := rfl
@[simp] theorem State.setHostPort_sensors (s : State) (p : Nat) (x : HostPort) : (s.setHostPort p x).sensors = s.sensors := rfl
@[simp] theorem State.setHostPort_avsTarget (s : State) (p : Nat) (x : HostPort) : (s.setHostPort p x).avsTarget = s.avsTarget := rfl
@[simp] theorem State.setHostPort_avsStopped (s : State) (p : Nat) (x : HostPort) : (s.setHostPort p x).avsStopped = s.avsStopped := rfl
@[simp] theorem State.setHostPort_avsAt (s : State) (p : Nat) (x : HostPort) : (s.setHostPort p x).avsAt = s.avsAt := rfl
@[simp] theorem State.setHostPort_minVer (s : State) (p : Nat) (x : HostPort) : (s.setHostPort p x).minVer = s.minVer := rfl
@[simp] theorem State.setHostPort_ctr (s : State) (p : Nat) (x : HostPort) : (s.setHostPort p x).ctr = s.ctr := rfl
@[simp] theorem State.setHostPort_sat (s : State) (p : Nat) (x : HostPort) : (s.setHostPort p x).sat = s.sat := rfl
@[simp] theorem State.setHostPort_latch (s : State) (p : Nat) (x : HostPort) : (s.setHostPort p x).latch = s.latch := rfl
@[simp] theorem State.setHostPort_freeCount (s : State) (p : Nat) (x : HostPort) : (s.setHostPort p x).freeCount = s.freeCount := rfl
@[simp] theorem State.setHostPort_freeBase (s : State) (p : Nat) (x : HostPort) : (s.setHostPort p x).freeBase = s.freeBase := rfl
@[simp] theorem State.setHostPort_out (s : State) (p : Nat) (x : HostPort) : (s.setHostPort p x).out = s.out := rfl
@[simp] theorem State.setHostPort_pending (s : State) (p : Nat) (x : HostPort) : (s.setHostPort p x).pending = s.pending := rfl

/-! ### setAtt -/

@[simp] theorem State.setAtt_variant (s : State) (a : Nat) (x : Att) : (s.setAtt a x).variant = s.variant := rfl
@[simp] theorem State.setAtt_manager (s : State) (a : Nat) (x : Att) : (s.setAtt a x).manager = s.manager := rfl
@[simp] theorem State.setAtt_tt (s : State) (a : Nat) (x : Att) : (s.setAtt a x).tt = s.tt := rfl
@[simp] theorem State.setAtt_ports (s : State) (a : Nat) (x : Att) : (s.setAtt a x).ports = s.ports := rfl
@[simp] theorem State.setAtt_jn (s : State) (a : Nat) (x : Att) : (s.setAtt a x).jn = s.jn := rfl
@[simp] theorem State.setAtt_sb (s : State) (a : Nat) (x : Att) : (s.setAtt a x).sb = s.sb := rfl
@[simp] theorem State.setAtt_hostPorts (s : State) (a : Nat) (x : Att) : (s.setAtt a x).hostPorts = s.hostPorts := rfl
@[simp] theorem State.setAtt_fns (s : State) (a : Nat) (x : Att) : (s.setAtt a x).fns = s.fns := rfl
@[simp] theorem State.setAtt_gens (s : State) (a : Nat) (x : Att) : (s.setAtt a x).gens = s.gens := rfl
@[simp] theorem State.setAtt_engines (s : State) (a : Nat) (x : Att) : (s.setAtt a x).engines = s.engines := rfl
@[simp] theorem State.setAtt_ops (s : State) (a : Nat) (x : Att) : (s.setAtt a x).ops = s.ops := rfl
@[simp] theorem State.setAtt_reuse (s : State) (a : Nat) (x : Att) : (s.setAtt a x).reuse = s.reuse := rfl
@[simp] theorem State.setAtt_matching (s : State) (a : Nat) (x : Att) : (s.setAtt a x).matching = s.matching := rfl
@[simp] theorem State.setAtt_cs (s : State) (a : Nat) (x : Att) : (s.setAtt a x).cs = s.cs := rfl
@[simp] theorem State.setAtt_dma (s : State) (a : Nat) (x : Att) : (s.setAtt a x).dma = s.dma := rfl
@[simp] theorem State.setAtt_nextDma (s : State) (a : Nat) (x : Att) : (s.setAtt a x).nextDma = s.nextDma := rfl
@[simp] theorem State.setAtt_wu (s : State) (a : Nat) (x : Att) : (s.setAtt a x).wu = s.wu := rfl
@[simp] theorem State.setAtt_rh (s : State) (a : Nat) (x : Att) : (s.setAtt a x).rh = s.rh := rfl
@[simp] theorem State.setAtt_elideEn (s : State) (a : Nat) (x : Att) : (s.setAtt a x).elideEn = s.elideEn := rfl
@[simp] theorem State.setAtt_tk (s : State) (a : Nat) (x : Att) : (s.setAtt a x).tk = s.tk := rfl
@[simp] theorem State.setAtt_cc (s : State) (a : Nat) (x : Att) : (s.setAtt a x).cc = s.cc := rfl
@[simp] theorem State.setAtt_fc (s : State) (a : Nat) (x : Att) : (s.setAtt a x).fc = s.fc := rfl
@[simp] theorem State.setAtt_rst (s : State) (a : Nat) (x : Att) : (s.setAtt a x).rst = s.rst := rfl
@[simp] theorem State.setAtt_jr (s : State) (a : Nat) (x : Att) : (s.setAtt a x).jr = s.jr := rfl
@[simp] theorem State.setAtt_sensors (s : State) (a : Nat) (x : Att) : (s.setAtt a x).sensors = s.sensors := rfl
@[simp] theorem State.setAtt_avsTarget (s : State) (a : Nat) (x : Att) : (s.setAtt a x).avsTarget = s.avsTarget := rfl
@[simp] theorem State.setAtt_avsStopped (s : State) (a : Nat) (x : Att) : (s.setAtt a x).avsStopped = s.avsStopped := rfl
@[simp] theorem State.setAtt_avsAt (s : State) (a : Nat) (x : Att) : (s.setAtt a x).avsAt = s.avsAt := rfl
@[simp] theorem State.setAtt_minVer (s : State) (a : Nat) (x : Att) : (s.setAtt a x).minVer = s.minVer := rfl
@[simp] theorem State.setAtt_ctr (s : State) (a : Nat) (x : Att) : (s.setAtt a x).ctr = s.ctr := rfl
@[simp] theorem State.setAtt_sat (s : State) (a : Nat) (x : Att) : (s.setAtt a x).sat = s.sat := rfl
@[simp] theorem State.setAtt_latch (s : State) (a : Nat) (x : Att) : (s.setAtt a x).latch = s.latch := rfl
@[simp] theorem State.setAtt_freeCount (s : State) (a : Nat) (x : Att) : (s.setAtt a x).freeCount = s.freeCount := rfl
@[simp] theorem State.setAtt_freeBase (s : State) (a : Nat) (x : Att) : (s.setAtt a x).freeBase = s.freeBase := rfl
@[simp] theorem State.setAtt_out (s : State) (a : Nat) (x : Att) : (s.setAtt a x).out = s.out := rfl
@[simp] theorem State.setAtt_pending (s : State) (a : Nat) (x : Att) : (s.setAtt a x).pending = s.pending := rfl

/-! ### setFn -/

@[simp] theorem State.setFn_variant (s : State) (f : Nat) (x : Fn) : (s.setFn f x).variant = s.variant := rfl
@[simp] theorem State.setFn_manager (s : State) (f : Nat) (x : Fn) : (s.setFn f x).manager = s.manager := rfl
@[simp] theorem State.setFn_tt (s : State) (f : Nat) (x : Fn) : (s.setFn f x).tt = s.tt := rfl
@[simp] theorem State.setFn_ports (s : State) (f : Nat) (x : Fn) : (s.setFn f x).ports = s.ports := rfl
@[simp] theorem State.setFn_jn (s : State) (f : Nat) (x : Fn) : (s.setFn f x).jn = s.jn := rfl
@[simp] theorem State.setFn_sb (s : State) (f : Nat) (x : Fn) : (s.setFn f x).sb = s.sb := rfl
@[simp] theorem State.setFn_hostPorts (s : State) (f : Nat) (x : Fn) : (s.setFn f x).hostPorts = s.hostPorts := rfl
@[simp] theorem State.setFn_atts (s : State) (f : Nat) (x : Fn) : (s.setFn f x).atts = s.atts := rfl
@[simp] theorem State.setFn_gens (s : State) (f : Nat) (x : Fn) : (s.setFn f x).gens = s.gens := rfl
@[simp] theorem State.setFn_engines (s : State) (f : Nat) (x : Fn) : (s.setFn f x).engines = s.engines := rfl
@[simp] theorem State.setFn_ops (s : State) (f : Nat) (x : Fn) : (s.setFn f x).ops = s.ops := rfl
@[simp] theorem State.setFn_reuse (s : State) (f : Nat) (x : Fn) : (s.setFn f x).reuse = s.reuse := rfl
@[simp] theorem State.setFn_matching (s : State) (f : Nat) (x : Fn) : (s.setFn f x).matching = s.matching := rfl
@[simp] theorem State.setFn_cs (s : State) (f : Nat) (x : Fn) : (s.setFn f x).cs = s.cs := rfl
@[simp] theorem State.setFn_dma (s : State) (f : Nat) (x : Fn) : (s.setFn f x).dma = s.dma := rfl
@[simp] theorem State.setFn_nextDma (s : State) (f : Nat) (x : Fn) : (s.setFn f x).nextDma = s.nextDma := rfl
@[simp] theorem State.setFn_wu (s : State) (f : Nat) (x : Fn) : (s.setFn f x).wu = s.wu := rfl
@[simp] theorem State.setFn_rh (s : State) (f : Nat) (x : Fn) : (s.setFn f x).rh = s.rh := rfl
@[simp] theorem State.setFn_elideEn (s : State) (f : Nat) (x : Fn) : (s.setFn f x).elideEn = s.elideEn := rfl
@[simp] theorem State.setFn_tk (s : State) (f : Nat) (x : Fn) : (s.setFn f x).tk = s.tk := rfl
@[simp] theorem State.setFn_cc (s : State) (f : Nat) (x : Fn) : (s.setFn f x).cc = s.cc := rfl
@[simp] theorem State.setFn_fc (s : State) (f : Nat) (x : Fn) : (s.setFn f x).fc = s.fc := rfl
@[simp] theorem State.setFn_rst (s : State) (f : Nat) (x : Fn) : (s.setFn f x).rst = s.rst := rfl
@[simp] theorem State.setFn_jr (s : State) (f : Nat) (x : Fn) : (s.setFn f x).jr = s.jr := rfl
@[simp] theorem State.setFn_sensors (s : State) (f : Nat) (x : Fn) : (s.setFn f x).sensors = s.sensors := rfl
@[simp] theorem State.setFn_avsTarget (s : State) (f : Nat) (x : Fn) : (s.setFn f x).avsTarget = s.avsTarget := rfl
@[simp] theorem State.setFn_avsStopped (s : State) (f : Nat) (x : Fn) : (s.setFn f x).avsStopped = s.avsStopped := rfl
@[simp] theorem State.setFn_avsAt (s : State) (f : Nat) (x : Fn) : (s.setFn f x).avsAt = s.avsAt := rfl
@[simp] theorem State.setFn_minVer (s : State) (f : Nat) (x : Fn) : (s.setFn f x).minVer = s.minVer := rfl
@[simp] theorem State.setFn_ctr (s : State) (f : Nat) (x : Fn) : (s.setFn f x).ctr = s.ctr := rfl
@[simp] theorem State.setFn_sat (s : State) (f : Nat) (x : Fn) : (s.setFn f x).sat = s.sat := rfl
@[simp] theorem State.setFn_latch (s : State) (f : Nat) (x : Fn) : (s.setFn f x).latch = s.latch := rfl
@[simp] theorem State.setFn_freeCount (s : State) (f : Nat) (x : Fn) : (s.setFn f x).freeCount = s.freeCount := rfl
@[simp] theorem State.setFn_freeBase (s : State) (f : Nat) (x : Fn) : (s.setFn f x).freeBase = s.freeBase := rfl
@[simp] theorem State.setFn_out (s : State) (f : Nat) (x : Fn) : (s.setFn f x).out = s.out := rfl
@[simp] theorem State.setFn_pending (s : State) (f : Nat) (x : Fn) : (s.setFn f x).pending = s.pending := rfl

/-! ### modFn -/

@[simp] theorem State.modFn_variant (s : State) (f : Nat) (g : Fn → Fn) : (s.modFn f g).variant = s.variant := rfl
@[simp] theorem State.modFn_manager (s : State) (f : Nat) (g : Fn → Fn) : (s.modFn f g).manager = s.manager := rfl
@[simp] theorem State.modFn_tt (s : State) (f : Nat) (g : Fn → Fn) : (s.modFn f g).tt = s.tt := rfl
@[simp] theorem State.modFn_ports (s : State) (f : Nat) (g : Fn → Fn) : (s.modFn f g).ports = s.ports := rfl
@[simp] theorem State.modFn_jn (s : State) (f : Nat) (g : Fn → Fn) : (s.modFn f g).jn = s.jn := rfl
@[simp] theorem State.modFn_sb (s : State) (f : Nat) (g : Fn → Fn) : (s.modFn f g).sb = s.sb := rfl
@[simp] theorem State.modFn_hostPorts (s : State) (f : Nat) (g : Fn → Fn) : (s.modFn f g).hostPorts = s.hostPorts := rfl
@[simp] theorem State.modFn_atts (s : State) (f : Nat) (g : Fn → Fn) : (s.modFn f g).atts = s.atts := rfl
@[simp] theorem State.modFn_gens (s : State) (f : Nat) (g : Fn → Fn) : (s.modFn f g).gens = s.gens := rfl
@[simp] theorem State.modFn_engines (s : State) (f : Nat) (g : Fn → Fn) : (s.modFn f g).engines = s.engines := rfl
@[simp] theorem State.modFn_ops (s : State) (f : Nat) (g : Fn → Fn) : (s.modFn f g).ops = s.ops := rfl
@[simp] theorem State.modFn_reuse (s : State) (f : Nat) (g : Fn → Fn) : (s.modFn f g).reuse = s.reuse := rfl
@[simp] theorem State.modFn_matching (s : State) (f : Nat) (g : Fn → Fn) : (s.modFn f g).matching = s.matching := rfl
@[simp] theorem State.modFn_cs (s : State) (f : Nat) (g : Fn → Fn) : (s.modFn f g).cs = s.cs := rfl
@[simp] theorem State.modFn_dma (s : State) (f : Nat) (g : Fn → Fn) : (s.modFn f g).dma = s.dma := rfl
@[simp] theorem State.modFn_nextDma (s : State) (f : Nat) (g : Fn → Fn) : (s.modFn f g).nextDma = s.nextDma := rfl
@[simp] theorem State.modFn_wu (s : State) (f : Nat) (g : Fn → Fn) : (s.modFn f g).wu = s.wu := rfl
@[simp] theorem State.modFn_rh (s : State) (f : Nat) (g : Fn → Fn) : (s.modFn f g).rh = s.rh := rfl
@[simp] theorem State.modFn_elideEn (s : State) (f : Nat) (g : Fn → Fn) : (s.modFn f g).elideEn = s.elideEn := rfl
@[simp] theorem State.modFn_tk (s : State) (f : Nat) (g : Fn → Fn) : (s.modFn f g).tk = s.tk := rfl
@[simp] theorem State.modFn_cc (s : State) (f : Nat) (g : Fn → Fn) : (s.modFn f g).cc = s.cc := rfl
@[simp] theorem State.modFn_fc (s : State) (f : Nat) (g : Fn → Fn) : (s.modFn f g).fc = s.fc := rfl
@[simp] theorem State.modFn_rst (s : State) (f : Nat) (g : Fn → Fn) : (s.modFn f g).rst = s.rst := rfl
@[simp] theorem State.modFn_jr (s : State) (f : Nat) (g : Fn → Fn) : (s.modFn f g).jr = s.jr := rfl
@[simp] theorem State.modFn_sensors (s : State) (f : Nat) (g : Fn → Fn) : (s.modFn f g).sensors = s.sensors := rfl
@[simp] theorem State.modFn_avsTarget (s : State) (f : Nat) (g : Fn → Fn) : (s.modFn f g).avsTarget = s.avsTarget := rfl
@[simp] theorem State.modFn_avsStopped (s : State) (f : Nat) (g : Fn → Fn) : (s.modFn f g).avsStopped = s.avsStopped := rfl
@[simp] theorem State.modFn_avsAt (s : State) (f : Nat) (g : Fn → Fn) : (s.modFn f g).avsAt = s.avsAt := rfl
@[simp] theorem State.modFn_minVer (s : State) (f : Nat) (g : Fn → Fn) : (s.modFn f g).minVer = s.minVer := rfl
@[simp] theorem State.modFn_ctr (s : State) (f : Nat) (g : Fn → Fn) : (s.modFn f g).ctr = s.ctr := rfl
@[simp] theorem State.modFn_sat (s : State) (f : Nat) (g : Fn → Fn) : (s.modFn f g).sat = s.sat := rfl
@[simp] theorem State.modFn_latch (s : State) (f : Nat) (g : Fn → Fn) : (s.modFn f g).latch = s.latch := rfl
@[simp] theorem State.modFn_freeCount (s : State) (f : Nat) (g : Fn → Fn) : (s.modFn f g).freeCount = s.freeCount := rfl
@[simp] theorem State.modFn_freeBase (s : State) (f : Nat) (g : Fn → Fn) : (s.modFn f g).freeBase = s.freeBase := rfl
@[simp] theorem State.modFn_out (s : State) (f : Nat) (g : Fn → Fn) : (s.modFn f g).out = s.out := rfl
@[simp] theorem State.modFn_pending (s : State) (f : Nat) (g : Fn → Fn) : (s.modFn f g).pending = s.pending := rfl

/-! ### setOp -/

@[simp] theorem State.setOp_variant (s : State) (k : Nat) (x : Op) : (s.setOp k x).variant = s.variant := rfl
@[simp] theorem State.setOp_manager (s : State) (k : Nat) (x : Op) : (s.setOp k x).manager = s.manager := rfl
@[simp] theorem State.setOp_tt (s : State) (k : Nat) (x : Op) : (s.setOp k x).tt = s.tt := rfl
@[simp] theorem State.setOp_ports (s : State) (k : Nat) (x : Op) : (s.setOp k x).ports = s.ports := rfl
@[simp] theorem State.setOp_jn (s : State) (k : Nat) (x : Op) : (s.setOp k x).jn = s.jn := rfl
@[simp] theorem State.setOp_sb (s : State) (k : Nat) (x : Op) : (s.setOp k x).sb = s.sb := rfl
@[simp] theorem State.setOp_hostPorts (s : State) (k : Nat) (x : Op) : (s.setOp k x).hostPorts = s.hostPorts := rfl
@[simp] theorem State.setOp_atts (s : State) (k : Nat) (x : Op) : (s.setOp k x).atts = s.atts := rfl
@[simp] theorem State.setOp_fns (s : State) (k : Nat) (x : Op) : (s.setOp k x).fns = s.fns := rfl
@[simp] theorem State.setOp_gens (s : State) (k : Nat) (x : Op) : (s.setOp k x).gens = s.gens := rfl
@[simp] theorem State.setOp_engines (s : State) (k : Nat) (x : Op) : (s.setOp k x).engines = s.engines := rfl
@[simp] theorem State.setOp_reuse (s : State) (k : Nat) (x : Op) : (s.setOp k x).reuse = s.reuse := rfl
@[simp] theorem State.setOp_matching (s : State) (k : Nat) (x : Op) : (s.setOp k x).matching = s.matching := rfl
@[simp] theorem State.setOp_cs (s : State) (k : Nat) (x : Op) : (s.setOp k x).cs = s.cs := rfl
@[simp] theorem State.setOp_dma (s : State) (k : Nat) (x : Op) : (s.setOp k x).dma = s.dma := rfl
@[simp] theorem State.setOp_nextDma (s : State) (k : Nat) (x : Op) : (s.setOp k x).nextDma = s.nextDma := rfl
@[simp] theorem State.setOp_wu (s : State) (k : Nat) (x : Op) : (s.setOp k x).wu = s.wu := rfl
@[simp] theorem State.setOp_rh (s : State) (k : Nat) (x : Op) : (s.setOp k x).rh = s.rh := rfl
@[simp] theorem State.setOp_elideEn (s : State) (k : Nat) (x : Op) : (s.setOp k x).elideEn = s.elideEn := rfl
@[simp] theorem State.setOp_tk (s : State) (k : Nat) (x : Op) : (s.setOp k x).tk = s.tk := rfl
@[simp] theorem State.setOp_cc (s : State) (k : Nat) (x : Op) : (s.setOp k x).cc = s.cc := rfl
@[simp] theorem State.setOp_fc (s : State) (k : Nat) (x : Op) : (s.setOp k x).fc = s.fc := rfl
@[simp] theorem State.setOp_rst (s : State) (k : Nat) (x : Op) : (s.setOp k x).rst = s.rst := rfl
@[simp] theorem State.setOp_jr (s : State) (k : Nat) (x : Op) : (s.setOp k x).jr = s.jr := rfl
@[simp] theorem State.setOp_sensors (s : State) (k : Nat) (x : Op) : (s.setOp k x).sensors = s.sensors := rfl
@[simp] theorem State.setOp_avsTarget (s : State) (k : Nat) (x : Op) : (s.setOp k x).avsTarget = s.avsTarget := rfl
@[simp] theorem State.setOp_avsStopped (s : State) (k : Nat) (x : Op) : (s.setOp k x).avsStopped = s.avsStopped := rfl
@[simp] theorem State.setOp_avsAt (s : State) (k : Nat) (x : Op) : (s.setOp k x).avsAt = s.avsAt := rfl
@[simp] theorem State.setOp_minVer (s : State) (k : Nat) (x : Op) : (s.setOp k x).minVer = s.minVer := rfl
@[simp] theorem State.setOp_ctr (s : State) (k : Nat) (x : Op) : (s.setOp k x).ctr = s.ctr := rfl
@[simp] theorem State.setOp_sat (s : State) (k : Nat) (x : Op) : (s.setOp k x).sat = s.sat := rfl
@[simp] theorem State.setOp_latch (s : State) (k : Nat) (x : Op) : (s.setOp k x).latch = s.latch := rfl
@[simp] theorem State.setOp_freeCount (s : State) (k : Nat) (x : Op) : (s.setOp k x).freeCount = s.freeCount := rfl
@[simp] theorem State.setOp_freeBase (s : State) (k : Nat) (x : Op) : (s.setOp k x).freeBase = s.freeBase := rfl
@[simp] theorem State.setOp_out (s : State) (k : Nat) (x : Op) : (s.setOp k x).out = s.out := rfl
@[simp] theorem State.setOp_pending (s : State) (k : Nat) (x : Op) : (s.setOp k x).pending = s.pending := rfl

/-! ### setLists -/

@[simp] theorem State.setLists_variant (s : State) (f : Nat) (m : MatchLists) : (s.setLists f m).variant = s.variant := rfl
@[simp] theorem State.setLists_manager (s : State) (f : Nat) (m : MatchLists) : (s.setLists f m).manager = s.manager := rfl
@[simp] theorem State.setLists_tt (s : State) (f : Nat) (m : MatchLists) : (s.setLists f m).tt = s.tt := rfl
@[simp] theorem State.setLists_ports (s : State) (f : Nat) (m : MatchLists) : (s.setLists f m).ports = s.ports := rfl
@[simp] theorem State.setLists_jn (s : State) (f : Nat) (m : MatchLists) : (s.setLists f m).jn = s.jn := rfl
@[simp] theorem State.setLists_sb (s : State) (f : Nat) (m : MatchLists) : (s.setLists f m).sb = s.sb := rfl
@[simp] theorem State.setLists_hostPorts (s : State) (f : Nat) (m : MatchLists) : (s.setLists f m).hostPorts = s.hostPorts := rfl
@[simp] theorem State.setLists_atts (s : State) (f : Nat) (m : MatchLists) : (s.setLists f m).atts = s.atts := rfl
@[simp] theorem State.setLists_fns (s : State) (f : Nat) (m : MatchLists) : (s.setLists f m).fns = s.fns := rfl
@[simp] theorem State.setLists_gens (s : State) (f : Nat) (m : MatchLists) : (s.setLists f m).gens = s.gens := rfl
@[simp] theorem State.setLists_engines (s : State) (f : Nat) (m : MatchLists) : (s.setLists f m).engines = s.engines := rfl
@[simp] theorem State.setLists_ops (s : State) (f : Nat) (m : MatchLists) : (s.setLists f m).ops = s.ops := rfl
@[simp] theorem State.setLists_reuse (s : State) (f : Nat) (m : MatchLists) : (s.setLists f m).reuse = s.reuse := rfl
@[simp] theorem State.setLists_cs (s : State) (f : Nat) (m : MatchLists) : (s.setLists f m).cs = s.cs := rfl
@[simp] theorem State.setLists_dma (s : State) (f : Nat) (m : MatchLists) : (s.setLists f m).dma = s.dma := rfl
@[simp] theorem State.setLists_nextDma (s : State) (f : Nat) (m : MatchLists) : (s.setLists f m).nextDma = s.nextDma := rfl
@[simp] theorem State.setLists_wu (s : State) (f : Nat) (m : MatchLists) : (s.setLists f m).wu = s.wu := rfl
@[simp] theorem State.setLists_rh (s : State) (f : Nat) (m : MatchLists) : (s.setLists f m).rh = s.rh := rfl
@[simp] theorem State.setLists_elideEn (s : State) (f : Nat) (m : MatchLists) : (s.setLists f m).elideEn = s.elideEn := rfl
@[simp] theorem State.setLists_tk (s : State) (f : Nat) (m : MatchLists) : (s.setLists f m).tk = s.tk := rfl
@[simp] theorem State.setLists_cc (s : State) (f : Nat) (m : MatchLists) : (s.setLists f m).cc = s.cc := rfl
@[simp] theorem State.setLists_fc (s : State) (f : Nat) (m : MatchLists) : (s.setLists f m).fc = s.fc := rfl
@[simp] theorem State.setLists_rst (s : State) (f : Nat) (m : MatchLists) : (s.setLists f m).rst = s.rst := rfl
@[simp] theorem State.setLists_jr (s : State) (f : Nat) (m : MatchLists) : (s.setLists f m).jr = s.jr := rfl
@[simp] theorem State.setLists_sensors (s : State) (f : Nat) (m : MatchLists) : (s.setLists f m).sensors = s.sensors := rfl
@[simp] theorem State.setLists_avsTarget (s : State) (f : Nat) (m : MatchLists) : (s.setLists f m).avsTarget = s.avsTarget := rfl
@[simp] theorem State.setLists_avsStopped (s : State) (f : Nat) (m : MatchLists) : (s.setLists f m).avsStopped = s.avsStopped := rfl
@[simp] theorem State.setLists_avsAt (s : State) (f : Nat) (m : MatchLists) : (s.setLists f m).avsAt = s.avsAt := rfl
@[simp] theorem State.setLists_minVer (s : State) (f : Nat) (m : MatchLists) : (s.setLists f m).minVer = s.minVer := rfl
@[simp] theorem State.setLists_ctr (s : State) (f : Nat) (m : MatchLists) : (s.setLists f m).ctr = s.ctr := rfl
@[simp] theorem State.setLists_sat (s : State) (f : Nat) (m : MatchLists) : (s.setLists f m).sat = s.sat := rfl
@[simp] theorem State.setLists_latch (s : State) (f : Nat) (m : MatchLists) : (s.setLists f m).latch = s.latch := rfl
@[simp] theorem State.setLists_freeCount (s : State) (f : Nat) (m : MatchLists) : (s.setLists f m).freeCount = s.freeCount := rfl
@[simp] theorem State.setLists_freeBase (s : State) (f : Nat) (m : MatchLists) : (s.setLists f m).freeBase = s.freeBase := rfl
@[simp] theorem State.setLists_out (s : State) (f : Nat) (m : MatchLists) : (s.setLists f m).out = s.out := rfl
@[simp] theorem State.setLists_pending (s : State) (f : Nat) (m : MatchLists) : (s.setLists f m).pending = s.pending := rfl

/-! ### setGroup -/

@[simp] theorem State.setGroup_variant (s : State) (g : Nat) (x : Group) : (s.setGroup g x).variant = s.variant := rfl
@[simp] theorem State.setGroup_manager (s : State) (g : Nat) (x : Group) : (s.setGroup g x).manager = s.manager := rfl
@[simp] theorem State.setGroup_tt (s : State) (g : Nat) (x : Group) : (s.setGroup g x).tt = s.tt := rfl
@[simp] theorem State.setGroup_ports (s : State) (g : Nat) (x : Group) : (s.setGroup g x).ports = s.ports := rfl
@[simp] theorem State.setGroup_jn (s : State) (g : Nat) (x : Group) : (s.setGroup g x).jn = s.jn := rfl
@[simp] theorem State.setGroup_sb (s : State) (g : Nat) (x : Group) : (s.setGroup g x).sb = s.sb := rfl
@[simp] theorem State.setGroup_hostPorts (s : State) (g : Nat) (x : Group) : (s.setGroup g x).hostPorts = s.hostPorts := rfl
@[simp] theorem State.setGroup_atts (s : State) (g : Nat) (x : Group) : (s.setGroup g x).atts = s.atts := rfl
@[simp] theorem State.setGroup_fns (s : State) (g : Nat) (x : Group) : (s.setGroup g x).fns = s.fns := rfl
@[simp] theorem State.setGroup_gens (s : State) (g : Nat) (x : Group) : (s.setGroup g x).gens = s.gens := rfl
@[simp] theorem State.setGroup_engines (s : State) (g : Nat) (x : Group) : (s.setGroup g x).engines = s.engines := rfl
@[simp] theorem State.setGroup_ops (s : State) (g : Nat) (x : Group) : (s.setGroup g x).ops = s.ops := rfl
@[simp] theorem State.setGroup_reuse (s : State) (g : Nat) (x : Group) : (s.setGroup g x).reuse = s.reuse := rfl
@[simp] theorem State.setGroup_matching (s : State) (g : Nat) (x : Group) : (s.setGroup g x).matching = s.matching := rfl
@[simp] theorem State.setGroup_cs (s : State) (g : Nat) (x : Group) : (s.setGroup g x).cs = s.cs := rfl
@[simp] theorem State.setGroup_dma (s : State) (g : Nat) (x : Group) : (s.setGroup g x).dma = s.dma := rfl
@[simp] theorem State.setGroup_nextDma (s : State) (g : Nat) (x : Group) : (s.setGroup g x).nextDma = s.nextDma := rfl
@[simp] theorem State.setGroup_wu (s : State) (g : Nat) (x : Group) : (s.setGroup g x).wu = s.wu := rfl
@[simp] theorem State.setGroup_elideEn (s : State) (g : Nat) (x : Group) : (s.setGroup g x).elideEn = s.elideEn := rfl
@[simp] theorem State.setGroup_tk (s : State) (g : Nat) (x : Group) : (s.setGroup g x).tk = s.tk := rfl
@[simp] theorem State.setGroup_cc (s : State) (g : Nat) (x : Group) : (s.setGroup g x).cc = s.cc := rfl
@[simp] theorem State.setGroup_fc (s : State) (g : Nat) (x : Group) : (s.setGroup g x).fc = s.fc := rfl
@[simp] theorem State.setGroup_rst (s : State) (g : Nat) (x : Group) : (s.setGroup g x).rst = s.rst := rfl
@[simp] theorem State.setGroup_jr (s : State) (g : Nat) (x : Group) : (s.setGroup g x).jr = s.jr := rfl
@[simp] theorem State.setGroup_sensors (s : State) (g : Nat) (x : Group) : (s.setGroup g x).sensors = s.sensors := rfl
@[simp] theorem State.setGroup_avsTarget (s : State) (g : Nat) (x : Group) : (s.setGroup g x).avsTarget = s.avsTarget := rfl
@[simp] theorem State.setGroup_avsStopped (s : State) (g : Nat) (x : Group) : (s.setGroup g x).avsStopped = s.avsStopped := rfl
@[simp] theorem State.setGroup_avsAt (s : State) (g : Nat) (x : Group) : (s.setGroup g x).avsAt = s.avsAt := rfl
@[simp] theorem State.setGroup_minVer (s : State) (g : Nat) (x : Group) : (s.setGroup g x).minVer = s.minVer := rfl
@[simp] theorem State.setGroup_ctr (s : State) (g : Nat) (x : Group) : (s.setGroup g x).ctr = s.ctr := rfl
@[simp] theorem State.setGroup_sat (s : State) (g : Nat) (x : Group) : (s.setGroup g x).sat = s.sat := rfl
@[simp] theorem State.setGroup_latch (s : State) (g : Nat) (x : Group) : (s.setGroup g x).latch = s.latch := rfl
@[simp] theorem State.setGroup_freeCount (s : State) (g : Nat) (x : Group) : (s.setGroup g x).freeCount = s.freeCount := rfl
@[simp] theorem State.setGroup_freeBase (s : State) (g : Nat) (x : Group) : (s.setGroup g x).freeBase = s.freeBase := rfl
@[simp] theorem State.setGroup_out (s : State) (g : Nat) (x : Group) : (s.setGroup g x).out = s.out := rfl
@[simp] theorem State.setGroup_pending (s : State) (g : Nat) (x : Group) : (s.setGroup g x).pending = s.pending := rfl

/-! ### setLocal -/

@[simp] theorem State.setLocal_variant (s : State) (t : Nat) (x : LocalToken) : (s.setLocal t x).variant = s.variant := rfl
@[simp] theorem State.setLocal_manager (s : State) (t : Nat) (x : LocalToken) : (s.setLocal t x).manager = s.manager := rfl
@[simp] theorem State.setLocal_tt (s : State) (t : Nat) (x : LocalToken) : (s.setLocal t x).tt = s.tt := rfl
@[simp] theorem State.setLocal_ports (s : State) (t : Nat) (x : LocalToken) : (s.setLocal t x).ports = s.ports := rfl
@[simp] theorem State.setLocal_jn (s : State) (t : Nat) (x : LocalToken) : (s.setLocal t x).jn = s.jn := rfl
@[simp] theorem State.setLocal_sb (s : State) (t : Nat) (x : LocalToken) : (s.setLocal t x).sb = s.sb := rfl
@[simp] theorem State.setLocal_hostPorts (s : State) (t : Nat) (x : LocalToken) : (s.setLocal t x).hostPorts = s.hostPorts := rfl
@[simp] theorem State.setLocal_atts (s : State) (t : Nat) (x : LocalToken) : (s.setLocal t x).atts = s.atts := rfl
@[simp] theorem State.setLocal_fns (s : State) (t : Nat) (x : LocalToken) : (s.setLocal t x).fns = s.fns := rfl
@[simp] theorem State.setLocal_gens (s : State) (t : Nat) (x : LocalToken) : (s.setLocal t x).gens = s.gens := rfl
@[simp] theorem State.setLocal_engines (s : State) (t : Nat) (x : LocalToken) : (s.setLocal t x).engines = s.engines := rfl
@[simp] theorem State.setLocal_ops (s : State) (t : Nat) (x : LocalToken) : (s.setLocal t x).ops = s.ops := rfl
@[simp] theorem State.setLocal_reuse (s : State) (t : Nat) (x : LocalToken) : (s.setLocal t x).reuse = s.reuse := rfl
@[simp] theorem State.setLocal_matching (s : State) (t : Nat) (x : LocalToken) : (s.setLocal t x).matching = s.matching := rfl
@[simp] theorem State.setLocal_cs (s : State) (t : Nat) (x : LocalToken) : (s.setLocal t x).cs = s.cs := rfl
@[simp] theorem State.setLocal_dma (s : State) (t : Nat) (x : LocalToken) : (s.setLocal t x).dma = s.dma := rfl
@[simp] theorem State.setLocal_nextDma (s : State) (t : Nat) (x : LocalToken) : (s.setLocal t x).nextDma = s.nextDma := rfl
@[simp] theorem State.setLocal_wu (s : State) (t : Nat) (x : LocalToken) : (s.setLocal t x).wu = s.wu := rfl
@[simp] theorem State.setLocal_rh (s : State) (t : Nat) (x : LocalToken) : (s.setLocal t x).rh = s.rh := rfl
@[simp] theorem State.setLocal_elideEn (s : State) (t : Nat) (x : LocalToken) : (s.setLocal t x).elideEn = s.elideEn := rfl
@[simp] theorem State.setLocal_cc (s : State) (t : Nat) (x : LocalToken) : (s.setLocal t x).cc = s.cc := rfl
@[simp] theorem State.setLocal_fc (s : State) (t : Nat) (x : LocalToken) : (s.setLocal t x).fc = s.fc := rfl
@[simp] theorem State.setLocal_rst (s : State) (t : Nat) (x : LocalToken) : (s.setLocal t x).rst = s.rst := rfl
@[simp] theorem State.setLocal_jr (s : State) (t : Nat) (x : LocalToken) : (s.setLocal t x).jr = s.jr := rfl
@[simp] theorem State.setLocal_sensors (s : State) (t : Nat) (x : LocalToken) : (s.setLocal t x).sensors = s.sensors := rfl
@[simp] theorem State.setLocal_avsTarget (s : State) (t : Nat) (x : LocalToken) : (s.setLocal t x).avsTarget = s.avsTarget := rfl
@[simp] theorem State.setLocal_avsStopped (s : State) (t : Nat) (x : LocalToken) : (s.setLocal t x).avsStopped = s.avsStopped := rfl
@[simp] theorem State.setLocal_avsAt (s : State) (t : Nat) (x : LocalToken) : (s.setLocal t x).avsAt = s.avsAt := rfl
@[simp] theorem State.setLocal_minVer (s : State) (t : Nat) (x : LocalToken) : (s.setLocal t x).minVer = s.minVer := rfl
@[simp] theorem State.setLocal_ctr (s : State) (t : Nat) (x : LocalToken) : (s.setLocal t x).ctr = s.ctr := rfl
@[simp] theorem State.setLocal_sat (s : State) (t : Nat) (x : LocalToken) : (s.setLocal t x).sat = s.sat := rfl
@[simp] theorem State.setLocal_latch (s : State) (t : Nat) (x : LocalToken) : (s.setLocal t x).latch = s.latch := rfl
@[simp] theorem State.setLocal_freeCount (s : State) (t : Nat) (x : LocalToken) : (s.setLocal t x).freeCount = s.freeCount := rfl
@[simp] theorem State.setLocal_freeBase (s : State) (t : Nat) (x : LocalToken) : (s.setLocal t x).freeBase = s.freeBase := rfl
@[simp] theorem State.setLocal_out (s : State) (t : Nat) (x : LocalToken) : (s.setLocal t x).out = s.out := rfl
@[simp] theorem State.setLocal_pending (s : State) (t : Nat) (x : LocalToken) : (s.setLocal t x).pending = s.pending := rfl

/-! ### setHome -/

@[simp] theorem State.setHome_variant (s : State) (h : Nat) (x : Home) : (s.setHome h x).variant = s.variant := rfl
@[simp] theorem State.setHome_manager (s : State) (h : Nat) (x : Home) : (s.setHome h x).manager = s.manager := rfl
@[simp] theorem State.setHome_tt (s : State) (h : Nat) (x : Home) : (s.setHome h x).tt = s.tt := rfl
@[simp] theorem State.setHome_ports (s : State) (h : Nat) (x : Home) : (s.setHome h x).ports = s.ports := rfl
@[simp] theorem State.setHome_jn (s : State) (h : Nat) (x : Home) : (s.setHome h x).jn = s.jn := rfl
@[simp] theorem State.setHome_sb (s : State) (h : Nat) (x : Home) : (s.setHome h x).sb = s.sb := rfl
@[simp] theorem State.setHome_hostPorts (s : State) (h : Nat) (x : Home) : (s.setHome h x).hostPorts = s.hostPorts := rfl
@[simp] theorem State.setHome_atts (s : State) (h : Nat) (x : Home) : (s.setHome h x).atts = s.atts := rfl
@[simp] theorem State.setHome_fns (s : State) (h : Nat) (x : Home) : (s.setHome h x).fns = s.fns := rfl
@[simp] theorem State.setHome_gens (s : State) (h : Nat) (x : Home) : (s.setHome h x).gens = s.gens := rfl
@[simp] theorem State.setHome_engines (s : State) (h : Nat) (x : Home) : (s.setHome h x).engines = s.engines := rfl
@[simp] theorem State.setHome_ops (s : State) (h : Nat) (x : Home) : (s.setHome h x).ops = s.ops := rfl
@[simp] theorem State.setHome_reuse (s : State) (h : Nat) (x : Home) : (s.setHome h x).reuse = s.reuse := rfl
@[simp] theorem State.setHome_matching (s : State) (h : Nat) (x : Home) : (s.setHome h x).matching = s.matching := rfl
@[simp] theorem State.setHome_cs (s : State) (h : Nat) (x : Home) : (s.setHome h x).cs = s.cs := rfl
@[simp] theorem State.setHome_dma (s : State) (h : Nat) (x : Home) : (s.setHome h x).dma = s.dma := rfl
@[simp] theorem State.setHome_nextDma (s : State) (h : Nat) (x : Home) : (s.setHome h x).nextDma = s.nextDma := rfl
@[simp] theorem State.setHome_wu (s : State) (h : Nat) (x : Home) : (s.setHome h x).wu = s.wu := rfl
@[simp] theorem State.setHome_rh (s : State) (h : Nat) (x : Home) : (s.setHome h x).rh = s.rh := rfl
@[simp] theorem State.setHome_elideEn (s : State) (h : Nat) (x : Home) : (s.setHome h x).elideEn = s.elideEn := rfl
@[simp] theorem State.setHome_cc (s : State) (h : Nat) (x : Home) : (s.setHome h x).cc = s.cc := rfl
@[simp] theorem State.setHome_fc (s : State) (h : Nat) (x : Home) : (s.setHome h x).fc = s.fc := rfl
@[simp] theorem State.setHome_rst (s : State) (h : Nat) (x : Home) : (s.setHome h x).rst = s.rst := rfl
@[simp] theorem State.setHome_jr (s : State) (h : Nat) (x : Home) : (s.setHome h x).jr = s.jr := rfl
@[simp] theorem State.setHome_sensors (s : State) (h : Nat) (x : Home) : (s.setHome h x).sensors = s.sensors := rfl
@[simp] theorem State.setHome_avsTarget (s : State) (h : Nat) (x : Home) : (s.setHome h x).avsTarget = s.avsTarget := rfl
@[simp] theorem State.setHome_avsStopped (s : State) (h : Nat) (x : Home) : (s.setHome h x).avsStopped = s.avsStopped := rfl
@[simp] theorem State.setHome_avsAt (s : State) (h : Nat) (x : Home) : (s.setHome h x).avsAt = s.avsAt := rfl
@[simp] theorem State.setHome_minVer (s : State) (h : Nat) (x : Home) : (s.setHome h x).minVer = s.minVer := rfl
@[simp] theorem State.setHome_ctr (s : State) (h : Nat) (x : Home) : (s.setHome h x).ctr = s.ctr := rfl
@[simp] theorem State.setHome_sat (s : State) (h : Nat) (x : Home) : (s.setHome h x).sat = s.sat := rfl
@[simp] theorem State.setHome_latch (s : State) (h : Nat) (x : Home) : (s.setHome h x).latch = s.latch := rfl
@[simp] theorem State.setHome_freeCount (s : State) (h : Nat) (x : Home) : (s.setHome h x).freeCount = s.freeCount := rfl
@[simp] theorem State.setHome_freeBase (s : State) (h : Nat) (x : Home) : (s.setHome h x).freeBase = s.freeBase := rfl
@[simp] theorem State.setHome_out (s : State) (h : Nat) (x : Home) : (s.setHome h x).out = s.out := rfl
@[simp] theorem State.setHome_pending (s : State) (h : Nat) (x : Home) : (s.setHome h x).pending = s.pending := rfl

/-! ### setLag -/

@[simp] theorem State.setLag_variant (s : State) (i : Nat) (l : Lag) : (s.setLag i l).variant = s.variant := rfl
@[simp] theorem State.setLag_manager (s : State) (i : Nat) (l : Lag) : (s.setLag i l).manager = s.manager := rfl
@[simp] theorem State.setLag_ports (s : State) (i : Nat) (l : Lag) : (s.setLag i l).ports = s.ports := rfl
@[simp] theorem State.setLag_jn (s : State) (i : Nat) (l : Lag) : (s.setLag i l).jn = s.jn := rfl
@[simp] theorem State.setLag_sb (s : State) (i : Nat) (l : Lag) : (s.setLag i l).sb = s.sb := rfl
@[simp] theorem State.setLag_hostPorts (s : State) (i : Nat) (l : Lag) : (s.setLag i l).hostPorts = s.hostPorts := rfl
@[simp] theorem State.setLag_atts (s : State) (i : Nat) (l : Lag) : (s.setLag i l).atts = s.atts := rfl
@[simp] theorem State.setLag_fns (s : State) (i : Nat) (l : Lag) : (s.setLag i l).fns = s.fns := rfl
@[simp] theorem State.setLag_gens (s : State) (i : Nat) (l : Lag) : (s.setLag i l).gens = s.gens := rfl
@[simp] theorem State.setLag_engines (s : State) (i : Nat) (l : Lag) : (s.setLag i l).engines = s.engines := rfl
@[simp] theorem State.setLag_ops (s : State) (i : Nat) (l : Lag) : (s.setLag i l).ops = s.ops := rfl
@[simp] theorem State.setLag_reuse (s : State) (i : Nat) (l : Lag) : (s.setLag i l).reuse = s.reuse := rfl
@[simp] theorem State.setLag_matching (s : State) (i : Nat) (l : Lag) : (s.setLag i l).matching = s.matching := rfl
@[simp] theorem State.setLag_cs (s : State) (i : Nat) (l : Lag) : (s.setLag i l).cs = s.cs := rfl
@[simp] theorem State.setLag_dma (s : State) (i : Nat) (l : Lag) : (s.setLag i l).dma = s.dma := rfl
@[simp] theorem State.setLag_nextDma (s : State) (i : Nat) (l : Lag) : (s.setLag i l).nextDma = s.nextDma := rfl
@[simp] theorem State.setLag_wu (s : State) (i : Nat) (l : Lag) : (s.setLag i l).wu = s.wu := rfl
@[simp] theorem State.setLag_rh (s : State) (i : Nat) (l : Lag) : (s.setLag i l).rh = s.rh := rfl
@[simp] theorem State.setLag_elideEn (s : State) (i : Nat) (l : Lag) : (s.setLag i l).elideEn = s.elideEn := rfl
@[simp] theorem State.setLag_tk (s : State) (i : Nat) (l : Lag) : (s.setLag i l).tk = s.tk := rfl
@[simp] theorem State.setLag_cc (s : State) (i : Nat) (l : Lag) : (s.setLag i l).cc = s.cc := rfl
@[simp] theorem State.setLag_fc (s : State) (i : Nat) (l : Lag) : (s.setLag i l).fc = s.fc := rfl
@[simp] theorem State.setLag_rst (s : State) (i : Nat) (l : Lag) : (s.setLag i l).rst = s.rst := rfl
@[simp] theorem State.setLag_jr (s : State) (i : Nat) (l : Lag) : (s.setLag i l).jr = s.jr := rfl
@[simp] theorem State.setLag_sensors (s : State) (i : Nat) (l : Lag) : (s.setLag i l).sensors = s.sensors := rfl
@[simp] theorem State.setLag_avsTarget (s : State) (i : Nat) (l : Lag) : (s.setLag i l).avsTarget = s.avsTarget := rfl
@[simp] theorem State.setLag_avsStopped (s : State) (i : Nat) (l : Lag) : (s.setLag i l).avsStopped = s.avsStopped := rfl
@[simp] theorem State.setLag_avsAt (s : State) (i : Nat) (l : Lag) : (s.setLag i l).avsAt = s.avsAt := rfl
@[simp] theorem State.setLag_minVer (s : State) (i : Nat) (l : Lag) : (s.setLag i l).minVer = s.minVer := rfl
@[simp] theorem State.setLag_ctr (s : State) (i : Nat) (l : Lag) : (s.setLag i l).ctr = s.ctr := rfl
@[simp] theorem State.setLag_sat (s : State) (i : Nat) (l : Lag) : (s.setLag i l).sat = s.sat := rfl
@[simp] theorem State.setLag_latch (s : State) (i : Nat) (l : Lag) : (s.setLag i l).latch = s.latch := rfl
@[simp] theorem State.setLag_freeCount (s : State) (i : Nat) (l : Lag) : (s.setLag i l).freeCount = s.freeCount := rfl
@[simp] theorem State.setLag_freeBase (s : State) (i : Nat) (l : Lag) : (s.setLag i l).freeBase = s.freeBase := rfl
@[simp] theorem State.setLag_out (s : State) (i : Nat) (l : Lag) : (s.setLag i l).out = s.out := rfl
@[simp] theorem State.setLag_pending (s : State) (i : Nat) (l : Lag) : (s.setLag i l).pending = s.pending := rfl

/-! ### pushChange -/

@[simp] theorem State.pushChange_variant (s : State) (c : SbChange) : (s.pushChange c).variant = s.variant := rfl
@[simp] theorem State.pushChange_manager (s : State) (c : SbChange) : (s.pushChange c).manager = s.manager := rfl
@[simp] theorem State.pushChange_tt (s : State) (c : SbChange) : (s.pushChange c).tt = s.tt := rfl
@[simp] theorem State.pushChange_ports (s : State) (c : SbChange) : (s.pushChange c).ports = s.ports := rfl
@[simp] theorem State.pushChange_jn (s : State) (c : SbChange) : (s.pushChange c).jn = s.jn := rfl
@[simp] theorem State.pushChange_hostPorts (s : State) (c : SbChange) : (s.pushChange c).hostPorts = s.hostPorts := rfl
@[simp] theorem State.pushChange_atts (s : State) (c : SbChange) : (s.pushChange c).atts = s.atts := rfl
@[simp] theorem State.pushChange_fns (s : State) (c : SbChange) : (s.pushChange c).fns = s.fns := rfl
@[simp] theorem State.pushChange_gens (s : State) (c : SbChange) : (s.pushChange c).gens = s.gens := rfl
@[simp] theorem State.pushChange_engines (s : State) (c : SbChange) : (s.pushChange c).engines = s.engines := rfl
@[simp] theorem State.pushChange_ops (s : State) (c : SbChange) : (s.pushChange c).ops = s.ops := rfl
@[simp] theorem State.pushChange_reuse (s : State) (c : SbChange) : (s.pushChange c).reuse = s.reuse := rfl
@[simp] theorem State.pushChange_matching (s : State) (c : SbChange) : (s.pushChange c).matching = s.matching := rfl
@[simp] theorem State.pushChange_cs (s : State) (c : SbChange) : (s.pushChange c).cs = s.cs := rfl
@[simp] theorem State.pushChange_dma (s : State) (c : SbChange) : (s.pushChange c).dma = s.dma := rfl
@[simp] theorem State.pushChange_nextDma (s : State) (c : SbChange) : (s.pushChange c).nextDma = s.nextDma := rfl
@[simp] theorem State.pushChange_wu (s : State) (c : SbChange) : (s.pushChange c).wu = s.wu := rfl
@[simp] theorem State.pushChange_rh (s : State) (c : SbChange) : (s.pushChange c).rh = s.rh := rfl
@[simp] theorem State.pushChange_elideEn (s : State) (c : SbChange) : (s.pushChange c).elideEn = s.elideEn := rfl
@[simp] theorem State.pushChange_tk (s : State) (c : SbChange) : (s.pushChange c).tk = s.tk := rfl
@[simp] theorem State.pushChange_cc (s : State) (c : SbChange) : (s.pushChange c).cc = s.cc := rfl
@[simp] theorem State.pushChange_fc (s : State) (c : SbChange) : (s.pushChange c).fc = s.fc := rfl
@[simp] theorem State.pushChange_rst (s : State) (c : SbChange) : (s.pushChange c).rst = s.rst := rfl
@[simp] theorem State.pushChange_jr (s : State) (c : SbChange) : (s.pushChange c).jr = s.jr := rfl
@[simp] theorem State.pushChange_sensors (s : State) (c : SbChange) : (s.pushChange c).sensors = s.sensors := rfl
@[simp] theorem State.pushChange_avsTarget (s : State) (c : SbChange) : (s.pushChange c).avsTarget = s.avsTarget := rfl
@[simp] theorem State.pushChange_avsStopped (s : State) (c : SbChange) : (s.pushChange c).avsStopped = s.avsStopped := rfl
@[simp] theorem State.pushChange_avsAt (s : State) (c : SbChange) : (s.pushChange c).avsAt = s.avsAt := rfl
@[simp] theorem State.pushChange_minVer (s : State) (c : SbChange) : (s.pushChange c).minVer = s.minVer := rfl
@[simp] theorem State.pushChange_ctr (s : State) (c : SbChange) : (s.pushChange c).ctr = s.ctr := rfl
@[simp] theorem State.pushChange_sat (s : State) (c : SbChange) : (s.pushChange c).sat = s.sat := rfl
@[simp] theorem State.pushChange_latch (s : State) (c : SbChange) : (s.pushChange c).latch = s.latch := rfl
@[simp] theorem State.pushChange_freeCount (s : State) (c : SbChange) : (s.pushChange c).freeCount = s.freeCount := rfl
@[simp] theorem State.pushChange_freeBase (s : State) (c : SbChange) : (s.pushChange c).freeBase = s.freeBase := rfl
@[simp] theorem State.pushChange_out (s : State) (c : SbChange) : (s.pushChange c).out = s.out := rfl
@[simp] theorem State.pushChange_pending (s : State) (c : SbChange) : (s.pushChange c).pending = s.pending := rfl

/-! ### setCounter -/

@[simp] theorem State.setCounter_variant (s : State) (o v : Nat) : (s.setCounter o v).variant = s.variant := rfl
@[simp] theorem State.setCounter_manager (s : State) (o v : Nat) : (s.setCounter o v).manager = s.manager := rfl
@[simp] theorem State.setCounter_tt (s : State) (o v : Nat) : (s.setCounter o v).tt = s.tt := rfl
@[simp] theorem State.setCounter_ports (s : State) (o v : Nat) : (s.setCounter o v).ports = s.ports := rfl
@[simp] theorem State.setCounter_jn (s : State) (o v : Nat) : (s.setCounter o v).jn = s.jn := rfl
@[simp] theorem State.setCounter_sb (s : State) (o v : Nat) : (s.setCounter o v).sb = s.sb := rfl
@[simp] theorem State.setCounter_hostPorts (s : State) (o v : Nat) : (s.setCounter o v).hostPorts = s.hostPorts := rfl
@[simp] theorem State.setCounter_atts (s : State) (o v : Nat) : (s.setCounter o v).atts = s.atts := rfl
@[simp] theorem State.setCounter_fns (s : State) (o v : Nat) : (s.setCounter o v).fns = s.fns := rfl
@[simp] theorem State.setCounter_gens (s : State) (o v : Nat) : (s.setCounter o v).gens = s.gens := rfl
@[simp] theorem State.setCounter_engines (s : State) (o v : Nat) : (s.setCounter o v).engines = s.engines := rfl
@[simp] theorem State.setCounter_ops (s : State) (o v : Nat) : (s.setCounter o v).ops = s.ops := rfl
@[simp] theorem State.setCounter_reuse (s : State) (o v : Nat) : (s.setCounter o v).reuse = s.reuse := rfl
@[simp] theorem State.setCounter_matching (s : State) (o v : Nat) : (s.setCounter o v).matching = s.matching := rfl
@[simp] theorem State.setCounter_cs (s : State) (o v : Nat) : (s.setCounter o v).cs = s.cs := rfl
@[simp] theorem State.setCounter_dma (s : State) (o v : Nat) : (s.setCounter o v).dma = s.dma := rfl
@[simp] theorem State.setCounter_nextDma (s : State) (o v : Nat) : (s.setCounter o v).nextDma = s.nextDma := rfl
@[simp] theorem State.setCounter_wu (s : State) (o v : Nat) : (s.setCounter o v).wu = s.wu := rfl
@[simp] theorem State.setCounter_rh (s : State) (o v : Nat) : (s.setCounter o v).rh = s.rh := rfl
@[simp] theorem State.setCounter_elideEn (s : State) (o v : Nat) : (s.setCounter o v).elideEn = s.elideEn := rfl
@[simp] theorem State.setCounter_tk (s : State) (o v : Nat) : (s.setCounter o v).tk = s.tk := rfl
@[simp] theorem State.setCounter_cc (s : State) (o v : Nat) : (s.setCounter o v).cc = s.cc := rfl
@[simp] theorem State.setCounter_fc (s : State) (o v : Nat) : (s.setCounter o v).fc = s.fc := rfl
@[simp] theorem State.setCounter_rst (s : State) (o v : Nat) : (s.setCounter o v).rst = s.rst := rfl
@[simp] theorem State.setCounter_jr (s : State) (o v : Nat) : (s.setCounter o v).jr = s.jr := rfl
@[simp] theorem State.setCounter_sensors (s : State) (o v : Nat) : (s.setCounter o v).sensors = s.sensors := rfl
@[simp] theorem State.setCounter_avsTarget (s : State) (o v : Nat) : (s.setCounter o v).avsTarget = s.avsTarget := rfl
@[simp] theorem State.setCounter_avsStopped (s : State) (o v : Nat) : (s.setCounter o v).avsStopped = s.avsStopped := rfl
@[simp] theorem State.setCounter_avsAt (s : State) (o v : Nat) : (s.setCounter o v).avsAt = s.avsAt := rfl
@[simp] theorem State.setCounter_minVer (s : State) (o v : Nat) : (s.setCounter o v).minVer = s.minVer := rfl
@[simp] theorem State.setCounter_sat (s : State) (o v : Nat) : (s.setCounter o v).sat = s.sat := rfl
@[simp] theorem State.setCounter_latch (s : State) (o v : Nat) : (s.setCounter o v).latch = s.latch := rfl
@[simp] theorem State.setCounter_freeCount (s : State) (o v : Nat) : (s.setCounter o v).freeCount = s.freeCount := rfl
@[simp] theorem State.setCounter_freeBase (s : State) (o v : Nat) : (s.setCounter o v).freeBase = s.freeBase := rfl
@[simp] theorem State.setCounter_out (s : State) (o v : Nat) : (s.setCounter o v).out = s.out := rfl
@[simp] theorem State.setCounter_pending (s : State) (o v : Nat) : (s.setCounter o v).pending = s.pending := rfl

/-! ### emit -/

@[simp] theorem State.emit_variant (s : State) (o : Output) : (s.emit o).variant = s.variant := rfl
@[simp] theorem State.emit_manager (s : State) (o : Output) : (s.emit o).manager = s.manager := rfl
@[simp] theorem State.emit_tt (s : State) (o : Output) : (s.emit o).tt = s.tt := rfl
@[simp] theorem State.emit_ports (s : State) (o : Output) : (s.emit o).ports = s.ports := rfl
@[simp] theorem State.emit_jn (s : State) (o : Output) : (s.emit o).jn = s.jn := rfl
@[simp] theorem State.emit_sb (s : State) (o : Output) : (s.emit o).sb = s.sb := rfl
@[simp] theorem State.emit_hostPorts (s : State) (o : Output) : (s.emit o).hostPorts = s.hostPorts := rfl
@[simp] theorem State.emit_atts (s : State) (o : Output) : (s.emit o).atts = s.atts := rfl
@[simp] theorem State.emit_fns (s : State) (o : Output) : (s.emit o).fns = s.fns := rfl
@[simp] theorem State.emit_gens (s : State) (o : Output) : (s.emit o).gens = s.gens := rfl
@[simp] theorem State.emit_engines (s : State) (o : Output) : (s.emit o).engines = s.engines := rfl
@[simp] theorem State.emit_ops (s : State) (o : Output) : (s.emit o).ops = s.ops := rfl
@[simp] theorem State.emit_reuse (s : State) (o : Output) : (s.emit o).reuse = s.reuse := rfl
@[simp] theorem State.emit_matching (s : State) (o : Output) : (s.emit o).matching = s.matching := rfl
@[simp] theorem State.emit_cs (s : State) (o : Output) : (s.emit o).cs = s.cs := rfl
@[simp] theorem State.emit_dma (s : State) (o : Output) : (s.emit o).dma = s.dma := rfl
@[simp] theorem State.emit_nextDma (s : State) (o : Output) : (s.emit o).nextDma = s.nextDma := rfl
@[simp] theorem State.emit_wu (s : State) (o : Output) : (s.emit o).wu = s.wu := rfl
@[simp] theorem State.emit_rh (s : State) (o : Output) : (s.emit o).rh = s.rh := rfl
@[simp] theorem State.emit_elideEn (s : State) (o : Output) : (s.emit o).elideEn = s.elideEn := rfl
@[simp] theorem State.emit_tk (s : State) (o : Output) : (s.emit o).tk = s.tk := rfl
@[simp] theorem State.emit_cc (s : State) (o : Output) : (s.emit o).cc = s.cc := rfl
@[simp] theorem State.emit_fc (s : State) (o : Output) : (s.emit o).fc = s.fc := rfl
@[simp] theorem State.emit_rst (s : State) (o : Output) : (s.emit o).rst = s.rst := rfl
@[simp] theorem State.emit_jr (s : State) (o : Output) : (s.emit o).jr = s.jr := rfl
@[simp] theorem State.emit_sensors (s : State) (o : Output) : (s.emit o).sensors = s.sensors := rfl
@[simp] theorem State.emit_avsTarget (s : State) (o : Output) : (s.emit o).avsTarget = s.avsTarget := rfl
@[simp] theorem State.emit_avsStopped (s : State) (o : Output) : (s.emit o).avsStopped = s.avsStopped := rfl
@[simp] theorem State.emit_avsAt (s : State) (o : Output) : (s.emit o).avsAt = s.avsAt := rfl
@[simp] theorem State.emit_minVer (s : State) (o : Output) : (s.emit o).minVer = s.minVer := rfl
@[simp] theorem State.emit_ctr (s : State) (o : Output) : (s.emit o).ctr = s.ctr := rfl
@[simp] theorem State.emit_sat (s : State) (o : Output) : (s.emit o).sat = s.sat := rfl
@[simp] theorem State.emit_latch (s : State) (o : Output) : (s.emit o).latch = s.latch := rfl
@[simp] theorem State.emit_freeCount (s : State) (o : Output) : (s.emit o).freeCount = s.freeCount := rfl
@[simp] theorem State.emit_freeBase (s : State) (o : Output) : (s.emit o).freeBase = s.freeBase := rfl
@[simp] theorem State.emit_pending (s : State) (o : Output) : (s.emit o).pending = s.pending := rfl

/-! ### What stands where an update put it, and elsewhere -/

@[simp] theorem State.port_setPort (s : State) (p : Nat) (x : Port) : (s.setPort p x).port p = x := by simp [State.port, State.setPort]
theorem State.port_setPort_of_ne (s : State) {p q : Nat} (x : Port) (h : q ≠ p) : (s.setPort p x).port q = s.port q := by
  simp [State.port, State.setPort, State.resetIncarnation, h]
@[simp] theorem State.engine_setEngine (s : State) (n : Nat) (x : Engine) : (s.setEngine n x).engine n = x := by
  simp [State.engine, State.setEngine]
theorem State.engine_setEngine_of_ne (s : State) {n m : Nat} (x : Engine) (h : m ≠ n) : (s.setEngine n x).engine m = s.engine m := by
  simp [State.engine, State.setEngine, h]
@[simp] theorem State.egress_setEgress (s : State) (e : Nat) (x : Egress) : (s.setEgress e x).egress e = x := by
  simp [State.egress, State.setEgress]
theorem State.egress_setEgress_of_ne (s : State) {e d : Nat} (x : Egress) (h : d ≠ e) : (s.setEgress e x).egress d = s.egress d := by
  simp [State.egress, State.setEgress, h]
@[simp] theorem State.hostPort_setHostPort (s : State) (p : Nat) (x : HostPort) : (s.setHostPort p x).hostPort p = x := by
  simp [State.hostPort, State.setHostPort]
@[simp] theorem State.att_setAtt (s : State) (a : Nat) (x : Att) : (s.setAtt a x).att a = x := by simp [State.att, State.setAtt]
@[simp] theorem State.fn?_setFn (s : State) (f : Nat) (x : Fn) : (s.setFn f x).fn? f = some x := by simp [State.fn?, State.setFn]
theorem State.fn?_setFn_of_ne (s : State) {f g : Nat} (x : Fn) (h : g ≠ f) : (s.setFn f x).fn? g = s.fn? g := by
  simp [State.fn?, State.setFn, h]
@[simp] theorem State.counter_setCounter (s : State) (o v : Nat) : (s.setCounter o v).counter o = v := by
  by_cases h : v = 0 <;> simp [State.counter, State.setCounter, h]
theorem State.counter_setCounter_of_ne (s : State) {o a : Nat} (v : Nat) (h : a ≠ o) : (s.setCounter o v).counter a = s.counter a := by
  by_cases hv : v = 0 <;> simp [State.counter, State.setCounter, h, hv]
theorem State.counter_tally (s : State) (o n : Nat) : (s.tally o n).counter o = (s.counter o + n) % 2 ^ 64 := by simp [State.tally]
@[simp] theorem State.out_emit (s : State) (o : Output) : (s.emit o).out = s.out ++ [o] := rfl

end Sys2Proof.Machine
end

