-- ==== Sys2Proof/Laws/Access.lean ====
section
/-! SUPPORT. What the named accessors read after the named updates: the entry that an update puts, and every other entry as before. -/
namespace Sys2Proof.Machine

/-! ### Tables and ports -/

@[simp] theorem Tbl.put_put {α : Type} (t : Tbl α) (i : Nat) (a b : α) : Tbl.put (Tbl.put t i a) i b = Tbl.put t i b := by
  induction t with
  | nil => simp [Tbl.put]
  | cons e t ih =>
    obtain ⟨k, v⟩ := e
    simp only [Tbl.put]
    split
    · simp [Tbl.put]
    · split
      · simp [Tbl.put]
      · rename_i h g; simp [Tbl.put, h, g, ih]

@[simp] theorem State.port_modPort (s : State) (p : Nat) (f : Port → Port) : (s.modPort p f).port p = f (s.port p) := by
  simp [State.modPort]

theorem State.port_modPort_of_ne (s : State) {p q : Nat} (f : Port → Port) (h : q ≠ p) : (s.modPort p f).port q = s.port q :=
  s.port_setPort_of_ne _ h

@[simp] theorem State.setPort_setPort (s : State) (p : Nat) (x y : Port) : (s.setPort p x).setPort p y = s.setPort p y := by
  simp [State.setPort]

@[simp] theorem State.modPort_modPort (s : State) (p : Nat) (f g : Port → Port) :
    (s.modPort p f).modPort p g = s.modPort p fun x => g (f x) := by
  simp only [State.modPort, State.port_setPort, State.setPort_setPort]

/-! ### Engines, egresses, attachments and host ports -/

@[simp] theorem State.engine_modEngine (s : State) (n : Nat) (f : Engine → Engine) : (s.modEngine n f).engine n = f (s.engine n) := by
  simp [State.modEngine]

@[simp] theorem State.modEngine_modEngine (s : State) (n : Nat) (f g : Engine → Engine) :
    (s.modEngine n f).modEngine n g = s.modEngine n fun e => g (f e) := by
  simp [State.modEngine, State.setEngine, State.engine]

theorem State.att_setAtt_of_ne (s : State) {a b : Nat} (x : Att) (h : b ≠ a) : (s.setAtt a x).att b = s.att b := by
  simp [State.att, State.setAtt, h]

/-! ### Functions -/

@[simp] theorem State.fn?_modFn (s : State) (f : Nat) (g : Fn → Fn) : (s.modFn f g).fn? f = (s.fn? f).map g := by
  simp only [State.fn?, State.modFn, Tbl.modify]
  cases h : Tbl.get? s.fns f <;> simp [h]

theorem State.fn?_modFn_of_ne (s : State) {f h : Nat} (g : Fn → Fn) (n : h ≠ f) : (s.modFn f g).fn? h = s.fn? h := by
  simp only [State.fn?, State.modFn, Tbl.modify]
  cases Tbl.get? s.fns f <;> simp [n]

/-! ### Tokens, groups and windows -/

@[simp] theorem State.home_setHome (s : State) (h : Nat) (x : Home) : (s.setHome h x).home h = x := by simp [State.home, State.setHome]

@[simp] theorem State.localToken_setLocal (s : State) (t : Nat) (x : LocalToken) : (s.setLocal t x).localToken t = x := by
  simp [State.localToken, State.setLocal]

@[simp] theorem State.binding?_setBinding (s : State) (b : Nat) (x : Binding) : (s.setBinding b x).binding? b = some x := by
  simp [State.binding?, State.setBinding]

@[simp] theorem State.group?_setGroup (s : State) (g : Nat) (x : Group) : (s.setGroup g x).group? g = some x := by
  simp [State.group?, State.setGroup]

@[simp] theorem State.slot_setSlot (s : State) (domain id : Nat) (w : Window) : (s.setSlot domain id w).slot domain id = w := by
  simp [State.slot, State.setSlot]

@[simp] theorem State.lists_setLists (s : State) (f : Nat) (m : MatchLists) : (s.setLists f m).lists f = m := by
  simp [State.lists, State.setLists]

@[simp] theorem State.lag_setLag (s : State) (i : Nat) (l : Lag) : (s.setLag i l).lag i = l := by simp [State.lag, State.setLag]

end Sys2Proof.Machine
end

