-- ==== Sys2Proof/Laws/Commands.lean ====
section
/-! SUPPORT. The laws of commands: what a row's meaning is built from, and what it answers once the command comes to be executed. -/
namespace Sys2Proof.Machine

open Sys2Proof

/-! ### Guards and answers -/

theorem guarded_nil (s : State) (k : CmdResult) : s.guarded [] k = k := rfl

theorem guarded_cons (s : State) (g : Bool × Status × Nat) (gs : List (Bool × Status × Nat)) (k : CmdResult) :
    s.guarded (g :: gs) k = if g.1 then .done s g.2.1 g.2.2 [] else s.guarded gs k := by
  obtain ⟨b, st, d⟩ := g
  cases b <;> rfl

/-- Where no guard holds, the command goes on. -/
theorem guarded_none {s : State} {gs : List (Bool × Status × Nat)} {k : CmdResult} (h : gs.all (fun g => !g.1) = true) :
    s.guarded gs k = k := by
  unfold State.guarded
  rw [List.find?_eq_none.mpr]
  intro g hg
  simpa using List.all_eq_true.mp h g hg

/-- Where a guard holds, the first that does gives the status, and nothing has changed. -/
theorem guarded_some {s : State} {gs : List (Bool × Status × Nat)} {k : CmdResult} {g : Bool × Status × Nat}
    (h : gs.find? (·.1) = some g) : s.guarded gs k = .done s g.2.1 g.2.2 [] := by
  unfold State.guarded
  rw [h]

@[simp] theorem conclude_done (i : Instr) (c : Cmd) (s : State) (st : Status) (d : Nat) (p : List Byte) :
    State.conclude i c (.done s st d p) = s.answer i c st d p := rfl

@[simp] theorem conclude_ok (i : Instr) (c : Cmd) (s : State) : State.conclude i c s.ok = s.answer i c .OK 0 [] := rfl

@[simp] theorem conclude_payload (i : Instr) (c : Cmd) (s : State) (p : List Byte) :
    State.conclude i c (s.payload p) = s.answer i c .OK 0 p := rfl

/-! ### An accepted command -/

theorem State.command_of_accepted {i : Instr} {c : Cmd} {s : State} (body : State → CmdResult) (h : Accepted i c s) :
    s.command i body = State.conclude i c (body s.counted) := by
  obtain ⟨h1, h2, h3, h4, h5, h6, h7⟩ := h
  simp only [State.command, h1, h2, h3, h4, State.startCommand, h5, h6]
  by_cases hf : c.h.force = true
  · simp [hf, h7 hf]
  · simp [hf]

theorem State.work_of_accepted {i : Instr} {c : Cmd} {s : State} (body : State → CmdResult) (h : Accepted i c s) :
    s.workCommand i body = (State.conclude i c (body s.counted)).settle := by
  simp only [State.workCommand, State.command_of_accepted body h]

theorem State.journal_of_accepted {i : Instr} {c : Cmd} {s : State} (body : State → CmdResult) (h : Accepted i c s) :
    s.journalCommand i body = (State.conclude i c (body s.counted)).journalSettle := by
  simp only [State.journalCommand, State.command_of_accepted body h]

theorem State.carriesOut_of_accepted {i : Instr} {c : Cmd} {s : State} (h : Accepted i c s) : s.carriesOut i = true := by
  obtain ⟨h1, h2, h3, h4, h5, h6, h7⟩ := h
  simp only [State.carriesOut, h1, h2, h3, h4, h5, h6]
  by_cases hf : c.h.force = true
  · simp [h7 hf]
  · simp [hf]

/-! ### The four forms of a command's meaning -/

/-- A row that is a command is one of four forms over a body, but for a maker procedure that is carried out. -/
theorem exec_command {i : Instr} {c : Cmd} (h : cmdOf i = some c) (s : State) :
    (∃ b, exec i s = .next (s.command i b)) ∨ (∃ b, exec i s = .next (s.command i b).settle) ∨
    (∃ b, exec i s = .next (s.command i b).journalSettle) ∨ (∃ b, exec i s = .next (s.command i b).dueReset) ∨
    (∃ hd p, i = .makerProcedure hd p ∧ s.carriesOut i = true) := by
  cases i
  case deviceInfo => exact Or.inl ⟨_, rfl⟩
  case pinConfigSet => exact Or.inl ⟨_, rfl⟩
  case balerConfigSet => exact Or.inl ⟨_, rfl⟩
  case controlAccessSet => exact Or.inl ⟨_, rfl⟩
  case registerRead => exact Or.inl ⟨_, rfl⟩
  case registerWrite => exact Or.inl ⟨_, rfl⟩
  case commandForward => exact Or.inl ⟨_, rfl⟩
  case linkEnable => exact Or.inl ⟨_, rfl⟩
  case linkDisable => exact Or.inl ⟨_, rfl⟩
  case linkRoleSet => exact Or.inl ⟨_, rfl⟩
  case linkGraceSet => exact Or.inl ⟨_, rfl⟩
  case linkLanesRestore => exact Or.inl ⟨_, rfl⟩
  case linkStandby => exact Or.inl ⟨_, rfl⟩
  case linkWake => exact Or.inl ⟨_, rfl⟩
  case linkQuery => exact Or.inl ⟨_, rfl⟩
  case linkModuleSet => exact Or.inl ⟨_, rfl⟩
  case queueWeightSet => exact Or.inl ⟨_, rfl⟩
  case queueMapSet => exact Or.inl ⟨_, rfl⟩
  case signalBoxConfigSet => exact Or.inl ⟨_, rfl⟩
  case routeTopologySet => exact Or.inl ⟨_, rfl⟩
  case routeEntrySet => exact Or.inl ⟨_, rfl⟩
  case routeQuery => exact Or.inl ⟨_, rfl⟩
  case routeAdaptSet => exact Or.inl ⟨_, rfl⟩
  case poolConfigSet => exact Or.inl ⟨_, rfl⟩
  case multicastInstall => exact Or.inl ⟨_, rfl⟩
  case multicastRemove => exact Or.inl ⟨_, rfl⟩
  case timeConfig => exact Or.inl ⟨_, rfl⟩
  case timeSetSeconds => exact Or.inl ⟨_, rfl⟩
  case timetableFractionSet => exact Or.inl ⟨_, rfl⟩
  case reservationInstall => exact Or.inl ⟨_, rfl⟩
  case reservationRemove => exact Or.inl ⟨_, rfl⟩
  case reservationQuery => exact Or.inl ⟨_, rfl⟩
  case timeQuery => exact Or.inl ⟨_, rfl⟩
  case functionQuery => exact Or.inl ⟨_, rfl⟩
  case functionSave => exact Or.inl ⟨_, rfl⟩
  case functionHorizonSet => exact Or.inl ⟨_, rfl⟩
  case functionSchedSet => exact Or.inl ⟨_, rfl⟩
  case functionShaperSet => exact Or.inl ⟨_, rfl⟩
  case functionPolicerSet => exact Or.inl ⟨_, rfl⟩
  case functionCcSet => exact Or.inl ⟨_, rfl⟩
  case rankTableWrite => exact Or.inl ⟨_, rfl⟩
  case domainCreate => exact Or.inl ⟨_, rfl⟩
  case domainDestroy => exact Or.inl ⟨_, rfl⟩
  case windowOpen => exact Or.inl ⟨_, rfl⟩
  case windowQuery => exact Or.inl ⟨_, rfl⟩
  case windowModify => exact Or.inl ⟨_, rfl⟩
  case windowDirtyEnable => exact Or.inl ⟨_, rfl⟩
  case windowDirtyDisable => exact Or.inl ⟨_, rfl⟩
  case windowDirtyFetch => exact Or.inl ⟨_, rfl⟩
  case windowDirtyClearMarks => exact Or.inl ⟨_, rfl⟩
  case collGroupQuery => exact Or.inl ⟨_, rfl⟩
  case tokenGroupRightsSet => exact Or.inl ⟨_, rfl⟩
  case tokenFabricHomeSet => exact Or.inl ⟨_, rfl⟩
  case tokenFabricBind => exact Or.inl ⟨_, rfl⟩
  case tokenFabricUnbind => exact Or.inl ⟨_, rfl⟩
  case tokenQuery => exact Or.inl ⟨_, rfl⟩
  case tokenForceRelease => exact Or.inl ⟨_, rfl⟩
  case faultSeveritySet => exact Or.inl ⟨_, rfl⟩
  case faultStatusRead => exact Or.inl ⟨_, rfl⟩
  case faultClear => exact Or.inl ⟨_, rfl⟩
  case eventRouteSet => exact Or.inl ⟨_, rfl⟩
  case violationLogRead => exact Or.inl ⟨_, rfl⟩
  case fwQuery => exact Or.inl ⟨_, rfl⟩
  case meterRingSet => exact Or.inl ⟨_, rfl⟩
  case meterRead => exact Or.inl ⟨_, rfl⟩
  case telemetryRead => exact Or.inl ⟨_, rfl⟩
  case telemetryThresholdSet => exact Or.inl ⟨_, rfl⟩
  case modeSet => exact Or.inr (Or.inl ⟨_, rfl⟩)
  case managerSet => exact Or.inr (Or.inl ⟨_, rfl⟩)
  case blockReset => exact Or.inr (Or.inl ⟨_, rfl⟩)
  case hostPortSplitSet => exact Or.inr (Or.inl ⟨_, rfl⟩)
  case reasmQuotaSet => exact Or.inr (Or.inl ⟨_, rfl⟩)
  case multicastMemberSet => exact Or.inr (Or.inl ⟨_, rfl⟩)
  case multicastMemberClear => exact Or.inr (Or.inl ⟨_, rfl⟩)
  case multicastSenderSet => exact Or.inr (Or.inl ⟨_, rfl⟩)
  case multicastSenderClear => exact Or.inr (Or.inl ⟨_, rfl⟩)
  case functionCreate => exact Or.inr (Or.inl ⟨_, rfl⟩)
  case functionDestroy => exact Or.inr (Or.inl ⟨_, rfl⟩)
  case functionEnable => exact Or.inr (Or.inl ⟨_, rfl⟩)
  case functionDisable => exact Or.inr (Or.inl ⟨_, rfl⟩)
  case functionReset => exact Or.inr (Or.inl ⟨_, rfl⟩)
  case functionFreeze => exact Or.inr (Or.inl ⟨_, rfl⟩)
  case functionRestore => exact Or.inr (Or.inl ⟨_, rfl⟩)
  case functionThaw => exact Or.inr (Or.inl ⟨_, rfl⟩)
  case functionPoolSet => exact Or.inr (Or.inl ⟨_, rfl⟩)
  case functionQuotaSet => exact Or.inr (Or.inl ⟨_, rfl⟩)
  case flowSpillSet => exact Or.inr (Or.inl ⟨_, rfl⟩)
  case rankTableCreate => exact Or.inr (Or.inl ⟨_, rfl⟩)
  case rankTableDestroy => exact Or.inr (Or.inl ⟨_, rfl⟩)
  case matchContextSet => exact Or.inr (Or.inl ⟨_, rfl⟩)
  case matchCommSet => exact Or.inr (Or.inl ⟨_, rfl⟩)
  case matchCommClear => exact Or.inr (Or.inl ⟨_, rfl⟩)
  case windowRevoke => exact Or.inr (Or.inl ⟨_, rfl⟩)
  case collGroupCreate => exact Or.inr (Or.inl ⟨_, rfl⟩)
  case collGroupDestroy => exact Or.inr (Or.inl ⟨_, rfl⟩)
  case collMemberSet => exact Or.inr (Or.inl ⟨_, rfl⟩)
  case collGroupReset => exact Or.inr (Or.inl ⟨_, rfl⟩)
  case configSave => exact Or.inr (Or.inr (Or.inl ⟨_, rfl⟩))
  case journalRead => exact Or.inr (Or.inr (Or.inl ⟨_, rfl⟩))
  case journalMark => exact Or.inr (Or.inr (Or.inl ⟨_, rfl⟩))
  case evidenceHold => exact Or.inr (Or.inr (Or.inl ⟨_, rfl⟩))
  case fwStageBegin => exact Or.inr (Or.inr (Or.inl ⟨_, rfl⟩))
  case fwStageData => exact Or.inr (Or.inr (Or.inl ⟨_, rfl⟩))
  case fwStageEnd => exact Or.inr (Or.inr (Or.inl ⟨_, rfl⟩))
  case fwActivate => exact Or.inr (Or.inr (Or.inl ⟨_, rfl⟩))
  case fwBootSlotSet => exact Or.inr (Or.inr (Or.inl ⟨_, rfl⟩))
  case fwStageAbort => exact Or.inr (Or.inr (Or.inl ⟨_, rfl⟩))
  case deviceReset => exact Or.inr (Or.inr (Or.inr (Or.inl ⟨_, rfl⟩)))
  case makerProcedure hd p =>
    by_cases hc : s.carriesOut (.makerProcedure hd p) = true
    · exact Or.inr (Or.inr (Or.inr (Or.inr ⟨hd, p, rfl, hc⟩)))
    · refine Or.inl ⟨fun s => .done s .BAD_SIGNATURE 0 [], ?_⟩
      simp only [exec, execMakerProcedure]
      rw [if_neg fun h => hc h.1]
  all_goals cases h

/-- Every command's opcode is in the table. -/
theorem opInfo_of_cmdOf {i : Instr} {c : Cmd} (h : cmdOf i = some c) : (opInfo c.opcode).isSome = true := by
  cases i <;> first | (cases h; rfl) | cases h

end Sys2Proof.Machine
end

