-- ==== Sys2Proof/Laws/Sound.lean ====
section
/-! SUPPORT. What no command undoes: the variant fuse, CC_FW_MINVER (R503), the queue behind the command, counters that fit their width
(R10) and at most 64 kept replies of a source (R491). One lemma for every function that answers a state says that it keeps all of it; the
lemmas of the functions are in the files SoundFabric, SoundFlows and SoundCommands, in the order of the functions. -/
namespace Sys2Proof.Machine

set_option linter.all false

open Sys2Proof

/-- The fuses and the queue that a state is compared with. -/
structure Footing where
  variant : Variant
  minVer : Nat
  pending : List Instr
  fit : Prop

/-- The five parts of a state agree with the ground. -/
def Holds (gr : Footing) (v : Variant) (n : Nat) (p : List Instr) (c : Tbl Nat) (k : List Kept) : Prop :=
  v = gr.variant ∧ gr.minVer ≤ n ∧ p = gr.pending ∧ (gr.fit → CountersFit c) ∧ (gr.fit → RepliesBounded k)

/-- The state agrees with the ground. -/
def State.Sound (s : State) (gr : Footing) : Prop := Holds gr s.variant s.minVer s.pending s.ctr s.cc.kept
variable {gr : Footing}

@[simp] theorem sound_mk {x0 x1 x2 x3 x4 x5 x6 x7 x8 x9 x10 x11 x12 x13 x14 x15 x16 x17 x18 x19 x20 x21 x22 x23 x24 x25 x26 x27 x28 x29 x30 x31 x32 x33 x34 x35 x36} :
    State.Sound (State.mk x0 x1 x2 x3 x4 x5 x6 x7 x8 x9 x10 x11 x12 x13 x14 x15 x16 x17 x18 x19 x20 x21 x22 x23 x24 x25 x26 x27 x28 x29 x30 x31 x32 x33 x34 x35 x36) gr ↔ Holds gr x0 x29 x36 x30 x21.kept := Iff.rfl

@[simp] theorem holds_sound {t : State} : Holds gr t.variant t.minVer t.pending t.ctr t.cc.kept ↔ t.Sound gr := Iff.rfl

/-- A meaning that answers a next state answers one that agrees. -/
def NextSound (gr : Footing) : Host.Outcome State Fault Refusal → Prop
  | .next t => t.Sound gr
  | _ => True

/-- The state that a command body answers agrees. -/
def ResSound (gr : Footing) : CmdResult → Prop
  | .done s _ _ _ => s.Sound gr
  | .wait s _ => s.Sound gr
  | .hold s _ => s.Sound gr

/-- A state, where one is answered, agrees. -/
def OptSound (gr : Footing) : Option State → Prop
  | some s => s.Sound gr
  | none => True

@[simp] theorem next_sound {t : State} : NextSound gr (.next t) ↔ t.Sound gr := Iff.rfl

@[simp] theorem fault_sound {t} : NextSound gr (.fault t) ↔ True := Iff.rfl

@[simp] theorem refused_sound {t} : NextSound gr (.refused t) ↔ True := Iff.rfl

@[simp] theorem done_sound {t : State} {a b c} : ResSound gr (.done t a b c) ↔ t.Sound gr := Iff.rfl

@[simp] theorem wait_sound {t : State} {a} : ResSound gr (.wait t a) ↔ t.Sound gr := Iff.rfl

@[simp] theorem hold_sound {t : State} {a} : ResSound gr (.hold t a) ↔ t.Sound gr := Iff.rfl

@[simp] theorem some_sound {t : State} : OptSound gr (some t) ↔ t.Sound gr := Iff.rfl

@[simp] theorem none_sound : OptSound gr none ↔ True := Iff.rfl

@[simp] theorem ite_sound {c : Prop} [Decidable c] {a b : State} (ha : a.Sound gr) (hb : b.Sound gr) : (if c then a else b).Sound gr := by
  split <;> assumption

@[simp] theorem foldl_sound {α : Type} {f : State → α → State} {l : List α} {s : State} (hf : ∀ s x, s.Sound gr → (f s x).Sound gr)
    (h : s.Sound gr) : (l.foldl f s).Sound gr := by
  induction l generalizing s with
  | nil => exact h
  | cons a l ih => exact ih (hf s a h)

theorem pair_iff {α β : Type} {p : α × β} {a : α} {b : β} : p = (a, b) ↔ a = p.1 ∧ b = p.2 := by
  constructor
  · rintro rfl; exact ⟨rfl, rfl⟩
  · rintro ⟨rfl, rfl⟩; rfl

@[simp] theorem fst_ite_sound {α : Type} {c : Prop} [Decidable c] {a b : State × α} (ha : a.1.Sound gr) (hb : b.1.Sound gr) :
    (if c then a else b).1.Sound gr := by split <;> assumption

@[simp] theorem foldl_fst_sound {α β : Type} {f : State × β → α → State × β} {l : List α} {p : State × β}
    (hf : ∀ p x, p.1.Sound gr → (f p x).1.Sound gr) (h : p.1.Sound gr) : (l.foldl f p).1.Sound gr := by
  induction l generalizing p with
  | nil => exact h
  | cons a l ih => exact ih (hf p a h)

theorem some_of {o : Option State} {t : State} (h : OptSound gr o) (e : o = some t) : t.Sound gr := by rw [e] at h; exact h

@[simp] theorem opt_ite_sound {c : Prop} [Decidable c] {a b : Option State} (ha : OptSound gr a) (hb : OptSound gr b) :
    OptSound gr (if c then a else b) := by split <;> assumption

theorem CountersFit.filter {t : Tbl Nat} (p : Nat × Nat → Bool) (h : CountersFit t) : CountersFit (t.filter p) :=
  ⟨h.1.sublist (List.filter_sublist.map _), fun e he => h.2 e (List.mem_filter.mp he).1⟩

theorem mem_put {t : Tbl Nat} {k v : Nat} {e : Nat × Nat} (h : e ∈ Tbl.put t k v) : e = (k, v) ∨ e ∈ t := by
  induction t with
  | nil => simp [Tbl.put] at h; exact Or.inl h
  | cons a t ih =>
    simp only [Tbl.put] at h
    split at h
    · simp at h; rcases h with h | h | h <;> simp [h]
    · split at h
      · simp at h; rcases h with h | h <;> simp [h]
      · simp at h; rcases h with h | h
        · simp [h]
        · rcases ih h with h | h <;> simp [h]

theorem CountersFit.put {t : Tbl Nat} {k v : Nat} (h : CountersFit t) (h1 : 1 ≤ v) (h2 : v < 2 ^ 64) : CountersFit (Tbl.put t k v) := by
  refine ⟨?_, fun e he => ?_⟩
  · obtain ⟨hp, -⟩ := h
    induction t with
    | nil => simp [Tbl.put]
    | cons a t ih =>
      simp only [List.map_cons, List.pairwise_cons] at hp
      simp only [Tbl.put]
      split
      · simp only [List.map_cons, List.pairwise_cons]
        refine ⟨?_, ?_, hp.2⟩
        · intro b hb; simp only [List.mem_cons] at hb
          rcases hb with rfl | hb
          · assumption
          · have := hp.1 b hb; omega
        · exact hp.1
      · split
        · next hk => subst hk; simpa [List.pairwise_cons] using hp
        · simp only [List.map_cons, List.pairwise_cons]
          refine ⟨?_, ih hp.2⟩
          intro b hb
          obtain ⟨e, he, rfl⟩ := List.mem_map.mp hb
          rcases mem_put he with rfl | he
          · simp; omega
          · exact hp.1 _ (List.mem_map.mpr ⟨e, he, rfl⟩)
  · rcases mem_put he with rfl | he
    · exact ⟨h1, h2⟩
    · exact h.2 e he

theorem next_of {o : Host.Outcome State Fault Refusal} {t : State} (h : NextSound gr o) (e : o = .next t) : t.Sound gr := by
  rw [e] at h; exact h

theorem fst_of {α : Type} {p : State × α} {t : State} {a : α} (h : p.1.Sound gr) (e : p = (t, a)) : t.Sound gr := by
  rw [e] at h; exact h

theorem RepliesBounded.keep {l : List Kept} (k : Kept) (h : RepliesBounded l) : RepliesBounded (keepReply l k) := by
  intro x
  have hx := h x
  simp only [keepReply]
  by_cases hk : srcKey x = srcKey k.hdr.src
  · have e : (fun y : Kept => srcKey y.hdr.src == srcKey x) = fun y => srcKey y.hdr.src == srcKey k.hdr.src := by simp [hk]
    rw [e] at hx ⊢
    split
    · next h64 =>
      cases hm : (l.filter fun y => srcKey y.hdr.src == srcKey k.hdr.src).head? with
      | none => simp at hm; simp; rw [List.filter_eq_nil_iff.mpr (by simpa using hm)] ; simp
      | some o =>
        have ho : o ∈ l.filter fun y => srcKey y.hdr.src == srcKey k.hdr.src := List.mem_of_mem_head? hm
        have ho' := List.mem_filter.mp ho
        simp only [List.filter_append, List.length_append]
        have : ((l.erase o).filter fun y => srcKey y.hdr.src == srcKey k.hdr.src).length + 1 ≤ 64 := by
          have e2 : (l.erase o).filter (fun y => srcKey y.hdr.src == srcKey k.hdr.src) =
              (l.filter fun y => srcKey y.hdr.src == srcKey k.hdr.src).erase o := by
            rw [List.erase_filter]
          rw [e2, List.length_erase_of_mem ho]; have := List.length_pos_of_mem ho; omega
        have : ([k].filter fun y => srcKey y.hdr.src == srcKey k.hdr.src).length ≤ 1 := List.length_filter_le _ _
        omega
    · simp only [List.filter_append, List.length_append]
      have : ([k].filter fun y => srcKey y.hdr.src == srcKey k.hdr.src).length ≤ 1 := List.length_filter_le _ _
      omega
  · have e1 : [k].filter (fun y => srcKey y.hdr.src == srcKey x) = [] := by
      simp; exact fun h => hk h.symm
    have key : ∀ m : List Kept, m.Sublist l → ((m ++ [k]).filter fun y => srcKey y.hdr.src == srcKey x).length ≤ 64 := by
      intro m hm
      rw [List.filter_append, e1, List.append_nil]
      exact Nat.le_trans (hm.filter _).length_le hx
    split
    · cases (l.filter fun y => srcKey y.hdr.src == srcKey k.hdr.src).head? with
      | none => exact key _ (List.Sublist.refl _)
      | some o => exact key _ List.erase_sublist
    · exact key _ (List.Sublist.refl _)

end Sys2Proof.Machine
end

