-- ==== Sys2Proof/Laws/SoundFabric.lean ====
section
/-! SUPPORT. The lemmas of Laws/Sound for the shared operations, the journal store, the Junction, the Timetable, the links and the Signal Box. -/
namespace Sys2Proof.Machine

set_option linter.all false

open Sys2Proof

variable {gr : Footing}

@[simp] theorem State.draw_sound (s : State) (hS : s.Sound gr) :
    (State.draw s).2.Sound gr := by
  unfold State.draw; simp [hS]

@[simp] theorem State.emit_sound (s : State) (o : Output) (hS : s.Sound gr) :
    (State.emit s o).Sound gr := by
  unfold State.emit; simp [hS]

@[simp] theorem State.emits_sound (s : State) (os : List Output) (hS : s.Sound gr) :
    (State.emits s os).Sound gr := by
  unfold State.emits; simp [hS]

@[simp] theorem State.setHostPort_sound (s : State) (p : Nat) (h : HostPort) (hS : s.Sound gr) :
    (State.setHostPort s p h).Sound gr := by
  unfold State.setHostPort; simp [hS]

@[simp] theorem State.setAtt_sound (s : State) (a : Nat) (x : Att) (hS : s.Sound gr) :
    (State.setAtt s a x).Sound gr := by
  unfold State.setAtt; simp [hS]

@[simp] theorem State.setPort_sound (s : State) (p : Nat) (x : Port) (hS : s.Sound gr) :
    (State.setPort s p x).Sound gr := by
  unfold State.setPort; simp [hS]

@[simp] theorem State.modPort_sound (s : State) (p : Nat) (f : Port → Port) (hS : s.Sound gr) :
    (State.modPort s p f).Sound gr := by
  unfold State.modPort; simp [hS]

@[simp] theorem State.setEngine_sound (s : State) (n : Nat) (e : Engine) (hS : s.Sound gr) :
    (State.setEngine s n e).Sound gr := by
  unfold State.setEngine; simp [hS]

@[simp] theorem State.modEngine_sound (s : State) (n : Nat) (f : Engine → Engine) (hS : s.Sound gr) :
    (State.modEngine s n f).Sound gr := by
  unfold State.modEngine; simp [hS]

@[simp] theorem State.keepRest_sound (s : State) (n group : Nat) (hS : s.Sound gr) :
    (State.keepRest s n group).Sound gr := by
  unfold State.keepRest
  try dsimp only
  (repeat' split) <;> first | (simp (maxDischargeDepth := 50) +contextual [hS]; done) | (simp_all (maxDischargeDepth := 50) +contextual [pair_iff]; done) | (refine foldl_sound ?_ (by first | (simp (maxDischargeDepth := 50) +contextual [hS]; done) | (simp_all (maxDischargeDepth := 50) +contextual [pair_iff]; done)); intro s' x' hs'; (try dsimp only); (repeat' split) <;> (first | (simp (maxDischargeDepth := 50) +contextual [hS]; done) | (simp_all (maxDischargeDepth := 50) +contextual [pair_iff]; done)))

@[simp] theorem State.setEgress_sound (s : State) (e : Nat) (x : Egress) (hS : s.Sound gr) :
    (State.setEgress s e x).Sound gr := by
  unfold State.setEgress; simp [hS]

theorem State.setCounter_sound (s : State) (off v : Nat) (hS : s.Sound gr) (hv : v < 2 ^ 64) : (s.setCounter off v).Sound gr := by
  obtain ⟨h1, h2, h3, h4, h5⟩ := hS
  refine ⟨h1, h2, h3, ?_, h5⟩
  show gr.fit → CountersFit (if v = 0 then _ else _)
  split
  · exact fun f => (h4 f).filter _
  · exact fun f => (h4 f).put (by omega) hv

@[simp] theorem State.tally_sound (s : State) (off : Nat) (n : Nat) (hS : s.Sound gr) :
    (State.tally s off n).Sound gr := by
  exact State.setCounter_sound _ _ _ hS (Nat.mod_lt _ (by decide))

@[simp] theorem State.setFn_sound (s : State) (f : Nat) (x : Fn) (hS : s.Sound gr) :
    (State.setFn s f x).Sound gr := by
  unfold State.setFn; simp [hS]

@[simp] theorem State.modFn_sound (s : State) (f : Nat) (g : Fn → Fn) (hS : s.Sound gr) :
    (State.modFn s f g).Sound gr := by
  unfold State.modFn; simp [hS]

@[simp] theorem State.write_sound (s : State) (f addr : Nat) (bytes : List Byte) (hS : s.Sound gr) :
    (State.write s f addr bytes).Sound gr := by
  unfold State.write; (repeat' split) <;> simp [hS]

@[simp] theorem State.interrupt_sound (s : State) (f v : Nat) (hS : s.Sound gr) :
    (State.interrupt s f v).Sound gr := by
  unfold State.interrupt; (repeat' split) <;> simp [hS]

@[simp] theorem State.dmaRead_sound (s : State) (f addr len : Nat) (use : DmaUse) (place : Option Nat) (offset : Nat) (hS : s.Sound gr) :
    (State.dmaRead s f addr len use place offset).Sound gr := by
  unfold State.dmaRead; (repeat' split) <;> simp [hS]

@[simp] theorem State.settleInvals_sound (s : State) (a : Nat) (hS : s.Sound gr) :
    (State.settleInvals s a).Sound gr := by
  unfold State.settleInvals
  try dsimp only
  (repeat' split) <;> first | (simp (maxDischargeDepth := 50) +contextual [hS]; done) | (simp_all (maxDischargeDepth := 50) +contextual [pair_iff]; done) | (refine foldl_sound ?_ (by first | (simp (maxDischargeDepth := 50) +contextual [hS]; done) | (simp_all (maxDischargeDepth := 50) +contextual [pair_iff]; done)); intro s' x' hs'; (try dsimp only); (repeat' split) <;> (first | (simp (maxDischargeDepth := 50) +contextual [hS]; done) | (simp_all (maxDischargeDepth := 50) +contextual [pair_iff]; done)))

@[simp] theorem State.nextRead_sound (s : State) (att : Nat) (hS : s.Sound gr) :
    (State.nextRead s att).Sound gr := by
  unfold State.nextRead
  try dsimp only
  (repeat' split) <;> first | (simp (maxDischargeDepth := 50) +contextual [hS]; done) | (simp_all (maxDischargeDepth := 50) +contextual [pair_iff]; done) | (refine foldl_sound ?_ (by first | (simp (maxDischargeDepth := 50) +contextual [hS]; done) | (simp_all (maxDischargeDepth := 50) +contextual [pair_iff]; done)); intro s' x' hs'; (try dsimp only); (repeat' split) <;> (first | (simp (maxDischargeDepth := 50) +contextual [hS]; done) | (simp_all (maxDischargeDepth := 50) +contextual [pair_iff]; done)))

@[simp] theorem State.setRing_sound (s : State) (f r : Nat) (g : Ring) (hS : s.Sound gr) :
    (State.setRing s f r g).Sound gr := by
  unfold State.setRing; simp [hS]

@[simp] theorem State.readIndex_sound (s : State) (f r : Nat) (hS : s.Sound gr) :
    (State.readIndex s f r).Sound gr := by
  unfold State.readIndex; (repeat' split) <;> simp [hS]

@[simp] theorem State.putRecord_sound (s : State) (f r : Nat) (g : Ring) (rc : List Byte) (hS : s.Sound gr) :
    (State.putRecord s f r g rc).Sound gr := by
  unfold State.putRecord; (repeat' split) <;> simp (maxDischargeDepth := 9) +contextual [hS]

@[simp] theorem State.loseRecords_sound (s : State) (f r : Nat) (g : Ring) (n : Nat) (hS : s.Sound gr) :
    (State.loseRecords s f r g n).Sound gr := by
  unfold State.loseRecords; simp [hS]

@[simp] theorem State.writeRecord_sound (s : State) (f r : Nat) (rc : List Byte) (hS : s.Sound gr) :
    (State.writeRecord s f r rc).Sound gr := by
  unfold State.writeRecord; (repeat' split) <;> simp [hS]

@[simp] theorem State.evidenceStep_sound (s : State) (off : Nat) (hS : s.Sound gr) :
    (State.evidenceStep s off).1.Sound gr := by
  unfold State.evidenceStep
  dsimp only
  split
  · have := State.setCounter_sound s off (s.counter off + 1) hS (by omega)
    split <;> exact this
  · simp [hS]

@[simp] theorem State.logEvent_sound (s : State) (rc : List Byte) (hS : s.Sound gr) :
    (State.logEvent s rc).Sound gr := by
  unfold State.logEvent; simp [hS]

@[simp] theorem State.deliver_sound (s : State) (f ev : Nat) (rc : List Byte) (hS : s.Sound gr) :
    (State.deliver s f ev rc).1.Sound gr := by
  unfold State.deliver; (repeat' split) <;> simp [hS]

@[simp] theorem State.toManager_sound (s : State) (ev : Nat) (rc : List Byte) (hS : s.Sound gr) :
    (State.toManager s ev rc).Sound gr := by
  unfold State.toManager; dsimp only; (repeat' split) <;> simp (maxDischargeDepth := 9) +contextual [hS]

@[simp] theorem State.ringFullEvent_sound (s : State) (f r : Nat) (hS : s.Sound gr) :
    (State.ringFullEvent s f r).Sound gr := by
  unfold State.ringFullEvent
  try dsimp only
  (repeat' split) <;> first | (simp (maxDischargeDepth := 50) +contextual [hS]; done) | (simp_all (maxDischargeDepth := 50) +contextual [pair_iff]; done) | (refine foldl_sound ?_ (by first | (simp (maxDischargeDepth := 50) +contextual [hS]; done) | (simp_all (maxDischargeDepth := 50) +contextual [pair_iff]; done)); intro s' x' hs'; (try dsimp only); (repeat' split) <;> (first | (simp (maxDischargeDepth := 50) +contextual [hS]; done) | (simp_all (maxDischargeDepth := 50) +contextual [pair_iff]; done)))

@[simp] theorem State.raiseOnce_sound (s : State) (ev : Nat) (fn : Option Nat) (detail : Nat) (hS : s.Sound gr) :
    (State.raiseOnce s ev fn detail).Sound gr := by
  unfold State.raiseOnce
  try dsimp only
  (repeat' split) <;> first | (simp (maxDischargeDepth := 50) +contextual [hS]; done) | (simp_all (maxDischargeDepth := 50) +contextual [pair_iff]; done) | (refine foldl_sound ?_ (by first | (simp (maxDischargeDepth := 50) +contextual [hS]; done) | (simp_all (maxDischargeDepth := 50) +contextual [pair_iff]; done)); intro s' x' hs'; (try dsimp only); (repeat' split) <;> (first | (simp (maxDischargeDepth := 50) +contextual [hS]; done) | (simp_all (maxDischargeDepth := 50) +contextual [pair_iff]; done)))

@[simp] theorem State.dropsSaturated_sound (s t : State) (ht : t.Sound gr) : (s.dropsSaturated t).Sound gr := by
  unfold State.dropsSaturated
  split <;> simp [ht]

@[simp] theorem State.raiseNow_sound (s : State) (ev : Nat) (fn : Option Nat) (detail : Nat) (hS : s.Sound gr) :
    (State.raiseNow s ev fn detail).Sound gr := by
  unfold State.raiseNow
  try dsimp only
  (repeat' split) <;> first | (simp (maxDischargeDepth := 50) +contextual [hS]; done) | (simp_all (maxDischargeDepth := 50) +contextual [pair_iff]; done) | (refine foldl_sound ?_ (by first | (simp (maxDischargeDepth := 50) +contextual [hS]; done) | (simp_all (maxDischargeDepth := 50) +contextual [pair_iff]; done)); intro s' x' hs'; (try dsimp only); (repeat' split) <;> (first | (simp (maxDischargeDepth := 50) +contextual [hS]; done) | (simp_all (maxDischargeDepth := 50) +contextual [pair_iff]; done)))

@[simp] theorem State.eventRingFull_sound (s : State) (f r : Nat) (hS : s.Sound gr) :
    (State.eventRingFull s f r).Sound gr := by
  unfold State.eventRingFull; (repeat' split) <;> simp [hS]

@[simp] theorem State.raise_sound (s : State) (ev : Nat) (fn : Option Nat) (detail : Nat) (hS : s.Sound gr) :
    (State.raise s ev fn detail).Sound gr := by
  unfold State.raise; simp [hS]

@[simp] theorem State.evidence_sound (s : State) (off : Nat) (hS : s.Sound gr) :
    (State.evidence s off).Sound gr := by
  unfold State.evidence
  try dsimp only
  (repeat' split) <;> first | (simp (maxDischargeDepth := 50) +contextual [hS]; done) | (simp_all (maxDischargeDepth := 50) +contextual [pair_iff]; done) | (refine foldl_sound ?_ (by first | (simp (maxDischargeDepth := 50) +contextual [hS]; done) | (simp_all (maxDischargeDepth := 50) +contextual [pair_iff]; done)); intro s' x' hs'; (try dsimp only); (repeat' split) <;> (first | (simp (maxDischargeDepth := 50) +contextual [hS]; done) | (simp_all (maxDischargeDepth := 50) +contextual [pair_iff]; done)))

@[simp] theorem State.evidences_sound (s : State) (off : Nat) (x0 : Nat) (hS : s.Sound gr) :
    (State.evidences s off x0).Sound gr := by
  induction x0 generalizing s with
  | zero => unfold State.evidences; first | (simp (maxDischargeDepth := 50) +contextual [hS]; done) | (simp_all (maxDischargeDepth := 50) +contextual [pair_iff]; done)
  | succ n ih =>
    unfold State.evidences
    try dsimp only
    (repeat' split) <;> first | (simp (maxDischargeDepth := 50) +contextual [hS , ih]; done) | (simp_all (maxDischargeDepth := 50) +contextual [pair_iff]; done) | (refine foldl_sound ?_ (by first | (simp (maxDischargeDepth := 50) +contextual [hS , ih]; done) | (simp_all (maxDischargeDepth := 50) +contextual [pair_iff]; done)); intro s' x' hs'; (try dsimp only); (repeat' split) <;> (first | (simp (maxDischargeDepth := 50) +contextual [hS , ih]; done) | (simp_all (maxDischargeDepth := 50) +contextual [pair_iff]; done)))

@[simp] theorem State.meter_sound (s : State) (f k n : Nat) (hS : s.Sound gr) :
    (State.meter s f k n).Sound gr := by
  unfold State.meter
  dsimp only
  split
  · exact hS
  · split
    · exact State.setCounter_sound _ _ _ hS (by omega)
    · have := State.setCounter_sound s (meterOff f k) (2 ^ 64 - 1) hS (by decide)
      simp only [State.raise_sound, this]

@[simp] theorem State.clearEvidence_sound (s : State) (off : Nat) (hS : s.Sound gr) :
    (State.clearEvidence s off).Sound gr := by
  have := State.setCounter_sound s off 0 hS (by decide)
  exact this

@[simp] theorem State.clearCounters_sound (s : State) (lo hi : Nat) (hS : s.Sound gr) :
    (State.clearCounters s lo hi).Sound gr := by
  obtain ⟨h1, h2, h3, h4, h5⟩ := hS
  exact ⟨h1, h2, h3, fun f => (h4 f).filter _, h5⟩

@[simp] theorem State.journalRun_sound (fuel : Nat) (x0 : State) (hS : x0.Sound gr) :
    (State.journalRun fuel x0).Sound gr := by
  induction fuel generalizing x0 with
  | zero => unfold State.journalRun; first | (simp (maxDischargeDepth := 50) +contextual [hS]; done) | (simp_all (maxDischargeDepth := 50) +contextual [pair_iff]; done)
  | succ n ih =>
    unfold State.journalRun
    try dsimp only
    (repeat' split) <;> first | (simp (maxDischargeDepth := 50) +contextual [hS , ih]; done) | (simp_all (maxDischargeDepth := 50) +contextual [pair_iff]; done) | (refine foldl_sound ?_ (by first | (simp (maxDischargeDepth := 50) +contextual [hS , ih]; done) | (simp_all (maxDischargeDepth := 50) +contextual [pair_iff]; done)); intro s' x' hs'; (try dsimp only); (repeat' split) <;> (first | (simp (maxDischargeDepth := 50) +contextual [hS , ih]; done) | (simp_all (maxDischargeDepth := 50) +contextual [pair_iff]; done)))

@[simp] theorem State.journalStart_sound (s : State) (hS : s.Sound gr) :
    (State.journalStart s).Sound gr := by
  unfold State.journalStart; simp [hS]

@[simp] theorem State.journalPush_sound (s : State) (o : JOp) (hS : s.Sound gr) :
    (State.journalPush s o).Sound gr := by
  unfold State.journalPush; simp [hS]

@[simp] theorem State.journalPushAll_sound (s : State) (l : List JOp) (hS : s.Sound gr) :
    (State.journalPushAll s l).Sound gr := by
  unfold State.journalPushAll
  try dsimp only
  (repeat' split) <;> first | (simp (maxDischargeDepth := 50) +contextual [hS]; done) | (simp_all (maxDischargeDepth := 50) +contextual [pair_iff]; done) | (refine foldl_sound ?_ (by first | (simp (maxDischargeDepth := 50) +contextual [hS]; done) | (simp_all (maxDischargeDepth := 50) +contextual [pair_iff]; done)); intro s' x' hs'; (try dsimp only); (repeat' split) <;> (first | (simp (maxDischargeDepth := 50) +contextual [hS]; done) | (simp_all (maxDischargeDepth := 50) +contextual [pair_iff]; done)))

@[simp] theorem State.evidencePage_sound (s : State) (hS : s.Sound gr) :
    (State.evidencePage s).Sound gr := by
  unfold State.evidencePage; simp [hS]

@[simp] theorem State.evidenceRecord_sound (s : State) (type : Nat) (payload : List Byte) (hS : s.Sound gr) :
    (State.evidenceRecord s type payload).Sound gr := by
  unfold State.evidenceRecord; (repeat' split) <;> simp [hS]

@[simp] theorem coreCycle_sound (s : State) (hS : s.Sound gr) :
    (coreCycle s).Sound gr := by
  unfold coreCycle; simp [hS]

@[simp] theorem State.refreshXoff_sound (s : State) (hS : s.Sound gr) :
    (State.refreshXoff s).Sound gr := by
  unfold State.refreshXoff; simp [hS]

@[simp] theorem State.classify_sound (s : State) (p : Nat) (h : CellHdr) (hS : s.Sound gr) :
    (State.classify s p h).1.Sound gr := by
  unfold State.classify; dsimp only; (repeat' split) <;> simp (maxDischargeDepth := 9) +contextual [hS]

@[simp] theorem State.policeLane_sound (s : State) (e : Nat) (hS : s.Sound gr) :
    (State.policeLane s e).1.Sound gr := by
  unfold State.policeLane
  try dsimp only
  (repeat' split) <;> first | (simp (maxDischargeDepth := 50) +contextual [hS]; done) | (simp_all (maxDischargeDepth := 50) +contextual [pair_iff]; done) | (refine foldl_sound ?_ (by first | (simp (maxDischargeDepth := 50) +contextual [hS]; done) | (simp_all (maxDischargeDepth := 50) +contextual [pair_iff]; done)); intro s' x' hs'; (try dsimp only); (repeat' split) <;> (first | (simp (maxDischargeDepth := 50) +contextual [hS]; done) | (simp_all (maxDischargeDepth := 50) +contextual [pair_iff]; done)))

@[simp] theorem State.placeQueue_sound (s : State) (e : Nat) (ing : Ingress) (vc : Nat) (inj : Inject) (hS : s.Sound gr) :
    (State.placeQueue s e ing vc inj).1.Sound gr := by
  unfold State.placeQueue; (repeat' split) <;> simp [hS]

@[simp] theorem State.enqueue_sound (s : State) (c : WireCell) (ing : Ingress) (place : Place) (buf : Nat) (inj : Inject) (x : Hop) (hS : s.Sound gr) :
    (State.enqueue s c ing place buf inj x).Sound gr := by
  unfold State.enqueue; dsimp only; (repeat' split) <;> simp (maxDischargeDepth := 9) +contextual [hS]

@[simp] theorem State.takeControl_sound (s : State) (c : WireCell) (ing : Ingress) (place : Place) (buf : Nat) (hS : s.Sound gr) :
    (State.takeControl s c ing place buf).Sound gr := by
  unfold State.takeControl
  try dsimp only
  (repeat' split) <;> first | (simp (maxDischargeDepth := 50) +contextual [hS]; done) | (simp_all (maxDischargeDepth := 50) +contextual [pair_iff]; done) | (refine foldl_sound ?_ (by first | (simp (maxDischargeDepth := 50) +contextual [hS]; done) | (simp_all (maxDischargeDepth := 50) +contextual [pair_iff]; done)); intro s' x' hs'; (try dsimp only); (repeat' split) <;> (first | (simp (maxDischargeDepth := 50) +contextual [hS]; done) | (simp_all (maxDischargeDepth := 50) +contextual [pair_iff]; done)))

@[simp] theorem State.takeCell_sound (s : State) (ing : Ingress) (c : WireCell) (inj : Inject) (hS : s.Sound gr) :
    (State.takeCell s ing c inj).1.Sound gr := by
  unfold State.takeCell
  extract_lets hh
  split
  · simp [hS]
  · split
    · split <;> simp [hS]
    · next _ _ s1 _ _ place _ =>
      extract_lets s2 moved s3
      have h1 : s1.Sound gr := hS
      have h2 : s2.Sound gr := by
        simp only [s2]; split
        · split <;> simp [h1]
        · exact h1
      have h3 : s3.Sound gr := by simp only [s3]; split <;> simp [h2]
      split
      · simp [h2]
      · split
        · split
          · exact State.evidence_sound _ _ h2
          · extract_lets right
            split
            · exact State.evidences_sound _ _ _ (foldl_sound (fun s x hs => by simp [hs]) h2)
            · exact State.evidence_sound _ _ h2
        · split
          · exact State.evidence_sound _ _ h3
          · exact State.enqueue_sound _ _ _ _ _ _ _ h3

@[simp] theorem State.portCell_sound (s : State) (p : Nat) (c : WireCell) (hS : s.Sound gr) :
    (State.portCell s p c).1.Sound gr := by
  unfold State.portCell; dsimp only; (repeat' split) <;> simp (maxDischargeDepth := 9) +contextual [hS]

@[simp] theorem State.inject_sound (s : State) (n f : Nat) (c : WireCell) (inj : Inject) (hS : s.Sound gr) :
    (State.inject s n f c inj).Sound gr := by
  unfold State.inject; (repeat' split) <;> simp [hS]

@[simp] theorem State.injectControl_sound (s : State) (c : WireCell) (hS : s.Sound gr) :
    (State.injectControl s c).Sound gr := by
  unfold State.injectControl; simp [hS]

@[simp] theorem State.requeue_sound (s : State) (q : QCell) (x : Hop) (hS : s.Sound gr) :
    (State.requeue s q x).Sound gr := by
  unfold State.requeue
  try dsimp only
  (repeat' split) <;> first | (simp (maxDischargeDepth := 50) +contextual [hS]; done) | (simp_all (maxDischargeDepth := 50) +contextual [pair_iff]; done) | (refine foldl_sound ?_ (by first | (simp (maxDischargeDepth := 50) +contextual [hS]; done) | (simp_all (maxDischargeDepth := 50) +contextual [pair_iff]; done)); intro s' x' hs'; (try dsimp only); (repeat' split) <;> (first | (simp (maxDischargeDepth := 50) +contextual [hS]; done) | (simp_all (maxDischargeDepth := 50) +contextual [pair_iff]; done)))

@[simp] theorem State.flushCells_sound (s : State) (p : Nat) (x0 : List QCell) (hS : s.Sound gr) :
    (State.flushCells s p x0).Sound gr := by
  induction x0 generalizing s with
  | nil => unfold State.flushCells; first | (simp (maxDischargeDepth := 50) +contextual [hS]; done) | (simp_all (maxDischargeDepth := 50) +contextual [pair_iff]; done)
  | cons a t ih =>
    unfold State.flushCells
    try dsimp only
    (repeat' split) <;> first | (simp (maxDischargeDepth := 50) +contextual [hS , ih]; done) | (simp_all (maxDischargeDepth := 50) +contextual [pair_iff]; done) | (refine foldl_sound ?_ (by first | (simp (maxDischargeDepth := 50) +contextual [hS , ih]; done) | (simp_all (maxDischargeDepth := 50) +contextual [pair_iff]; done)); intro s' x' hs'; (try dsimp only); (repeat' split) <;> (first | (simp (maxDischargeDepth := 50) +contextual [hS , ih]; done) | (simp_all (maxDischargeDepth := 50) +contextual [pair_iff]; done)))

@[simp] theorem State.escapeMove_sound (s : State) (e position : Nat) (hS : s.Sound gr) :
    (State.escapeMove s e position).Sound gr := by
  unfold State.escapeMove; dsimp only; (repeat' split) <;> simp (maxDischargeDepth := 9) +contextual [hS]

@[simp] theorem State.setResv_sound (s : State) (id : Nat) (r : Reservation) (hS : s.Sound gr) :
    (State.setResv s id r).Sound gr := by
  unfold State.setResv; simp [hS]

@[simp] theorem State.resvEvent_sound (s : State) (ev id : Nat) (r : Reservation) (e : Nat) (hS : s.Sound gr) :
    (State.resvEvent s ev id r e).Sound gr := by
  unfold State.resvEvent; (repeat' split) <;> simp (maxDischargeDepth := 9) +contextual [hS]

@[simp] theorem State.suspendResv_sound (s : State) (id e : Nat) (by_ : Option Nat) (hS : s.Sound gr) :
    (State.suspendResv s id e by_).Sound gr := by
  unfold State.suspendResv; (repeat' split) <;> simp [hS]

@[simp] theorem State.relieve_sound (s : State) (ids : List Nat) (p : Nat) (hS : s.Sound gr) :
    (State.relieve s ids p).Sound gr := by
  unfold State.relieve
  try dsimp only
  (repeat' split) <;> first | (simp (maxDischargeDepth := 50) +contextual [hS]; done) | (simp_all (maxDischargeDepth := 50) +contextual [pair_iff]; done) | (refine foldl_sound ?_ (by first | (simp (maxDischargeDepth := 50) +contextual [hS]; done) | (simp_all (maxDischargeDepth := 50) +contextual [pair_iff]; done)); intro s' x' hs'; (try dsimp only); (repeat' split) <;> (first | (simp (maxDischargeDepth := 50) +contextual [hS]; done) | (simp_all (maxDischargeDepth := 50) +contextual [pair_iff]; done)))

@[simp] theorem State.suspendOver_sound (s : State) (ids : List Nat) (hS : s.Sound gr) :
    (State.suspendOver s ids).Sound gr := by
  unfold State.suspendOver
  try dsimp only
  (repeat' split) <;> first | (simp (maxDischargeDepth := 50) +contextual [hS]; done) | (simp_all (maxDischargeDepth := 50) +contextual [pair_iff]; done) | (refine foldl_sound ?_ (by first | (simp (maxDischargeDepth := 50) +contextual [hS]; done) | (simp_all (maxDischargeDepth := 50) +contextual [pair_iff]; done)); intro s' x' hs'; (try dsimp only); (repeat' split) <;> (first | (simp (maxDischargeDepth := 50) +contextual [hS]; done) | (simp_all (maxDischargeDepth := 50) +contextual [pair_iff]; done)))

@[simp] theorem State.readmit_sound (s : State) (ids : List Nat) (hS : s.Sound gr) :
    (State.readmit s ids).Sound gr := by
  unfold State.readmit
  try dsimp only
  (repeat' split) <;> first | (simp (maxDischargeDepth := 50) +contextual [hS]; done) | (simp_all (maxDischargeDepth := 50) +contextual [pair_iff]; done) | (refine foldl_sound ?_ (by first | (simp (maxDischargeDepth := 50) +contextual [hS]; done) | (simp_all (maxDischargeDepth := 50) +contextual [pair_iff]; done)); intro s' x' hs'; (try dsimp only); (repeat' split) <;> (first | (simp (maxDischargeDepth := 50) +contextual [hS]; done) | (simp_all (maxDischargeDepth := 50) +contextual [pair_iff]; done)))

@[simp] theorem State.rebalance_sound (s : State) (hS : s.Sound gr) :
    (State.rebalance s).Sound gr := by
  unfold State.rebalance; (repeat' split) <;> simp (maxDischargeDepth := 9) +contextual [hS]

@[simp] theorem State.setSync_sound (s : State) (y : SyncState) (hS : s.Sound gr) :
    (State.setSync s y).Sound gr := by
  unfold State.setSync; simp [hS]

@[simp] theorem State.latchFault_sound (s : State) (i : FaultInfo) (applied : Severity) (selfFault : Bool) (hS : s.Sound gr) :
    (State.latchFault s i applied selfFault).Sound gr := by
  unfold State.latchFault; (repeat' split) <;> simp (maxDischargeDepth := 9) +contextual [hS]

@[simp] theorem State.enterHalt_sound (s : State) (hS : s.Sound gr) :
    (State.enterHalt s).Sound gr := by
  unfold State.enterHalt; simp [hS]

@[simp] theorem State.fault_sound (s : State) (i : FaultInfo) (hS : s.Sound gr) :
    (State.fault s i).Sound gr := by
  unfold State.fault; (repeat' split) <;> simp (maxDischargeDepth := 9) +contextual [hS]

@[simp] theorem State.faultOf_sound (s : State) (n : Nat) (hS : s.Sound gr) :
    (State.faultOf s n).Sound gr := by
  unfold State.faultOf; simp [hS]

@[simp] theorem State.emptyPort_sound (s : State) (p : Nat) (hS : s.Sound gr) :
    (State.emptyPort s p).Sound gr := by
  unfold State.emptyPort; (repeat' split) <;> simp (maxDischargeDepth := 9) +contextual [hS]

@[simp] theorem State.portState_sound (s : State) (p : Nat) (st : LinkState) (hS : s.Sound gr) :
    (State.portState s p st).Sound gr := by
  unfold State.portState; simp [hS]

@[simp] theorem State.enterHeld_sound (s : State) (p cause : Nat) (hS : s.Sound gr) :
    (State.enterHeld s p cause).Sound gr := by
  unfold State.enterHeld; (repeat' split) <;> simp (maxDischargeDepth := 9) +contextual [hS]

@[simp] theorem State.enterFlushed_sound (s : State) (p : Nat) (hS : s.Sound gr) :
    (State.enterFlushed s p).Sound gr := by
  unfold State.enterFlushed; (repeat' split) <;> simp (maxDischargeDepth := 9) +contextual [hS]

@[simp] theorem State.endDisable_sound (s : State) (p cause : Nat) (hS : s.Sound gr) :
    (State.endDisable s p cause).Sound gr := by
  unfold State.endDisable; (repeat' split) <;> simp (maxDischargeDepth := 9) +contextual [hS]

@[simp] theorem State.beginDisable_sound (s : State) (p cause : Nat) (hS : s.Sound gr) :
    (State.beginDisable s p cause).Sound gr := by
  unfold State.beginDisable; (repeat' split) <;> simp [hS]

@[simp] theorem State.beginTraining_sound (s : State) (p : Nat) (hS : s.Sound gr) :
    (State.beginTraining s p).Sound gr := by
  unfold State.beginTraining; simp [hS]

@[simp] theorem State.flushAndTrain_sound (s : State) (p cause : Nat) (hS : s.Sound gr) :
    (State.flushAndTrain s p cause).Sound gr := by
  unfold State.flushAndTrain; (repeat' split) <;> simp (maxDischargeDepth := 9) +contextual [hS]

@[simp] theorem State.applyRole_sound (s : State) (p role peer : Nat) (last : Option Hello) (hS : s.Sound gr) :
    (State.applyRole s p role peer last).Sound gr := by
  unfold State.applyRole; (repeat' split) <;> simp (maxDischargeDepth := 9) +contextual [hS]

@[simp] theorem State.logViolation_sound (s : State) (p code seq header count : Nat) (hS : s.Sound gr) :
    (State.logViolation s p code seq header count).Sound gr := by
  unfold State.logViolation; simp [hS]

@[simp] theorem State.violation_sound (s : State) (p code : Nat) (th : TrainHdr) (hS : s.Sound gr) :
    (State.violation s p code th).Sound gr := by
  unfold State.violation; (repeat' split) <;> simp (maxDischargeDepth := 9) +contextual [hS]

@[simp] theorem State.replayFrom_sound (s : State) (p q : Nat) (hS : s.Sound gr) :
    (State.replayFrom s p q).Sound gr := by
  unfold State.replayFrom; (repeat' split) <;> simp (maxDischargeDepth := 9) +contextual [hS]

@[simp] theorem State.headerFields_sound (s : State) (p : Nat) (th : TrainHdr) (nakHere : Bool) (hS : s.Sound gr) :
    (State.headerFields s p th nakHere).Sound gr := by
  unfold State.headerFields; (repeat' split) <;> simp (maxDischargeDepth := 9) +contextual [hS]

@[simp] theorem State.askReplay_sound (s : State) (p reason : Nat) (hS : s.Sound gr) :
    (State.askReplay s p reason).Sound gr := by
  unfold State.askReplay; simp [hS]

@[simp] theorem State.emitTrain_sound (s : State) (p : Nat) (th : TrainHdr) (cells : List WireCell) (body : List Byte) (hS : s.Sound gr) :
    (State.emitTrain s p th cells body).Sound gr := by
  unfold State.emitTrain
  try dsimp only
  (repeat' split) <;> first | (simp (maxDischargeDepth := 50) +contextual [hS]; done) | (simp_all (maxDischargeDepth := 50) +contextual [pair_iff]; done) | (refine foldl_sound ?_ (by first | (simp (maxDischargeDepth := 50) +contextual [hS]; done) | (simp_all (maxDischargeDepth := 50) +contextual [pair_iff]; done)); intro s' x' hs'; (try dsimp only); (repeat' split) <;> (first | (simp (maxDischargeDepth := 50) +contextual [hS]; done) | (simp_all (maxDischargeDepth := 50) +contextual [pair_iff]; done)))

@[simp] theorem State.sendTrain_sound (s : State) (p kind seq : Nat) (replay : Bool) (cells : List WireCell) (body : List Byte) (hS : s.Sound gr) :
    (State.sendTrain s p kind seq replay cells body).Sound gr := by
  unfold State.sendTrain; simp [hS]

@[simp] theorem State.sendControl_sound (s : State) (p kind : Nat) (body : List Byte) (hS : s.Sound gr) :
    (State.sendControl s p kind body).Sound gr := by
  unfold State.sendControl; simp [hS]

@[simp] theorem State.requestLanes_sound (s : State) (p : Nat) (failed active : BitVec 8) (restore exposure : Bool) (hS : s.Sound gr) :
    (State.requestLanes s p failed active restore exposure).Sound gr := by
  unfold State.requestLanes; simp [hS]

@[simp] theorem State.standbyLane_sound (s : State) (p : Nat) (failed : BitVec 8) (hS : s.Sound gr) :
    (State.standbyLane s p failed).Sound gr := by
  unfold State.standbyLane
  try dsimp only
  (repeat' split) <;> first | (simp (maxDischargeDepth := 50) +contextual [hS]; done) | (simp_all (maxDischargeDepth := 50) +contextual [pair_iff]; done) | (refine foldl_sound ?_ (by first | (simp (maxDischargeDepth := 50) +contextual [hS]; done) | (simp_all (maxDischargeDepth := 50) +contextual [pair_iff]; done)); intro s' x' hs'; (try dsimp only); (repeat' split) <;> (first | (simp (maxDischargeDepth := 50) +contextual [hS]; done) | (simp_all (maxDischargeDepth := 50) +contextual [pair_iff]; done)))

@[simp] theorem State.badLanes_sound (s : State) (p : Nat) (lanes : BitVec 8) (cause : Nat) (hS : s.Sound gr) :
    (State.badLanes s p lanes cause).Sound gr := by
  unfold State.badLanes; dsimp only; (repeat' split) <;> simp (maxDischargeDepth := 9) +contextual [hS]

@[simp] theorem State.linkUp_sound (s : State) (p : Nat) (h : Hello) (st : LinkState) (step : Nat) (hS : s.Sound gr) :
    (State.linkUp s p h st step).Sound gr := by
  unfold State.linkUp; (repeat' split) <;> simp (maxDischargeDepth := 9) +contextual [hS]

@[simp] theorem State.announce_sound (s : State) (hS : s.Sound gr) :
    (State.announce s).Sound gr := by
  unfold State.announce; simp [hS]

@[simp] theorem State.chooseParent_sound (s : State) (hS : s.Sound gr) :
    (State.chooseParent s).Sound gr := by
  unfold State.chooseParent; dsimp only; (repeat' split) <;> simp (maxDischargeDepth := 9) +contextual [hS]

@[simp] theorem State.stepTime_sound (s : State) (now : Nat) (hS : s.Sound gr) :
    (State.stepTime s now).Sound gr := by
  unfold State.stepTime; simp [hS]

@[simp] theorem State.joined_sound (s : State) (hS : s.Sound gr) :
    (State.joined s).Sound gr := by
  unfold State.joined
  try dsimp only
  (repeat' split) <;> first | (simp (maxDischargeDepth := 50) +contextual [hS]; done) | (simp_all (maxDischargeDepth := 50) +contextual [pair_iff]; done) | (refine foldl_sound ?_ (by first | (simp (maxDischargeDepth := 50) +contextual [hS]; done) | (simp_all (maxDischargeDepth := 50) +contextual [pair_iff]; done)); intro s' x' hs'; (try dsimp only); (repeat' split) <;> (first | (simp (maxDischargeDepth := 50) +contextual [hS]; done) | (simp_all (maxDischargeDepth := 50) +contextual [pair_iff]; done)))

@[simp] theorem State.setSeconds_sound (s : State) (seconds : Nat) (hS : s.Sound gr) :
    (State.setSeconds s seconds).Sound gr := by
  unfold State.setSeconds
  try dsimp only
  (repeat' split) <;> first | (simp (maxDischargeDepth := 50) +contextual [hS]; done) | (simp_all (maxDischargeDepth := 50) +contextual [pair_iff]; done) | (refine foldl_sound ?_ (by first | (simp (maxDischargeDepth := 50) +contextual [hS]; done) | (simp_all (maxDischargeDepth := 50) +contextual [pair_iff]; done)); intro s' x' hs'; (try dsimp only); (repeat' split) <;> (first | (simp (maxDischargeDepth := 50) +contextual [hS]; done) | (simp_all (maxDischargeDepth := 50) +contextual [pair_iff]; done)))

@[simp] theorem State.correct_sound (s : State) (offset : Int) (hS : s.Sound gr) :
    (State.correct s offset).Sound gr := by
  unfold State.correct; (repeat' split) <;> simp (maxDischargeDepth := 9) +contextual [hS]

@[simp] theorem execTimeExchangeSend_sound (port : Nat) (s : State) (hS : s.Sound gr) :
    NextSound gr (execTimeExchangeSend port s) := by
  unfold execTimeExchangeSend; dsimp only; (repeat' split) <;> simp (maxDischargeDepth := 9) +contextual [hS]

@[simp] theorem State.noteOffer_sound (s : State) (p : Nat) (b : TimeBody) (hS : s.Sound gr) :
    (State.noteOffer s p b).Sound gr := by
  unfold State.noteOffer; simp [hS]

@[simp] theorem State.exchangeDone_sound (s : State) (p t1 : Nat) (b : TimeBody) (hS : s.Sound gr) :
    (State.exchangeDone s p t1 b).Sound gr := by
  unfold State.exchangeDone; (repeat' split) <;> simp (maxDischargeDepth := 9) +contextual [hS]

@[simp] theorem State.timeTrain_sound (s : State) (p : Nat) (body : List Byte) (hS : s.Sound gr) :
    (State.timeTrain s p body).Sound gr := by
  unfold State.timeTrain; dsimp only; (repeat' split) <;> simp (maxDischargeDepth := 9) +contextual [hS]

@[simp] theorem execRootOfferTimeout_sound (port : Nat) (s : State) (hS : s.Sound gr) :
    NextSound gr (execRootOfferTimeout port s) := by
  unfold execRootOfferTimeout; (repeat' split) <;> simp [hS]

@[simp] theorem execHoldoverExpiry_sound (s : State) (hS : s.Sound gr) :
    NextSound gr (execHoldoverExpiry s) := by
  unfold execHoldoverExpiry; (repeat' split) <;> simp [hS]

@[simp] theorem execBackupTakeover_sound (s : State) (hS : s.Sound gr) :
    NextSound gr (execBackupTakeover s) := by
  unfold execBackupTakeover; (repeat' split) <;> simp [hS]

@[simp] theorem execPpsEdge_sound (s : State) (hS : s.Sound gr) :
    NextSound gr (execPpsEdge s) := by
  unfold execPpsEdge; dsimp only; (repeat' split) <;> simp (maxDischargeDepth := 9) +contextual [hS]

@[simp] theorem State.goodTrain_sound (s : State) (p : Nat) (th : TrainHdr) (nakHere : Bool) (hS : s.Sound gr) :
    (State.goodTrain s p th nakHere).Sound gr := by
  unfold State.goodTrain
  try dsimp only
  (repeat' split) <;> first | (simp (maxDischargeDepth := 50) +contextual [hS]; done) | (simp_all (maxDischargeDepth := 50) +contextual [pair_iff]; done) | (refine foldl_sound ?_ (by first | (simp (maxDischargeDepth := 50) +contextual [hS]; done) | (simp_all (maxDischargeDepth := 50) +contextual [pair_iff]; done)); intro s' x' hs'; (try dsimp only); (repeat' split) <;> (first | (simp (maxDischargeDepth := 50) +contextual [hS]; done) | (simp_all (maxDischargeDepth := 50) +contextual [pair_iff]; done)))

@[simp] theorem State.decoded_sound (s : State) (p : Nat) (hS : s.Sound gr) :
    (State.decoded s p).Sound gr := by
  unfold State.decoded
  try dsimp only
  (repeat' split) <;> first | (simp (maxDischargeDepth := 50) +contextual [hS]; done) | (simp_all (maxDischargeDepth := 50) +contextual [pair_iff]; done) | (refine foldl_sound ?_ (by first | (simp (maxDischargeDepth := 50) +contextual [hS]; done) | (simp_all (maxDischargeDepth := 50) +contextual [pair_iff]; done)); intro s' x' hs'; (try dsimp only); (repeat' split) <;> (first | (simp (maxDischargeDepth := 50) +contextual [hS]; done) | (simp_all (maxDischargeDepth := 50) +contextual [pair_iff]; done)))

@[simp] theorem State.controlTrain_sound (s : State) (p kind : Nat) (th : TrainHdr) (reserved bad nakHere : Bool) (k : State → State) (hS : s.Sound gr) (h_k : ∀ y0, State.Sound y0 gr → State.Sound (k y0) gr) :
    (State.controlTrain s p kind th reserved bad nakHere k).Sound gr := by
  unfold State.controlTrain
  try dsimp only
  (repeat' split) <;> first | (simp (maxDischargeDepth := 50) +contextual [hS, h_k]; done) | (simp_all (maxDischargeDepth := 50) +contextual [pair_iff]; done) | (refine foldl_sound ?_ (by first | (simp (maxDischargeDepth := 50) +contextual [hS, h_k]; done) | (simp_all (maxDischargeDepth := 50) +contextual [pair_iff]; done)); intro s' x' hs'; (try dsimp only); (repeat' split) <;> (first | (simp (maxDischargeDepth := 50) +contextual [hS, h_k]; done) | (simp_all (maxDischargeDepth := 50) +contextual [pair_iff]; done)))

@[simp] theorem State.deliverCells_sound (s : State) (p : Nat) (th : TrainHdr) (standby : Bool) (x0 : List WireCell) (hS : s.Sound gr) :
    (State.deliverCells s p th standby x0).Sound gr := by
  induction x0 generalizing s with
  | nil => unfold State.deliverCells; first | (simp (maxDischargeDepth := 50) +contextual [hS]; done) | (simp_all (maxDischargeDepth := 50) +contextual [pair_iff]; done)
  | cons a t ih =>
    unfold State.deliverCells
    try dsimp only
    (repeat' split) <;> first | (simp (maxDischargeDepth := 50) +contextual [hS , ih]; done) | (simp_all (maxDischargeDepth := 50) +contextual [pair_iff]; done) | (refine foldl_sound ?_ (by first | (simp (maxDischargeDepth := 50) +contextual [hS , ih]; done) | (simp_all (maxDischargeDepth := 50) +contextual [pair_iff]; done)); intro s' x' hs'; (try dsimp only); (repeat' split) <;> (first | (simp (maxDischargeDepth := 50) +contextual [hS , ih]; done) | (simp_all (maxDischargeDepth := 50) +contextual [pair_iff]; done)))

@[simp] theorem execDataTrainReceive_sound (port : Nat) (th : TrainHdr) (cells : List WireCell) (s : State) (hS : s.Sound gr) :
    NextSound gr (execDataTrainReceive port th cells s) := by
  unfold execDataTrainReceive; dsimp only; (repeat' split) <;> simp (maxDischargeDepth := 9) +contextual [hS]

@[simp] theorem execTrainCrcFail_sound (port : Nat) (isData : Bool) (s : State) (hS : s.Sound gr) :
    NextSound gr (execTrainCrcFail port isData s) := by
  unfold execTrainCrcFail; (repeat' split) <;> simp (maxDischargeDepth := 9) +contextual [hS]

@[simp] theorem execFecUncorrectable_sound (port codewords dataTrains : Nat) (s : State) (hS : s.Sound gr) :
    NextSound gr (execFecUncorrectable port codewords dataTrains s) := by
  unfold execFecUncorrectable; (repeat' split) <;> simp (maxDischargeDepth := 9) +contextual [hS]

@[simp] theorem execIdleTrainReceive_sound (port : Nat) (th : TrainHdr) (s : State) (hS : s.Sound gr) :
    NextSound gr (execIdleTrainReceive port th s) := by
  unfold execIdleTrainReceive; simp [hS]

@[simp] theorem execTimeTrainReceive_sound (port : Nat) (th : TrainHdr) (body : List Byte) (s : State) (hS : s.Sound gr) :
    NextSound gr (execTimeTrainReceive port th body s) := by
  unfold execTimeTrainReceive; (repeat' split) <;> simp (maxDischargeDepth := 9) +contextual [hS]

@[simp] theorem execNakTrainReceive_sound (port : Nat) (th : TrainHdr) (body : List Byte) (s : State) (hS : s.Sound gr) :
    NextSound gr (execNakTrainReceive port th body s) := by
  unfold execNakTrainReceive; (repeat' split) <;> simp (maxDischargeDepth := 9) +contextual [hS]

@[simp] theorem execViolationTrainReceive_sound (port : Nat) (th : TrainHdr) (body : List Byte) (s : State) (hS : s.Sound gr) :
    NextSound gr (execViolationTrainReceive port th body s) := by
  unfold execViolationTrainReceive; simp [hS]

@[simp] theorem execSummaryTrainReceive_sound (port : Nat) (th : TrainHdr) (body : List Byte) (s : State) (hS : s.Sound gr) :
    NextSound gr (execSummaryTrainReceive port th body s) := by
  unfold execSummaryTrainReceive; (repeat' split) <;> simp (maxDischargeDepth := 9) +contextual [hS]

@[simp] theorem execKeepaliveTrainReceive_sound (port : Nat) (th : TrainHdr) (body : List Byte) (s : State) (hS : s.Sound gr) :
    NextSound gr (execKeepaliveTrainReceive port th body s) := by
  unfold execKeepaliveTrainReceive; simp [hS]

@[simp] theorem execHelloTrainReceive_sound (port : Nat) (th : TrainHdr) (body : List Byte) (s : State) (hS : s.Sound gr) :
    NextSound gr (execHelloTrainReceive port th body s) := by
  unfold execHelloTrainReceive; (repeat' split) <;> simp (maxDischargeDepth := 9) +contextual [hS]

@[simp] theorem State.crossLanes_sound (s : State) (p : Nat) (c : LaneChange) (failed active : BitVec 8) (hS : s.Sound gr) :
    (State.crossLanes s p c failed active).Sound gr := by
  unfold State.crossLanes
  try dsimp only
  (repeat' split) <;> first | (simp (maxDischargeDepth := 50) +contextual [hS]; done) | (simp_all (maxDischargeDepth := 50) +contextual [pair_iff]; done) | (refine foldl_sound ?_ (by first | (simp (maxDischargeDepth := 50) +contextual [hS]; done) | (simp_all (maxDischargeDepth := 50) +contextual [pair_iff]; done)); intro s' x' hs'; (try dsimp only); (repeat' split) <;> (first | (simp (maxDischargeDepth := 50) +contextual [hS]; done) | (simp_all (maxDischargeDepth := 50) +contextual [pair_iff]; done)))

@[simp] theorem State.answerLanes_sound (s : State) (p : Nat) (failed active : BitVec 8) (n : Nat) (hS : s.Sound gr) :
    (State.answerLanes s p failed active n).Sound gr := by
  unfold State.answerLanes; dsimp only; (repeat' split) <;> simp (maxDischargeDepth := 9) +contextual [hS]

@[simp] theorem State.refusedLanes_sound (s : State) (p : Nat) (c : LaneChange) (hS : s.Sound gr) :
    (State.refusedLanes s p c).Sound gr := by
  unfold State.refusedLanes
  try dsimp only
  (repeat' split) <;> first | (simp (maxDischargeDepth := 50) +contextual [hS]; done) | (simp_all (maxDischargeDepth := 50) +contextual [pair_iff]; done) | (refine foldl_sound ?_ (by first | (simp (maxDischargeDepth := 50) +contextual [hS]; done) | (simp_all (maxDischargeDepth := 50) +contextual [pair_iff]; done)); intro s' x' hs'; (try dsimp only); (repeat' split) <;> (first | (simp (maxDischargeDepth := 50) +contextual [hS]; done) | (simp_all (maxDischargeDepth := 50) +contextual [pair_iff]; done)))

@[simp] theorem State.laneTrain_sound (s : State) (p : Nat) (step : Nat) (failed active : BitVec 8) (n : Nat) (hS : s.Sound gr) :
    (State.laneTrain s p step failed active n).Sound gr := by
  unfold State.laneTrain; dsimp only; (repeat' split) <;> simp (maxDischargeDepth := 9) +contextual [hS]

@[simp] theorem execLaneChangeTrainReceive_sound (port : Nat) (th : TrainHdr) (body : List Byte) (s : State) (hS : s.Sound gr) :
    NextSound gr (execLaneChangeTrainReceive port th body s) := by
  unfold execLaneChangeTrainReceive; (repeat' split) <;> simp (maxDischargeDepth := 9) +contextual [hS]

@[simp] theorem State.releaseReplay_sound (s : State) (p q : Nat) (hS : s.Sound gr) :
    (State.releaseReplay s p q).Sound gr := by
  unfold State.releaseReplay; dsimp only; (repeat' split) <;> simp (maxDischargeDepth := 9) +contextual [hS]

@[simp] theorem State.releaseData_sound (s : State) (p : Nat) (cells : List QCell) (hS : s.Sound gr) :
    (State.releaseData s p cells).Sound gr := by
  unfold State.releaseData; (repeat' split) <;> simp (maxDischargeDepth := 9) +contextual [hS]

@[simp] theorem execTrainRelease_sound (port : Nat) (s : State) (hS : s.Sound gr) :
    NextSound gr (execTrainRelease port s) := by
  unfold execTrainRelease; dsimp only; (repeat' split) <;> simp (maxDischargeDepth := 9) +contextual [hS]

@[simp] theorem execSummarySend_sound (port : Nat) (s : State) (hS : s.Sound gr) :
    NextSound gr (execSummarySend port s) := by
  unfold execSummarySend; dsimp only; (repeat' split) <;> simp (maxDischargeDepth := 9) +contextual [hS]

@[simp] theorem execHelloSend_sound (port : Nat) (s : State) (hS : s.Sound gr) :
    NextSound gr (execHelloSend port s) := by
  unfold execHelloSend; dsimp only; (repeat' split) <;> simp (maxDischargeDepth := 9) +contextual [hS]

@[simp] theorem execKeepaliveSend_sound (port : Nat) (s : State) (hS : s.Sound gr) :
    NextSound gr (execKeepaliveSend port s) := by
  unfold execKeepaliveSend; dsimp only; (repeat' split) <;> simp (maxDischargeDepth := 9) +contextual [hS]

@[simp] theorem execLaneChangeResend_sound (port : Nat) (s : State) (hS : s.Sound gr) :
    NextSound gr (execLaneChangeResend port s) := by
  unfold execLaneChangeResend; (repeat' split) <;> simp [hS]

@[simp] theorem execNakRepeatTimeout_sound (port : Nat) (s : State) (hS : s.Sound gr) :
    NextSound gr (execNakRepeatTimeout port s) := by
  unfold execNakRepeatTimeout; dsimp only; (repeat' split) <;> simp (maxDischargeDepth := 9) +contextual [hS]

@[simp] theorem execLanesLocked_sound (port : Nat) (lanes : BitVec 8) (s : State) (hS : s.Sound gr) :
    NextSound gr (execLanesLocked port lanes s) := by
  unfold execLanesLocked; dsimp only; (repeat' split) <;> simp (maxDischargeDepth := 9) +contextual [hS]

@[simp] theorem execTrainingTimeout_sound (port : Nat) (s : State) (hS : s.Sound gr) :
    NextSound gr (execTrainingTimeout port s) := by
  unfold execTrainingTimeout; dsimp only; (repeat' split) <;> simp (maxDischargeDepth := 9) +contextual [hS]

@[simp] theorem execHandshakeComplete_sound (port : Nat) (s : State) (hS : s.Sound gr) :
    NextSound gr (execHandshakeComplete port s) := by
  unfold execHandshakeComplete; dsimp only; (repeat' split) <;> simp (maxDischargeDepth := 9) +contextual [hS]

@[simp] theorem execNoGoodTrainTimeout_sound (port : Nat) (s : State) (hS : s.Sound gr) :
    NextSound gr (execNoGoodTrainTimeout port s) := by
  unfold execNoGoodTrainTimeout; (repeat' split) <;> simp [hS]

@[simp] theorem execGraceExpiry_sound (port : Nat) (s : State) (hS : s.Sound gr) :
    NextSound gr (execGraceExpiry port s) := by
  unfold execGraceExpiry; (repeat' split) <;> simp [hS]

@[simp] theorem execLaneLockLoss_sound (port : Nat) (lanes : BitVec 8) (s : State) (hS : s.Sound gr) :
    NextSound gr (execLaneLockLoss port lanes s) := by
  unfold execLaneLockLoss; (repeat' split) <;> simp [hS]

@[simp] theorem execLaneErrorRateCheck_sound (port : Nat) (lanes : BitVec 8) (s : State) (hS : s.Sound gr) :
    NextSound gr (execLaneErrorRateCheck port lanes s) := by
  unfold execLaneErrorRateCheck; (repeat' split) <;> simp [hS]

@[simp] theorem execLaneChangeTimeout_sound (port : Nat) (s : State) (hS : s.Sound gr) :
    NextSound gr (execLaneChangeTimeout port s) := by
  unfold execLaneChangeTimeout; (repeat' split) <;> simp [hS]

@[simp] theorem execLaneChangeComplete_sound (port : Nat) (s : State) (hS : s.Sound gr) :
    NextSound gr (execLaneChangeComplete port s) := by
  unfold execLaneChangeComplete; dsimp only; (repeat' split) <;> simp (maxDischargeDepth := 9) +contextual [hS]

@[simp] theorem execExposureCheck_sound (port : Nat) (s : State) (hS : s.Sound gr) :
    NextSound gr (execExposureCheck port s) := by
  unfold execExposureCheck; dsimp only; (repeat' split) <;> simp (maxDischargeDepth := 9) +contextual [hS]

@[simp] theorem execStandbyKeepaliveLoss_sound (port : Nat) (s : State) (hS : s.Sound gr) :
    NextSound gr (execStandbyKeepaliveLoss port s) := by
  unfold execStandbyKeepaliveLoss; (repeat' split) <;> simp [hS]

@[simp] theorem execEscapeWaitExpiry_sound (egress position : Nat) (s : State) (hS : s.Sound gr) :
    NextSound gr (execEscapeWaitExpiry egress position s) := by
  unfold execEscapeWaitExpiry; (repeat' split) <;> simp [hS]

@[simp] theorem State.endVisit_sound (s : State) (e : Nat) (hS : s.Sound gr) :
    (State.endVisit s e).Sound gr := by
  unfold State.endVisit
  try dsimp only
  (repeat' split) <;> first | (simp (maxDischargeDepth := 50) +contextual [hS]; done) | (simp_all (maxDischargeDepth := 50) +contextual [pair_iff]; done) | (refine foldl_sound ?_ (by first | (simp (maxDischargeDepth := 50) +contextual [hS]; done) | (simp_all (maxDischargeDepth := 50) +contextual [pair_iff]; done)); intro s' x' hs'; (try dsimp only); (repeat' split) <;> (first | (simp (maxDischargeDepth := 50) +contextual [hS]; done) | (simp_all (maxDischargeDepth := 50) +contextual [pair_iff]; done)))

@[simp] theorem State.sendSelected_sound (s : State) (e i : Nat) (x : Egress) (hS : s.Sound gr) :
    (State.sendSelected s e i x).Sound gr := by
  unfold State.sendSelected; (repeat' split) <;> simp (maxDischargeDepth := 9) +contextual [hS]

@[simp] theorem execEgressCellSelect_sound (egress : Nat) (s : State) (hS : s.Sound gr) :
    NextSound gr (execEgressCellSelect egress s) := by
  unfold execEgressCellSelect; (repeat' split) <;> simp [hS]

@[simp] theorem State.meterParcel_sound (s : State) (f : Nat) (c : Class) (n : Nat) (hS : s.Sound gr) :
    (State.meterParcel s f c n).2.Sound gr := by
  unfold State.meterParcel; (repeat' split) <;> simp [hS]

@[simp] theorem State.modSched_sound (s : State) (f : Nat) (g : Sched → Sched) (hS : s.Sound gr) :
    (State.modSched s f g).Sound gr := by
  unfold State.modSched; simp [hS]

@[simp] theorem State.applyChange_sound (s : State) (x0 : SbChange) (hS : s.Sound gr) :
    (State.applyChange s x0).Sound gr := by
  unfold State.applyChange; (repeat' split) <;> simp [hS]

@[simp] theorem State.applyChanges_sound (s : State) (hS : s.Sound gr) :
    (State.applyChanges s).Sound gr := by
  unfold State.applyChanges; (repeat' split) <;> simp (maxDischargeDepth := 9) +contextual [hS]

@[simp] theorem State.pushChange_sound (s : State) (c : SbChange) (hS : s.Sound gr) :
    (State.pushChange s c).Sound gr := by
  unfold State.pushChange; simp [hS]

@[simp] theorem State.grantEngine_sound (s : State) (n tick : Nat) (hS : s.Sound gr) :
    (State.grantEngine s n tick).Sound gr := by
  unfold State.grantEngine; (repeat' split) <;> simp (maxDischargeDepth := 9) +contextual [hS]

@[simp] theorem State.useGrant_sound (s : State) (n f : Nat) (c : Class) (hS : s.Sound gr) :
    (State.useGrant s n f c).Sound gr := by
  unfold State.useGrant; simp [hS]

@[simp] theorem State.remeter_sound (s : State) (n : Nat) (hS : s.Sound gr) :
    (State.remeter s n).Sound gr := by
  unfold State.remeter
  refine foldl_sound (fun s x h => foldl_sound (fun s p h => ?_) h) hS
  dsimp only
  split <;> simp [h]

@[simp] theorem State.remeterAnswers_sound (s : State) (n : Nat) (hS : s.Sound gr) :
    (State.remeterAnswers s n).Sound gr := by
  unfold State.remeterAnswers
  try dsimp only
  (repeat' split) <;> first | (simp (maxDischargeDepth := 50) +contextual [hS]; done) | (simp_all (maxDischargeDepth := 50) +contextual [pair_iff]; done) | (refine foldl_sound ?_ (by first | (simp (maxDischargeDepth := 50) +contextual [hS]; done) | (simp_all (maxDischargeDepth := 50) +contextual [pair_iff]; done)); intro s' x' hs'; (try dsimp only); (repeat' split) <;> (first | (simp (maxDischargeDepth := 50) +contextual [hS]; done) | (simp_all (maxDischargeDepth := 50) +contextual [pair_iff]; done)))

@[simp] theorem State.remeterMcast_sound (s : State) (n : Nat) (hS : s.Sound gr) :
    (State.remeterMcast s n).Sound gr := by
  unfold State.remeterMcast; (repeat' split) <;> simp (maxDischargeDepth := 9) +contextual [hS]

@[simp] theorem State.slotTicks_sound (s : State) (hS : s.Sound gr) :
    (State.slotTicks s).Sound gr := by
  unfold State.slotTicks; (repeat' split) <;> simp (maxDischargeDepth := 9) +contextual [hS]

@[simp] theorem State.meterRing_sound (s : State) (rc : List Byte) (hS : s.Sound gr) :
    (State.meterRing s rc).Sound gr := by
  unfold State.meterRing; (repeat' split) <;> simp (maxDischargeDepth := 9) +contextual [hS]

@[simp] theorem State.journalMeters_sound (s : State) (recs : List (List Byte)) (hS : s.Sound gr) :
    (State.journalMeters s recs).Sound gr := by
  unfold State.journalMeters; (repeat' split) <;> simp (maxDischargeDepth := 9) +contextual [hS]

@[simp] theorem State.snapshotAt_sound (s : State) (tick : Nat) (hS : s.Sound gr) :
    (State.snapshotAt s tick).Sound gr := by
  unfold State.snapshotAt
  try dsimp only
  (repeat' split) <;> first | (simp (maxDischargeDepth := 50) +contextual [hS]; done) | (simp_all (maxDischargeDepth := 50) +contextual [pair_iff]; done) | (refine foldl_sound ?_ (by first | (simp (maxDischargeDepth := 50) +contextual [hS]; done) | (simp_all (maxDischargeDepth := 50) +contextual [pair_iff]; done)); intro s' x' hs'; (try dsimp only); (repeat' split) <;> (first | (simp (maxDischargeDepth := 50) +contextual [hS]; done) | (simp_all (maxDischargeDepth := 50) +contextual [pair_iff]; done)))

@[simp] theorem execMeterSnapshot_sound (s : State) (hS : s.Sound gr) :
    NextSound gr (execMeterSnapshot s) := by
  unfold execMeterSnapshot; (repeat' split) <;> simp (maxDischargeDepth := 9) +contextual [hS]

@[simp] theorem State.sbTick_sound (s : State) (tick : Nat) (hS : s.Sound gr) :
    (State.sbTick s tick).Sound gr := by
  unfold State.sbTick; (repeat' split) <;> simp (maxDischargeDepth := 9) +contextual [hS]

end Sys2Proof.Machine
end

