-- ==== Sys2Proof/Laws/SoundFlows.lean ====
section
/-! SUPPORT. The lemmas of Laws/Sound for windows, rings, flows, matching, collectives, ticks and tokens. -/
namespace Sys2Proof.Machine

set_option linter.all false

open Sys2Proof

variable {gr : Footing}

@[simp] theorem State.lookup_sound (s : State) (client domain id : Nat) (hS : s.Sound gr) :
    (State.lookup s client domain id).1.Sound gr := by
  unfold State.lookup; dsimp only; (repeat' split) <;> simp (maxDischargeDepth := 9) +contextual [hS]

@[simp] theorem State.holdExtent_sound (s : State) (c : Cached) (i : Nat) (hS : s.Sound gr) :
    (State.holdExtent s c i).1.Sound gr := by
  unfold State.holdExtent; simp [hS]

@[simp] theorem State.marks_sound (s : State) (client domain id gen : Nat) (need : Need) (o n : Nat) (hS : s.Sound gr) :
    (State.marks s client domain id gen need o n).Sound gr := by
  unfold State.marks; (repeat' split) <;> simp [hS]

@[simp] theorem State.refuse_sound (s : State) (domain id sub : Nat) (hS : s.Sound gr) :
    (State.refuse s domain id sub).1.Sound gr := by
  unfold State.refuse; (repeat' split) <;> simp (maxDischargeDepth := 9) +contextual [hS]

@[simp] theorem State.translatePage_sound (s : State) (a f page : Nat) (hS : s.Sound gr) :
    (State.translatePage s a f page).1.Sound gr := by
  unfold State.translatePage
  try dsimp only
  (repeat' split) <;> first | (simp (maxDischargeDepth := 50) +contextual [hS]; done) | (simp_all (maxDischargeDepth := 50) +contextual [pair_iff]; done) | (refine foldl_sound ?_ (by first | (simp (maxDischargeDepth := 50) +contextual [hS]; done) | (simp_all (maxDischargeDepth := 50) +contextual [pair_iff]; done)); intro s' x' hs'; (try dsimp only); (repeat' split) <;> (first | (simp (maxDischargeDepth := 50) +contextual [hS]; done) | (simp_all (maxDischargeDepth := 50) +contextual [pair_iff]; done)))

@[simp] theorem State.translatePages_sound (s : State) (a f : Nat) (x0 : List (Nat × Nat)) (hS : s.Sound gr) :
    (State.translatePages s a f x0).1.Sound gr := by
  induction x0 generalizing s with
  | nil => exact hS
  | cons a t ih =>
    unfold State.translatePages
    split
    · next e => exact fst_of (State.translatePage_sound _ _ _ _ hS) e
    · next e =>
      have h := fst_of (State.translatePage_sound _ _ _ _ hS) e
      split <;> (next e => exact fst_of (ih _ h) e)

@[simp] theorem State.translate_sound (s : State) (f : Nat) (ps : List (Nat × Nat)) (hS : s.Sound gr) :
    (State.translate s f ps).1.Sound gr := by
  unfold State.translate
  try dsimp only
  (repeat' split) <;> first | (simp (maxDischargeDepth := 50) +contextual [hS]; done) | (simp_all (maxDischargeDepth := 50) +contextual [pair_iff]; done) | (refine foldl_sound ?_ (by first | (simp (maxDischargeDepth := 50) +contextual [hS]; done) | (simp_all (maxDischargeDepth := 50) +contextual [pair_iff]; done)); intro s' x' hs'; (try dsimp only); (repeat' split) <;> (first | (simp (maxDischargeDepth := 50) +contextual [hS]; done) | (simp_all (maxDischargeDepth := 50) +contextual [pair_iff]; done)))

@[simp] theorem State.check_sound (s : State) (client domain id gen : Nat) (key : Option Nat) (remote : Bool) (need : Need) (o n align : Nat) (hS : s.Sound gr) :
    (State.check s client domain id gen key remote need o n align).1.Sound gr := by
  unfold State.check; dsimp only; (repeat' split) <;> simp_all (maxDischargeDepth := 9) +contextual [pair_iff]

@[simp] theorem State.resolve_sound (s : State) (client domain id gen : Nat) (key : Option Nat) (remote : Bool) (need : Need) (o n align : Nat) (hS : s.Sound gr) :
    (State.resolve s client domain id gen key remote need o n align).1.Sound gr := by
  unfold State.resolve
  try dsimp only
  (repeat' split) <;> first | (simp (maxDischargeDepth := 50) +contextual [hS]; done) | (simp_all (maxDischargeDepth := 50) +contextual [pair_iff]; done) | (refine foldl_sound ?_ (by first | (simp (maxDischargeDepth := 50) +contextual [hS]; done) | (simp_all (maxDischargeDepth := 50) +contextual [pair_iff]; done)); intro s' x' hs'; (try dsimp only); (repeat' split) <;> (first | (simp (maxDischargeDepth := 50) +contextual [hS]; done) | (simp_all (maxDischargeDepth := 50) +contextual [pair_iff]; done)))

@[simp] theorem State.resolveRemote_sound (s : State) (client : Nat) (domain : Option Nat) (key gen : Nat) (need : Need) (o n align : Nat) (hS : s.Sound gr) :
    (State.resolveRemote s client domain key gen need o n align).1.Sound gr := by
  unfold State.resolveRemote; (repeat' split) <;> simp [hS]

@[simp] theorem State.resolveLocal_sound (s : State) (client domain id gen : Nat) (need : Need) (o n : Nat) (hS : s.Sound gr) :
    (State.resolveLocal s client domain id gen need o n).1.Sound gr := by
  unfold State.resolveLocal; simp [hS]

@[simp] theorem State.checkLocal_sound (s : State) (client domain id gen : Nat) (need : Need) (o n : Nat) (hS : s.Sound gr) :
    (State.checkLocal s client domain id gen need o n).1.Sound gr := by
  unfold State.checkLocal
  try dsimp only
  (repeat' split) <;> first | (simp (maxDischargeDepth := 50) +contextual [hS]; done) | (simp_all (maxDischargeDepth := 50) +contextual [pair_iff]; done) | (refine foldl_sound ?_ (by first | (simp (maxDischargeDepth := 50) +contextual [hS]; done) | (simp_all (maxDischargeDepth := 50) +contextual [pair_iff]; done)); intro s' x' hs'; (try dsimp only); (repeat' split) <;> (first | (simp (maxDischargeDepth := 50) +contextual [hS]; done) | (simp_all (maxDischargeDepth := 50) +contextual [pair_iff]; done)))

@[simp] theorem State.modRing_sound (s : State) (f r : Nat) (g : Ring → Ring) (hS : s.Sound gr) :
    (State.modRing s f r g).Sound gr := by
  unfold State.modRing; (repeat' split) <;> simp [hS]

@[simp] theorem State.putCounter_sound (s : State) (f c : Nat) (k : Counter) (hS : s.Sound gr) :
    (State.putCounter s f c k).Sound gr := by
  unfold State.putCounter; simp [hS]

@[simp] theorem State.writeCounter_sound (s : State) (f c : Nat) (k : Counter) (hS : s.Sound gr) :
    (State.writeCounter s f c k).Sound gr := by
  unfold State.writeCounter; (repeat' split) <;> simp [hS]

@[simp] theorem State.advance_sound (s : State) (f c n : Nat) (hS : s.Sound gr) :
    (State.advance s f c n).Sound gr := by
  unfold State.advance; (repeat' split) <;> simp [hS]

@[simp] theorem State.breakCounter_sound (s : State) (f c : Nat) (hS : s.Sound gr) :
    (State.breakCounter s f c).Sound gr := by
  unfold State.breakCounter; (repeat' split) <;> simp [hS]

@[simp] theorem State.errorRingFull_sound (s : State) (f r : Nat) (hS : s.Sound gr) :
    (State.errorRingFull s f r).Sound gr := by
  unfold State.errorRingFull; (repeat' split) <;> simp [hS]

@[simp] theorem State.writeError_sound (s : State) (f : Nat) (rc : List Byte) (hS : s.Sound gr) :
    (State.writeError s f rc).Sound gr := by
  unfold State.writeError; (repeat' split) <;> simp [hS]

@[simp] theorem State.addTally_sound (s : State) (f r n : Nat) (hS : s.Sound gr) :
    (State.addTally s f r n).Sound gr := by
  unfold State.addTally; (repeat' split) <;> simp [hS]

@[simp] theorem State.recordErrors_sound (s : State) (f r : Nat) (x0 : List (Nat × Entry)) (hS : s.Sound gr) :
    (State.recordErrors s f r x0).Sound gr := by
  induction x0 generalizing s with
  | nil => unfold State.recordErrors; first | (simp (maxDischargeDepth := 50) +contextual [hS]; done) | (simp_all (maxDischargeDepth := 50) +contextual [pair_iff]; done)
  | cons a t ih =>
    unfold State.recordErrors
    try dsimp only
    (repeat' split) <;> first | (simp (maxDischargeDepth := 50) +contextual [hS , ih]; done) | (simp_all (maxDischargeDepth := 50) +contextual [pair_iff]; done) | (refine foldl_sound ?_ (by first | (simp (maxDischargeDepth := 50) +contextual [hS , ih]; done) | (simp_all (maxDischargeDepth := 50) +contextual [pair_iff]; done)); intro s' x' hs'; (try dsimp only); (repeat' split) <;> (first | (simp (maxDischargeDepth := 50) +contextual [hS , ih]; done) | (simp_all (maxDischargeDepth := 50) +contextual [pair_iff]; done)))

@[simp] theorem State.publishNow_sound (s : State) (f r : Nat) (u : Unpublished) (hS : s.Sound gr) :
    (State.publishNow s f r u).Sound gr := by
  unfold State.publishNow
  try dsimp only
  (repeat' split) <;> first | (simp (maxDischargeDepth := 50) +contextual [hS]; done) | (simp_all (maxDischargeDepth := 50) +contextual [pair_iff]; done) | (refine foldl_sound ?_ (by first | (simp (maxDischargeDepth := 50) +contextual [hS]; done) | (simp_all (maxDischargeDepth := 50) +contextual [pair_iff]; done)); intro s' x' hs'; (try dsimp only); (repeat' split) <;> (first | (simp (maxDischargeDepth := 50) +contextual [hS]; done) | (simp_all (maxDischargeDepth := 50) +contextual [pair_iff]; done)))

@[simp] theorem State.publishAfter_sound (s : State) (f r : Nat) (u : Unpublished) (hS : s.Sound gr) :
    (State.publishAfter s f r u).Sound gr := by
  unfold State.publishAfter
  try dsimp only
  (repeat' split) <;> first | (simp (maxDischargeDepth := 50) +contextual [hS]; done) | (simp_all (maxDischargeDepth := 50) +contextual [pair_iff]; done) | (refine foldl_sound ?_ (by first | (simp (maxDischargeDepth := 50) +contextual [hS]; done) | (simp_all (maxDischargeDepth := 50) +contextual [pair_iff]; done)); intro s' x' hs'; (try dsimp only); (repeat' split) <;> (first | (simp (maxDischargeDepth := 50) +contextual [hS]; done) | (simp_all (maxDischargeDepth := 50) +contextual [pair_iff]; done)))

@[simp] theorem State.publishWaiting_sound (s : State) (f : Nat) (hS : s.Sound gr) :
    (State.publishWaiting s f).Sound gr := by
  unfold State.publishWaiting
  try dsimp only
  (repeat' split) <;> first | (simp (maxDischargeDepth := 50) +contextual [hS]; done) | (simp_all (maxDischargeDepth := 50) +contextual [pair_iff]; done) | (refine foldl_sound ?_ (by first | (simp (maxDischargeDepth := 50) +contextual [hS]; done) | (simp_all (maxDischargeDepth := 50) +contextual [pair_iff]; done)); intro s' x' hs'; (try dsimp only); (repeat' split) <;> (first | (simp (maxDischargeDepth := 50) +contextual [hS]; done) | (simp_all (maxDischargeDepth := 50) +contextual [pair_iff]; done)))

@[simp] theorem State.publish_sound (s : State) (f r : Nat) (l : List (Nat × Entry)) (hS : s.Sound gr) :
    (State.publish s f r l).Sound gr := by
  unfold State.publish; dsimp only; (repeat' split) <;> simp (maxDischargeDepth := 9) +contextual [hS]

@[simp] theorem State.retire_sound (s : State) (f r : Nat) (hS : s.Sound gr) :
    (State.retire s f r).Sound gr := by
  unfold State.retire; (repeat' split) <;> simp (maxDischargeDepth := 9) +contextual [hS]

@[simp] theorem State.final_sound (s : State) (f r index : Nat) (o : Outcome) (hS : s.Sound gr) :
    (State.final s f r index o).Sound gr := by
  unfold State.final; (repeat' split) <;> simp (maxDischargeDepth := 9) +contextual [hS]

@[simp] theorem State.fetch_sound (s : State) (f r : Nat) (hS : s.Sound gr) :
    (State.fetch s f r).Sound gr := by
  unfold State.fetch; (repeat' split) <;> simp [hS]

@[simp] theorem State.resume_sound (s : State) (f r : Nat) (hS : s.Sound gr) :
    (State.resume s f r).Sound gr := by
  unfold State.resume; (repeat' split) <;> simp (maxDischargeDepth := 9) +contextual [hS]

@[simp] theorem State.malformed_sound (s : State) (f r index reason : Nat) (bytes : List Byte) (hS : s.Sound gr) :
    (State.malformed s f r index reason bytes).Sound gr := by
  unfold State.malformed; (repeat' split) <;> simp (maxDischargeDepth := 9) +contextual [hS]

@[simp] theorem State.dropOp_sound (s : State) (place : Nat) (o : Op) (hS : s.Sound gr) :
    (State.dropOp s place o).Sound gr := by
  unfold State.dropOp; simp [hS]

@[simp] theorem State.finish_sound (s : State) (place : Nat) (st : Final) (subtype detail : Nat) (hS : s.Sound gr) :
    (State.finish s place st subtype detail).Sound gr := by
  unfold State.finish; (repeat' split) <;> simp (maxDischargeDepth := 9) +contextual [hS]

@[simp] theorem State.endRead_sound (s : State) (tag : Nat) (d : DmaRead) (hS : s.Sound gr) :
    (State.endRead s tag d).Sound gr := by
  unfold State.endRead; simp [hS]

@[simp] theorem State.reportRead_sound (s : State) (f : Nat) (x0 : HostErr) (hS : s.Sound gr) :
    (State.reportRead s f x0).Sound gr := by
  unfold State.reportRead; (repeat' split) <;> simp [hS]

@[simp] theorem State.writeHeld_sound (s : State) (f r : Nat) (x0 : List (List Byte)) (hS : s.Sound gr) :
    (State.writeHeld s f r x0).Sound gr := by
  induction x0 generalizing s with
  | nil => unfold State.writeHeld; first | (simp (maxDischargeDepth := 50) +contextual [hS]; done) | (simp_all (maxDischargeDepth := 50) +contextual [pair_iff]; done)
  | cons a t ih =>
    unfold State.writeHeld
    try dsimp only
    (repeat' split) <;> first | (simp (maxDischargeDepth := 50) +contextual [hS , ih]; done) | (simp_all (maxDischargeDepth := 50) +contextual [pair_iff]; done) | (refine foldl_sound ?_ (by first | (simp (maxDischargeDepth := 50) +contextual [hS , ih]; done) | (simp_all (maxDischargeDepth := 50) +contextual [pair_iff]; done)); intro s' x' hs'; (try dsimp only); (repeat' split) <;> (first | (simp (maxDischargeDepth := 50) +contextual [hS , ih]; done) | (simp_all (maxDischargeDepth := 50) +contextual [pair_iff]; done)))

@[simp] theorem State.loseHeld_sound (s : State) (f r : Nat) (g : Ring) (hS : s.Sound gr) :
    (State.loseHeld s f r g).Sound gr := by
  unfold State.loseHeld
  try dsimp only
  (repeat' split) <;> first | (simp (maxDischargeDepth := 50) +contextual [hS]; done) | (simp_all (maxDischargeDepth := 50) +contextual [pair_iff]; done) | (refine foldl_sound ?_ (by first | (simp (maxDischargeDepth := 50) +contextual [hS]; done) | (simp_all (maxDischargeDepth := 50) +contextual [pair_iff]; done)); intro s' x' hs'; (try dsimp only); (repeat' split) <;> (first | (simp (maxDischargeDepth := 50) +contextual [hS]; done) | (simp_all (maxDischargeDepth := 50) +contextual [pair_iff]; done)))

@[simp] theorem State.fetchFailed_sound (s : State) (f r : Nat) (desc : Bool) (again : State → State) (hS : s.Sound gr) (h_again : ∀ y0, State.Sound y0 gr → State.Sound (again y0) gr) :
    (State.fetchFailed s f r desc again).Sound gr := by
  unfold State.fetchFailed
  try dsimp only
  (repeat' split) <;> first | (simp (maxDischargeDepth := 50) +contextual [hS, h_again]; done) | (simp_all (maxDischargeDepth := 50) +contextual [pair_iff]; done) | (refine foldl_sound ?_ (by first | (simp (maxDischargeDepth := 50) +contextual [hS, h_again]; done) | (simp_all (maxDischargeDepth := 50) +contextual [pair_iff]; done)); intro s' x' hs'; (try dsimp only); (repeat' split) <;> (first | (simp (maxDischargeDepth := 50) +contextual [hS, h_again]; done) | (simp_all (maxDischargeDepth := 50) +contextual [pair_iff]; done)))

@[simp] theorem State.indexRead_sound (s : State) (f r p : Nat) (hS : s.Sound gr) :
    (State.indexRead s f r p).Sound gr := by
  unfold State.indexRead; (repeat' split) <;> simp (maxDischargeDepth := 9) +contextual [hS]

@[simp] theorem State.indexReturn_sound (s : State) (tag r : Nat) (d : DmaRead) (c : Completion) (hS : s.Sound gr) :
    (State.indexReturn s tag r d c).Sound gr := by
  unfold State.indexReturn; (repeat' split) <;> simp (maxDischargeDepth := 9) +contextual [hS]

@[simp] theorem State.warnCore_sound (s : State) (hS : s.Sound gr) :
    (State.warnCore s).Sound gr := by
  unfold State.warnCore; simp [hS]

@[simp] theorem State.wakeSource_sound (s : State) (hS : s.Sound gr) :
    (State.wakeSource s).Sound gr := by
  unfold State.wakeSource; (repeat' split) <;> simp [hS]

@[simp] theorem State.dropBell_sound (s : State) (x : Fn) (hS : s.Sound gr) :
    (State.dropBell s x).Sound gr := by
  unfold State.dropBell; simp [hS]

@[simp] theorem State.recordBell_sound (s : State) (f : Nat) (x : Fn) (r : Nat) (hS : s.Sound gr) :
    (State.recordBell s f x r).Sound gr := by
  unfold State.recordBell; simp [hS]

@[simp] theorem State.ringBell_sound (s : State) (f : Nat) (x : Fn) (r : Nat) (g : Ring) (hS : s.Sound gr) :
    (State.ringBell s f x r g).Sound gr := by
  unfold State.ringBell; (repeat' split) <;> simp (maxDischargeDepth := 9) +contextual [hS]

@[simp] theorem execDoorbell_sound (fn value : Nat) (s : State) (hS : s.Sound gr) :
    NextSound gr (execDoorbell fn value s) := by
  unfold execDoorbell; (repeat' split) <;> simp [hS]

@[simp] theorem State.setupEnd_sound (s : State) (f : Nat) (st : Status) (hS : s.Sound gr) :
    (State.setupEnd s f st).Sound gr := by
  unfold State.setupEnd; simp [hS]

@[simp] theorem State.setupAct_sound (s : State) (f : Nat) (k : Fn → State) (hS : s.Sound gr) (h_k : ∀ y0, State.Sound (k y0) gr) :
    (State.setupAct s f k).Sound gr := by
  unfold State.setupAct; (repeat' split) <;> simp [hS, h_k]

@[simp] theorem execRingCreate_sound (fn ring : Nat) (s : State) (hS : s.Sound gr) :
    NextSound gr (execRingCreate fn ring s) := by
  unfold execRingCreate; (repeat' split) <;> simp (maxDischargeDepth := 9) +contextual [hS]

@[simp] theorem State.setupReturn_sound (s : State) (f : Nat) (c : Completion) (hS : s.Sound gr) :
    (State.setupReturn s f c).Sound gr := by
  unfold State.setupReturn; (repeat' split) <;> simp (maxDischargeDepth := 9) +contextual [hS]

@[simp] theorem State.dropRingReads_sound (s : State) (f r : Nat) (hS : s.Sound gr) :
    (State.dropRingReads s f r).Sound gr := by
  unfold State.dropRingReads
  try dsimp only
  (repeat' split) <;> first | (simp (maxDischargeDepth := 50) +contextual [hS]; done) | (simp_all (maxDischargeDepth := 50) +contextual [pair_iff]; done) | (refine foldl_sound ?_ (by first | (simp (maxDischargeDepth := 50) +contextual [hS]; done) | (simp_all (maxDischargeDepth := 50) +contextual [pair_iff]; done)); intro s' x' hs'; (try dsimp only); (repeat' split) <;> (first | (simp (maxDischargeDepth := 50) +contextual [hS]; done) | (simp_all (maxDischargeDepth := 50) +contextual [pair_iff]; done)))

@[simp] theorem execRingDestroy_sound (fn ring : Nat) (s : State) (hS : s.Sound gr) :
    NextSound gr (execRingDestroy fn ring s) := by
  unfold execRingDestroy
  try dsimp only
  (repeat' split) <;> first | (rw [next_sound]; refine State.setupAct_sound _ _ _ hS ?_; intro x'; (try dsimp only); (repeat' split) <;> (first | (simp (maxDischargeDepth := 50) +contextual [hS ]; done) | (simp_all (maxDischargeDepth := 50) +contextual [pair_iff]; done))) | first | (simp (maxDischargeDepth := 50) +contextual [hS]; done) | (simp_all (maxDischargeDepth := 50) +contextual [pair_iff]; done) | (refine foldl_sound ?_ (by first | (simp (maxDischargeDepth := 50) +contextual [hS]; done) | (simp_all (maxDischargeDepth := 50) +contextual [pair_iff]; done)); intro s' x' hs'; (try dsimp only); (repeat' split) <;> (first | (simp (maxDischargeDepth := 50) +contextual [hS]; done) | (simp_all (maxDischargeDepth := 50) +contextual [pair_iff]; done)))

@[simp] theorem execRingQuery_sound (fn ring : Nat) (s : State) (hS : s.Sound gr) :
    NextSound gr (execRingQuery fn ring s) := by
  unfold execRingQuery
  try dsimp only
  (repeat' split) <;> first | (rw [next_sound]; refine State.setupAct_sound _ _ _ hS ?_; intro x'; (try dsimp only); (repeat' split) <;> (first | (simp (maxDischargeDepth := 50) +contextual [hS ]; done) | (simp_all (maxDischargeDepth := 50) +contextual [pair_iff]; done))) | first | (simp (maxDischargeDepth := 50) +contextual [hS]; done) | (simp_all (maxDischargeDepth := 50) +contextual [pair_iff]; done) | (refine foldl_sound ?_ (by first | (simp (maxDischargeDepth := 50) +contextual [hS]; done) | (simp_all (maxDischargeDepth := 50) +contextual [pair_iff]; done)); intro s' x' hs'; (try dsimp only); (repeat' split) <;> (first | (simp (maxDischargeDepth := 50) +contextual [hS]; done) | (simp_all (maxDischargeDepth := 50) +contextual [pair_iff]; done)))

@[simp] theorem execCounterAlloc_sound (fn counter : Nat) (s : State) (hS : s.Sound gr) :
    NextSound gr (execCounterAlloc fn counter s) := by
  unfold execCounterAlloc; (repeat' split) <;> simp (maxDischargeDepth := 9) +contextual [hS]

@[simp] theorem execCounterFree_sound (fn counter : Nat) (s : State) (hS : s.Sound gr) :
    NextSound gr (execCounterFree fn counter s) := by
  unfold execCounterFree; (repeat' split) <;> simp (maxDischargeDepth := 9) +contextual [hS]

@[simp] theorem State.settleWaits_sound (fuel : Nat) (x0 : State) (hS : x0.Sound gr) :
    (State.settleWaits fuel x0).Sound gr := by
  induction fuel generalizing x0 with
  | zero => unfold State.settleWaits; first | (simp (maxDischargeDepth := 50) +contextual [hS]; done) | (simp_all (maxDischargeDepth := 50) +contextual [pair_iff]; done)
  | succ n ih =>
    unfold State.settleWaits
    try dsimp only
    (repeat' split) <;> first | (simp (maxDischargeDepth := 50) +contextual [hS , ih]; done) | (simp_all (maxDischargeDepth := 50) +contextual [pair_iff]; done) | (refine foldl_sound ?_ (by first | (simp (maxDischargeDepth := 50) +contextual [hS , ih]; done) | (simp_all (maxDischargeDepth := 50) +contextual [pair_iff]; done)); intro s' x' hs'; (try dsimp only); (repeat' split) <;> (first | (simp (maxDischargeDepth := 50) +contextual [hS , ih]; done) | (simp_all (maxDischargeDepth := 50) +contextual [pair_iff]; done)))

@[simp] theorem State.setSrc_sound (s : State) (n fid : Nat) (x : SrcFlow) (hS : s.Sound gr) :
    (State.setSrc s n fid x).Sound gr := by
  unfold State.setSrc; simp [hS]

@[simp] theorem State.setDst_sound (s : State) (n d : Nat) (x : DstFlow) (hS : s.Sound gr) :
    (State.setDst s n d x).Sound gr := by
  unfold State.setDst; simp [hS]

@[simp] theorem State.modSrc_sound (s : State) (n fid : Nat) (f : SrcFlow → SrcFlow) (hS : s.Sound gr) :
    (State.modSrc s n fid f).Sound gr := by
  unfold State.modSrc; simp [hS]

@[simp] theorem State.modDst_sound (s : State) (n d : Nat) (f : DstFlow → DstFlow) (hS : s.Sound gr) :
    (State.modDst s n d f).Sound gr := by
  unfold State.modDst; simp [hS]

@[simp] theorem State.touch_sound (s : State) (k : Nat × Nat × Bool) (hS : s.Sound gr) :
    (State.touch s k).Sound gr := by
  unfold State.touch; dsimp only; (repeat' split) <;> simp (maxDischargeDepth := 9) +contextual [hS]

@[simp] theorem State.spillCtx_sound (s : State) (k : Nat × Nat × Bool) (hS : s.Sound gr) :
    (State.spillCtx s k).Sound gr := by
  unfold State.spillCtx
  try dsimp only
  (repeat' split) <;> first | (simp (maxDischargeDepth := 50) +contextual [hS]; done) | (simp_all (maxDischargeDepth := 50) +contextual [pair_iff]; done) | (refine foldl_sound ?_ (by first | (simp (maxDischargeDepth := 50) +contextual [hS]; done) | (simp_all (maxDischargeDepth := 50) +contextual [pair_iff]; done)); intro s' x' hs'; (try dsimp only); (repeat' split) <;> (first | (simp (maxDischargeDepth := 50) +contextual [hS]; done) | (simp_all (maxDischargeDepth := 50) +contextual [pair_iff]; done)))

@[simp] theorem State.ctxRoom_sound (s : State) (hS : s.Sound gr) :
    OptSound gr (State.ctxRoom s) := by
  unfold State.ctxRoom
  split
  · exact hS
  · split
    · cases s.stored.find? s.idleCtx <;> simp [hS]
    · exact True.intro

@[simp] theorem State.forgetCtx_sound (s : State) (k : Nat × Nat × Bool) (hS : s.Sound gr) :
    (State.forgetCtx s k).Sound gr := by
  unfold State.forgetCtx; simp [hS]

@[simp] theorem State.newFlow_sound (s : State) (k : FlowKey) (roleGen : Nat) (jobs : List Job) (hS : s.Sound gr) :
    (State.newFlow s k roleGen jobs).1.Sound gr := by
  unfold State.newFlow; dsimp only; (repeat' split) <;> simp (maxDischargeDepth := 9) +contextual [hS]

@[simp] theorem State.closeFlow_sound (s : State) (n fid : Nat) (hS : s.Sound gr) :
    (State.closeFlow s n fid).Sound gr := by
  unfold State.closeFlow; simp [hS]

@[simp] theorem State.localFails_sound (s : State) (place sub window off : Nat) (hS : s.Sound gr) :
    (State.localFails s place sub window off).Sound gr := by
  unfold State.localFails
  try dsimp only
  (repeat' split) <;> first | (simp (maxDischargeDepth := 50) +contextual [hS]; done) | (simp_all (maxDischargeDepth := 50) +contextual [pair_iff]; done) | (refine foldl_sound ?_ (by first | (simp (maxDischargeDepth := 50) +contextual [hS]; done) | (simp_all (maxDischargeDepth := 50) +contextual [pair_iff]; done)); intro s' x' hs'; (try dsimp only); (repeat' split) <;> (first | (simp (maxDischargeDepth := 50) +contextual [hS]; done) | (simp_all (maxDischargeDepth := 50) +contextual [pair_iff]; done)))

@[simp] theorem State.readPieces_sound (s : State) (f : Nat) (use : DmaUse) (place : Option Nat) (offset : Nat) (x0 : List (Nat × Nat)) (hS : s.Sound gr) :
    (State.readPieces s f use place offset x0).1.Sound gr := by
  induction x0 generalizing s offset with
  | nil => unfold State.readPieces; first | (simp (maxDischargeDepth := 50) +contextual [hS]; done) | (simp_all (maxDischargeDepth := 50) +contextual [pair_iff]; done)
  | cons a t ih =>
    unfold State.readPieces
    try dsimp only
    (repeat' split) <;> first | (simp (maxDischargeDepth := 50) +contextual [hS , ih]; done) | (simp_all (maxDischargeDepth := 50) +contextual [pair_iff]; done) | (refine foldl_sound ?_ (by first | (simp (maxDischargeDepth := 50) +contextual [hS , ih]; done) | (simp_all (maxDischargeDepth := 50) +contextual [pair_iff]; done)); intro s' x' hs'; (try dsimp only); (repeat' split) <;> (first | (simp (maxDischargeDepth := 50) +contextual [hS , ih]; done) | (simp_all (maxDischargeDepth := 50) +contextual [pair_iff]; done)))

@[simp] theorem State.readSource_sound (s : State) (n fid : Nat) (o : Op) (place seq : Nat) (src : Nat × Nat × Nat × Nat) (offset : Nat) (hS : s.Sound gr) :
    (State.readSource s n fid o place seq src offset).1.Sound gr := by
  unfold State.readSource; dsimp only; (repeat' split) <;> simp_all (maxDischargeDepth := 9) +contextual [pair_iff]

@[simp] theorem State.cutOp_sound (s : State) (n fid place : Nat) (o : Op) (x : SrcFlow) (hS : s.Sound gr) :
    (State.cutOp s n fid place o x).Sound gr := by
  unfold State.cutOp; dsimp only; (repeat' split) <;> simp_all (maxDischargeDepth := 9) +contextual [pair_iff]

@[simp] theorem State.pump_sound (s : State) (n fid : Nat) (hS : s.Sound gr) :
    (State.pump s n fid).Sound gr := by
  unfold State.pump; (repeat' split) <;> simp [hS]

@[simp] theorem State.pumpEngine_sound (s : State) (n : Nat) (hS : s.Sound gr) :
    (State.pumpEngine s n).Sound gr := by
  unfold State.pumpEngine; (repeat' split) <;> simp (maxDischargeDepth := 9) +contextual [hS]

@[simp] theorem State.modSender_sound (s : State) (n g : Nat) (f : Sender → Sender) (hS : s.Sound gr) :
    (State.modSender s n g f).Sound gr := by
  unfold State.modSender; simp [hS]

@[simp] theorem State.pumpMcast_sound (s : State) (n gid : Nat) (hS : s.Sound gr) :
    (State.pumpMcast s n gid).Sound gr := by
  unfold State.pumpMcast
  try dsimp only
  (repeat' split) <;> first | (simp (maxDischargeDepth := 50) +contextual [hS]; done) | (simp_all (maxDischargeDepth := 50) +contextual [pair_iff]; done) | (refine foldl_sound ?_ (by first | (simp (maxDischargeDepth := 50) +contextual [hS]; done) | (simp_all (maxDischargeDepth := 50) +contextual [pair_iff]; done)); intro s' x' hs'; (try dsimp only); (repeat' split) <;> (first | (simp (maxDischargeDepth := 50) +contextual [hS]; done) | (simp_all (maxDischargeDepth := 50) +contextual [pair_iff]; done)))

@[simp] theorem State.pumpMcasts_sound (s : State) (n : Nat) (hS : s.Sound gr) :
    (State.pumpMcasts s n).Sound gr := by
  unfold State.pumpMcasts; (repeat' split) <;> simp (maxDischargeDepth := 9) +contextual [hS]

@[simp] theorem State.setOp_sound (s : State) (place : Nat) (o : Op) (hS : s.Sound gr) :
    (State.setOp s place o).Sound gr := by
  unfold State.setOp; simp [hS]

@[simp] theorem State.onFlow_sound (s : State) (k : FlowKey) (roleGen : Nat) (j : Job) (hS : s.Sound gr) :
    (State.onFlow s k roleGen j).1.Sound gr := by
  unfold State.onFlow
  dsimp only
  split
  · split <;> simp [hS]
  · have hc : ∀ (c : Prop) [Decidable c], OptSound gr (if c then s.ctxRoom else none) := by
      intro c _; split <;> simp [hS]
    split
    · next e => have := some_of (hc _) e; simp [this]
    · split <;> simp [hS]

@[simp] theorem State.route_sound (s : State) (place : Nat) (o : Op) (hS : s.Sound gr) :
    (State.route s place o).Sound gr := by
  unfold State.route
  try dsimp only
  (repeat' split) <;> first | (simp (maxDischargeDepth := 50) +contextual [hS]; done) | (simp_all (maxDischargeDepth := 50) +contextual [pair_iff]; done) | (refine foldl_sound ?_ (by first | (simp (maxDischargeDepth := 50) +contextual [hS]; done) | (simp_all (maxDischargeDepth := 50) +contextual [pair_iff]; done)); intro s' x' hs'; (try dsimp only); (repeat' split) <;> (first | (simp (maxDischargeDepth := 50) +contextual [hS]; done) | (simp_all (maxDischargeDepth := 50) +contextual [pair_iff]; done)))

@[simp] theorem State.sendOwn_sound (s : State) (k : FlowKey) (p : OutParcel) (hS : s.Sound gr) :
    (State.sendOwn s k p).Sound gr := by
  unfold State.sendOwn
  try dsimp only
  (repeat' split) <;> first | (simp (maxDischargeDepth := 50) +contextual [hS]; done) | (simp_all (maxDischargeDepth := 50) +contextual [pair_iff]; done) | (refine foldl_sound ?_ (by first | (simp (maxDischargeDepth := 50) +contextual [hS]; done) | (simp_all (maxDischargeDepth := 50) +contextual [pair_iff]; done)); intro s' x' hs'; (try dsimp only); (repeat' split) <;> (first | (simp (maxDischargeDepth := 50) +contextual [hS]; done) | (simp_all (maxDischargeDepth := 50) +contextual [pair_iff]; done)))

@[simp] theorem State.start_sound (s : State) (place : Nat) (hS : s.Sound gr) :
    (State.start s place).Sound gr := by
  unfold State.start; (repeat' split) <;> simp [hS]

@[simp] theorem State.admitWaiting_sound (s : State) (hS : s.Sound gr) :
    (State.admitWaiting s).Sound gr := by
  unfold State.admitWaiting
  try dsimp only
  (repeat' split) <;> first | (simp (maxDischargeDepth := 50) +contextual [hS]; done) | (simp_all (maxDischargeDepth := 50) +contextual [pair_iff]; done) | (refine foldl_sound ?_ (by first | (simp (maxDischargeDepth := 50) +contextual [hS]; done) | (simp_all (maxDischargeDepth := 50) +contextual [pair_iff]; done)); intro s' x' hs'; (try dsimp only); (repeat' split) <;> (first | (simp (maxDischargeDepth := 50) +contextual [hS]; done) | (simp_all (maxDischargeDepth := 50) +contextual [pair_iff]; done)))

@[simp] theorem State.unstall_sound (s : State) (hS : s.Sound gr) :
    (State.unstall s).Sound gr := by
  unfold State.unstall; (repeat' split) <;> simp (maxDischargeDepth := 9) +contextual [hS]

@[simp] theorem State.settle_sound (s : State) (hS : s.Sound gr) :
    (State.settle s).Sound gr := by
  unfold State.settle; (repeat' split) <;> simp (maxDischargeDepth := 9) +contextual [hS]

theorem State.tagged_sound {s : State} {n fid : Nat} {x : SrcFlow} {p : OutParcel} {bytes : List Byte} {r : State × OutParcel}
    (hS : s.Sound gr) (e : s.tagged n fid x p bytes = some r) : r.1.Sound gr := by
  unfold State.tagged at e
  dsimp only at e
  split at e
  · cases e
  · next u q hq =>
    have hu : u.Sound gr := by
      split at hq
      · split at hq
        · cases hq; simp [hS]
        · cases hq
      · cases hq; exact hS
    split at e
    · obtain ⟨t, -, rfl⟩ := Option.map_eq_some_iff.mp e; exact hu
    · cases e; exact hu

@[simp] theorem State.injectOne_sound (s : State) (n f low : Nat) (c : Class) (resv : Option (Nat × Reservation)) (cell : WireCell) (hS : s.Sound gr) :
    OptSound gr (State.injectOne s n f low c resv cell) := by
  unfold State.injectOne; dsimp only; (repeat' split) <;> simp (maxDischargeDepth := 9) +contextual [hS]

@[simp] theorem State.injectCells_sound (s : State) (n f low : Nat) (c : Class) (resv : Option (Nat × Reservation)) (x0 : List WireCell) (hS : s.Sound gr) :
    (State.injectCells s n f low c resv x0).1.Sound gr := by
  induction x0 generalizing s with
  | nil => exact hS
  | cons a t ih =>
    unfold State.injectCells
    split
    · next e => exact ih _ (some_of (by simp [hS]) e)
    · exact hS

@[simp] theorem State.colourOf_sound (s : State) (f : Nat) (c : Class) (colour : Option Nat) (n : Nat) (hS : s.Sound gr) :
    (State.colourOf s f c colour n).1.Sound gr := by
  unfold State.colourOf
  try dsimp only
  (repeat' split) <;> first | (simp (maxDischargeDepth := 50) +contextual [hS]; done) | (simp_all (maxDischargeDepth := 50) +contextual [pair_iff]; done) | (refine foldl_sound ?_ (by first | (simp (maxDischargeDepth := 50) +contextual [hS]; done) | (simp_all (maxDischargeDepth := 50) +contextual [pair_iff]; done)); intro s' x' hs'; (try dsimp only); (repeat' split) <;> (first | (simp (maxDischargeDepth := 50) +contextual [hS]; done) | (simp_all (maxDischargeDepth := 50) +contextual [pair_iff]; done)))

@[simp] theorem State.putParcel_sound (s : State) (n fid : Nat) (p : OutParcel) (hS : s.Sound gr) :
    (State.putParcel s n fid p).Sound gr := by
  unfold State.putParcel; simp [hS]

@[simp] theorem State.sendLeft_sound (s : State) (n fid : Nat) (x : SrcFlow) (p : OutParcel) (c : Class) (resv : Option (Nat × Reservation)) (hS : s.Sound gr) :
    (State.sendLeft s n fid x p c resv).Sound gr := by
  unfold State.sendLeft; simp [hS]

@[simp] theorem State.resentIn_sound (s : State) (f : Nat) (x0 : Option (Nat × Reservation)) (hS : s.Sound gr) :
    (State.resentIn s f x0).Sound gr := by
  unfold State.resentIn
  try dsimp only
  (repeat' split) <;> first | (simp (maxDischargeDepth := 50) +contextual [hS]; done) | (simp_all (maxDischargeDepth := 50) +contextual [pair_iff]; done) | (refine foldl_sound ?_ (by first | (simp (maxDischargeDepth := 50) +contextual [hS]; done) | (simp_all (maxDischargeDepth := 50) +contextual [pair_iff]; done)); intro s' x' hs'; (try dsimp only); (repeat' split) <;> (first | (simp (maxDischargeDepth := 50) +contextual [hS]; done) | (simp_all (maxDischargeDepth := 50) +contextual [pair_iff]; done)))

@[simp] theorem State.countResend_sound (s : State) (n : Nat) (x : SrcFlow) (p : OutParcel) (hS : s.Sound gr) :
    (State.countResend s n x p).Sound gr := by
  unfold State.countResend
  try dsimp only
  (repeat' split) <;> first | (simp (maxDischargeDepth := 50) +contextual [hS]; done) | (simp_all (maxDischargeDepth := 50) +contextual [pair_iff]; done) | (refine foldl_sound ?_ (by first | (simp (maxDischargeDepth := 50) +contextual [hS]; done) | (simp_all (maxDischargeDepth := 50) +contextual [pair_iff]; done)); intro s' x' hs'; (try dsimp only); (repeat' split) <;> (first | (simp (maxDischargeDepth := 50) +contextual [hS]; done) | (simp_all (maxDischargeDepth := 50) +contextual [pair_iff]; done)))

@[simp] theorem State.holdResend_sound (s : State) (n fid : Nat) (p : OutParcel) (hS : s.Sound gr) :
    (State.holdResend s n fid p).Sound gr := by
  unfold State.holdResend
  try dsimp only
  (repeat' split) <;> first | (simp (maxDischargeDepth := 50) +contextual [hS]; done) | (simp_all (maxDischargeDepth := 50) +contextual [pair_iff]; done) | (refine foldl_sound ?_ (by first | (simp (maxDischargeDepth := 50) +contextual [hS]; done) | (simp_all (maxDischargeDepth := 50) +contextual [pair_iff]; done)); intro s' x' hs'; (try dsimp only); (repeat' split) <;> (first | (simp (maxDischargeDepth := 50) +contextual [hS]; done) | (simp_all (maxDischargeDepth := 50) +contextual [pair_iff]; done)))

@[simp] theorem State.release_sound (s : State) (n fid : Nat) (x : SrcFlow) (p : OutParcel) (hS : s.Sound gr) :
    (State.release s n fid x p).Sound gr := by
  unfold State.release
  split
  · exact hS
  · split
    · exact hS
    split
    · simp [hS]
    · have hc : ∀ cl k m, (s.colourOf x.fn cl k m).1.Sound gr := by intros; simp [hS]
      dsimp only
      split
      · next e =>
        have h := fst_of (hc _ _ _) e
        split <;> simp [h]
      · next e =>
        have h := fst_of (hc _ _ _) e
        simp [h]
      · next e =>
        have h := fst_of (hc _ _ _) e
        split
        · simp [h]
        · next e2 =>
          have h2 := State.tagged_sound h e2
          dsimp only at h2
          split
          · simp [h2]
          · refine State.putParcel_sound _ _ _ _ ?_
            (repeat' split) <;> simp (maxDischargeDepth := 50) [h2]

@[simp] theorem State.trySend_sound (s : State) (n fid seq : Nat) (hS : s.Sound gr) :
    (State.trySend s n fid seq).Sound gr := by
  unfold State.trySend; (repeat' split) <;> simp [hS]

@[simp] theorem State.injectAnswer_sound (s : State) (n : Nat) (a : OutAnswer) (hS : s.Sound gr) :
    (State.injectAnswer s n a).1.Sound gr := by
  unfold State.injectAnswer
  try dsimp only
  (repeat' split) <;> first | (simp (maxDischargeDepth := 50) +contextual [hS]; done) | (simp_all (maxDischargeDepth := 50) +contextual [pair_iff]; done) | (refine foldl_sound ?_ (by first | (simp (maxDischargeDepth := 50) +contextual [hS]; done) | (simp_all (maxDischargeDepth := 50) +contextual [pair_iff]; done)); intro s' x' hs'; (try dsimp only); (repeat' split) <;> (first | (simp (maxDischargeDepth := 50) +contextual [hS]; done) | (simp_all (maxDischargeDepth := 50) +contextual [pair_iff]; done)))

@[simp] theorem State.sendAnswers_sound (s : State) (n : Nat) (x0 : List OutAnswer) (hS : s.Sound gr) :
    (State.sendAnswers s n x0).1.Sound gr := by
  induction x0 generalizing s with
  | nil => exact hS
  | cons a t ih =>
    unfold State.sendAnswers
    have hm : (if a.parcel then s.colourOf a.fn (s.levelClass a.fn) a.colour a.cells.length else (s, 0, .go)).1.Sound gr := by
      split <;> simp [hS]
    dsimp only
    split
    · next e => exact ih _ (State.evidence_sound _ _ (fst_of hm e))
    · next e => exact ih _ (fst_of hm e)
    · next e => exact ih _ (State.injectAnswer_sound _ _ _ (fst_of hm e))

@[simp] theorem State.drainAnswers_sound (s : State) (n : Nat) (hS : s.Sound gr) :
    (State.drainAnswers s n).Sound gr := by
  unfold State.drainAnswers
  try dsimp only
  (repeat' split) <;> first | (simp (maxDischargeDepth := 50) +contextual [hS]; done) | (simp_all (maxDischargeDepth := 50) +contextual [pair_iff]; done) | (refine foldl_sound ?_ (by first | (simp (maxDischargeDepth := 50) +contextual [hS]; done) | (simp_all (maxDischargeDepth := 50) +contextual [pair_iff]; done)); intro s' x' hs'; (try dsimp only); (repeat' split) <;> (first | (simp (maxDischargeDepth := 50) +contextual [hS]; done) | (simp_all (maxDischargeDepth := 50) +contextual [pair_iff]; done)))

@[simp] theorem State.sendCells_sound (s : State) (n f : Nat) (cells : List WireCell) (parcel : Bool) (hS : s.Sound gr) :
    (State.sendCells s n f cells parcel).Sound gr := by
  unfold State.sendCells
  try dsimp only
  (repeat' split) <;> first | (simp (maxDischargeDepth := 50) +contextual [hS]; done) | (simp_all (maxDischargeDepth := 50) +contextual [pair_iff]; done) | (refine foldl_sound ?_ (by first | (simp (maxDischargeDepth := 50) +contextual [hS]; done) | (simp_all (maxDischargeDepth := 50) +contextual [pair_iff]; done)); intro s' x' hs'; (try dsimp only); (repeat' split) <;> (first | (simp (maxDischargeDepth := 50) +contextual [hS]; done) | (simp_all (maxDischargeDepth := 50) +contextual [pair_iff]; done)))

@[simp] theorem State.sendCell_sound (s : State) (n f : Nat) (c : WireCell) (hS : s.Sound gr) :
    (State.sendCell s n f c).Sound gr := by
  unfold State.sendCell; simp [hS]

@[simp] theorem State.ackGrant_sound (s : State) (n : Nat) (x : DstFlow) (tag seq d : Nat) (result : Option Nat) (grant : List Nat) (hS : s.Sound gr) :
    (State.ackGrant s n x tag seq d result grant).Sound gr := by
  unfold State.ackGrant
  try dsimp only
  (repeat' split) <;> first | (simp (maxDischargeDepth := 50) +contextual [hS]; done) | (simp_all (maxDischargeDepth := 50) +contextual [pair_iff]; done) | (refine foldl_sound ?_ (by first | (simp (maxDischargeDepth := 50) +contextual [hS]; done) | (simp_all (maxDischargeDepth := 50) +contextual [pair_iff]; done)); intro s' x' hs'; (try dsimp only); (repeat' split) <;> (first | (simp (maxDischargeDepth := 50) +contextual [hS]; done) | (simp_all (maxDischargeDepth := 50) +contextual [pair_iff]; done)))

@[simp] theorem State.ack_sound (s : State) (n : Nat) (x : DstFlow) (tag seq d : Nat) (result : Option Nat) (hS : s.Sound gr) :
    (State.ack s n x tag seq d result).Sound gr := by
  unfold State.ack; simp [hS]

@[simp] theorem State.nack_sound (s : State) (n : Nat) (x : DstFlow) (tag seq kind subtype detail : Nat) (hS : s.Sound gr) :
    (State.nack s n x tag seq kind subtype detail).Sound gr := by
  unfold State.nack; simp [hS]

@[simp] theorem State.drawTicks_sound (s : State) (hS : s.Sound gr) :
    (State.drawTicks s).2.Sound gr := by
  unfold State.drawTicks; simp [hS]

@[simp] theorem State.roleRefusal_sound (s : State) (f roleGen : Nat) (hS : s.Sound gr) :
    (State.roleRefusal s f roleGen).1.Sound gr := by
  unfold State.roleRefusal; (repeat' split) <;> simp [hS]

@[simp] theorem State.setTag_sound (s : State) (n tag : Nat) (t : Tag) (hS : s.Sound gr) :
    (State.setTag s n tag t).Sound gr := by
  unfold State.setTag; simp [hS]

@[simp] theorem State.staleArrival_sound (s : State) (n : Nat) (hS : s.Sound gr) :
    (State.staleArrival s n).Sound gr := by
  unfold State.staleArrival; simp [hS]

@[simp] theorem State.strayCell_sound (s : State) (n : Nat) (owner : Option TagOwner) (first : Bool) (hS : s.Sound gr) :
    (State.strayCell s n owner first).Sound gr := by
  unfold State.strayCell; (repeat' split) <;> simp [hS]

@[simp] theorem State.hand_sound (s : State) (n : Nat) (mcast : Bool) (tag cells : Nat) (h : ParcelHdr) (stream : List Byte) (hS : s.Sound gr) :
    (State.hand s n mcast tag cells h stream).Sound gr := by
  unfold State.hand; simp [hS]

@[simp] theorem State.countLate_sound (s : State) (resv : Reservation → Bool) (cells : List WireCell) (h : ParcelHdr) (tailAt : Nat) (hS : s.Sound gr) :
    (State.countLate s resv cells h tailAt).Sound gr := by
  unfold State.countLate; (repeat' split) <;> simp (maxDischargeDepth := 9) +contextual [hS]

@[simp] theorem State.completeFlow_sound (s : State) (n d tag : Nat) (h : ParcelHdr) (shape : Bool) (cells : List WireCell) (tailAt : Nat) (hS : s.Sound gr) :
    (State.completeFlow s n d tag h shape cells tailAt).Sound gr := by
  unfold State.completeFlow; dsimp only; (repeat' split) <;> simp_all (maxDischargeDepth := 9) +contextual [pair_iff]

@[simp] theorem State.completeResponse_sound (s : State) (n f tag : Nat) (h : ParcelHdr) (shape : Bool) (cells : List WireCell) (hS : s.Sound gr) :
    (State.completeResponse s n f tag h shape cells).Sound gr := by
  unfold State.completeResponse; (repeat' split) <;> simp [hS]

@[simp] theorem State.completeChunk_sound (s : State) (n g edge tag : Nat) (h : ParcelHdr) (shape : Bool) (cells : List WireCell) (hS : s.Sound gr) :
    (State.completeChunk s n g edge tag h shape cells).Sound gr := by
  unfold State.completeChunk; (repeat' split) <;> simp [hS]

@[simp] theorem State.completeOwned_sound (s : State) (n tag : Nat) (owner : TagOwner) (h : ParcelHdr) (shape : Bool) (cells : List WireCell) (tailAt : Nat) (hS : s.Sound gr) :
    (State.completeOwned s n tag owner h shape cells tailAt).Sound gr := by
  unfold State.completeOwned; (repeat' split) <;> simp [hS]

@[simp] theorem State.recordCell_sound (s : State) (n tag : Nat) (t : Tag) (r : Reasm) (c : WireCell) (hS : s.Sound gr) :
    (State.recordCell s n tag t r c).Sound gr := by
  unfold State.recordCell; dsimp only; (repeat' split) <;> simp (maxDischargeDepth := 9) +contextual [hS]

@[simp] theorem State.refuseCell_sound (s : State) (n tag : Nat) (t : Tag) (hS : s.Sound gr) :
    (State.refuseCell s n tag t).Sound gr := by
  unfold State.refuseCell; dsimp only; (repeat' split) <;> simp (maxDischargeDepth := 9) +contextual [hS]

@[simp] theorem State.taggedCell_sound (s : State) (n : Nat) (c : WireCell) (hS : s.Sound gr) :
    (State.taggedCell s n c).Sound gr := by
  unfold State.taggedCell; dsimp only; (repeat' split) <;> simp (maxDischargeDepth := 9) +contextual [hS]

@[simp] theorem State.taggedSingle_sound (s : State) (n : Nat) (c : WireCell) (h : ParcelHdr) (hS : s.Sound gr) :
    (State.taggedSingle s n c h).Sound gr := by
  unfold State.taggedSingle; (repeat' split) <;> simp [hS]

@[simp] theorem State.nackOrigin_sound (s : State) (n f : Nat) (o : Origin) (seq kind detail : Nat) (hS : s.Sound gr) :
    (State.nackOrigin s n f o seq kind detail).Sound gr := by
  unfold State.nackOrigin; simp [hS]

@[simp] theorem State.openSingle_sound (s : State) (n : Nat) (c : WireCell) (h : ParcelHdr) (hS : s.Sound gr) :
    (State.openSingle s n c h).Sound gr := by
  unfold State.openSingle; dsimp only; (repeat' split) <;> simp_all (maxDischargeDepth := 9) +contextual [pair_iff]

@[simp] theorem State.flowSingle_sound (s : State) (n : Nat) (c : WireCell) (h : ParcelHdr) (hS : s.Sound gr) :
    (State.flowSingle s n c h).Sound gr := by
  unfold State.flowSingle; (repeat' split) <;> simp [hS]

@[simp] theorem State.mcastCell_sound (s : State) (n : Nat) (c : WireCell) (hS : s.Sound gr) :
    (State.mcastCell s n c).Sound gr := by
  unfold State.mcastCell; dsimp only; (repeat' split) <;> simp (maxDischargeDepth := 9) +contextual [hS]

@[simp] theorem State.reasmCell_sound (s : State) (n : Nat) (c : WireCell) (hS : s.Sound gr) :
    (State.reasmCell s n c).Sound gr := by
  unfold State.reasmCell; (repeat' split) <;> simp (maxDischargeDepth := 9) +contextual [hS]

@[simp] theorem execReasmCellReceive_sound (pe : Nat) (s : State) (hS : s.Sound gr) :
    NextSound gr (execReasmCellReceive pe s) := by
  unfold execReasmCellReceive; (repeat' split) <;> simp (maxDischargeDepth := 9) +contextual [hS]

@[simp] theorem execReasmEntryTimeout_sound (pe tag : Nat) (mcast : Bool) (s : State) (hS : s.Sound gr) :
    NextSound gr (execReasmEntryTimeout pe tag mcast s) := by
  unfold execReasmEntryTimeout; dsimp only; (repeat' split) <;> simp (maxDischargeDepth := 9) +contextual [hS]

@[simp] theorem execTagQuarantineExpiry_sound (pe tag : Nat) (s : State) (hS : s.Sound gr) :
    NextSound gr (execTagQuarantineExpiry pe tag s) := by
  unfold execTagQuarantineExpiry; (repeat' split) <;> simp [hS]

@[simp] theorem State.park_sound (s : State) (n id : Nat) (isSource : Bool) (item : Parked) (cells : Nat) (hS : s.Sound gr) :
    (State.park s n id isSource item cells).1.Sound gr := by
  unfold State.park; dsimp only; (repeat' split) <;> simp (maxDischargeDepth := 9) +contextual [hS]

@[simp] theorem State.seqDone_sound (s : State) (n d seq : Nat) (hS : s.Sound gr) :
    (State.seqDone s n d seq).Sound gr := by
  unfold State.seqDone; simp [hS]

@[simp] theorem State.refuseParcel_sound (s : State) (n d : Nat) (tag seq kind detail : Nat) (hS : s.Sound gr) :
    (State.refuseParcel s n d tag seq kind detail).Sound gr := by
  unfold State.refuseParcel; (repeat' split) <;> simp [hS]

@[simp] theorem State.refuseFinal_sound (s : State) (n d : Nat) (tag seq kind subtype detail : Nat) (hS : s.Sound gr) :
    (State.refuseFinal s n d tag seq kind subtype detail).Sound gr := by
  unfold State.refuseFinal; (repeat' split) <;> simp [hS]

@[simp] theorem State.acceptParcel_sound (s : State) (n d : Nat) (tag seq delay : Nat) (result : Option Nat) (hS : s.Sound gr) :
    (State.acceptParcel s n d tag seq delay result).Sound gr := by
  unfold State.acceptParcel
  try dsimp only
  (repeat' split) <;> first | (simp (maxDischargeDepth := 50) +contextual [hS]; done) | (simp_all (maxDischargeDepth := 50) +contextual [pair_iff]; done) | (refine foldl_sound ?_ (by first | (simp (maxDischargeDepth := 50) +contextual [hS]; done) | (simp_all (maxDischargeDepth := 50) +contextual [pair_iff]; done)); intro s' x' hs'; (try dsimp only); (repeat' split) <;> (first | (simp (maxDischargeDepth := 50) +contextual [hS]; done) | (simp_all (maxDischargeDepth := 50) +contextual [pair_iff]; done)))

@[simp] theorem State.violated_sound (s : State) (n d : Nat) (tag seq sub window : Nat) (hS : s.Sound gr) :
    (State.violated s n d tag seq sub window).Sound gr := by
  unfold State.violated; (repeat' split) <;> simp (maxDischargeDepth := 9) +contextual [hS]

@[simp] theorem State.badOp_sound (s : State) (n d : Nat) (p : Parcel) (hS : s.Sound gr) :
    (State.badOp s n d p).Sound gr := by
  unfold State.badOp; simp [hS]

@[simp] theorem State.openAnswer_sound (s : State) (n : Nat) (d : Nat) (x : DstFlow) (seq delay : Nat) (hS : s.Sound gr) :
    (State.openAnswer s n d x seq delay).Sound gr := by
  unfold State.openAnswer; simp [hS]

@[simp] theorem State.refuseOpen_sound (s : State) (n f : Nat) (o : Origin) (seq : Nat) (hS : s.Sound gr) :
    (State.refuseOpen s n f o seq).Sound gr := by
  unfold State.refuseOpen; (repeat' split) <;> simp (maxDischargeDepth := 9) +contextual [hS]

@[simp] theorem State.createFlow_sound (s : State) (n f : Nat) (o : Origin) (p : Parcel) (ordered : Bool) (job : Nat) (hS : s.Sound gr) :
    (State.createFlow s n f o p ordered job).Sound gr := by
  unfold State.createFlow
  dsimp only
  have hc : ∀ (c : Prop) [Decidable c], OptSound gr (if c then s.ctxRoom else none) := by
    intro c _; split <;> simp [hS]
  split
  · next e _ => have := some_of (hc _) e; simp (maxDischargeDepth := 50) [this]
  · simp [hS]

@[simp] theorem State.parkOpen_sound (s : State) (n d f : Nat) (o : Origin) (p : Parcel) (hS : s.Sound gr) :
    (State.parkOpen s n d f o p).Sound gr := by
  unfold State.parkOpen
  try dsimp only
  (repeat' split) <;> first | (simp (maxDischargeDepth := 50) +contextual [hS]; done) | (simp_all (maxDischargeDepth := 50) +contextual [pair_iff]; done) | (refine foldl_sound ?_ (by first | (simp (maxDischargeDepth := 50) +contextual [hS]; done) | (simp_all (maxDischargeDepth := 50) +contextual [pair_iff]; done)); intro s' x' hs'; (try dsimp only); (repeat' split) <;> (first | (simp (maxDischargeDepth := 50) +contextual [hS]; done) | (simp_all (maxDischargeDepth := 50) +contextual [pair_iff]; done)))

@[simp] theorem State.carryOpen_sound (s : State) (n : Nat) (p : Parcel) (hS : s.Sound gr) :
    (State.carryOpen s n p).Sound gr := by
  unfold State.carryOpen
  try dsimp only
  (repeat' split) <;> first | (simp (maxDischargeDepth := 50) +contextual [hS]; done) | (simp_all (maxDischargeDepth := 50) +contextual [pair_iff]; done) | (refine foldl_sound ?_ (by first | (simp (maxDischargeDepth := 50) +contextual [hS]; done) | (simp_all (maxDischargeDepth := 50) +contextual [pair_iff]; done)); intro s' x' hs'; (try dsimp only); (repeat' split) <;> (first | (simp (maxDischargeDepth := 50) +contextual [hS]; done) | (simp_all (maxDischargeDepth := 50) +contextual [pair_iff]; done)))

@[simp] theorem State.placeFlow_sound (s : State) (n client d : Nat) (x : DstFlow) (p : Parcel) (data : List Byte) (hS : s.Sound gr) :
    (State.placeFlow s n client d x p data).Sound gr := by
  unfold State.placeFlow; dsimp only; (repeat' split) <;> simp_all (maxDischargeDepth := 9) +contextual [pair_iff]

@[simp] theorem State.carryPut_sound (s : State) (n d : Nat) (x : DstFlow) (p : Parcel) (hS : s.Sound gr) :
    (State.carryPut s n d x p).Sound gr := by
  unfold State.carryPut; simp [hS]

@[simp] theorem State.carryElided_sound (s : State) (n d : Nat) (x : DstFlow) (p : Parcel) (hS : s.Sound gr) :
    (State.carryElided s n d x p).Sound gr := by
  unfold State.carryElided; (repeat' split) <;> simp [hS]

@[simp] theorem State.serve_sound (s : State) (n d fn : Nat) (seq tag delay : Nat) (place : Option Nat) (offset : Nat) (pieces : List (Nat × Nat)) (hS : s.Sound gr) :
    (State.serve s n d fn seq tag delay place offset pieces).Sound gr := by
  unfold State.serve; simp [hS]

@[simp] theorem State.carryGet_sound (s : State) (n d : Nat) (x : DstFlow) (p : Parcel) (hS : s.Sound gr) :
    (State.carryGet s n d x p).Sound gr := by
  unfold State.carryGet; dsimp only; (repeat' split) <;> simp_all (maxDischargeDepth := 9) +contextual [pair_iff]

@[simp] theorem State.respond_sound (s : State) (n d : Nat) (j : Serving) (hS : s.Sound gr) :
    (State.respond s n d j).Sound gr := by
  unfold State.respond; (repeat' split) <;> simp (maxDischargeDepth := 9) +contextual [hS]

@[simp] theorem State.servePiece_sound (s : State) (n d seq tag : Nat) (bytes : List Byte) (hS : s.Sound gr) :
    (State.servePiece s n d seq tag bytes).Sound gr := by
  unfold State.servePiece; (repeat' split) <;> simp (maxDischargeDepth := 9) +contextual [hS]

@[simp] theorem State.serveFails_sound (s : State) (n d seq : Nat) (hS : s.Sound gr) :
    (State.serveFails s n d seq).Sound gr := by
  unfold State.serveFails; simp [hS]

@[simp] theorem State.markAtomic_sound (s : State) (n : Nat) (j : AtomicJob) (hS : s.Sound gr) :
    (State.markAtomic s n j).Sound gr := by
  unfold State.markAtomic
  try dsimp only
  (repeat' split) <;> first | (simp (maxDischargeDepth := 50) +contextual [hS]; done) | (simp_all (maxDischargeDepth := 50) +contextual [pair_iff]; done) | (refine foldl_sound ?_ (by first | (simp (maxDischargeDepth := 50) +contextual [hS]; done) | (simp_all (maxDischargeDepth := 50) +contextual [pair_iff]; done)); intro s' x' hs'; (try dsimp only); (repeat' split) <;> (first | (simp (maxDischargeDepth := 50) +contextual [hS]; done) | (simp_all (maxDischargeDepth := 50) +contextual [pair_iff]; done)))

@[simp] theorem State.issueAtomic_sound (s : State) (n fn : Nat) (j : AtomicJob) (hS : s.Sound gr) :
    (State.issueAtomic s n fn j).Sound gr := by
  unfold State.issueAtomic
  try dsimp only
  (repeat' split) <;> first | (simp (maxDischargeDepth := 50) +contextual [hS]; done) | (simp_all (maxDischargeDepth := 50) +contextual [pair_iff]; done) | (refine foldl_sound ?_ (by first | (simp (maxDischargeDepth := 50) +contextual [hS]; done) | (simp_all (maxDischargeDepth := 50) +contextual [pair_iff]; done)); intro s' x' hs'; (try dsimp only); (repeat' split) <;> (first | (simp (maxDischargeDepth := 50) +contextual [hS]; done) | (simp_all (maxDischargeDepth := 50) +contextual [pair_iff]; done)))

@[simp] theorem State.startAtomic_sound (s : State) (n : Nat) (word : Nat) (hS : s.Sound gr) :
    (State.startAtomic s n word).Sound gr := by
  unfold State.startAtomic; (repeat' split) <;> simp [hS]

@[simp] theorem State.carryAtomic_sound (s : State) (n d : Nat) (x : DstFlow) (p : Parcel) (hS : s.Sound gr) :
    (State.carryAtomic s n d x p).Sound gr := by
  unfold State.carryAtomic; dsimp only; (repeat' split) <;> simp_all (maxDischargeDepth := 9) +contextual [pair_iff]

@[simp] theorem State.atomicDone_sound (s : State) (n d seq : Nat) (bytes : List Byte) (hS : s.Sound gr) :
    (State.atomicDone s n d seq bytes).Sound gr := by
  unfold State.atomicDone; (repeat' split) <;> simp (maxDischargeDepth := 9) +contextual [hS]

@[simp] theorem State.atomicFails_sound (s : State) (n d seq : Nat) (hS : s.Sound gr) :
    (State.atomicFails s n d seq).Sound gr := by
  unfold State.atomicFails; (repeat' split) <;> simp (maxDischargeDepth := 9) +contextual [hS]

@[simp] theorem State.redoAtomic_sound (s : State) (n : Nat) (j : AtomicJob) (hS : s.Sound gr) :
    (State.redoAtomic s n j).Sound gr := by
  unfold State.redoAtomic
  try dsimp only
  (repeat' split) <;> first | (simp (maxDischargeDepth := 50) +contextual [hS]; done) | (simp_all (maxDischargeDepth := 50) +contextual [pair_iff]; done) | (refine foldl_sound ?_ (by first | (simp (maxDischargeDepth := 50) +contextual [hS]; done) | (simp_all (maxDischargeDepth := 50) +contextual [pair_iff]; done)); intro s' x' hs'; (try dsimp only); (repeat' split) <;> (first | (simp (maxDischargeDepth := 50) +contextual [hS]; done) | (simp_all (maxDischargeDepth := 50) +contextual [pair_iff]; done)))

@[simp] theorem State.cutAtomic_sound (s : State) (n : Nat) (j : AtomicJob) (hS : s.Sound gr) :
    (State.cutAtomic s n j).Sound gr := by
  unfold State.cutAtomic
  try dsimp only
  (repeat' split) <;> first | (simp (maxDischargeDepth := 50) +contextual [hS]; done) | (simp_all (maxDischargeDepth := 50) +contextual [pair_iff]; done) | (refine foldl_sound ?_ (by first | (simp (maxDischargeDepth := 50) +contextual [hS]; done) | (simp_all (maxDischargeDepth := 50) +contextual [pair_iff]; done)); intro s' x' hs'; (try dsimp only); (repeat' split) <;> (first | (simp (maxDischargeDepth := 50) +contextual [hS]; done) | (simp_all (maxDischargeDepth := 50) +contextual [pair_iff]; done)))

@[simp] theorem State.redoAtomics_sound (s : State) (n : Nat) (revoke : Bool) (f : AtomicJob → Bool) (hS : s.Sound gr) :
    (State.redoAtomics s n revoke f).Sound gr := by
  unfold State.redoAtomics
  try dsimp only
  (repeat' split) <;> first | (simp (maxDischargeDepth := 50) +contextual [hS]; done) | (simp_all (maxDischargeDepth := 50) +contextual [pair_iff]; done) | (refine foldl_sound ?_ (by first | (simp (maxDischargeDepth := 50) +contextual [hS]; done) | (simp_all (maxDischargeDepth := 50) +contextual [pair_iff]; done)); intro s' x' hs'; (try dsimp only); (repeat' split) <;> (first | (simp (maxDischargeDepth := 50) +contextual [hS]; done) | (simp_all (maxDischargeDepth := 50) +contextual [pair_iff]; done)))

@[simp] theorem State.carrySignal_sound (s : State) (n d : Nat) (x : DstFlow) (p : Parcel) (hS : s.Sound gr) :
    (State.carrySignal s n d x p).Sound gr := by
  unfold State.carrySignal; (repeat' split) <;> simp (maxDischargeDepth := 9) +contextual [hS]

@[simp] theorem State.dropDst_sound (s : State) (n d : Nat) (hS : s.Sound gr) :
    (State.dropDst s n d).Sound gr := by
  unfold State.dropDst; simp [hS]

@[simp] theorem State.carryClose_sound (s : State) (n d : Nat) (x : DstFlow) (p : Parcel) (hS : s.Sound gr) :
    (State.carryClose s n d x p).Sound gr := by
  unfold State.carryClose; (repeat' split) <;> simp (maxDischargeDepth := 9) +contextual [hS]

@[simp] theorem State.setMember_sound (s : State) (n g : Nat) (m : Member) (hS : s.Sound gr) :
    (State.setMember s n g m).Sound gr := by
  unfold State.setMember; simp [hS]

@[simp] theorem State.memberAnswer_sound (s : State) (n g : Nat) (m : Member) (tag seq : Nat) (nack : Bool) (code subtype value : Nat) (hS : s.Sound gr) :
    (State.memberAnswer s n g m tag seq nack code subtype value).Sound gr := by
  unfold State.memberAnswer; simp [hS]

@[simp] theorem State.placeMember_sound (s : State) (n g : Nat) (m : Member) (off seq tag delay : Nat) (data : List Byte) (flow : Option (Nat × Nat)) (hS : s.Sound gr) :
    (State.placeMember s n g m off seq tag delay data flow).1.Sound gr := by
  unfold State.placeMember; dsimp only; (repeat' split) <;> simp_all (maxDischargeDepth := 9) +contextual [pair_iff]

@[simp] theorem State.memberViolated_sound (s : State) (n g : Nat) (m : Member) (sub : Nat) (hS : s.Sound gr) :
    (State.memberViolated s n g m sub).Sound gr := by
  unfold State.memberViolated; (repeat' split) <;> simp [hS]

@[simp] theorem State.carryMcast_sound (s : State) (n : Nat) (p : Parcel) (hS : s.Sound gr) :
    (State.carryMcast s n p).Sound gr := by
  unfold State.carryMcast; dsimp only; (repeat' split) <;> simp_all (maxDischargeDepth := 9) +contextual [pair_iff]

@[simp] theorem State.carryRepair_sound (s : State) (n d : Nat) (x : DstFlow) (p : Parcel) (hS : s.Sound gr) :
    (State.carryRepair s n d x p).Sound gr := by
  unfold State.carryRepair; dsimp only; (repeat' split) <;> simp_all (maxDischargeDepth := 9) +contextual [pair_iff]

@[simp] theorem State.handWrites_sound (s : State) (w : Placing) (l : List (Nat × List Byte)) (hS : s.Sound gr) :
    (State.handWrites s w l).Sound gr := by
  unfold State.handWrites
  try dsimp only
  (repeat' split) <;> first | (simp (maxDischargeDepth := 50) +contextual [hS]; done) | (simp_all (maxDischargeDepth := 50) +contextual [pair_iff]; done) | (refine foldl_sound ?_ (by first | (simp (maxDischargeDepth := 50) +contextual [hS]; done) | (simp_all (maxDischargeDepth := 50) +contextual [pair_iff]; done)); intro s' x' hs'; (try dsimp only); (repeat' split) <;> (first | (simp (maxDischargeDepth := 50) +contextual [hS]; done) | (simp_all (maxDischargeDepth := 50) +contextual [pair_iff]; done)))

@[simp] theorem State.cutPlacing_sound (s : State) (revoke : Bool) (w : Placing) (hS : s.Sound gr) :
    (State.cutPlacing s revoke w).1.Sound gr := by
  unfold State.cutPlacing
  try dsimp only
  (repeat' split) <;> first | (simp (maxDischargeDepth := 50) +contextual [hS]; done) | (simp_all (maxDischargeDepth := 50) +contextual [pair_iff]; done) | (refine foldl_sound ?_ (by first | (simp (maxDischargeDepth := 50) +contextual [hS]; done) | (simp_all (maxDischargeDepth := 50) +contextual [pair_iff]; done)); intro s' x' hs'; (try dsimp only); (repeat' split) <;> (first | (simp (maxDischargeDepth := 50) +contextual [hS]; done) | (simp_all (maxDischargeDepth := 50) +contextual [pair_iff]; done)))

@[simp] theorem State.placeWrites_sound (s : State) (w : Placing) (hS : s.Sound gr) :
    (State.placeWrites s w).1.Sound gr := by
  unfold State.placeWrites
  try dsimp only
  (repeat' split) <;> first | (simp (maxDischargeDepth := 50) +contextual [hS]; done) | (simp_all (maxDischargeDepth := 50) +contextual [pair_iff]; done) | (refine foldl_sound ?_ (by first | (simp (maxDischargeDepth := 50) +contextual [hS]; done) | (simp_all (maxDischargeDepth := 50) +contextual [pair_iff]; done)); intro s' x' hs'; (try dsimp only); (repeat' split) <;> (first | (simp (maxDischargeDepth := 50) +contextual [hS]; done) | (simp_all (maxDischargeDepth := 50) +contextual [pair_iff]; done)))

@[simp] theorem State.endPlacing_sound (s : State) (n : Nat) (w : Placing) (hS : s.Sound gr) :
    (State.endPlacing s n w).Sound gr := by
  unfold State.endPlacing; dsimp only; (repeat' split) <;> simp_all (maxDischargeDepth := 9) +contextual [pair_iff]

@[simp] theorem State.setLists_sound (s : State) (f : Nat) (m : MatchLists) (hS : s.Sound gr) :
    (State.setLists s f m).Sound gr := by
  unfold State.setLists; simp [hS]

@[simp] theorem State.writeReceiveRecord_sound (s : State) (o : Op) (a : RecvArea) (rank tag total delivered time : Nat) (rndv : Bool) (hS : s.Sound gr) :
    (State.writeReceiveRecord s o a rank tag total delivered time rndv).1.Sound gr := by
  unfold State.writeReceiveRecord; dsimp only; (repeat' split) <;> simp_all (maxDischargeDepth := 9) +contextual [pair_iff]

@[simp] theorem State.endRecv_sound (s : State) (place : Nat) (o : Op) (a : RecvArea) (rank tag total time : Nat) (rndv : Bool) (hS : s.Sound gr) :
    (State.endRecv s place o a rank tag total time rndv).Sound gr := by
  unfold State.endRecv; dsimp only; (repeat' split) <;> simp_all (maxDischargeDepth := 9) +contextual [pair_iff]

@[simp] theorem State.placeLocal_sound (s : State) (o : Op) (a : RecvArea) (offset : Nat) (data : List Byte) (hS : s.Sound gr) :
    (State.placeLocal s o a offset data).1.Sound gr := by
  unfold State.placeLocal
  try dsimp only
  (repeat' split) <;> first | (simp (maxDischargeDepth := 50) +contextual [hS]; done) | (simp_all (maxDischargeDepth := 50) +contextual [pair_iff]; done) | (refine foldl_sound ?_ (by first | (simp (maxDischargeDepth := 50) +contextual [hS]; done) | (simp_all (maxDischargeDepth := 50) +contextual [pair_iff]; done)); intro s' x' hs'; (try dsimp only); (repeat' split) <;> (first | (simp (maxDischargeDepth := 50) +contextual [hS]; done) | (simp_all (maxDischargeDepth := 50) +contextual [pair_iff]; done)))

@[simp] theorem State.deliverEager_sound (s : State) (place : Nat) (o : Op) (a : RecvArea) (u : Unexpected) (data : List Byte) (hS : s.Sound gr) :
    (State.deliverEager s place o a u data).Sound gr := by
  unfold State.deliverEager
  try dsimp only
  (repeat' split) <;> first | (simp (maxDischargeDepth := 50) +contextual [hS]; done) | (simp_all (maxDischargeDepth := 50) +contextual [pair_iff]; done) | (refine foldl_sound ?_ (by first | (simp (maxDischargeDepth := 50) +contextual [hS]; done) | (simp_all (maxDischargeDepth := 50) +contextual [pair_iff]; done)); intro s' x' hs'; (try dsimp only); (repeat' split) <;> (first | (simp (maxDischargeDepth := 50) +contextual [hS]; done) | (simp_all (maxDischargeDepth := 50) +contextual [pair_iff]; done)))

@[simp] theorem State.sendFin_sound (s : State) (o : Op) (handle outcome delivered : Nat) (hS : s.Sound gr) :
    (State.sendFin s o handle outcome delivered).Sound gr := by
  unfold State.sendFin
  try dsimp only
  (repeat' split) <;> first | (simp (maxDischargeDepth := 50) +contextual [hS]; done) | (simp_all (maxDischargeDepth := 50) +contextual [pair_iff]; done) | (refine foldl_sound ?_ (by first | (simp (maxDischargeDepth := 50) +contextual [hS]; done) | (simp_all (maxDischargeDepth := 50) +contextual [pair_iff]; done)); intro s' x' hs'; (try dsimp only); (repeat' split) <;> (first | (simp (maxDischargeDepth := 50) +contextual [hS]; done) | (simp_all (maxDischargeDepth := 50) +contextual [pair_iff]; done)))

@[simp] theorem State.pulled_sound (s : State) (place : Nat) (o : Op) (a : RecvArea) (hS : s.Sound gr) :
    (State.pulled s place o a).Sound gr := by
  unfold State.pulled; (repeat' split) <;> simp [hS]

@[simp] theorem State.beginPull_sound (s : State) (place : Nat) (o : Op) (a : RecvArea) (u : Unexpected) (hS : s.Sound gr) :
    (State.beginPull s place o a u).Sound gr := by
  unfold State.beginPull; (repeat' split) <;> simp [hS]

@[simp] theorem State.deliverTo_sound (s : State) (place : Nat) (u : Unexpected) (hS : s.Sound gr) :
    (State.deliverTo s place u).Sound gr := by
  unfold State.deliverTo; (repeat' split) <;> simp [hS]

@[simp] theorem State.refuseResource_sound (s : State) (n d f : Nat) (p : Parcel) (hS : s.Sound gr) :
    (State.refuseResource s n d f p).Sound gr := by
  unfold State.refuseResource; dsimp only; (repeat' split) <;> simp (maxDischargeDepth := 9) +contextual [hS]

@[simp] theorem State.carryMessage_sound (s : State) (n d : Nat) (x : DstFlow) (p : Parcel) (hS : s.Sound gr) :
    (State.carryMessage s n d x p).Sound gr := by
  unfold State.carryMessage; (repeat' split) <;> simp (maxDischargeDepth := 9) +contextual [hS]

@[simp] theorem State.carryMsgGet_sound (s : State) (n d : Nat) (x : DstFlow) (p : Parcel) (hS : s.Sound gr) :
    (State.carryMsgGet s n d x p).Sound gr := by
  unfold State.carryMsgGet; dsimp only; (repeat' split) <;> simp_all (maxDischargeDepth := 9) +contextual [pair_iff]

@[simp] theorem State.carryMsgFin_sound (s : State) (n d : Nat) (x : DstFlow) (p : Parcel) (hS : s.Sound gr) :
    (State.carryMsgFin s n d x p).Sound gr := by
  unfold State.carryMsgFin; dsimp only; (repeat' split) <;> simp (maxDischargeDepth := 9) +contextual [hS]

@[simp] theorem State.recvCheck_sound (s : State) (o : Op) (a : RecvArea) (hS : s.Sound gr) :
    (State.recvCheck s o a).1.Sound gr := by
  unfold State.recvCheck
  dsimp only
  have h : ∀ (c : Prop) [Decidable c], (if c then (s, none) else s.checkLocal (s.engineOf o.fn) o.domain a.localId a.localGen .write a.localOffset a.length).1.Sound gr := by
    intro c _; split <;> simp [hS]
  split
  · next e => have h := h (a.length = 0); rw [e] at h; exact h
  · next e => have h := h (a.length = 0); rw [e] at h; dsimp only at h; split <;> simp [h]

@[simp] theorem State.acceptRecv_sound (s : State) (place : Nat) (o : Op) (a : RecvArea) (hS : s.Sound gr) :
    (State.acceptRecv s place o a).Sound gr := by
  unfold State.acceptRecv; dsimp only; (repeat' split) <;> simp_all (maxDischargeDepth := 9) +contextual [pair_iff]

@[simp] theorem State.acceptCancel_sound (s : State) (place : Nat) (o : Op) (a : CancelArea) (hS : s.Sound gr) :
    (State.acceptCancel s place o a).Sound gr := by
  unfold State.acceptCancel; dsimp only; (repeat' split) <;> simp (maxDischargeDepth := 9) +contextual [hS]

@[simp] theorem execRtsExpiry_sound (fn position : Nat) (s : State) (hS : s.Sound gr) :
    NextSound gr (execRtsExpiry fn position s) := by
  unfold execRtsExpiry; dsimp only; (repeat' split) <;> simp (maxDischargeDepth := 9) +contextual [hS]

@[simp] theorem execRecvExpiry_sound (place : Nat) (s : State) (hS : s.Sound gr) :
    NextSound gr (execRecvExpiry place s) := by
  unfold execRecvExpiry; (repeat' split) <;> simp [hS]

@[simp] theorem State.setGroup_sound (s : State) (g : Nat) (x : Group) (hS : s.Sound gr) :
    (State.setGroup s g x).Sound gr := by
  unfold State.setGroup; simp [hS]

@[simp] theorem State.modGroup_sound (s : State) (g : Nat) (f : Group → Group) (hS : s.Sound gr) :
    (State.modGroup s g f).Sound gr := by
  unfold State.modGroup; simp [hS]

@[simp] theorem State.sendRh_sound (s : State) (cells : List WireCell) (hS : s.Sound gr) :
    (State.sendRh s cells).Sound gr := by
  unfold State.sendRh; (repeat' split) <;> simp (maxDischargeDepth := 9) +contextual [hS]

@[simp] theorem State.sendChunk_sound (s : State) (g : Nat) (x : Group) (o : EdgeOut) (slot : Nat) (hS : s.Sound gr) :
    (State.sendChunk s g x o slot).Sound gr := by
  unfold State.sendChunk; simp [hS]

@[simp] theorem State.pumpEdges_sound (s : State) (g : Nat) (hS : s.Sound gr) :
    (State.pumpEdges s g).Sound gr := by
  unfold State.pumpEdges
  try dsimp only
  (repeat' split) <;> first | (simp (maxDischargeDepth := 50) +contextual [hS]; done) | (simp_all (maxDischargeDepth := 50) +contextual [pair_iff]; done) | (refine foldl_sound ?_ (by first | (simp (maxDischargeDepth := 50) +contextual [hS]; done) | (simp_all (maxDischargeDepth := 50) +contextual [pair_iff]; done)); intro s' x' hs'; (try dsimp only); (repeat' split) <;> (first | (simp (maxDischargeDepth := 50) +contextual [hS]; done) | (simp_all (maxDischargeDepth := 50) +contextual [pair_iff]; done)))

@[simp] theorem State.ackChunk_sound (s : State) (g : Nat) (x : Group) (edge tag chunk : Nat) (hS : s.Sound gr) :
    (State.ackChunk s g x edge tag chunk).Sound gr := by
  unfold State.ackChunk; simp [hS]

@[simp] theorem State.chunkAcked_sound (s : State) (n : Nat) (a : AnswerCell) (hS : s.Sound gr) :
    OptSound gr (State.chunkAcked s n a) := by
  unfold State.chunkAcked
  split
  · exact True.intro
  · split
    · exact True.intro
    · next x _ _ => cases x.acked a.flow a <;> simp [hS]

@[simp] theorem State.endFailed_sound (s : State) (p : Nat × Op × CollArea) (step : Nat) (hS : s.Sound gr) :
    (State.endFailed s p step).Sound gr := by
  unfold State.endFailed; (repeat' split) <;> simp [hS]

@[simp] theorem State.failGroup_sound (s : State) (g cause : Nat) (came : Option Nat) (hS : s.Sound gr) :
    (State.failGroup s g cause came).Sound gr := by
  unfold State.failGroup; (repeat' split) <;> simp (maxDischargeDepth := 9) +contextual [hS]

@[simp] theorem State.memberLost_sound (s : State) (f : Nat) (hS : s.Sound gr) :
    (State.memberLost s f).Sound gr := by
  unfold State.memberLost; (repeat' split) <;> simp (maxDischargeDepth := 9) +contextual [hS]

@[simp] theorem State.countBlocks_sound (s : State) (c : BlockCounts) (hS : s.Sound gr) :
    (State.countBlocks s c).Sound gr := by
  unfold State.countBlocks; (repeat' split) <;> simp (maxDischargeDepth := 9) +contextual [hS]

@[simp] theorem State.readMember_sound (s : State) (g : Nat) (x : Group) (att k : Nat) (o : Op) (a : CollArea) (hS : s.Sound gr) :
    (State.readMember s g x att k o a).Sound gr := by
  unfold State.readMember; dsimp only; (repeat' split) <;> simp_all (maxDischargeDepth := 9) +contextual [pair_iff]

@[simp] theorem State.contributeOne_sound (s : State) (g att : Nat) (hS : s.Sound gr) :
    (State.contributeOne s g att).Sound gr := by
  unfold State.contributeOne; (repeat' split) <;> simp [hS]

@[simp] theorem State.contribute_sound (s : State) (g : Nat) (hS : s.Sound gr) :
    (State.contribute s g).Sound gr := by
  unfold State.contribute; (repeat' split) <;> simp (maxDischargeDepth := 9) +contextual [hS]

@[simp] theorem State.memberPiece_sound (s : State) (g att k tag : Nat) (bytes : List Byte) (hS : s.Sound gr) :
    (State.memberPiece s g att k tag bytes).Sound gr := by
  unfold State.memberPiece; (repeat' split) <;> simp (maxDischargeDepth := 9) +contextual [hS]

@[simp] theorem State.placeAt_sound (s : State) (o : Op) (a : CollArea) (m : RhMember) (k : Nat) (es : List Nat) (hS : s.Sound gr) :
    (State.placeAt s o a m k es).1.Sound gr := by
  unfold State.placeAt; dsimp only; (repeat' split) <;> simp_all (maxDischargeDepth := 9) +contextual [pair_iff]

@[simp] theorem State.setDown_sound (s : State) (g : Nat) (y : Down) (hS : s.Sound gr) :
    (State.setDown s g y).Sound gr := by
  unfold State.setDown; simp [hS]

@[simp] theorem State.placeDown_sound (s : State) (g k : Nat) (hS : s.Sound gr) :
    (State.placeDown s g k).Sound gr := by
  unfold State.placeDown
  try dsimp only
  (repeat' split) <;> first | (simp (maxDischargeDepth := 50) +contextual [hS]; done) | (simp_all (maxDischargeDepth := 50) +contextual [pair_iff]; done) | (refine foldl_sound ?_ (by first | (simp (maxDischargeDepth := 50) +contextual [hS]; done) | (simp_all (maxDischargeDepth := 50) +contextual [pair_iff]; done)); intro s' x' hs'; (try dsimp only); (repeat' split) <;> (first | (simp (maxDischargeDepth := 50) +contextual [hS]; done) | (simp_all (maxDischargeDepth := 50) +contextual [pair_iff]; done)))

@[simp] theorem State.closeDowns_sound (s : State) (g : Nat) (hS : s.Sound gr) :
    (State.closeDowns s g).Sound gr := by
  unfold State.closeDowns
  try dsimp only
  (repeat' split) <;> first | (simp (maxDischargeDepth := 50) +contextual [hS]; done) | (simp_all (maxDischargeDepth := 50) +contextual [pair_iff]; done) | (refine foldl_sound ?_ (by first | (simp (maxDischargeDepth := 50) +contextual [hS]; done) | (simp_all (maxDischargeDepth := 50) +contextual [pair_iff]; done)); intro s' x' hs'; (try dsimp only); (repeat' split) <;> (first | (simp (maxDischargeDepth := 50) +contextual [hS]; done) | (simp_all (maxDischargeDepth := 50) +contextual [pair_iff]; done)))

@[simp] theorem State.deliverDown_sound (s : State) (g k : Nat) (es : List Nat) (owed : Option Nat) (hS : s.Sound gr) :
    (State.deliverDown s g k es owed).Sound gr := by
  unfold State.deliverDown; (repeat' split) <;> simp (maxDischargeDepth := 9) +contextual [hS]

@[simp] theorem State.foldChunk_sound (s : State) (g : Nat) (x : Group) (d : CollArea) (c : Chunk) (hS : s.Sound gr) :
    (State.foldChunk s g x d c).Sound gr := by
  unfold State.foldChunk; (repeat' split) <;> simp (maxDischargeDepth := 9) +contextual [hS]

@[simp] theorem State.passUp_sound (s : State) (g : Nat) (x : Group) (d : CollArea) (sig : Nat) (c : Chunk) (hS : s.Sound gr) :
    (State.passUp s g x d sig c).Sound gr := by
  unfold State.passUp; (repeat' split) <;> simp (maxDischargeDepth := 9) +contextual [hS]

@[simp] theorem State.passAll_sound (s : State) (g : Nat) (fuel : Nat) (hS : s.Sound gr) :
    (State.passAll s g fuel).Sound gr := by
  induction fuel generalizing s with
  | zero => unfold State.passAll; first | (simp (maxDischargeDepth := 50) +contextual [hS]; done) | (simp_all (maxDischargeDepth := 50) +contextual [pair_iff]; done)
  | succ n ih =>
    unfold State.passAll
    try dsimp only
    (repeat' split) <;> first | (simp (maxDischargeDepth := 50) +contextual [hS , ih]; done) | (simp_all (maxDischargeDepth := 50) +contextual [pair_iff]; done) | (refine foldl_sound ?_ (by first | (simp (maxDischargeDepth := 50) +contextual [hS , ih]; done) | (simp_all (maxDischargeDepth := 50) +contextual [pair_iff]; done)); intro s' x' hs'; (try dsimp only); (repeat' split) <;> (first | (simp (maxDischargeDepth := 50) +contextual [hS , ih]; done) | (simp_all (maxDischargeDepth := 50) +contextual [pair_iff]; done)))

@[simp] theorem State.takeUp_sound (s : State) (g edge : Nat) (x : Group) (d : CollArea) (sig : Nat) (p : Parcel) (hS : s.Sound gr) :
    (State.takeUp s g edge x d sig p).Sound gr := by
  unfold State.takeUp; dsimp only; (repeat' split) <;> simp (maxDischargeDepth := 9) +contextual [hS]

@[simp] theorem State.takeDown_sound (s : State) (g : Nat) (x : Group) (d : CollArea) (sig : Nat) (p : Parcel) (hS : s.Sound gr) :
    (State.takeDown s g x d sig p).Sound gr := by
  unfold State.takeDown; dsimp only; (repeat' split) <;> simp (maxDischargeDepth := 9) +contextual [hS]

@[simp] theorem State.takeChunk_sound (s : State) (edge : Nat) (p : Parcel) (hS : s.Sound gr) :
    (State.takeChunk s edge p).Sound gr := by
  unfold State.takeChunk; dsimp only; (repeat' split) <;> simp (maxDischargeDepth := 9) +contextual [hS]

@[simp] theorem State.startSeq_sound (s : State) (g : Nat) (hS : s.Sound gr) :
    (State.startSeq s g).Sound gr := by
  unfold State.startSeq; (repeat' split) <;> simp (maxDischargeDepth := 9) +contextual [hS]

@[simp] theorem State.endSeq_sound (s : State) (g : Nat) (x : Group) (hS : s.Sound gr) :
    (State.endSeq s g x).Sound gr := by
  unfold State.endSeq; (repeat' split) <;> simp (maxDischargeDepth := 9) +contextual [hS]

@[simp] theorem State.groupTick_sound (s : State) (g : Nat) (hS : s.Sound gr) :
    (State.groupTick s g).Sound gr := by
  unfold State.groupTick; dsimp only; (repeat' split) <;> simp (maxDischargeDepth := 9) +contextual [hS]

@[simp] theorem State.checkEdges_sound (s : State) (g : Nat) (hS : s.Sound gr) :
    (State.checkEdges s g).Sound gr := by
  unfold State.checkEdges; (repeat' split) <;> simp [hS]

@[simp] theorem State.rhTick_sound (s : State) (hS : s.Sound gr) :
    (State.rhTick s).Sound gr := by
  unfold State.rhTick; (repeat' split) <;> simp (maxDischargeDepth := 9) +contextual [hS]

theorem State.nextChunk_sound {s : State} {pe op : Nat} {r : (Nat × Parcel) × State} (hS : s.Sound gr) (e : s.nextChunk pe op = some r) :
    r.2.Sound gr := by
  unfold State.nextChunk at e
  obtain ⟨y, -, rfl⟩ := Option.map_eq_some_iff.mp e
  simpa using hS

@[simp] theorem State.chunkArrives_sound (s : State) (edge : Nat) (p : Parcel) (hS : s.Sound gr) :
    (State.chunkArrives s edge p).Sound gr := by
  unfold State.chunkArrives; (repeat' split) <;> simp (maxDischargeDepth := 9) +contextual [hS]

@[simp] theorem execCollUpReceive_sound (pe : Nat) (s : State) (hS : s.Sound gr) :
    NextSound gr (execCollUpReceive pe s) := by
  unfold execCollUpReceive
  split
  · next e => have h := State.nextChunk_sound hS e; dsimp only at h; rw [next_sound]; exact State.chunkArrives_sound _ _ _ h
  · rw [next_sound]; exact hS

@[simp] theorem execCollDownReceive_sound (pe : Nat) (s : State) (hS : s.Sound gr) :
    NextSound gr (execCollDownReceive pe s) := by
  unfold execCollDownReceive
  split
  · next e => have h := State.nextChunk_sound hS e; dsimp only at h; rw [next_sound]; exact State.chunkArrives_sound _ _ _ h
  · rw [next_sound]; exact hS

@[simp] theorem State.chunkTimeout_sound (s : State) (g : Nat) (x : Group) (o : EdgeOut) (slot : Nat) (hS : s.Sound gr) :
    (State.chunkTimeout s g x o slot).Sound gr := by
  unfold State.chunkTimeout; (repeat' split) <;> simp (maxDischargeDepth := 9) +contextual [hS]

@[simp] theorem execChunkResendTimeout_sound (group edge chunk : Nat) (s : State) (hS : s.Sound gr) :
    NextSound gr (execChunkResendTimeout group edge chunk s) := by
  unfold execChunkResendTimeout; (repeat' split) <;> simp [hS]

@[simp] theorem State.acknowledge_sound (s : State) (n fid : Nat) (x : SrcFlow) (p : OutParcel) (d : Nat) (hS : s.Sound gr) :
    (State.acknowledge s n fid x p d).Sound gr := by
  unfold State.acknowledge; simp [hS]

@[simp] theorem State.removeSrc_sound (s : State) (n fid : Nat) (hS : s.Sound gr) :
    (State.removeSrc s n fid).Sound gr := by
  unfold State.removeSrc; simp [hS]

@[simp] theorem State.restartOp_sound (s : State) (place : Nat) (hS : s.Sound gr) :
    (State.restartOp s place).Sound gr := by
  unfold State.restartOp; simp [hS]

@[simp] theorem State.discardFlow_sound (s : State) (n fid : Nat) (x : SrcFlow) (f : Nat → Op → Option (Final × Nat × Nat)) (hS : s.Sound gr) :
    (State.discardFlow s n fid x f).Sound gr := by
  unfold State.discardFlow
  dsimp only
  refine foldl_sound (fun s q h => by simp [h]) ?_
  refine foldl_sound (fun s q h => ?_) (by simp [hS])
  (repeat' split) <;> simp [h]

@[simp] theorem State.atomicResultWrite_sound (s : State) (place : Nat) (o : Op) (a : AtomicArea) (result : Option Nat) (hS : s.Sound gr) :
    (State.atomicResultWrite s place o a result).Sound gr := by
  unfold State.atomicResultWrite
  try dsimp only
  (repeat' split) <;> first | (simp (maxDischargeDepth := 50) +contextual [hS]; done) | (simp_all (maxDischargeDepth := 50) +contextual [pair_iff]; done) | (refine foldl_sound ?_ (by first | (simp (maxDischargeDepth := 50) +contextual [hS]; done) | (simp_all (maxDischargeDepth := 50) +contextual [pair_iff]; done)); intro s' x' hs'; (try dsimp only); (repeat' split) <;> (first | (simp (maxDischargeDepth := 50) +contextual [hS]; done) | (simp_all (maxDischargeDepth := 50) +contextual [pair_iff]; done)))

@[simp] theorem State.memberHas_sound (s : State) (n g seq member : Nat) (hS : s.Sound gr) :
    (State.memberHas s n g seq member).Sound gr := by
  unfold State.memberHas; dsimp only; (repeat' split) <;> simp (maxDischargeDepth := 9) +contextual [hS]

@[simp] theorem State.opAcked_sound (s : State) (n fid place : Nat) (p : OutParcel) (result : Option Nat) (hS : s.Sound gr) :
    (State.opAcked s n fid place p result).Sound gr := by
  unfold State.opAcked; dsimp only; (repeat' split) <;> simp (maxDischargeDepth := 9) +contextual [hS]

@[simp] theorem State.opened_sound (s : State) (n fid : Nat) (a : AnswerCell) (hS : s.Sound gr) :
    (State.opened s n fid a).Sound gr := by
  unfold State.opened; simp [hS]

@[simp] theorem State.flowAck_sound (s : State) (n fid : Nat) (x : SrcFlow) (a : AnswerCell) (hS : s.Sound gr) :
    (State.flowAck s n fid x a).Sound gr := by
  unfold State.flowAck; (repeat' split) <;> simp [hS]

@[simp] theorem State.parkAnswer_sound (s : State) (n fid : Nat) (c : WireCell) (hS : s.Sound gr) :
    (State.parkAnswer s n fid c).Sound gr := by
  unfold State.parkAnswer
  try dsimp only
  (repeat' split) <;> first | (simp (maxDischargeDepth := 50) +contextual [hS]; done) | (simp_all (maxDischargeDepth := 50) +contextual [pair_iff]; done) | (refine foldl_sound ?_ (by first | (simp (maxDischargeDepth := 50) +contextual [hS]; done) | (simp_all (maxDischargeDepth := 50) +contextual [pair_iff]; done)); intro s' x' hs'; (try dsimp only); (repeat' split) <;> (first | (simp (maxDischargeDepth := 50) +contextual [hS]; done) | (simp_all (maxDischargeDepth := 50) +contextual [pair_iff]; done)))

@[simp] theorem State.reread_sound (s : State) (n fid : Nat) (p : OutParcel) (place : Nat) (o : Op) (hS : s.Sound gr) :
    (State.reread s n fid p place o).Sound gr := by
  unfold State.reread
  try dsimp only
  (repeat' split) <;> first | (simp (maxDischargeDepth := 50) +contextual [hS]; done) | (simp_all (maxDischargeDepth := 50) +contextual [pair_iff]; done) | (refine foldl_sound ?_ (by first | (simp (maxDischargeDepth := 50) +contextual [hS]; done) | (simp_all (maxDischargeDepth := 50) +contextual [pair_iff]; done)); intro s' x' hs'; (try dsimp only); (repeat' split) <;> (first | (simp (maxDischargeDepth := 50) +contextual [hS]; done) | (simp_all (maxDischargeDepth := 50) +contextual [pair_iff]; done)))

@[simp] theorem State.giveUp_sound (s : State) (n fid : Nat) (x : SrcFlow) (p : OutParcel) (hS : s.Sound gr) :
    (State.giveUp s n fid x p).Sound gr := by
  unfold State.giveUp; (repeat' split) <;> simp [hS]

@[simp] theorem State.resend_sound (s : State) (n fid : Nat) (x : SrcFlow) (p : OutParcel) (hS : s.Sound gr) :
    (State.resend s n fid x p).Sound gr := by
  unfold State.resend; dsimp only; (repeat' split) <;> simp (maxDischargeDepth := 9) +contextual [hS]

@[simp] theorem State.openRefused_sound (s : State) (n fid : Nat) (x : SrcFlow) (p : OutParcel) (a : AnswerCell) (hS : s.Sound gr) :
    (State.openRefused s n fid x p a).Sound gr := by
  unfold State.openRefused; simp [hS]

@[simp] theorem State.parcelRefused_sound (s : State) (n fid : Nat) (x : SrcFlow) (p : OutParcel) (a : AnswerCell) (hS : s.Sound gr) :
    (State.parcelRefused s n fid x p a).Sound gr := by
  unfold State.parcelRefused; (repeat' split) <;> simp [hS]

@[simp] theorem State.parcelNacked_sound (s : State) (n fid : Nat) (x : SrcFlow) (p : OutParcel) (a : AnswerCell) (hS : s.Sound gr) :
    (State.parcelNacked s n fid x p a).Sound gr := by
  unfold State.parcelNacked; (repeat' split) <;> simp [hS]

@[simp] theorem State.flowNack_sound (s : State) (n fid : Nat) (x : SrcFlow) (a : AnswerCell) (hS : s.Sound gr) :
    (State.flowNack s n fid x a).Sound gr := by
  unfold State.flowNack; (repeat' split) <;> simp [hS]

@[simp] theorem State.putMcast_sound (s : State) (n gid : Nat) (m : McastOut) (hS : s.Sound gr) :
    (State.putMcast s n gid m).Sound gr := by
  unfold State.putMcast; simp [hS]

@[simp] theorem State.mcastLeft_sound (s : State) (n gid : Nat) (g : Sender) (m : McastOut) (c : Class) (resv : Option (Nat × Reservation)) (hS : s.Sound gr) :
    (State.mcastLeft s n gid g m c resv).Sound gr := by
  unfold State.mcastLeft; simp [hS]

@[simp] theorem State.mcastRelease_sound (s : State) (n gid : Nat) (g : Sender) (m : McastOut) (data : List Byte) (offset : Nat) (c : Class) (resv : Option (Nat × Reservation)) (hS : s.Sound gr) :
    (State.mcastRelease s n gid g m data offset c resv).Sound gr := by
  unfold State.mcastRelease; dsimp only; (repeat' split) <;> simp_all (maxDischargeDepth := 9) +contextual [pair_iff]

@[simp] theorem State.sendMcast_sound (s : State) (n gid seq : Nat) (hS : s.Sound gr) :
    (State.sendMcast s n gid seq).Sound gr := by
  unfold State.sendMcast; (repeat' split) <;> simp [hS]

@[simp] theorem State.repair_sound (s : State) (n gid : Nat) (g : Sender) (m : McastOut) (o : Op) (i : Nat) (hS : s.Sound gr) :
    (State.repair s n gid g m o i).1.Sound gr := by
  unfold State.repair; dsimp only; (repeat' split) <;> simp_all (maxDischargeDepth := 9) +contextual [pair_iff]

@[simp] theorem State.mcastTimeout_sound (s : State) (n gid : Nat) (g : Sender) (m : McastOut) (t : Nat) (hS : s.Sound gr) :
    (State.mcastTimeout s n gid g m t).Sound gr := by
  unfold State.mcastTimeout; dsimp only; (repeat' split) <;> simp (maxDischargeDepth := 9) +contextual [hS]

@[simp] theorem State.mcastAnswer_sound (s : State) (n : Nat) (a : AnswerCell) (hS : s.Sound gr) :
    (State.mcastAnswer s n a).Sound gr := by
  unfold State.mcastAnswer; (repeat' split) <;> simp (maxDischargeDepth := 9) +contextual [hS]

@[simp] theorem State.answerCell_sound (s : State) (n : Nat) (c : WireCell) (hS : s.Sound gr) :
    (State.answerCell s n c).Sound gr := by
  unfold State.answerCell
  dsimp only
  have h0 : (if (AnswerCell.ofCell c).nack then s.tally (peBase n + 0x6018) else s).Sound gr := by split <;> simp [hS]
  generalize (if (AnswerCell.ofCell c).nack then s.tally (peBase n + 0x6018) else s) = u at h0
  split
  · simp [hS]
  · split
    · next e => exact some_of (State.chunkAcked_sound _ _ _ h0) e
    · (repeat' split) <;> simp (maxDischargeDepth := 50) [h0]

@[simp] theorem execAckReceive_sound (pe : Nat) (s : State) (hS : s.Sound gr) :
    NextSound gr (execAckReceive pe s) := by
  unfold execAckReceive; (repeat' split) <;> simp (maxDischargeDepth := 9) +contextual [hS]

@[simp] theorem execNackReceive_sound (pe : Nat) (s : State) (hS : s.Sound gr) :
    NextSound gr (execNackReceive pe s) := by
  unfold execNackReceive; (repeat' split) <;> simp (maxDischargeDepth := 9) +contextual [hS]

@[simp] theorem State.responsePlaced_sound (s : State) (place : Nat) (o : Op) (q : OutParcel) (data : List Byte) (hS : s.Sound gr) :
    (State.responsePlaced s place o q data).Sound gr := by
  unfold State.responsePlaced; dsimp only; (repeat' split) <;> simp_all (maxDischargeDepth := 9) +contextual [pair_iff]

@[simp] theorem State.freeTag_sound (s : State) (n tag : Nat) (hS : s.Sound gr) :
    (State.freeTag s n tag).Sound gr := by
  unfold State.freeTag; simp [hS]

@[simp] theorem State.response_sound (s : State) (n : Nat) (p : Parcel) (hS : s.Sound gr) :
    (State.response s n p).Sound gr := by
  unfold State.response; dsimp only; (repeat' split) <;> simp_all (maxDischargeDepth := 9) +contextual [pair_iff]

@[simp] theorem execGetRespReceive_sound (pe : Nat) (s : State) (hS : s.Sound gr) :
    NextSound gr (execGetRespReceive pe s) := by
  unfold execGetRespReceive; (repeat' split) <;> simp (maxDischargeDepth := 9) +contextual [hS]

@[simp] theorem execParcelSend_sound (pe flow seq : Nat) (mcast : Bool) (s : State) (hS : s.Sound gr) :
    NextSound gr (execParcelSend pe flow seq mcast s) := by
  unfold execParcelSend; (repeat' split) <;> simp [hS]

@[simp] theorem State.reopen_sound (s : State) (n fid : Nat) (x : SrcFlow) (p : OutParcel) (hS : s.Sound gr) :
    (State.reopen s n fid x p).Sound gr := by
  unfold State.reopen; dsimp only; (repeat' split) <;> simp (maxDischargeDepth := 9) +contextual [hS]

@[simp] theorem State.parcelTimeout_sound (s : State) (n fid : Nat) (x : SrcFlow) (p : OutParcel) (hS : s.Sound gr) :
    (State.parcelTimeout s n fid x p).Sound gr := by
  unfold State.parcelTimeout; (repeat' split) <;> simp (maxDischargeDepth := 9) +contextual [hS]

@[simp] theorem execParcelTimeout_sound (pe flow seq : Nat) (mcast : Bool) (s : State) (hS : s.Sound gr) :
    NextSound gr (execParcelTimeout pe flow seq mcast s) := by
  unfold execParcelTimeout; (repeat' split) <;> simp [hS]

@[simp] theorem State.backOffEnds_sound (s : State) (n fid seq : Nat) (resource : Bool) (hS : s.Sound gr) :
    (State.backOffEnds s n fid seq resource).Sound gr := by
  unfold State.backOffEnds; (repeat' split) <;> simp [hS]

@[simp] theorem execRetryAfterExpiry_sound (pe flow seq : Nat) (s : State) (hS : s.Sound gr) :
    NextSound gr (execRetryAfterExpiry pe flow seq s) := by
  unfold execRetryAfterExpiry; simp [hS]

@[simp] theorem execResourceBackoffExpiry_sound (pe flow seq : Nat) (s : State) (hS : s.Sound gr) :
    NextSound gr (execResourceBackoffExpiry pe flow seq s) := by
  unfold execResourceBackoffExpiry; simp [hS]

@[simp] theorem execFlowIdleClose_sound (pe flow : Nat) (s : State) (hS : s.Sound gr) :
    NextSound gr (execFlowIdleClose pe flow s) := by
  unfold execFlowIdleClose; (repeat' split) <;> simp [hS]

@[simp] theorem State.expire_sound (s : State) (place : Nat) (o : Op) (hS : s.Sound gr) :
    (State.expire s place o).Sound gr := by
  unfold State.expire; (repeat' split) <;> simp (maxDischargeDepth := 9) +contextual [hS]

@[simp] theorem execHorizonExpiry_sound (place : Nat) (s : State) (hS : s.Sound gr) :
    NextSound gr (execHorizonExpiry place s) := by
  unfold execHorizonExpiry; (repeat' split) <;> simp [hS]

@[simp] theorem State.ctxFetched_sound (s : State) (n id : Nat) (isSource : Bool) (hS : s.Sound gr) :
    (State.ctxFetched s n id isSource).Sound gr := by
  unfold State.ctxFetched; simp [hS]

@[simp] theorem execFlowContextFetchComplete_sound (pe flow : Nat) (isSource : Bool) (s : State) (hS : s.Sound gr) :
    NextSound gr (execFlowContextFetchComplete pe flow isSource s) := by
  unfold execFlowContextFetchComplete; simp [hS]

@[simp] theorem State.ctxLost_sound (s : State) (n id : Nat) (isSource : Bool) (hS : s.Sound gr) :
    (State.ctxLost s n id isSource).Sound gr := by
  unfold State.ctxLost; dsimp only; (repeat' split) <;> simp (maxDischargeDepth := 9) +contextual [hS]

@[simp] theorem State.carryNow_sound (s : State) (n d : Nat) (x : DstFlow) (p : Parcel) (hS : s.Sound gr) :
    (State.carryNow s n d x p).Sound gr := by
  unfold State.carryNow; (repeat' split) <;> simp [hS]

@[simp] theorem State.carryFresh_sound (s : State) (n d : Nat) (x : DstFlow) (p : Parcel) (hS : s.Sound gr) :
    (State.carryFresh s n d x p).Sound gr := by
  unfold State.carryFresh; simp [hS]

@[simp] theorem State.answerAgain_sound (s : State) (n d : Nat) (x : DstFlow) (p : Parcel) (hS : s.Sound gr) :
    (State.answerAgain s n d x p).Sound gr := by
  unfold State.answerAgain; (repeat' split) <;> simp [hS]

@[simp] theorem State.stage_sound (s : State) (n d : Nat) (x : DstFlow) (p : Parcel) (hS : s.Sound gr) :
    (State.stage s n d x p).Sound gr := by
  unfold State.stage; (repeat' split) <;> simp (maxDischargeDepth := 9) +contextual [hS]

@[simp] theorem State.unstage_sound (s : State) (n d : Nat) (fuel : Nat) (hS : s.Sound gr) :
    (State.unstage s n d fuel).Sound gr := by
  induction fuel generalizing s with
  | zero => unfold State.unstage; first | (simp (maxDischargeDepth := 50) +contextual [hS]; done) | (simp_all (maxDischargeDepth := 50) +contextual [pair_iff]; done)
  | succ n ih =>
    unfold State.unstage
    try dsimp only
    (repeat' split) <;> first | (simp (maxDischargeDepth := 50) +contextual [hS , ih]; done) | (simp_all (maxDischargeDepth := 50) +contextual [pair_iff]; done) | (refine foldl_sound ?_ (by first | (simp (maxDischargeDepth := 50) +contextual [hS , ih]; done) | (simp_all (maxDischargeDepth := 50) +contextual [pair_iff]; done)); intro s' x' hs'; (try dsimp only); (repeat' split) <;> (first | (simp (maxDischargeDepth := 50) +contextual [hS , ih]; done) | (simp_all (maxDischargeDepth := 50) +contextual [pair_iff]; done)))

@[simp] theorem State.parkParcel_sound (s : State) (n d : Nat) (x : DstFlow) (p : Parcel) (hS : s.Sound gr) :
    (State.parkParcel s n d x p).Sound gr := by
  unfold State.parkParcel
  try dsimp only
  (repeat' split) <;> first | (simp (maxDischargeDepth := 50) +contextual [hS]; done) | (simp_all (maxDischargeDepth := 50) +contextual [pair_iff]; done) | (refine foldl_sound ?_ (by first | (simp (maxDischargeDepth := 50) +contextual [hS]; done) | (simp_all (maxDischargeDepth := 50) +contextual [pair_iff]; done)); intro s' x' hs'; (try dsimp only); (repeat' split) <;> (first | (simp (maxDischargeDepth := 50) +contextual [hS]; done) | (simp_all (maxDischargeDepth := 50) +contextual [pair_iff]; done)))

@[simp] theorem State.carry_sound (s : State) (n : Nat) (p : Parcel) (hS : s.Sound gr) :
    (State.carry s n p).Sound gr := by
  unfold State.carry; dsimp only; (repeat' split) <;> simp_all (maxDischargeDepth := 9) +contextual [pair_iff]

@[simp] theorem State.carryRow_sound (s : State) (pe : Nat) (f : Nat → Bool) (hS : s.Sound gr) :
    (State.carryRow s pe f).Sound gr := by
  unfold State.carryRow; (repeat' split) <;> simp (maxDischargeDepth := 9) +contextual [hS]

@[simp] theorem execPutParcelReceive_sound (pe : Nat) (s : State) (hS : s.Sound gr) :
    NextSound gr (execPutParcelReceive pe s) := by
  unfold execPutParcelReceive; simp [hS]

@[simp] theorem execPutElidedReceive_sound (pe : Nat) (s : State) (hS : s.Sound gr) :
    NextSound gr (execPutElidedReceive pe s) := by
  unfold execPutElidedReceive; simp [hS]

@[simp] theorem execGetReqReceive_sound (pe : Nat) (s : State) (hS : s.Sound gr) :
    NextSound gr (execGetReqReceive pe s) := by
  unfold execGetReqReceive; simp [hS]

@[simp] theorem execAtomicParcelReceive_sound (pe : Nat) (s : State) (hS : s.Sound gr) :
    NextSound gr (execAtomicParcelReceive pe s) := by
  unfold execAtomicParcelReceive; simp [hS]

@[simp] theorem execSignalReceive_sound (pe : Nat) (s : State) (hS : s.Sound gr) :
    NextSound gr (execSignalReceive pe s) := by
  unfold execSignalReceive; simp [hS]

@[simp] theorem execCloseReceive_sound (pe : Nat) (s : State) (hS : s.Sound gr) :
    NextSound gr (execCloseReceive pe s) := by
  unfold execCloseReceive; simp [hS]

@[simp] theorem execMcastRepairReceive_sound (pe : Nat) (s : State) (hS : s.Sound gr) :
    NextSound gr (execMcastRepairReceive pe s) := by
  unfold execMcastRepairReceive; simp [hS]

@[simp] theorem execMsgEagerReceive_sound (pe : Nat) (s : State) (hS : s.Sound gr) :
    NextSound gr (execMsgEagerReceive pe s) := by
  unfold execMsgEagerReceive; simp [hS]

@[simp] theorem execMsgRtsReceive_sound (pe : Nat) (s : State) (hS : s.Sound gr) :
    NextSound gr (execMsgRtsReceive pe s) := by
  unfold execMsgRtsReceive; simp [hS]

@[simp] theorem execMsgGetReceive_sound (pe : Nat) (s : State) (hS : s.Sound gr) :
    NextSound gr (execMsgGetReceive pe s) := by
  unfold execMsgGetReceive; simp [hS]

@[simp] theorem execMsgFinReceive_sound (pe : Nat) (s : State) (hS : s.Sound gr) :
    NextSound gr (execMsgFinReceive pe s) := by
  unfold execMsgFinReceive; simp [hS]

@[simp] theorem execOpenReceive_sound (pe : Nat) (s : State) (hS : s.Sound gr) :
    NextSound gr (execOpenReceive pe s) := by
  unfold execOpenReceive; (repeat' split) <;> simp [hS]

@[simp] theorem execMcastPutReceive_sound (pe : Nat) (s : State) (hS : s.Sound gr) :
    NextSound gr (execMcastPutReceive pe s) := by
  unfold execMcastPutReceive; (repeat' split) <;> simp [hS]

@[simp] theorem execAckSend_sound (pe : Nat) (s : State) (hS : s.Sound gr) :
    NextSound gr (execAckSend pe s) := by
  unfold execAckSend; dsimp only; (repeat' split) <;> simp (maxDischargeDepth := 9) +contextual [hS]

@[simp] theorem State.enter_sound (s : State) (f r : Nat) (g : Ring) (place : Nat) (o : Op) (hS : s.Sound gr) :
    (State.enter s f r g place o).Sound gr := by
  unfold State.enter; (repeat' split) <;> simp (maxDischargeDepth := 9) +contextual [hS]

@[simp] theorem State.withRank_sound (s : State) (place : Nat) (o : Op) (table : Nat) (hS : s.Sound gr) :
    (State.withRank s place o table).Sound gr := by
  unfold State.withRank; (repeat' split) <;> simp [hS]

@[simp] theorem State.withLocal_sound (s : State) (place : Nat) (o : Op) (id gen : Nat) (need : Need) (off n : Nat) (k : State → State) (hS : s.Sound gr) (h_k : ∀ y0, State.Sound y0 gr → State.Sound (k y0) gr) :
    (State.withLocal s place o id gen need off n k).Sound gr := by
  unfold State.withLocal
  try dsimp only
  (repeat' split) <;> first | (simp (maxDischargeDepth := 50) +contextual [hS, h_k]; done) | (simp_all (maxDischargeDepth := 50) +contextual [pair_iff]; done) | (refine foldl_sound ?_ (by first | (simp (maxDischargeDepth := 50) +contextual [hS, h_k]; done) | (simp_all (maxDischargeDepth := 50) +contextual [pair_iff]; done)); intro s' x' hs'; (try dsimp only); (repeat' split) <;> (first | (simp (maxDischargeDepth := 50) +contextual [hS, h_k]; done) | (simp_all (maxDischargeDepth := 50) +contextual [pair_iff]; done)))

@[simp] theorem State.beginWait_sound (s : State) (o : Op) (hS : s.Sound gr) :
    (State.beginWait s o).Sound gr := by
  unfold State.beginWait; simp [hS]

@[simp] theorem State.beginCounterAdd_sound (s : State) (place : Nat) (o : Op) (amount : Nat) (hS : s.Sound gr) :
    (State.beginCounterAdd s place o amount).Sound gr := by
  unfold State.beginCounterAdd; simp [hS]

@[simp] theorem State.beginPut_sound (s : State) (place : Nat) (o : Op) (a : PutArea) (need : Need) (table : Nat) (hS : s.Sound gr) :
    (State.beginPut s place o a need table).Sound gr := by
  unfold State.beginPut; (repeat' split) <;> simp (maxDischargeDepth := 9) +contextual [hS]

@[simp] theorem State.beginMcast_sound (s : State) (place : Nat) (o : Op) (a : McastArea) (hS : s.Sound gr) :
    (State.beginMcast s place o a).Sound gr := by
  unfold State.beginMcast; simp [hS]

@[simp] theorem State.beginAtomic_sound (s : State) (place : Nat) (o : Op) (a : AtomicArea) (table : Nat) (hS : s.Sound gr) :
    (State.beginAtomic s place o a table).Sound gr := by
  unfold State.beginAtomic; (repeat' split) <;> simp (maxDischargeDepth := 9) +contextual [hS]

@[simp] theorem State.beginSend_sound (s : State) (place : Nat) (o : Op) (a : SendArea) (table : Nat) (hS : s.Sound gr) :
    (State.beginSend s place o a table).Sound gr := by
  unfold State.beginSend; (repeat' split) <;> simp (maxDischargeDepth := 9) +contextual [hS]

@[simp] theorem State.collCheck_sound (s : State) (o : Op) (a : CollArea) (rank m : Nat) (hS : s.Sound gr) :
    (State.collCheck s o a rank m).1.Sound gr := by
  unfold State.collCheck
  dsimp only
  have hc : ∀ u : State, u.Sound gr → ∀ id gen need off len, (u.checkLocal (s.engineOf o.fn) o.domain id gen need off len).1.Sound gr := by
    intro u hu; intros; simp [hu]
  split
  · next e =>
    split at e
    · cases e
    · split at e
      · next e2 => cases e; exact fst_of (hc _ hS _ _ _ _ _) e2
      · cases e
  · next u e =>
    have h1 : State.Sound u gr := by
      split at e
      · cases e; exact hS
      · split at e
        · cases e
        · next e2 => cases e; exact fst_of (hc _ hS _ _ _ _ _) e2
    split
    · exact h1
    · split <;> (next e2 => exact fst_of (hc _ h1 _ _ _ _ _) e2)

@[simp] theorem State.beginCollective_sound (s : State) (place : Nat) (o : Op) (a : CollArea) (hS : s.Sound gr) :
    (State.beginCollective s place o a).Sound gr := by
  unfold State.beginCollective; dsimp only; (repeat' split) <;> simp_all (maxDischargeDepth := 9) +contextual [pair_iff]

@[simp] theorem State.beginCommand_sound (s : State) (place : Nat) (o : Op) (a : CommandArea) (hS : s.Sound gr) :
    (State.beginCommand s place o a).Sound gr := by
  unfold State.beginCommand; simp [hS]

@[simp] theorem State.begin__sound (s : State) (place : Nat) (o : Op) (g : Ring) (hS : s.Sound gr) :
    (State.begin_ s place o g).Sound gr := by
  unfold State.begin_; (repeat' split) <;> simp [hS]

@[simp] theorem State.stall_sound (s : State) (f r : Nat) (w : Stall) (hS : s.Sound gr) :
    (State.stall s f r w).Sound gr := by
  unfold State.stall; simp [hS]

@[simp] theorem State.stallPosted_sound (s : State) (f r : Nat) (x : Fn) (hS : s.Sound gr) :
    (State.stallPosted s f r x).Sound gr := by
  unfold State.stallPosted; (repeat' split) <;> simp (maxDischargeDepth := 9) +contextual [hS]

@[simp] theorem State.badEntry_sound (s : State) (f r : Nat) (g : Ring) (why : Nat) (raw : List Byte) (hS : s.Sound gr) :
    (State.badEntry s f r g why raw).Sound gr := by
  unfold State.badEntry; simp [hS]

@[simp] theorem State.acceptEntry_sound (s : State) (f r : Nat) (h : DescHdr) (a : DescArea) (hS : s.Sound gr) :
    (State.acceptEntry s f r h a).Sound gr := by
  unfold State.acceptEntry; (repeat' split) <;> simp (maxDischargeDepth := 9) +contextual [hS]

@[simp] theorem State.descriptor_sound (s : State) (f r : Nat) (h : DescHdr) (a : DescArea) (hS : s.Sound gr) :
    (State.descriptor s f r h a).Sound gr := by
  unfold State.descriptor; (repeat' split) <;> simp [hS]

@[simp] theorem execNop_sound (fn ring : Nat) (d : DescHdr) (reserved : Nat) (s : State) (hS : s.Sound gr) :
    NextSound gr (execNop fn ring d reserved s) := by
  unfold execNop; simp [hS]

@[simp] theorem execWait_sound (fn ring : Nat) (d : DescHdr) (counter threshold reserved : Nat) (s : State) (hS : s.Sound gr) :
    NextSound gr (execWait fn ring d counter threshold reserved s) := by
  unfold execWait; simp [hS]

@[simp] theorem execCounterAdd_sound (fn ring : Nat) (d : DescHdr) (amount reserved : Nat) (s : State) (hS : s.Sound gr) :
    NextSound gr (execCounterAdd fn ring d amount reserved s) := by
  unfold execCounterAdd; simp [hS]

@[simp] theorem execPut_sound (fn ring : Nat) (d : DescHdr) (a : PutArea) (s : State) (hS : s.Sound gr) :
    NextSound gr (execPut fn ring d a s) := by
  unfold execPut; simp [hS]

@[simp] theorem execGet_sound (fn ring : Nat) (d : DescHdr) (a : PutArea) (s : State) (hS : s.Sound gr) :
    NextSound gr (execGet fn ring d a s) := by
  unfold execGet; simp [hS]

@[simp] theorem execPutWithSignal_sound (fn ring : Nat) (d : DescHdr) (a : PutArea) (s : State) (hS : s.Sound gr) :
    NextSound gr (execPutWithSignal fn ring d a s) := by
  unfold execPutWithSignal; simp [hS]

@[simp] theorem execFence_sound (fn ring : Nat) (d : DescHdr) (reserved : Nat) (s : State) (hS : s.Sound gr) :
    NextSound gr (execFence fn ring d reserved s) := by
  unfold execFence; simp [hS]

@[simp] theorem execMcastPut_sound (fn ring : Nat) (d : DescHdr) (a : McastArea) (s : State) (hS : s.Sound gr) :
    NextSound gr (execMcastPut fn ring d a s) := by
  unfold execMcastPut; simp [hS]

@[simp] theorem execAtomic_sound (fn ring : Nat) (d : DescHdr) (a : AtomicArea) (s : State) (hS : s.Sound gr) :
    NextSound gr (execAtomic fn ring d a s) := by
  unfold execAtomic; simp [hS]

@[simp] theorem execSend_sound (fn ring : Nat) (d : DescHdr) (a : SendArea) (s : State) (hS : s.Sound gr) :
    NextSound gr (execSend fn ring d a s) := by
  unfold execSend; simp [hS]

@[simp] theorem execRecv_sound (fn ring : Nat) (d : DescHdr) (a : RecvArea) (s : State) (hS : s.Sound gr) :
    NextSound gr (execRecv fn ring d a s) := by
  unfold execRecv; simp [hS]

@[simp] theorem execCancel_sound (fn ring : Nat) (d : DescHdr) (a : CancelArea) (s : State) (hS : s.Sound gr) :
    NextSound gr (execCancel fn ring d a s) := by
  unfold execCancel; simp [hS]

@[simp] theorem execCollective_sound (fn ring : Nat) (d : DescHdr) (a : CollArea) (s : State) (hS : s.Sound gr) :
    NextSound gr (execCollective fn ring d a s) := by
  unfold execCollective; simp [hS]

@[simp] theorem execCommand_sound (fn ring : Nat) (d : DescHdr) (a : CommandArea) (s : State) (hS : s.Sound gr) :
    NextSound gr (execCommand fn ring d a s) := by
  unfold execCommand; simp [hS]

@[simp] theorem State.acceptRaw_sound (s : State) (f r index : Nat) (b : List Byte) (hS : s.Sound gr) :
    (State.acceptRaw s f r index b).Sound gr := by
  unfold State.acceptRaw; (repeat' split) <;> simp [hS]

@[simp] theorem State.acceptAll_sound (s : State) (f r first count : Nat) (bs : List Byte) (hS : s.Sound gr) :
    (State.acceptAll s f r first count bs).Sound gr := by
  unfold State.acceptAll; (repeat' split) <;> simp (maxDischargeDepth := 9) +contextual [hS]

@[simp] theorem State.descReturn_sound (s : State) (tag r first count : Nat) (d : DmaRead) (c : Completion) (hS : s.Sound gr) :
    (State.descReturn s tag r first count d c).Sound gr := by
  unfold State.descReturn; (repeat' split) <;> simp (maxDischargeDepth := 9) +contextual [hS]

@[simp] theorem execDescriptorFetchReturn_sound (fn ring : Nat) (c : Completion) (s : State) (hS : s.Sound gr) :
    NextSound gr (execDescriptorFetchReturn fn ring c s) := by
  unfold execDescriptorFetchReturn; (repeat' split) <;> simp [hS]

@[simp] theorem State.afterIndex_sound (s : State) (f : Nat) (hS : s.Sound gr) :
    (State.afterIndex s f).Sound gr := by
  unfold State.afterIndex; simp [hS]

@[simp] theorem execProducerIndexReadReturn_sound (fn ring : Nat) (c : Completion) (s : State) (hS : s.Sound gr) :
    NextSound gr (execProducerIndexReadReturn fn ring c s) := by
  unfold execProducerIndexReadReturn; (repeat' split) <;> simp [hS]

@[simp] theorem execCounterSet_sound (fn counter : Nat) (s : State) (hS : s.Sound gr) :
    NextSound gr (execCounterSet fn counter s) := by
  unfold execCounterSet
  try dsimp only
  (repeat' split) <;> first | (rw [next_sound]; refine State.setupAct_sound _ _ _ hS ?_; intro x'; (try dsimp only); (repeat' split) <;> (first | (simp (maxDischargeDepth := 50) +contextual [hS ]; done) | (simp_all (maxDischargeDepth := 50) +contextual [pair_iff]; done))) | first | (simp (maxDischargeDepth := 50) +contextual [hS]; done) | (simp_all (maxDischargeDepth := 50) +contextual [pair_iff]; done) | (refine foldl_sound ?_ (by first | (simp (maxDischargeDepth := 50) +contextual [hS]; done) | (simp_all (maxDischargeDepth := 50) +contextual [pair_iff]; done)); intro s' x' hs'; (try dsimp only); (repeat' split) <;> (first | (simp (maxDischargeDepth := 50) +contextual [hS]; done) | (simp_all (maxDischargeDepth := 50) +contextual [pair_iff]; done)))

@[simp] theorem State.opReadFails_sound (s : State) (d : DmaRead) (e : HostErr) (off : Nat) (hS : s.Sound gr) :
    (State.opReadFails s d e off).Sound gr := by
  unfold State.opReadFails; (repeat' split) <;> simp [hS]

@[simp] theorem State.packParcel_sound (s : State) (p : OutParcel) (bytes : List Byte) (busy : Bool) (hS : s.Sound gr) :
    (State.packParcel s p bytes busy).1.Sound gr := by
  unfold State.packParcel; (repeat' split) <;> simp [hS]

@[simp] theorem State.parcelPiece_sound (s : State) (n fid seq tag : Nat) (bytes : List Byte) (busy : Bool) (hS : s.Sound gr) :
    (State.parcelPiece s n fid seq tag bytes busy).Sound gr := by
  unfold State.parcelPiece; (repeat' split) <;> simp (maxDischargeDepth := 9) +contextual [hS]

@[simp] theorem State.mcastPiece_sound (s : State) (n g seq tag : Nat) (bytes : List Byte) (hS : s.Sound gr) :
    (State.mcastPiece s n g seq tag bytes).Sound gr := by
  unfold State.mcastPiece; (repeat' split) <;> simp (maxDischargeDepth := 9) +contextual [hS]

@[simp] theorem State.pullFails_sound (s : State) (n d seq : Nat) (r : DmaRead) (e : HostErr) (off place : Nat) (hS : s.Sound gr) :
    (State.pullFails s n d seq r e off place).Sound gr := by
  unfold State.pullFails; (repeat' split) <;> simp (maxDischargeDepth := 9) +contextual [hS]

@[simp] theorem State.readDone_sound (s : State) (tag : Nat) (d : DmaRead) (bytes : List Byte) (busy : Bool) (hS : s.Sound gr) :
    (State.readDone s tag d bytes busy).Sound gr := by
  unfold State.readDone; (repeat' split) <;> simp [hS]

@[simp] theorem State.readFails_sound (s : State) (d : DmaRead) (e : HostErr) (off : Nat) (hS : s.Sound gr) :
    (State.readFails s d e off).Sound gr := by
  unfold State.readFails; (repeat' split) <;> simp [hS]

@[simp] theorem State.dataReturn_sound (s : State) (tag : Nat) (d : DmaRead) (c : Completion) (busy : Bool) (hS : s.Sound gr) :
    (State.dataReturn s tag d c busy).Sound gr := by
  unfold State.dataReturn; (repeat' split) <;> simp (maxDischargeDepth := 9) +contextual [hS]

@[simp] theorem State.setLag_sound (s : State) (i : Nat) (l : Lag) (hS : s.Sound gr) :
    (State.setLag s i l).Sound gr := by
  unfold State.setLag; simp [hS]

@[simp] theorem State.reportLag_sound (s : State) (i before : Nat) (l : Lag) (hS : s.Sound gr) :
    (State.reportLag s i before l).Sound gr := by
  unfold State.reportLag; (repeat' split) <;> simp (maxDischargeDepth := 9) +contextual [hS]

@[simp] theorem State.tickWork_sound (s : State) (i n : Nat) (hS : s.Sound gr) :
    (State.tickWork s i n).Sound gr := by
  unfold State.tickWork
  try dsimp only
  (repeat' split) <;> first | (simp (maxDischargeDepth := 50) +contextual [hS]; done) | (simp_all (maxDischargeDepth := 50) +contextual [pair_iff]; done) | (refine foldl_sound ?_ (by first | (simp (maxDischargeDepth := 50) +contextual [hS]; done) | (simp_all (maxDischargeDepth := 50) +contextual [pair_iff]; done)); intro s' x' hs'; (try dsimp only); (repeat' split) <;> (first | (simp (maxDischargeDepth := 50) +contextual [hS]; done) | (simp_all (maxDischargeDepth := 50) +contextual [pair_iff]; done)))

@[simp] theorem State.boundary_sound (s : State) (i workEnd : Nat) (hS : s.Sound gr) :
    (State.boundary s i workEnd).Sound gr := by
  unfold State.boundary; (repeat' split) <;> simp (maxDischargeDepth := 9) +contextual [hS]

@[simp] theorem execTickBoundary_sound (block workEnd : Nat) (s : State) (hS : s.Sound gr) :
    NextSound gr (execTickBoundary block workEnd s) := by
  unfold execTickBoundary; simp [hS]

@[simp] theorem State.setLocal_sound (s : State) (t : Nat) (x : LocalToken) (hS : s.Sound gr) :
    (State.setLocal s t x).Sound gr := by
  unfold State.setLocal; simp [hS]

@[simp] theorem State.setHome_sound (s : State) (h : Nat) (x : Home) (hS : s.Sound gr) :
    (State.setHome s h x).Sound gr := by
  unfold State.setHome; simp [hS]

@[simp] theorem State.setBinding_sound (s : State) (b : Nat) (x : Binding) (hS : s.Sound gr) :
    (State.setBinding s b x).Sound gr := by
  unfold State.setBinding; simp [hS]

@[simp] theorem State.reportLevels_sound (s : State) (hS : s.Sound gr) :
    (State.reportLevels s).Sound gr := by
  unfold State.reportLevels; (repeat' split) <;> simp (maxDischargeDepth := 9) +contextual [hS]

@[simp] theorem State.localRead_sound (s : State) (f : Nat) (x : Fn) (t : Nat) (wait : Bool) (hS : s.Sound gr) :
    (State.localRead s f x t wait).1.Sound gr := by
  unfold State.localRead; dsimp only; (repeat' split) <;> simp (maxDischargeDepth := 9) +contextual [hS]

@[simp] theorem State.localRelease_sound (s : State) (t : Nat) (lost : Bool) (hS : s.Sound gr) :
    (State.localRelease s t lost).Sound gr := by
  unfold State.localRelease; dsimp only; (repeat' split) <;> simp (maxDischargeDepth := 9) +contextual [hS]

@[simp] theorem State.tokenAccess_sound (s : State) (f : Nat) (right : Fn → Bool) (denied : State → State) (k : Fn → State) (hS : s.Sound gr) (h_denied : ∀ y0, State.Sound y0 gr → State.Sound (denied y0) gr) (h_k : ∀ y0, State.Sound (k y0) gr) :
    (State.tokenAccess s f right denied k).Sound gr := by
  unfold State.tokenAccess; (repeat' split) <;> simp [hS, h_denied, h_k]

@[simp] theorem State.tokenRead_sound (s : State) (f offset : Nat) (right : Fn → Bool) (k : Fn → State × Nat) (hS : s.Sound gr) (h_k : ∀ y0, State.Sound (k y0).1 gr) :
    (State.tokenRead s f offset right k).Sound gr := by
  unfold State.tokenRead
  split
  · simp [hS]
  · exact State.tokenAccess_sound _ _ _ _ _ hS (fun s h => by simp [h]) (fun x => by simp [h_k])

@[simp] theorem State.tokenWrite_sound (s : State) (f : Nat) (right : Fn → Bool) (k : Fn → State) (hS : s.Sound gr) (h_k : ∀ y0, State.Sound (k y0) gr) :
    (State.tokenWrite s f right k).Sound gr := by
  unfold State.tokenWrite; simp [hS, h_k]

@[simp] theorem execLocalTokenAcquireRead_sound (fn token : Nat) (s : State) (hS : s.Sound gr) :
    NextSound gr (execLocalTokenAcquireRead fn token s) := by
  unfold execLocalTokenAcquireRead; (repeat' split) <;> simp [hS]

@[simp] theorem execLocalTokenWaitRead_sound (fn token : Nat) (s : State) (hS : s.Sound gr) :
    NextSound gr (execLocalTokenWaitRead fn token s) := by
  unfold execLocalTokenWaitRead; (repeat' split) <;> simp [hS]

@[simp] theorem execLocalTokenReleaseWrite_sound (fn token value : Nat) (s : State) (hS : s.Sound gr) :
    NextSound gr (execLocalTokenReleaseWrite fn token value s) := by
  unfold execLocalTokenReleaseWrite; (repeat' split) <;> simp [hS]

@[simp] theorem State.sendToken_sound (s : State) (loc : Nat) (m : TokenMsg) (hS : s.Sound gr) :
    (State.sendToken s loc m).Sound gr := by
  unfold State.sendToken; simp [hS]

@[simp] theorem State.takeRequest_sound (s : State) (hS : s.Sound gr) :
    (State.takeRequest s).2.Sound gr := by
  unfold State.takeRequest; simp [hS]

@[simp] theorem State.bindSend_sound (s : State) (b : Nat) (x : Binding) (kind : Nat) (hS : s.Sound gr) :
    (State.bindSend s b x kind).Sound gr := by
  unfold State.bindSend; simp [hS]

@[simp] theorem State.sendRelease_sound (s : State) (loc : Nat) (m : TokenMsg) (hS : s.Sound gr) :
    (State.sendRelease s loc m).Sound gr := by
  unfold State.sendRelease; simp [hS]

@[simp] theorem State.bindRelease_sound (s : State) (b : Nat) (x : Binding) (lost : Bool) (hS : s.Sound gr) :
    (State.bindRelease s b x lost).Sound gr := by
  unfold State.bindRelease; simp [hS]

@[simp] theorem State.bindRead_sound (s : State) (b : Nat) (x : Binding) (wait : Bool) (hS : s.Sound gr) :
    (State.bindRead s b x wait).1.Sound gr := by
  unfold State.bindRead; (repeat' split) <;> simp (maxDischargeDepth := 9) +contextual [hS]

@[simp] theorem execFabricBindingAcquireRead_sound (fn binding : Nat) (s : State) (hS : s.Sound gr) :
    NextSound gr (execFabricBindingAcquireRead fn binding s) := by
  unfold execFabricBindingAcquireRead; (repeat' split) <;> simp [hS]

@[simp] theorem execFabricBindingWaitRead_sound (fn binding : Nat) (s : State) (hS : s.Sound gr) :
    NextSound gr (execFabricBindingWaitRead fn binding s) := by
  unfold execFabricBindingWaitRead; (repeat' split) <;> simp [hS]

@[simp] theorem execFabricBindingReleaseWrite_sound (fn binding value : Nat) (s : State) (hS : s.Sound gr) :
    NextSound gr (execFabricBindingReleaseWrite fn binding value s) := by
  unfold execFabricBindingReleaseWrite; (repeat' split) <;> simp [hS]

@[simp] theorem State.bindCancel_sound (s : State) (b : Nat) (x : Binding) (hS : s.Sound gr) :
    (State.bindCancel s b x).Sound gr := by
  unfold State.bindCancel; simp [hS]

@[simp] theorem execTokenWaitCancelWrite_sound (fn : Nat) (fabric : Bool) (index value : Nat) (s : State) (hS : s.Sound gr) :
    NextSound gr (execTokenWaitCancelWrite fn fabric index value s) := by
  unfold execTokenWaitCancelWrite; (repeat' split) <;> simp [hS]

@[simp] theorem State.homeReply_sound (s : State) (i : Nat) (m : TokenMsg) (lost : Bool) (hS : s.Sound gr) :
    (State.homeReply s i m lost).Sound gr := by
  unfold State.homeReply; simp [hS]

@[simp] theorem State.homeRelease_sound (s : State) (i : Nat) (lost : Bool) (hS : s.Sound gr) :
    (State.homeRelease s i lost).Sound gr := by
  unfold State.homeRelease; dsimp only; (repeat' split) <;> simp (maxDischargeDepth := 9) +contextual [hS]

@[simp] theorem State.homeTake_sound (s : State) (i : Nat) (m : TokenMsg) (wait : Bool) (hS : s.Sound gr) :
    (State.homeTake s i m wait).Sound gr := by
  unfold State.homeTake; dsimp only; (repeat' split) <;> simp (maxDischargeDepth := 9) +contextual [hS]

@[simp] theorem State.homeMsg_sound (s : State) (m : TokenMsg) (k : Nat → State) (hS : s.Sound gr) (h_k : ∀ y0, State.Sound (k y0) gr) :
    (State.homeMsg s m k).Sound gr := by
  unfold State.homeMsg; dsimp only; (repeat' split) <;> simp (maxDischargeDepth := 9) +contextual [hS, h_k]

@[simp] theorem State.homeReleaseMsg_sound (s : State) (i : Nat) (m : TokenMsg) (hS : s.Sound gr) :
    (State.homeReleaseMsg s i m).Sound gr := by
  unfold State.homeReleaseMsg; (repeat' split) <;> simp [hS]

@[simp] theorem State.homeRenew_sound (s : State) (i : Nat) (m : TokenMsg) (hS : s.Sound gr) :
    (State.homeRenew s i m).Sound gr := by
  unfold State.homeRenew; (repeat' split) <;> simp (maxDischargeDepth := 9) +contextual [hS]

@[simp] theorem State.homeCancel_sound (s : State) (m : TokenMsg) (hS : s.Sound gr) :
    (State.homeCancel s m).Sound gr := by
  unfold State.homeCancel; simp [hS]

@[simp] theorem State.homeGranted_sound (s : State) (m : TokenMsg) (hS : s.Sound gr) :
    (State.homeGranted s m).Sound gr := by
  unfold State.homeGranted; (repeat' split) <;> simp [hS]

@[simp] theorem State.tokenFrom_sound (s : State) (kind : Nat) (k : Nat → TokenMsg → State → State) (hS : s.Sound gr) (h_k : ∀ y0, ∀ y1, ∀ y2, State.Sound y2 gr → State.Sound (k y0 y1 y2) gr) :
    (State.tokenFrom s kind k).Sound gr := by
  unfold State.tokenFrom
  try dsimp only
  (repeat' split) <;> first | (simp (maxDischargeDepth := 50) +contextual [hS, h_k]; done) | (simp_all (maxDischargeDepth := 50) +contextual [pair_iff]; done) | (refine foldl_sound ?_ (by first | (simp (maxDischargeDepth := 50) +contextual [hS, h_k]; done) | (simp_all (maxDischargeDepth := 50) +contextual [pair_iff]; done)); intro s' x' hs'; (try dsimp only); (repeat' split) <;> (first | (simp (maxDischargeDepth := 50) +contextual [hS, h_k]; done) | (simp_all (maxDischargeDepth := 50) +contextual [pair_iff]; done)))

@[simp] theorem State.tokenMsg_sound (s : State) (kind : Nat) (k : TokenMsg → State → State) (hS : s.Sound gr) (h_k : ∀ y0, ∀ y1, State.Sound y1 gr → State.Sound (k y0 y1) gr) :
    (State.tokenMsg s kind k).Sound gr := by
  unfold State.tokenMsg
  try dsimp only
  (repeat' split) <;> first | (simp (maxDischargeDepth := 50) +contextual [hS, h_k]; done) | (simp_all (maxDischargeDepth := 50) +contextual [pair_iff]; done) | (refine foldl_sound ?_ (by first | (simp (maxDischargeDepth := 50) +contextual [hS, h_k]; done) | (simp_all (maxDischargeDepth := 50) +contextual [pair_iff]; done)); intro s' x' hs'; (try dsimp only); (repeat' split) <;> (first | (simp (maxDischargeDepth := 50) +contextual [hS, h_k]; done) | (simp_all (maxDischargeDepth := 50) +contextual [pair_iff]; done)))

@[simp] theorem execTokenMsgAcquire_sound (s : State) (hS : s.Sound gr) :
    NextSound gr (execTokenMsgAcquire s) := by
  unfold execTokenMsgAcquire; (repeat' split) <;> simp (maxDischargeDepth := 9) +contextual [hS]

@[simp] theorem execTokenMsgWait_sound (s : State) (hS : s.Sound gr) :
    NextSound gr (execTokenMsgWait s) := by
  unfold execTokenMsgWait; (repeat' split) <;> simp (maxDischargeDepth := 9) +contextual [hS]

@[simp] theorem execTokenMsgCancel_sound (s : State) (hS : s.Sound gr) :
    NextSound gr (execTokenMsgCancel s) := by
  unfold execTokenMsgCancel; (repeat' split) <;> simp (maxDischargeDepth := 9) +contextual [hS]

@[simp] theorem execTokenMsgRelease_sound (s : State) (hS : s.Sound gr) :
    NextSound gr (execTokenMsgRelease s) := by
  unfold execTokenMsgRelease; (repeat' split) <;> simp (maxDischargeDepth := 9) +contextual [hS]

@[simp] theorem execTokenMsgRenew_sound (s : State) (hS : s.Sound gr) :
    NextSound gr (execTokenMsgRenew s) := by
  unfold execTokenMsgRenew; (repeat' split) <;> simp (maxDischargeDepth := 9) +contextual [hS]

@[simp] theorem execTokenMsgGrantAck_sound (s : State) (hS : s.Sound gr) :
    NextSound gr (execTokenMsgGrantAck s) := by
  unfold execTokenMsgGrantAck; (repeat' split) <;> simp (maxDischargeDepth := 9) +contextual [hS]

@[simp] theorem State.requestAnswered_sound (s : State) (b : Nat) (x : Binding) (q : TokenReq) (m : TokenMsg) (hS : s.Sound gr) :
    (State.requestAnswered s b x q m).Sound gr := by
  unfold State.requestAnswered; simp [hS]

@[simp] theorem State.renewAnswered_sound (s : State) (b : Nat) (x : Binding) (sent : Nat) (m : TokenMsg) (hS : s.Sound gr) :
    (State.renewAnswered s b x sent m).Sound gr := by
  unfold State.renewAnswered; (repeat' split) <;> simp [hS]

@[simp] theorem State.tokenAnswered_sound (s : State) (m : TokenMsg) (hS : s.Sound gr) :
    (State.tokenAnswered s m).Sound gr := by
  unfold State.tokenAnswered; (repeat' split) <;> simp [hS]

@[simp] theorem execTokenMsgAnswer_sound (s : State) (hS : s.Sound gr) :
    NextSound gr (execTokenMsgAnswer s) := by
  unfold execTokenMsgAnswer; (repeat' split) <;> simp (maxDischargeDepth := 9) +contextual [hS]

@[simp] theorem State.grantAck_sound (s : State) (x : Binding) (m : TokenMsg) (hS : s.Sound gr) :
    (State.grantAck s x m).Sound gr := by
  unfold State.grantAck; simp [hS]

@[simp] theorem State.tokenGranted_sound (s : State) (loc : Nat) (m : TokenMsg) (hS : s.Sound gr) :
    (State.tokenGranted s loc m).Sound gr := by
  unfold State.tokenGranted; (repeat' split) <;> simp (maxDischargeDepth := 9) +contextual [hS]

@[simp] theorem execTokenMsgGrant_sound (s : State) (hS : s.Sound gr) :
    NextSound gr (execTokenMsgGrant s) := by
  unfold execTokenMsgGrant; (repeat' split) <;> simp (maxDischargeDepth := 9) +contextual [hS]

@[simp] theorem State.onBinding_sound (s : State) (b : Nat) (k : Binding → State) (hS : s.Sound gr) (h_k : ∀ y0, State.Sound (k y0) gr) :
    (State.onBinding s b k).Sound gr := by
  unfold State.onBinding; (repeat' split) <;> simp [hS, h_k]

@[simp] theorem execTokenRequestRetry_sound (binding : Nat) (s : State) (hS : s.Sound gr) :
    NextSound gr (execTokenRequestRetry binding s) := by
  unfold execTokenRequestRetry
  try dsimp only
  (repeat' split) <;> first | (rw [next_sound]; refine State.onBinding_sound _ _ _ hS ?_; intro x'; (try dsimp only); (repeat' split) <;> (first | (simp (maxDischargeDepth := 50) +contextual [hS ]; done) | (simp_all (maxDischargeDepth := 50) +contextual [pair_iff]; done))) | first | (simp (maxDischargeDepth := 50) +contextual [hS]; done) | (simp_all (maxDischargeDepth := 50) +contextual [pair_iff]; done) | (refine foldl_sound ?_ (by first | (simp (maxDischargeDepth := 50) +contextual [hS]; done) | (simp_all (maxDischargeDepth := 50) +contextual [pair_iff]; done)); intro s' x' hs'; (try dsimp only); (repeat' split) <;> (first | (simp (maxDischargeDepth := 50) +contextual [hS]; done) | (simp_all (maxDischargeDepth := 50) +contextual [pair_iff]; done)))

@[simp] theorem execTokenRequestFail_sound (binding : Nat) (s : State) (hS : s.Sound gr) :
    NextSound gr (execTokenRequestFail binding s) := by
  unfold execTokenRequestFail
  try dsimp only
  (repeat' split) <;> first | (rw [next_sound]; refine State.onBinding_sound _ _ _ hS ?_; intro x'; (try dsimp only); (repeat' split) <;> (first | (simp (maxDischargeDepth := 50) +contextual [hS ]; done) | (simp_all (maxDischargeDepth := 50) +contextual [pair_iff]; done))) | first | (simp (maxDischargeDepth := 50) +contextual [hS]; done) | (simp_all (maxDischargeDepth := 50) +contextual [pair_iff]; done) | (refine foldl_sound ?_ (by first | (simp (maxDischargeDepth := 50) +contextual [hS]; done) | (simp_all (maxDischargeDepth := 50) +contextual [pair_iff]; done)); intro s' x' hs'; (try dsimp only); (repeat' split) <;> (first | (simp (maxDischargeDepth := 50) +contextual [hS]; done) | (simp_all (maxDischargeDepth := 50) +contextual [pair_iff]; done)))

@[simp] theorem execTokenReleaseResend_sound (release : Nat) (s : State) (hS : s.Sound gr) :
    NextSound gr (execTokenReleaseResend release s) := by
  unfold execTokenReleaseResend; (repeat' split) <;> simp [hS]

@[simp] theorem State.periodic_sound (s : State) (b : Nat) (x : Binding) (kind : Nat) (hS : s.Sound gr) :
    (State.periodic s b x kind).Sound gr := by
  unfold State.periodic; (repeat' split) <;> simp (maxDischargeDepth := 9) +contextual [hS]

@[simp] theorem execTokenRenewSend_sound (binding : Nat) (s : State) (hS : s.Sound gr) :
    NextSound gr (execTokenRenewSend binding s) := by
  unfold execTokenRenewSend; (repeat' split) <;> simp (maxDischargeDepth := 9) +contextual [hS]

@[simp] theorem execTokenWaitResend_sound (binding : Nat) (s : State) (hS : s.Sound gr) :
    NextSound gr (execTokenWaitResend binding s) := by
  unfold execTokenWaitResend; (repeat' split) <;> simp (maxDischargeDepth := 9) +contextual [hS]

@[simp] theorem State.lapse_sound (s : State) (h : Nat) (granting : Bool) (hS : s.Sound gr) :
    (State.lapse s h granting).Sound gr := by
  unfold State.lapse; (repeat' split) <;> simp (maxDischargeDepth := 9) +contextual [hS]

@[simp] theorem execTokenLeaseLapse_sound (home : Nat) (s : State) (hS : s.Sound gr) :
    NextSound gr (execTokenLeaseLapse home s) := by
  unfold execTokenLeaseLapse; simp [hS]

@[simp] theorem execTokenGrantLapse_sound (home : Nat) (s : State) (hS : s.Sound gr) :
    NextSound gr (execTokenGrantLapse home s) := by
  unfold execTokenGrantLapse; simp [hS]

@[simp] theorem execTokenLeaseDrop_sound (binding : Nat) (s : State) (hS : s.Sound gr) :
    NextSound gr (execTokenLeaseDrop binding s) := by
  unfold execTokenLeaseDrop; (repeat' split) <;> simp (maxDischargeDepth := 9) +contextual [hS]

@[simp] theorem State.tokensLost_sound (s : State) (f : Nat) (hS : s.Sound gr) :
    (State.tokensLost s f).Sound gr := by
  unfold State.tokensLost; (repeat' split) <;> simp (maxDischargeDepth := 9) +contextual [hS]

end Sys2Proof.Machine
end

