-- ==== Sys2Proof/Laws/SoundCommands.lean ====
section
/-! SUPPORT. The lemmas of Laws/Sound for resets, commands, functions, faults and transports, and the law of every row. -/
namespace Sys2Proof.Machine

set_option linter.all false

open Sys2Proof

variable {gr : Footing}

@[simp] theorem State.reborn_sound (s : State) (hS : s.Sound gr) :
    (State.reborn s).Sound gr := by
  obtain ⟨h1, h2, h3, h4, h5⟩ := hS
  exact ⟨h1, h2, h3, fun _ => ⟨.nil, fun _ h => absurd h (by simp [State.reborn, State.reset])⟩, fun _ _ => by simp [State.reborn, State.reset, CC.reset]⟩

@[simp] theorem State.linksGo_sound (s : State) (hS : s.Sound gr) :
    (State.linksGo s).Sound gr := by
  unfold State.linksGo; simp [hS]

@[simp] theorem State.wholeReset_sound (s : State) (cause source : Nat) (hS : s.Sound gr) :
    (State.wholeReset s cause source).Sound gr := by
  unfold State.wholeReset; simp [hS]

@[simp] theorem State.restart_sound (s : State) (cause : Nat) (hS : s.Sound gr) :
    (State.restart s cause).Sound gr := by
  unfold State.restart
  dsimp only
  refine State.evidence_sound _ _ ?_
  have h : s.linksGo.reborn.Sound gr := by simp [hS]
  exact ⟨h.1, h.2.1, h.2.2.1, hS.2.2.2.1, h.2.2.2.2⟩

@[simp] theorem State.beginDeviceReset_sound (s : State) (cause source : Nat) (hS : s.Sound gr) :
    (State.beginDeviceReset s cause source).Sound gr := by
  unfold State.beginDeviceReset; simp [hS]

@[simp] theorem State.dueReset_sound (s : State) (hS : s.Sound gr) :
    (State.dueReset s).Sound gr := by
  unfold State.dueReset; (repeat' split) <;> simp [hS]

@[simp] theorem State.wantReset_sound (s : State) (cause source : Nat) (hS : s.Sound gr) :
    (State.wantReset s cause source).Sound gr := by
  unfold State.wantReset; simp [hS]

@[simp] theorem State.resetDue_sound (s : State) (cause source : Nat) (hS : s.Sound gr) :
    (State.resetDue s cause source).Sound gr := by
  unfold State.resetDue; simp [hS]

@[simp] theorem execResetNAssert_sound (s : State) (hS : s.Sound gr) :
    NextSound gr (execResetNAssert s) := by
  unfold execResetNAssert; (repeat' split) <;> simp [hS]

@[simp] theorem execResetNRelease_sound (code : Nat) (s : State) (hS : s.Sound gr) :
    NextSound gr (execResetNRelease code s) := by
  unfold execResetNRelease; (repeat' split) <;> simp [hS]

@[simp] theorem execWatchdogExpiry_sound (s : State) (hS : s.Sound gr) :
    NextSound gr (execWatchdogExpiry s) := by
  unfold execWatchdogExpiry; (repeat' split) <;> simp [hS]

@[simp] theorem execThermalTrip_sound (sensor : Nat) (value : Int) (s : State) (hS : s.Sound gr) :
    NextSound gr (execThermalTrip sensor value s) := by
  unfold execThermalTrip; (repeat' split) <;> simp [hS]

@[simp] theorem execThermalTripRelease_sound (s : State) (hS : s.Sound gr) :
    NextSound gr (execThermalTripRelease s) := by
  unfold execThermalTripRelease; (repeat' split) <;> simp [hS]

@[simp] theorem execPowerLoss_sound (s : State) (hS : s.Sound gr) :
    NextSound gr (execPowerLoss s) := by
  unfold execPowerLoss; (repeat' split) <;> simp [hS]

@[simp] theorem execPowerOn_sound (s : State) (hS : s.Sound gr) :
    NextSound gr (execPowerOn s) := by
  unfold execPowerOn; (repeat' split) <;> simp [hS]

@[simp] theorem State.sendMessage_sound (s : State) (loc cls transfer : Nat) (b : List Byte) (hS : s.Sound gr) :
    (State.sendMessage s loc cls transfer b).Sound gr := by
  unfold State.sendMessage; (repeat' split) <;> simp (maxDischargeDepth := 9) +contextual [hS]

@[simp] theorem State.endAdmin_sound (s : State) (k : Nat) (hS : s.Sound gr) :
    (State.endAdmin s k).Sound gr := by
  unfold State.endAdmin; (repeat' split) <;> simp [hS]

@[simp] theorem State.sendReply_sound (s : State) (h : CmdHdr) (b : List Byte) (hS : s.Sound gr) :
    (State.sendReply s h b).Sound gr := by
  unfold State.sendReply; (repeat' split) <;> simp [hS]

@[simp] theorem State.ok_sound (s : State) (hS : s.Sound gr) :
    ResSound gr (State.ok s) := by
  unfold State.ok; simp [hS]

@[simp] theorem State.payload_sound (s : State) (p : List Byte) (hS : s.Sound gr) :
    ResSound gr (State.payload s p) := by
  unfold State.payload; simp [hS]

@[simp] theorem State.guarded_sound (s : State) (gs : List (Bool × Status × Nat)) (k : CmdResult) (hS : s.Sound gr) (h_k : ResSound gr (k)) :
    ResSound gr (State.guarded s gs k) := by
  unfold State.guarded; (repeat' split) <;> simp [hS, h_k]

@[simp] theorem State.keep_sound (s : State) (i : Instr) (h : CmdHdr) (b : List Byte) (hS : s.Sound gr) : (s.keep i h b).Sound gr := by
  unfold State.keep
  split
  · exact ⟨hS.1, hS.2.1, hS.2.2.1, hS.2.2.2.1, fun f => (hS.2.2.2.2 f).keep _⟩
  · exact hS

@[simp] theorem State.answer_sound (s : State) (i : Instr) (c : Cmd) (st : Status) (detail : Nat) (payload : List Byte) (hS : s.Sound gr) :
    (State.answer s i c st detail payload).Sound gr := by
  unfold State.answer; (repeat' split) <;> simp [hS]

@[simp] theorem State.conclude_sound (i : Instr) (c : Cmd) (r : CmdResult) (h_r : ResSound gr r) : (State.conclude i c r).Sound gr := by
  cases r <;> simp_all [State.conclude]

@[simp] theorem State.startCommand_sound (s : State) (i : Instr) (c : Cmd) (body : State → CmdResult) (hS : s.Sound gr) (h_body : ∀ y0, State.Sound y0 gr → ResSound gr (body y0)) :
    (State.startCommand s i c body).Sound gr := by
  unfold State.startCommand; (repeat' split) <;> simp (maxDischargeDepth := 9) +contextual [hS, h_body]

@[simp] theorem State.command_sound (i : Instr) (body : State → CmdResult) (s : State) (hS : s.Sound gr) (h_body : ∀ y0, State.Sound y0 gr → ResSound gr (body y0)) :
    (State.command i body s).Sound gr := by
  unfold State.command; (repeat' split) <;> simp (maxDischargeDepth := 9) +contextual [hS, h_body]

@[simp] theorem State.workCommand_sound (i : Instr) (body : State → CmdResult) (s : State) (hS : s.Sound gr) (h_body : ∀ y0, State.Sound y0 gr → ResSound gr (body y0)) :
    (State.workCommand i body s).Sound gr := by
  unfold State.workCommand; (repeat' split) <;> simp (maxDischargeDepth := 9) +contextual [hS, h_body]

@[simp] theorem State.answerWaiting_sound (s : State) (f : Waiting → Bool) (st : Status) (detail : Nat) (payload : List Byte) (hS : s.Sound gr) :
    (State.answerWaiting s f st detail payload).Sound gr := by
  unfold State.answerWaiting
  try dsimp only
  (repeat' split) <;> first | (simp (maxDischargeDepth := 50) +contextual [hS]; done) | (simp_all (maxDischargeDepth := 50) +contextual [pair_iff]; done) | (refine foldl_sound ?_ (by first | (simp (maxDischargeDepth := 50) +contextual [hS]; done) | (simp_all (maxDischargeDepth := 50) +contextual [pair_iff]; done)); intro s' x' hs'; (try dsimp only); (repeat' split) <;> (first | (simp (maxDischargeDepth := 50) +contextual [hS]; done) | (simp_all (maxDischargeDepth := 50) +contextual [pair_iff]; done)))

@[simp] theorem State.answerOn_sound (s : State) (on : Wait) (st : Status) (detail : Nat) (payload : List Byte) (hS : s.Sound gr) :
    (State.answerOn s on st detail payload).Sound gr := by
  unfold State.answerOn; simp [hS]

@[simp] theorem State.advanceGen_sound (s : State) (f : Nat) (hS : s.Sound gr) :
    (State.advanceGen s f).Sound gr := by
  unfold State.advanceGen; simp [hS]

@[simp] theorem State.releaseGen_sound (s : State) (f : Nat) (hS : s.Sound gr) :
    (State.releaseGen s f).Sound gr := by
  unfold State.releaseGen; simp [hS]

@[simp] theorem State.cutPlacings_sound (s : State) (n domain id : Nat) (revoke : Bool) (hS : s.Sound gr) :
    (State.cutPlacings s n domain id revoke).1.Sound gr := by
  unfold State.cutPlacings
  try dsimp only
  (repeat' split) <;> first | (simp (maxDischargeDepth := 50) +contextual [hS]; done) | (simp_all (maxDischargeDepth := 50) +contextual [pair_iff]; done) | (refine foldl_sound ?_ (by first | (simp (maxDischargeDepth := 50) +contextual [hS]; done) | (simp_all (maxDischargeDepth := 50) +contextual [pair_iff]; done)); intro s' x' hs'; (try dsimp only); (repeat' split) <;> (first | (simp (maxDischargeDepth := 50) +contextual [hS]; done) | (simp_all (maxDischargeDepth := 50) +contextual [pair_iff]; done)))

@[simp] theorem State.broadcast_sound (s : State) (domain id : Nat) (revoke : Bool) (hS : s.Sound gr) :
    (State.broadcast s domain id revoke).Sound gr := by
  unfold State.broadcast
  try dsimp only
  (repeat' split) <;> first | (simp (maxDischargeDepth := 50) +contextual [hS]; done) | (simp_all (maxDischargeDepth := 50) +contextual [pair_iff]; done) | (refine foldl_sound ?_ (by first | (simp (maxDischargeDepth := 50) +contextual [hS]; done) | (simp_all (maxDischargeDepth := 50) +contextual [pair_iff]; done)); intro s' x' hs'; (try dsimp only); (repeat' split) <;> (first | (simp (maxDischargeDepth := 50) +contextual [hS]; done) | (simp_all (maxDischargeDepth := 50) +contextual [pair_iff]; done)))

@[simp] theorem State.beginInval_sound (s : State) (r : Revocation) (hS : s.Sound gr) :
    (State.beginInval s r).Sound gr := by
  unfold State.beginInval; simp [hS]

@[simp] theorem State.invalidate_sound (s : State) (domain id : Nat) (why : Inval) (hS : s.Sound gr) :
    (State.invalidate s domain id why).Sound gr := by
  unfold State.invalidate; simp [hS]

@[simp] theorem State.forceWindows_sound (s : State) (f : Nat) (hS : s.Sound gr) :
    (State.forceWindows s f).Sound gr := by
  unfold State.forceWindows; (repeat' split) <;> simp (maxDischargeDepth := 9) +contextual [hS]

@[simp] theorem State.forceSuspend_sound (s : State) (f : Nat) (hS : s.Sound gr) :
    (State.forceSuspend s f).Sound gr := by
  unfold State.forceSuspend
  refine State.rebalance_sound _ (foldl_sound (fun s x h => ?_) hS)
  split <;> simp [h]

@[simp] theorem State.forceRemove_sound (s : State) (f : Nat) (hS : s.Sound gr) :
    (State.forceRemove s f).Sound gr := by
  unfold State.forceRemove
  refine State.rebalance_sound _ (foldl_sound (fun s x h => ?_) hS)
  dsimp only
  (repeat' split) <;> first | exact h | (refine State.raise_sound _ _ _ _ ?_; exact h)

@[simp] theorem State.unforce_sound (s : State) (f : Nat) (hS : s.Sound gr) :
    (State.unforce s f).Sound gr := by
  unfold State.unforce; simp [hS]

@[simp] theorem State.discardWork_sound (s : State) (f : Nat) (x : Fn) (hS : s.Sound gr) :
    (State.discardWork s f x).Sound gr := by
  unfold State.discardWork; (repeat' split) <;> simp (maxDischargeDepth := 9) +contextual [hS]

@[simp] theorem State.cutWork_sound (s : State) (f : Nat) (enters ends : FnState) (advance : Bool) (hS : s.Sound gr) :
    (State.cutWork s f enters ends advance).Sound gr := by
  unfold State.cutWork; (repeat' split) <;> simp (maxDischargeDepth := 9) +contextual [hS]

@[simp] theorem State.cutOff_sound (s : State) (f : Nat) (enters ends : FnState) (hS : s.Sound gr) :
    (State.cutOff s f enters ends).Sound gr := by
  unfold State.cutOff; simp [hS]

@[simp] theorem State.beginReset_sound (s : State) (f : Nat) (force : Bool) (ends : FnState) (hS : s.Sound gr) :
    (State.beginReset s f force ends).Sound gr := by
  unfold State.beginReset; (repeat' split) <;> simp (maxDischargeDepth := 9) +contextual [hS]

@[simp] theorem State.deviceResetFn_sound (s : State) (f : Nat) (force : Bool) (hS : s.Sound gr) :
    (State.deviceResetFn s f force).Sound gr := by
  unfold State.deviceResetFn; (repeat' split) <;> simp [hS]

@[simp] theorem State.haltFn_sound (s : State) (f cause : Nat) (hS : s.Sound gr) :
    (State.haltFn s f cause).Sound gr := by
  unfold State.haltFn; (repeat' split) <;> simp [hS]

@[simp] theorem State.removeFn_sound (s : State) (f : Nat) (hS : s.Sound gr) :
    (State.removeFn s f).Sound gr := by
  unfold State.removeFn
  try dsimp only
  (repeat' split) <;> first | (simp (maxDischargeDepth := 50) +contextual [hS]; done) | (simp_all (maxDischargeDepth := 50) +contextual [pair_iff]; done) | (refine foldl_sound ?_ (by first | (simp (maxDischargeDepth := 50) +contextual [hS]; done) | (simp_all (maxDischargeDepth := 50) +contextual [pair_iff]; done)); intro s' x' hs'; (try dsimp only); (repeat' split) <;> (first | (simp (maxDischargeDepth := 50) +contextual [hS]; done) | (simp_all (maxDischargeDepth := 50) +contextual [pair_iff]; done)))

@[simp] theorem State.serveBells_sound (s : State) (f : Nat) (hS : s.Sound gr) :
    (State.serveBells s f).Sound gr := by
  unfold State.serveBells
  split
  · exact hS
  · refine foldl_sound (fun s x h => by simp [h]) (foldl_sound (fun s x h => ?_) (by simp [hS]))
    split <;> simp [h]

@[simp] theorem State.engineResetOver_sound (s : State) (a : Nat) (hS : s.Sound gr) :
    (State.engineResetOver s a).Sound gr := by
  unfold State.engineResetOver; (repeat' split) <;> simp [hS]

@[simp] theorem State.endReset_sound (s : State) (f : Nat) (x : Fn) (r : ResetRec) (hS : s.Sound gr) :
    (State.endReset s f x r).Sound gr := by
  unfold State.endReset; dsimp only; (repeat' split) <;> simp (maxDischargeDepth := 9) +contextual [hS]

@[simp] theorem State.resetPoint_sound (s : State) (f : Nat) (hS : s.Sound gr) :
    (State.resetPoint s f).Sound gr := by
  unfold State.resetPoint; (repeat' split) <;> simp [hS]

@[simp] theorem State.refuseWaiting_sound (s : State) (f : Nat) (x : Fn) (hS : s.Sound gr) :
    (State.refuseWaiting s f x).Sound gr := by
  unfold State.refuseWaiting
  try dsimp only
  (repeat' split) <;> first | (simp (maxDischargeDepth := 50) +contextual [hS]; done) | (simp_all (maxDischargeDepth := 50) +contextual [pair_iff]; done) | (refine foldl_sound ?_ (by first | (simp (maxDischargeDepth := 50) +contextual [hS]; done) | (simp_all (maxDischargeDepth := 50) +contextual [pair_iff]; done)); intro s' x' hs'; (try dsimp only); (repeat' split) <;> (first | (simp (maxDischargeDepth := 50) +contextual [hS]; done) | (simp_all (maxDischargeDepth := 50) +contextual [pair_iff]; done)))

@[simp] theorem State.runAgain_sound (s : State) (f : Nat) (hS : s.Sound gr) :
    (State.runAgain s f).Sound gr := by
  unfold State.runAgain; simp [hS]

@[simp] theorem State.resetEngine_sound (s : State) (n : Nat) (hS : s.Sound gr) :
    (State.resetEngine s n).Sound gr := by
  unfold State.resetEngine; (repeat' split) <;> simp (maxDischargeDepth := 9) +contextual [hS]

@[simp] theorem State.hostResetFn_sound (s : State) (f : Nat) (hS : s.Sound gr) :
    (State.hostResetFn s f).Sound gr := by
  unfold State.hostResetFn
  try dsimp only
  (repeat' split) <;> first | (simp (maxDischargeDepth := 50) +contextual [hS]; done) | (simp_all (maxDischargeDepth := 50) +contextual [pair_iff]; done) | (refine foldl_sound ?_ (by first | (simp (maxDischargeDepth := 50) +contextual [hS]; done) | (simp_all (maxDischargeDepth := 50) +contextual [pair_iff]; done)); intro s' x' hs'; (try dsimp only); (repeat' split) <;> (first | (simp (maxDischargeDepth := 50) +contextual [hS]; done) | (simp_all (maxDischargeDepth := 50) +contextual [pair_iff]; done)))

@[simp] theorem State.loseReads_sound (s : State) (a : Nat) (hS : s.Sound gr) :
    (State.loseReads s a).Sound gr := by
  unfold State.loseReads
  try dsimp only
  (repeat' split) <;> first | (simp (maxDischargeDepth := 50) +contextual [hS]; done) | (simp_all (maxDischargeDepth := 50) +contextual [pair_iff]; done) | (refine foldl_sound ?_ (by first | (simp (maxDischargeDepth := 50) +contextual [hS]; done) | (simp_all (maxDischargeDepth := 50) +contextual [pair_iff]; done)); intro s' x' hs'; (try dsimp only); (repeat' split) <;> (first | (simp (maxDischargeDepth := 50) +contextual [hS]; done) | (simp_all (maxDischargeDepth := 50) +contextual [pair_iff]; done)))

@[simp] theorem State.linkLost_sound (s : State) (a : Nat) (hS : s.Sound gr) :
    (State.linkLost s a).Sound gr := by
  unfold State.linkLost; (repeat' split) <;> simp (maxDischargeDepth := 9) +contextual [hS]

@[simp] theorem State.perst_sound (s : State) (p : Nat) (hS : s.Sound gr) :
    (State.perst s p).Sound gr := by
  unfold State.perst; (repeat' split) <;> simp (maxDischargeDepth := 9) +contextual [hS]

@[simp] theorem State.resetHostPort_sound (s : State) (p : Nat) (hS : s.Sound gr) :
    (State.resetHostPort s p).Sound gr := by
  unfold State.resetHostPort; (repeat' split) <;> simp (maxDischargeDepth := 9) +contextual [hS]

@[simp] theorem State.addFn_sound (s : State) (f : Nat) (x : Fn) (hS : s.Sound gr) :
    (State.addFn s f x).Sound gr := by
  unfold State.addFn; simp [hS]

@[simp] theorem State.addPf_sound (s : State) (a : Nat) (hS : s.Sound gr) :
    (State.addPf s a).Sound gr := by
  unfold State.addPf; simp [hS]

@[simp] theorem State.hostResetEvent_sound (s : State) (f kind : Nat) (hS : s.Sound gr) :
    (State.hostResetEvent s f kind).Sound gr := by
  unfold State.hostResetEvent; simp [hS]

@[simp] theorem State.clearVfs_sound (s : State) (a : Nat) (hS : s.Sound gr) :
    (State.clearVfs s a).Sound gr := by
  unfold State.clearVfs; (repeat' split) <;> simp (maxDischargeDepth := 9) +contextual [hS]

@[simp] theorem execFlrVf_sound (fn : Nat) (s : State) (hS : s.Sound gr) :
    NextSound gr (execFlrVf fn s) := by
  unfold execFlrVf; (repeat' split) <;> simp [hS]

@[simp] theorem execFlrPf_sound (attachment : Nat) (s : State) (hS : s.Sound gr) :
    NextSound gr (execFlrPf attachment s) := by
  unfold execFlrPf; (repeat' split) <;> simp (maxDischargeDepth := 9) +contextual [hS]

@[simp] theorem State.vfEnableClear_sound (s : State) (a : Nat) (hS : s.Sound gr) :
    (State.vfEnableClear s a).Sound gr := by
  unfold State.vfEnableClear; (repeat' split) <;> simp [hS]

@[simp] theorem execVfEnableClear_sound (attachment : Nat) (s : State) (hS : s.Sound gr) :
    NextSound gr (execVfEnableClear attachment s) := by
  unfold execVfEnableClear; simp [hS]

@[simp] theorem State.busMasterClear_sound (s : State) (f : Nat) (hS : s.Sound gr) :
    (State.busMasterClear s f).Sound gr := by
  unfold State.busMasterClear; (repeat' split) <;> simp (maxDischargeDepth := 9) +contextual [hS]

@[simp] theorem execBusMasterEnableClear_sound (fn : Nat) (s : State) (hS : s.Sound gr) :
    NextSound gr (execBusMasterEnableClear fn s) := by
  unfold execBusMasterEnableClear; simp [hS]

@[simp] theorem execPerstAssert_sound (port : Nat) (s : State) (hS : s.Sound gr) :
    NextSound gr (execPerstAssert port s) := by
  unfold execPerstAssert; (repeat' split) <;> simp [hS]

@[simp] theorem execPcieLinkDown_sound (attachment : Nat) (s : State) (hS : s.Sound gr) :
    NextSound gr (execPcieLinkDown attachment s) := by
  unfold execPcieLinkDown; (repeat' split) <;> simp (maxDischargeDepth := 9) +contextual [hS]

@[simp] theorem State.linkTrained_sound (s : State) (a speed width : Nat) (flit : Bool) (hS : s.Sound gr) :
    (State.linkTrained s a speed width flit).Sound gr := by
  unfold State.linkTrained; (repeat' split) <;> simp (maxDischargeDepth := 9) +contextual [hS]

@[simp] theorem execPcieLinkUp_sound (attachment speed width : Nat) (flit : Bool) (s : State) (hS : s.Sound gr) :
    NextSound gr (execPcieLinkUp attachment speed width flit s) := by
  unfold execPcieLinkUp; (repeat' split) <;> simp (maxDischargeDepth := 9) +contextual [hS]

@[simp] theorem execHostLinkRetrainSlow_sound (attachment speed width : Nat) (flit : Bool) (s : State) (hS : s.Sound gr) :
    NextSound gr (execHostLinkRetrainSlow attachment speed width flit s) := by
  unfold execHostLinkRetrainSlow; (repeat' split) <;> simp (maxDischargeDepth := 9) +contextual [hS]

@[simp] theorem execFreezeDrained_sound (fn : Nat) (s : State) (hS : s.Sound gr) :
    NextSound gr (execFreezeDrained fn s) := by
  unfold execFreezeDrained; (repeat' split) <;> simp [hS]

@[simp] theorem execFreezeLimitExpiry_sound (fn : Nat) (s : State) (hS : s.Sound gr) :
    NextSound gr (execFreezeLimitExpiry fn s) := by
  unfold execFreezeLimitExpiry; (repeat' split) <;> simp [hS]

@[simp] theorem State.flushPlacings_sound (s : State) (n : Nat) (used : Nat → Bool) (hS : s.Sound gr) :
    (State.flushPlacings s n used).Sound gr := by
  unfold State.flushPlacings
  try dsimp only
  (repeat' split) <;> first | (simp (maxDischargeDepth := 50) +contextual [hS]; done) | (simp_all (maxDischargeDepth := 50) +contextual [pair_iff]; done) | (refine foldl_sound ?_ (by first | (simp (maxDischargeDepth := 50) +contextual [hS]; done) | (simp_all (maxDischargeDepth := 50) +contextual [pair_iff]; done)); intro s' x' hs'; (try dsimp only); (repeat' split) <;> (first | (simp (maxDischargeDepth := 50) +contextual [hS]; done) | (simp_all (maxDischargeDepth := 50) +contextual [pair_iff]; done)))

@[simp] theorem State.atsInvalidate_sound (s : State) (a address length : Nat) (hS : s.Sound gr) :
    (State.atsInvalidate s a address length).Sound gr := by
  unfold State.atsInvalidate
  try dsimp only
  (repeat' split) <;> first | (simp (maxDischargeDepth := 50) +contextual [hS]; done) | (simp_all (maxDischargeDepth := 50) +contextual [pair_iff]; done) | (refine foldl_sound ?_ (by first | (simp (maxDischargeDepth := 50) +contextual [hS]; done) | (simp_all (maxDischargeDepth := 50) +contextual [pair_iff]; done)); intro s' x' hs'; (try dsimp only); (repeat' split) <;> (first | (simp (maxDischargeDepth := 50) +contextual [hS]; done) | (simp_all (maxDischargeDepth := 50) +contextual [pair_iff]; done)))

@[simp] theorem execAtsInvalidate_sound (attachment address length : Nat) (s : State) (hS : s.Sound gr) :
    NextSound gr (execAtsInvalidate attachment address length s) := by
  unfold execAtsInvalidate; (repeat' split) <;> simp [hS]

@[simp] theorem State.unmask_sound (s : State) (f v : Nat) (hS : s.Sound gr) :
    (State.unmask s f v).Sound gr := by
  unfold State.unmask; (repeat' split) <;> simp (maxDischargeDepth := 9) +contextual [hS]

@[simp] theorem execMsixUnmask_sound (fn vector : Nat) (s : State) (hS : s.Sound gr) :
    NextSound gr (execMsixUnmask fn vector s) := by
  unfold execMsixUnmask; (repeat' split) <;> simp [hS]

@[simp] theorem State.logAbort_sound (s : State) (f : Nat) (hS : s.Sound gr) :
    (State.logAbort s f).Sound gr := by
  unfold State.logAbort
  try dsimp only
  (repeat' split) <;> first | (simp (maxDischargeDepth := 50) +contextual [hS]; done) | (simp_all (maxDischargeDepth := 50) +contextual [pair_iff]; done) | (refine foldl_sound ?_ (by first | (simp (maxDischargeDepth := 50) +contextual [hS]; done) | (simp_all (maxDischargeDepth := 50) +contextual [pair_iff]; done)); intro s' x' hs'; (try dsimp only); (repeat' split) <;> (first | (simp (maxDischargeDepth := 50) +contextual [hS]; done) | (simp_all (maxDischargeDepth := 50) +contextual [pair_iff]; done)))

@[simp] theorem execBadRegisterAccess_sound (fn : Nat) (isRead : Bool) (s : State) (hS : s.Sound gr) :
    NextSound gr (execBadRegisterAccess fn isRead s) := by
  unfold execBadRegisterAccess; (repeat' split) <;> simp (maxDischargeDepth := 9) +contextual [hS]

@[simp] theorem execPcieCorrectableError_sound (attachment : Nat) (s : State) (hS : s.Sound gr) :
    NextSound gr (execPcieCorrectableError attachment s) := by
  unfold execPcieCorrectableError; (repeat' split) <;> simp [hS]

@[simp] theorem State.setLatch_sound (s : State) (p : Party) (off : Nat) (v : Option Nat) (hS : s.Sound gr) :
    (State.setLatch s p off v).Sound gr := by
  unfold State.setLatch; simp [hS]

@[simp] theorem State.latchFrac_sound (s : State) (p : Party) (hS : s.Sound gr) :
    (State.latchFrac s p).Sound gr := by
  unfold State.latchFrac; simp [hS]

@[simp] theorem State.afterRead_sound (s : State) (off : Nat) (hS : s.Sound gr) :
    (State.afterRead s off).Sound gr := by
  unfold State.afterRead; simp [hS]

@[simp] theorem State.read32_sound (s : State) (p : Party) (off : Nat) (hS : s.Sound gr) :
    (State.read32 s p off).2.Sound gr := by
  unfold State.read32; (repeat' split) <;> simp [hS]

@[simp] theorem State.read64_sound (s : State) (p : Party) (off : Nat) (hS : s.Sound gr) :
    (State.read64 s p off).2.Sound gr := by
  unfold State.read64; simp [hS]

@[simp] theorem State.readReg_sound (s : State) (p : Party) (off width : Nat) (hS : s.Sound gr) :
    (State.readReg s p off width).2.Sound gr := by
  unfold State.readReg; (repeat' split) <;> simp [hS]

@[simp] theorem State.clearFlags_sound (s : State) (off v : Nat) (hS : s.Sound gr) :
    (State.clearFlags s off v).Sound gr := by
  unfold State.clearFlags; (repeat' split) <;> simp (maxDischargeDepth := 9) +contextual [hS]

@[simp] theorem State.write32_sound (s : State) (off v : Nat) (hS : s.Sound gr) :
    (State.write32 s off v).Sound gr := by
  unfold State.write32; (repeat' split) <;> simp [hS]

@[simp] theorem State.writeReg_sound (s : State) (off width v : Nat) (hS : s.Sound gr) :
    (State.writeReg s off width v).Sound gr := by
  unfold State.writeReg; (repeat' split) <;> simp [hS]

@[simp] theorem State.viewDenied_sound (s : State) (hS : s.Sound gr) :
    (State.viewDenied s).Sound gr := by
  unfold State.viewDenied; simp [hS]

@[simp] theorem State.readAt_sound (s : State) (p : Party) (off width : Nat) (hS : s.Sound gr) :
    (State.readAt s p off width).Sound gr := by
  unfold State.readAt; (repeat' split) <;> simp [hS]

@[simp] theorem State.writeAt_sound (s : State) (p : Party) (off width v : Nat) (hS : s.Sound gr) :
    (State.writeAt s p off width v).Sound gr := by
  unfold State.writeAt; (repeat' split) <;> simp [hS]

@[simp] theorem State.partyRead_sound (s : State) (p : Party) (off width : Nat) (hS : s.Sound gr) :
    (State.partyRead s p off width).Sound gr := by
  unfold State.partyRead; (repeat' split) <;> simp [hS]

@[simp] theorem State.partyWrite_sound (s : State) (p : Party) (off width v : Nat) (hS : s.Sound gr) :
    (State.partyWrite s p off width v).Sound gr := by
  unfold State.partyWrite; simp [hS]

@[simp] theorem execViewDeniedAccess_sound (fn offset : Nat) (isRead : Bool) (s : State) (hS : s.Sound gr) :
    NextSound gr (execViewDeniedAccess fn offset isRead s) := by
  unfold execViewDeniedAccess; (repeat' split) <;> simp [hS]

@[simp] theorem execCounterFlagClear_sound (party : Party) (offset value : Nat) (s : State) (hS : s.Sound gr) :
    NextSound gr (execCounterFlagClear party offset value s) := by
  unfold execCounterFlagClear; simp [hS]

@[simp] theorem execCounterLowWordRead_sound (party : Party) (offset : Nat) (s : State) (hS : s.Sound gr) :
    NextSound gr (execCounterLowWordRead party offset s) := by
  unfold execCounterLowWordRead; simp [hS]

@[simp] theorem execParkPeakRead_sound (party : Party) (s : State) (hS : s.Sound gr) :
    NextSound gr (execParkPeakRead party s) := by
  unfold execParkPeakRead; simp [hS]

@[simp] theorem State.sendPending_sound (s : State) (f : Nat) (hS : s.Sound gr) :
    (State.sendPending s f).Sound gr := by
  unfold State.sendPending; (repeat' split) <;> simp (maxDischargeDepth := 9) +contextual [hS]

@[simp] theorem State.configWrite_sound (s : State) (f : Nat) (x : Fn) (field : ConfigField) (v : Nat) (hS : s.Sound gr) :
    (State.configWrite s f x field v).Sound gr := by
  unfold State.configWrite; (repeat' split) <;> simp [hS]

@[simp] theorem State.msixWrite_sound (s : State) (f : Nat) (x : Fn) (v k value : Nat) (hS : s.Sound gr) :
    (State.msixWrite s f x v k value).Sound gr := by
  unfold State.msixWrite; (repeat' split) <;> simp [hS]

@[simp] theorem State.apertureWrite32_sound (s : State) (f off value : Nat) (hS : s.Sound gr) :
    (State.apertureWrite32 s f off value).Sound gr := by
  unfold State.apertureWrite32; (repeat' split) <;> simp [hS]

@[simp] theorem tokenPageWrite_sound (f o value : Nat) (s : State) (hS : s.Sound gr) :
    NextSound gr (tokenPageWrite f o value s) := by
  unfold tokenPageWrite; (repeat' split) <;> simp [hS]

@[simp] theorem setupWrite_sound (f value : Nat) (s : State) (hS : s.Sound gr) :
    NextSound gr (setupWrite f value s) := by
  unfold setupWrite; (repeat' split) <;> simp [hS]

@[simp] theorem apertureWrite_sound (f off width value : Nat) (s : State) (hS : s.Sound gr) :
    NextSound gr (apertureWrite f off width value s) := by
  unfold apertureWrite; dsimp only; (repeat' split) <;> simp (maxDischargeDepth := 9) +contextual [hS]

@[simp] theorem execHostRegisterWrite_sound (fn : Nat) (target : WriteTarget) (value : Nat) (s : State) (hS : s.Sound gr) :
    NextSound gr (execHostRegisterWrite fn target value s) := by
  unfold execHostRegisterWrite; (repeat' split) <;> simp [hS]

@[simp] theorem State.enablePort_sound (s : State) (p : Nat) (hS : s.Sound gr) :
    (State.enablePort s p).Sound gr := by
  unfold State.enablePort; (repeat' split) <;> simp [hS]

@[simp] theorem execLinkEnable_sound (h : CmdHdr) (port : Nat) (s : State) (hS : s.Sound gr) :
    NextSound gr (execLinkEnable h port s) := by
  unfold execLinkEnable; (repeat' split) <;> simp (maxDischargeDepth := 9) +contextual [hS]

@[simp] theorem execLinkDisable_sound (h : CmdHdr) (port : Nat) (s : State) (hS : s.Sound gr) :
    NextSound gr (execLinkDisable h port s) := by
  unfold execLinkDisable
  try dsimp only
  (repeat' split) <;> first | (rw [next_sound]; refine State.command_sound _ _ _ hS ?_; intro s' hs'; (try dsimp only); (repeat' split) <;> (first | (simp (maxDischargeDepth := 50) +contextual [hS , hs']; done) | (simp_all (maxDischargeDepth := 50) +contextual [pair_iff]; done))) | first | (simp (maxDischargeDepth := 50) +contextual [hS]; done) | (simp_all (maxDischargeDepth := 50) +contextual [pair_iff]; done) | (refine foldl_sound ?_ (by first | (simp (maxDischargeDepth := 50) +contextual [hS]; done) | (simp_all (maxDischargeDepth := 50) +contextual [pair_iff]; done)); intro s' x' hs'; (try dsimp only); (repeat' split) <;> (first | (simp (maxDischargeDepth := 50) +contextual [hS]; done) | (simp_all (maxDischargeDepth := 50) +contextual [pair_iff]; done)))

@[simp] theorem execLinkRoleSet_sound (h : CmdHdr) (port role peer : Nat) (s : State) (hS : s.Sound gr) :
    NextSound gr (execLinkRoleSet h port role peer s) := by
  unfold execLinkRoleSet; (repeat' split) <;> simp (maxDischargeDepth := 9) +contextual [hS]

@[simp] theorem execLinkGraceSet_sound (h : CmdHdr) (port graceUs : Nat) (s : State) (hS : s.Sound gr) :
    NextSound gr (execLinkGraceSet h port graceUs s) := by
  unfold execLinkGraceSet; (repeat' split) <;> simp (maxDischargeDepth := 9) +contextual [hS]

@[simp] theorem State.restoreLanes_sound (s : State) (p : Nat) (hS : s.Sound gr) :
    (State.restoreLanes s p).Sound gr := by
  unfold State.restoreLanes; (repeat' split) <;> simp [hS]

@[simp] theorem execLinkLanesRestore_sound (h : CmdHdr) (port : Nat) (s : State) (hS : s.Sound gr) :
    NextSound gr (execLinkLanesRestore h port s) := by
  unfold execLinkLanesRestore
  try dsimp only
  (repeat' split) <;> first | (rw [next_sound]; refine State.command_sound _ _ _ hS ?_; intro s' hs'; (try dsimp only); (repeat' split) <;> (first | (simp (maxDischargeDepth := 50) +contextual [hS , hs']; done) | (simp_all (maxDischargeDepth := 50) +contextual [pair_iff]; done))) | first | (simp (maxDischargeDepth := 50) +contextual [hS]; done) | (simp_all (maxDischargeDepth := 50) +contextual [pair_iff]; done) | (refine foldl_sound ?_ (by first | (simp (maxDischargeDepth := 50) +contextual [hS]; done) | (simp_all (maxDischargeDepth := 50) +contextual [pair_iff]; done)); intro s' x' hs'; (try dsimp only); (repeat' split) <;> (first | (simp (maxDischargeDepth := 50) +contextual [hS]; done) | (simp_all (maxDischargeDepth := 50) +contextual [pair_iff]; done)))

@[simp] theorem State.enterStandby_sound (s : State) (p : Nat) (hS : s.Sound gr) :
    (State.enterStandby s p).Sound gr := by
  unfold State.enterStandby; simp [hS]

@[simp] theorem State.wakePort_sound (s : State) (p : Nat) (hS : s.Sound gr) :
    (State.wakePort s p).Sound gr := by
  unfold State.wakePort; simp [hS]

@[simp] theorem execLinkStandby_sound (h : CmdHdr) (port : Nat) (s : State) (hS : s.Sound gr) :
    NextSound gr (execLinkStandby h port s) := by
  unfold execLinkStandby
  try dsimp only
  (repeat' split) <;> first | (rw [next_sound]; refine State.command_sound _ _ _ hS ?_; intro s' hs'; (try dsimp only); (repeat' split) <;> (first | (simp (maxDischargeDepth := 50) +contextual [hS , hs']; done) | (simp_all (maxDischargeDepth := 50) +contextual [pair_iff]; done))) | first | (simp (maxDischargeDepth := 50) +contextual [hS]; done) | (simp_all (maxDischargeDepth := 50) +contextual [pair_iff]; done) | (refine foldl_sound ?_ (by first | (simp (maxDischargeDepth := 50) +contextual [hS]; done) | (simp_all (maxDischargeDepth := 50) +contextual [pair_iff]; done)); intro s' x' hs'; (try dsimp only); (repeat' split) <;> (first | (simp (maxDischargeDepth := 50) +contextual [hS]; done) | (simp_all (maxDischargeDepth := 50) +contextual [pair_iff]; done)))

@[simp] theorem execLinkWake_sound (h : CmdHdr) (port : Nat) (s : State) (hS : s.Sound gr) :
    NextSound gr (execLinkWake h port s) := by
  unfold execLinkWake
  try dsimp only
  (repeat' split) <;> first | (rw [next_sound]; refine State.command_sound _ _ _ hS ?_; intro s' hs'; (try dsimp only); (repeat' split) <;> (first | (simp (maxDischargeDepth := 50) +contextual [hS , hs']; done) | (simp_all (maxDischargeDepth := 50) +contextual [pair_iff]; done))) | first | (simp (maxDischargeDepth := 50) +contextual [hS]; done) | (simp_all (maxDischargeDepth := 50) +contextual [pair_iff]; done) | (refine foldl_sound ?_ (by first | (simp (maxDischargeDepth := 50) +contextual [hS]; done) | (simp_all (maxDischargeDepth := 50) +contextual [pair_iff]; done)); intro s' x' hs'; (try dsimp only); (repeat' split) <;> (first | (simp (maxDischargeDepth := 50) +contextual [hS]; done) | (simp_all (maxDischargeDepth := 50) +contextual [pair_iff]; done)))

@[simp] theorem execLinkQuery_sound (h : CmdHdr) (port : Nat) (s : State) (hS : s.Sound gr) :
    NextSound gr (execLinkQuery h port s) := by
  unfold execLinkQuery; (repeat' split) <;> simp (maxDischargeDepth := 9) +contextual [hS]

@[simp] theorem execLinkModuleSet_sound (h : CmdHdr) (port lanes pre main post : Nat) (s : State) (hS : s.Sound gr) :
    NextSound gr (execLinkModuleSet h port lanes pre main post s) := by
  unfold execLinkModuleSet; (repeat' split) <;> simp (maxDischargeDepth := 9) +contextual [hS]

@[simp] theorem State.drainEnd_sound (s : State) (p : Nat) (hS : s.Sound gr) :
    (State.drainEnd s p).Sound gr := by
  unfold State.drainEnd; (repeat' split) <;> simp [hS]

@[simp] theorem execLinkDisableDrainEnd_sound (port : Nat) (s : State) (hS : s.Sound gr) :
    NextSound gr (execLinkDisableDrainEnd port s) := by
  unfold execLinkDisableDrainEnd; simp [hS]

@[simp] theorem execQueueWeightSet_sound (h : CmdHdr) (egress queue quantum burst : Nat) (s : State) (hS : s.Sound gr) :
    NextSound gr (execQueueWeightSet h egress queue quantum burst s) := by
  unfold execQueueWeightSet; (repeat' split) <;> simp (maxDischargeDepth := 9) +contextual [hS]

@[simp] theorem execQueueMapSet_sound (h : CmdHdr) (levelMap transitMap : Nat) (s : State) (hS : s.Sound gr) :
    NextSound gr (execQueueMapSet h levelMap transitMap s) := by
  unfold execQueueMapSet; (repeat' split) <;> simp (maxDischargeDepth := 9) +contextual [hS]

@[simp] theorem execSignalBoxConfigSet_sound (h : CmdHdr) (yellowPoolMib : Nat) (s : State) (hS : s.Sound gr) :
    NextSound gr (execSignalBoxConfigSet h yellowPoolMib s) := by
  unfold execSignalBoxConfigSet; (repeat' split) <;> simp (maxDischargeDepth := 9) +contextual [hS]

@[simp] theorem execMeterRingSet_sound (h : CmdHdr) (base log2Size enable : Nat) (s : State) (hS : s.Sound gr) :
    NextSound gr (execMeterRingSet h base log2Size enable s) := by
  unfold execMeterRingSet; (repeat' split) <;> simp (maxDischargeDepth := 9) +contextual [hS]

@[simp] theorem execMeterRead_sound (h : CmdHdr) (s : State) (hS : s.Sound gr) :
    NextSound gr (execMeterRead h s) := by
  unfold execMeterRead; (repeat' split) <;> simp (maxDischargeDepth := 9) +contextual [hS]

@[simp] theorem execFunctionSchedSet_sound (h : CmdHdr) (baseLevel laneEn share dwq : Nat) (s : State) (hS : s.Sound gr) :
    NextSound gr (execFunctionSchedSet h baseLevel laneEn share dwq s) := by
  unfold execFunctionSchedSet; (repeat' split) <;> simp (maxDischargeDepth := 9) +contextual [hS]

@[simp] theorem execFunctionShaperSet_sound (h : CmdHdr) (minRate maxRate : Nat) (s : State) (hS : s.Sound gr) :
    NextSound gr (execFunctionShaperSet h minRate maxRate s) := by
  unfold execFunctionShaperSet; (repeat' split) <;> simp (maxDischargeDepth := 9) +contextual [hS]

@[simp] theorem execFunctionPolicerSet_sound (h : CmdHdr) (cls enable action cir pir cbs pbs : Nat) (s : State) (hS : s.Sound gr) :
    NextSound gr (execFunctionPolicerSet h cls enable action cir pir cbs pbs s) := by
  unfold execFunctionPolicerSet; (repeat' split) <;> simp (maxDischargeDepth := 9) +contextual [hS]

@[simp] theorem State.destroyReady_sound (s : State) (f : Nat) (hS : s.Sound gr) :
    (State.destroyReady s f).Sound gr := by
  unfold State.destroyReady; (repeat' split) <;> simp (maxDischargeDepth := 9) +contextual [hS]

@[simp] theorem State.retrain_sound (s : State) (a : Nat) (hS : s.Sound gr) :
    (State.retrain s a).Sound gr := by
  unfold State.retrain; simp [hS]

@[simp] theorem State.setSplit_sound (s : State) (p split : Nat) (hS : s.Sound gr) :
    (State.setSplit s p split).Sound gr := by
  unfold State.setSplit; (repeat' split) <;> simp (maxDischargeDepth := 9) +contextual [hS]

@[simp] theorem execHostPortSplitSet_sound (h : CmdHdr) (port split : Nat) (s : State) (hS : s.Sound gr) :
    NextSound gr (execHostPortSplitSet h port split s) := by
  unfold execHostPortSplitSet; (repeat' split) <;> simp (maxDischargeDepth := 9) +contextual [hS]

@[simp] theorem execMeterOccupancySample_sound (fn : Nat) (s : State) (hS : s.Sound gr) :
    NextSound gr (execMeterOccupancySample fn s) := by
  unfold execMeterOccupancySample; (repeat' split) <;> simp [hS]

@[simp] theorem State.fillRoles_sound (s : State) (hS : s.Sound gr) :
    (State.fillRoles s).Sound gr := by
  unfold State.fillRoles; (repeat' split) <;> simp (maxDischargeDepth := 9) +contextual [hS]

@[simp] theorem State.setTopology_sound (s : State) (j : JN) (hS : s.Sound gr) :
    (State.setTopology s j).Sound gr := by
  unfold State.setTopology; simp [hS]

@[simp] theorem execRouteTopologySet_sound (h : CmdHdr) (nx ny nz routers location datelineX datelineY datelineZ : Nat) (s : State) (hS : s.Sound gr) :
    NextSound gr (execRouteTopologySet h nx ny nz routers location datelineX datelineY datelineZ s) := by
  unfold execRouteTopologySet; (repeat' split) <;> simp (maxDischargeDepth := 9) +contextual [hS]

@[simp] theorem execRouteEntrySet_sound (h : CmdHdr) (station valid dx dy dz : Nat) (s : State) (hS : s.Sound gr) :
    NextSound gr (execRouteEntrySet h station valid dx dy dz s) := by
  unfold execRouteEntrySet; (repeat' split) <;> simp (maxDischargeDepth := 9) +contextual [hS]

@[simp] theorem execRouteQuery_sound (h : CmdHdr) (station : Nat) (s : State) (hS : s.Sound gr) :
    NextSound gr (execRouteQuery h station s) := by
  unfold execRouteQuery; (repeat' split) <;> simp (maxDischargeDepth := 9) +contextual [hS]

@[simp] theorem execRouteAdaptSet_sound (h : CmdHdr) (detourEn downWeight detourPenalty escapeWait : Nat) (s : State) (hS : s.Sound gr) :
    NextSound gr (execRouteAdaptSet h detourEn downWeight detourPenalty escapeWait s) := by
  unfold execRouteAdaptSet; (repeat' split) <;> simp (maxDischargeDepth := 9) +contextual [hS]

@[simp] theorem execPoolConfigSet_sound (h : CmdHdr) (alpha : Nat) (s : State) (hS : s.Sound gr) :
    NextSound gr (execPoolConfigSet h alpha s) := by
  unfold execPoolConfigSet; (repeat' split) <;> simp (maxDischargeDepth := 9) +contextual [hS]

@[simp] theorem execReasmQuotaSet_sound (h : CmdHdr) (attachment quota : Nat) (s : State) (hS : s.Sound gr) :
    NextSound gr (execReasmQuotaSet h attachment quota s) := by
  unfold execReasmQuotaSet; (repeat' split) <;> simp (maxDischargeDepth := 9) +contextual [hS]

@[simp] theorem execMulticastInstall_sound (h : CmdHdr) (group ingress mask : Nat) (s : State) (hS : s.Sound gr) :
    NextSound gr (execMulticastInstall h group ingress mask s) := by
  unfold execMulticastInstall; (repeat' split) <;> simp (maxDischargeDepth := 9) +contextual [hS]

@[simp] theorem execMulticastRemove_sound (h : CmdHdr) (group : Nat) (s : State) (hS : s.Sound gr) :
    NextSound gr (execMulticastRemove h group s) := by
  unfold execMulticastRemove; (repeat' split) <;> simp (maxDischargeDepth := 9) +contextual [hS]

@[simp] theorem execMulticastMemberSet_sound (h : CmdHdr) (group domain senderFn member sender window : Nat) (s : State) (hS : s.Sound gr) :
    NextSound gr (execMulticastMemberSet h group domain senderFn member sender window s) := by
  unfold execMulticastMemberSet
  try dsimp only
  (repeat' split) <;> first | (rw [next_sound]; refine State.workCommand_sound _ _ _ hS ?_; intro s' hs'; (try dsimp only); (repeat' split) <;> (first | (simp (maxDischargeDepth := 50) +contextual [hS , hs']; done) | (simp_all (maxDischargeDepth := 50) +contextual [pair_iff]; done))) | first | (simp (maxDischargeDepth := 50) +contextual [hS]; done) | (simp_all (maxDischargeDepth := 50) +contextual [pair_iff]; done) | (refine foldl_sound ?_ (by first | (simp (maxDischargeDepth := 50) +contextual [hS]; done) | (simp_all (maxDischargeDepth := 50) +contextual [pair_iff]; done)); intro s' x' hs'; (try dsimp only); (repeat' split) <;> (first | (simp (maxDischargeDepth := 50) +contextual [hS]; done) | (simp_all (maxDischargeDepth := 50) +contextual [pair_iff]; done)))

@[simp] theorem execMulticastMemberClear_sound (h : CmdHdr) (group : Nat) (s : State) (hS : s.Sound gr) :
    NextSound gr (execMulticastMemberClear h group s) := by
  unfold execMulticastMemberClear; (repeat' split) <;> simp (maxDischargeDepth := 9) +contextual [hS]

@[simp] theorem State.unrest_sound (s : State) (group : Nat) (hS : s.Sound gr) :
    (State.unrest s group).Sound gr := by
  unfold State.unrest
  try dsimp only
  (repeat' split) <;> first | (simp (maxDischargeDepth := 50) +contextual [hS]; done) | (simp_all (maxDischargeDepth := 50) +contextual [pair_iff]; done) | (refine foldl_sound ?_ (by first | (simp (maxDischargeDepth := 50) +contextual [hS]; done) | (simp_all (maxDischargeDepth := 50) +contextual [pair_iff]; done)); intro s' x' hs'; (try dsimp only); (repeat' split) <;> (first | (simp (maxDischargeDepth := 50) +contextual [hS]; done) | (simp_all (maxDischargeDepth := 50) +contextual [pair_iff]; done)))

@[simp] theorem execMulticastSenderSet_sound (h : CmdHdr) (group rankTable first count : Nat) (s : State) (hS : s.Sound gr) :
    NextSound gr (execMulticastSenderSet h group rankTable first count s) := by
  unfold execMulticastSenderSet
  try dsimp only
  (repeat' split) <;> first | (rw [next_sound]; refine State.workCommand_sound _ _ _ hS ?_; intro s' hs'; (try dsimp only); (repeat' split) <;> (first | (simp (maxDischargeDepth := 50) +contextual [hS , hs']; done) | (simp_all (maxDischargeDepth := 50) +contextual [pair_iff]; done))) | first | (simp (maxDischargeDepth := 50) +contextual [hS]; done) | (simp_all (maxDischargeDepth := 50) +contextual [pair_iff]; done) | (refine foldl_sound ?_ (by first | (simp (maxDischargeDepth := 50) +contextual [hS]; done) | (simp_all (maxDischargeDepth := 50) +contextual [pair_iff]; done)); intro s' x' hs'; (try dsimp only); (repeat' split) <;> (first | (simp (maxDischargeDepth := 50) +contextual [hS]; done) | (simp_all (maxDischargeDepth := 50) +contextual [pair_iff]; done)))

@[simp] theorem execMulticastSenderClear_sound (h : CmdHdr) (group : Nat) (s : State) (hS : s.Sound gr) :
    NextSound gr (execMulticastSenderClear h group s) := by
  unfold execMulticastSenderClear; (repeat' split) <;> simp (maxDischargeDepth := 9) +contextual [hS]

@[simp] theorem State.timeConfig_sound (s : State) (role : TimeRole) (priority : Nat) (hS : s.Sound gr) :
    (State.timeConfig s role priority).Sound gr := by
  unfold State.timeConfig
  try dsimp only
  (repeat' split) <;> first | (simp (maxDischargeDepth := 50) +contextual [hS]; done) | (simp_all (maxDischargeDepth := 50) +contextual [pair_iff]; done) | (refine foldl_sound ?_ (by first | (simp (maxDischargeDepth := 50) +contextual [hS]; done) | (simp_all (maxDischargeDepth := 50) +contextual [pair_iff]; done)); intro s' x' hs'; (try dsimp only); (repeat' split) <;> (first | (simp (maxDischargeDepth := 50) +contextual [hS]; done) | (simp_all (maxDischargeDepth := 50) +contextual [pair_iff]; done)))

@[simp] theorem execTimeConfig_sound (h : CmdHdr) (role priority : Nat) (s : State) (hS : s.Sound gr) :
    NextSound gr (execTimeConfig h role priority s) := by
  unfold execTimeConfig; (repeat' split) <;> simp (maxDischargeDepth := 9) +contextual [hS]

@[simp] theorem execTimeSetSeconds_sound (h : CmdHdr) (seconds : Nat) (s : State) (hS : s.Sound gr) :
    NextSound gr (execTimeSetSeconds h seconds s) := by
  unfold execTimeSetSeconds
  try dsimp only
  (repeat' split) <;> first | (rw [next_sound]; refine State.command_sound _ _ _ hS ?_; intro s' hs'; (try dsimp only); (repeat' split) <;> (first | (simp (maxDischargeDepth := 50) +contextual [hS , hs']; done) | (simp_all (maxDischargeDepth := 50) +contextual [pair_iff]; done))) | first | (simp (maxDischargeDepth := 50) +contextual [hS]; done) | (simp_all (maxDischargeDepth := 50) +contextual [pair_iff]; done) | (refine foldl_sound ?_ (by first | (simp (maxDischargeDepth := 50) +contextual [hS]; done) | (simp_all (maxDischargeDepth := 50) +contextual [pair_iff]; done)); intro s' x' hs'; (try dsimp only); (repeat' split) <;> (first | (simp (maxDischargeDepth := 50) +contextual [hS]; done) | (simp_all (maxDischargeDepth := 50) +contextual [pair_iff]; done)))

@[simp] theorem execTimeQuery_sound (h : CmdHdr) (s : State) (hS : s.Sound gr) :
    NextSound gr (execTimeQuery h s) := by
  unfold execTimeQuery; (repeat' split) <;> simp (maxDischargeDepth := 9) +contextual [hS]

@[simp] theorem execTimetableFractionSet_sound (h : CmdHdr) (fraction : Nat) (s : State) (hS : s.Sound gr) :
    NextSound gr (execTimetableFractionSet h fraction s) := by
  unfold execTimetableFractionSet; (repeat' split) <;> simp (maxDischargeDepth := 9) +contextual [hS]

@[simp] theorem execReservationInstall_sound (h : CmdHdr) (id rate rank burst destKind hops sourceFn destFn source dest flight installTime egress : Nat) (s : State) (hS : s.Sound gr) :
    NextSound gr (execReservationInstall h id rate rank burst destKind hops sourceFn destFn source dest flight installTime egress s) := by
  unfold execReservationInstall
  try dsimp only
  (repeat' split) <;> first | (rw [next_sound]; refine State.command_sound _ _ _ hS ?_; intro s' hs'; (try dsimp only); (repeat' split) <;> (first | (simp (maxDischargeDepth := 50) +contextual [hS , hs']; done) | (simp_all (maxDischargeDepth := 50) +contextual [pair_iff]; done))) | first | (simp (maxDischargeDepth := 50) +contextual [hS]; done) | (simp_all (maxDischargeDepth := 50) +contextual [pair_iff]; done) | (refine foldl_sound ?_ (by first | (simp (maxDischargeDepth := 50) +contextual [hS]; done) | (simp_all (maxDischargeDepth := 50) +contextual [pair_iff]; done)); intro s' x' hs'; (try dsimp only); (repeat' split) <;> (first | (simp (maxDischargeDepth := 50) +contextual [hS]; done) | (simp_all (maxDischargeDepth := 50) +contextual [pair_iff]; done)))

@[simp] theorem execReservationRemove_sound (h : CmdHdr) (id : Nat) (s : State) (hS : s.Sound gr) :
    NextSound gr (execReservationRemove h id s) := by
  unfold execReservationRemove; (repeat' split) <;> simp (maxDischargeDepth := 9) +contextual [hS]

@[simp] theorem execReservationQuery_sound (h : CmdHdr) (id : Nat) (s : State) (hS : s.Sound gr) :
    NextSound gr (execReservationQuery h id s) := by
  unfold execReservationQuery
  try dsimp only
  (repeat' split) <;> first | (rw [next_sound]; refine State.command_sound _ _ _ hS ?_; intro s' hs'; (try dsimp only); (repeat' split) <;> (first | (simp (maxDischargeDepth := 50) +contextual [hS , hs']; done) | (simp_all (maxDischargeDepth := 50) +contextual [pair_iff]; done))) | first | (simp (maxDischargeDepth := 50) +contextual [hS]; done) | (simp_all (maxDischargeDepth := 50) +contextual [pair_iff]; done) | (refine foldl_sound ?_ (by first | (simp (maxDischargeDepth := 50) +contextual [hS]; done) | (simp_all (maxDischargeDepth := 50) +contextual [pair_iff]; done)); intro s' x' hs'; (try dsimp only); (repeat' split) <;> (first | (simp (maxDischargeDepth := 50) +contextual [hS]; done) | (simp_all (maxDischargeDepth := 50) +contextual [pair_iff]; done)))

@[simp] theorem State.setSlot_sound (s : State) (domain id : Nat) (w : Window) (hS : s.Sound gr) :
    (State.setSlot s domain id w).Sound gr := by
  unfold State.setSlot; simp [hS]

@[simp] theorem execDomainCreate_sound (h : CmdHdr) (domain log2Ids job : Nat) (s : State) (hS : s.Sound gr) :
    NextSound gr (execDomainCreate h domain log2Ids job s) := by
  unfold execDomainCreate
  try dsimp only
  (repeat' split) <;> first | (rw [next_sound]; refine State.command_sound _ _ _ hS ?_; intro s' hs'; (try dsimp only); (repeat' split) <;> (first | (simp (maxDischargeDepth := 50) +contextual [hS , hs']; done) | (simp_all (maxDischargeDepth := 50) +contextual [pair_iff]; done))) | first | (simp (maxDischargeDepth := 50) +contextual [hS]; done) | (simp_all (maxDischargeDepth := 50) +contextual [pair_iff]; done) | (refine foldl_sound ?_ (by first | (simp (maxDischargeDepth := 50) +contextual [hS]; done) | (simp_all (maxDischargeDepth := 50) +contextual [pair_iff]; done)); intro s' x' hs'; (try dsimp only); (repeat' split) <;> (first | (simp (maxDischargeDepth := 50) +contextual [hS]; done) | (simp_all (maxDischargeDepth := 50) +contextual [pair_iff]; done)))

@[simp] theorem execDomainDestroy_sound (h : CmdHdr) (domain : Nat) (s : State) (hS : s.Sound gr) :
    NextSound gr (execDomainDestroy h domain s) := by
  unfold execDomainDestroy; (repeat' split) <;> simp (maxDischargeDepth := 9) +contextual [hS]

@[simp] theorem State.openWindow_sound (s : State) (domain rights dirtyTrack id : Nat) (extents : List (Nat × Nat)) (hS : s.Sound gr) :
    ResSound gr (State.openWindow s domain rights dirtyTrack id extents) := by
  unfold State.openWindow; (repeat' split) <;> simp (maxDischargeDepth := 9) +contextual [hS]

@[simp] theorem State.revokeWindow_sound (s : State) (domain id : Nat) (hS : s.Sound gr) :
    ResSound gr (State.revokeWindow s domain id) := by
  unfold State.revokeWindow; simp [hS]

@[simp] theorem State.queryWindow_sound (s : State) (domain id : Nat) (hS : s.Sound gr) :
    ResSound gr (State.queryWindow s domain id) := by
  unfold State.queryWindow; (repeat' split) <;> simp [hS]

@[simp] theorem State.modifyWindow_sound (s : State) (domain rights lazy id : Nat) (iovas : List Nat) (hS : s.Sound gr) :
    ResSound gr (State.modifyWindow s domain rights lazy id iovas) := by
  unfold State.modifyWindow; (repeat' split) <;> simp (maxDischargeDepth := 9) +contextual [hS]

@[simp] theorem State.managerWrite_sound (s : State) (addr : Nat) (b : List Byte) (hS : s.Sound gr) :
    (State.managerWrite s addr b).Sound gr := by
  unfold State.managerWrite; (repeat' split) <;> simp [hS]

@[simp] theorem State.dirtyWindow_sound (s : State) (domain action id buffer bufferLength : Nat) (hS : s.Sound gr) :
    ResSound gr (State.dirtyWindow s domain action id buffer bufferLength) := by
  unfold State.dirtyWindow; dsimp only; (repeat' split) <;> simp (maxDischargeDepth := 9) +contextual [hS]

@[simp] theorem State.windowRun_sound (s : State) (i : Instr) (hS : s.Sound gr) :
    ResSound gr (State.windowRun s i) := by
  unfold State.windowRun; (repeat' split) <;> simp [hS]

@[simp] theorem State.windowStart_sound (s : State) (h : CmdHdr) (domain id : Nat) (waits : Bool) (i : Instr) (hS : s.Sound gr) :
    ResSound gr (State.windowStart s h domain id waits i) := by
  unfold State.windowStart; (repeat' split) <;> simp [hS]

@[simp] theorem execWindowOpen_sound (h : CmdHdr) (domain rights dirtyTrack id : Nat) (extents : List (Nat × Nat)) (s : State) (hS : s.Sound gr) :
    NextSound gr (execWindowOpen h domain rights dirtyTrack id extents s) := by
  unfold execWindowOpen; (repeat' split) <;> simp (maxDischargeDepth := 9) +contextual [hS]

@[simp] theorem execWindowRevoke_sound (h : CmdHdr) (domain id : Nat) (s : State) (hS : s.Sound gr) :
    NextSound gr (execWindowRevoke h domain id s) := by
  unfold execWindowRevoke; (repeat' split) <;> simp (maxDischargeDepth := 9) +contextual [hS]

@[simp] theorem execWindowQuery_sound (h : CmdHdr) (domain id : Nat) (s : State) (hS : s.Sound gr) :
    NextSound gr (execWindowQuery h domain id s) := by
  unfold execWindowQuery; (repeat' split) <;> simp (maxDischargeDepth := 9) +contextual [hS]

@[simp] theorem execWindowModify_sound (h : CmdHdr) (domain rights lazy id : Nat) (iovas : List Nat) (s : State) (hS : s.Sound gr) :
    NextSound gr (execWindowModify h domain rights lazy id iovas s) := by
  unfold execWindowModify; (repeat' split) <;> simp (maxDischargeDepth := 9) +contextual [hS]

@[simp] theorem execWindowDirtyEnable_sound (h : CmdHdr) (domain id : Nat) (s : State) (hS : s.Sound gr) :
    NextSound gr (execWindowDirtyEnable h domain id s) := by
  unfold execWindowDirtyEnable; (repeat' split) <;> simp (maxDischargeDepth := 9) +contextual [hS]

@[simp] theorem execWindowDirtyDisable_sound (h : CmdHdr) (domain id : Nat) (s : State) (hS : s.Sound gr) :
    NextSound gr (execWindowDirtyDisable h domain id s) := by
  unfold execWindowDirtyDisable; (repeat' split) <;> simp (maxDischargeDepth := 9) +contextual [hS]

@[simp] theorem execWindowDirtyFetch_sound (h : CmdHdr) (domain id buffer bufferLength : Nat) (s : State) (hS : s.Sound gr) :
    NextSound gr (execWindowDirtyFetch h domain id buffer bufferLength s) := by
  unfold execWindowDirtyFetch; (repeat' split) <;> simp (maxDischargeDepth := 9) +contextual [hS]

@[simp] theorem execWindowDirtyClearMarks_sound (h : CmdHdr) (domain id : Nat) (s : State) (hS : s.Sound gr) :
    NextSound gr (execWindowDirtyClearMarks h domain id s) := by
  unfold execWindowDirtyClearMarks; (repeat' split) <;> simp (maxDischargeDepth := 9) +contextual [hS]

@[simp] theorem State.windowTurns_sound (s : State) (domain id : Nat) (fuel : Nat) (hS : s.Sound gr) :
    (State.windowTurns s domain id fuel).Sound gr := by
  have ht : ∀ {u : State} {r}, u.Sound gr → u.takeTurn domain id = some r → r.2.Sound gr := by
    intro u r hu e
    unfold State.takeTurn at e
    split at e
    · cases e; simpa using hu
    · split at e
      · split at e
        · cases e; simpa using hu
        · cases e
      · cases e
  induction fuel generalizing s with
  | zero => exact hS
  | succ n ih =>
    unfold State.windowTurns
    split
    · exact hS
    · split
      · exact hS
      · next e =>
        have := ht hS e
        split
        · exact ih _ (by simp (maxDischargeDepth := 50) [this])
        · exact ih _ this

@[simp] theorem State.revocationDone_sound (s : State) (domain id : Nat) (hS : s.Sound gr) :
    (State.revocationDone s domain id).Sound gr := by
  unfold State.revocationDone; (repeat' split) <;> simp (maxDischargeDepth := 9) +contextual [hS]

@[simp] theorem State.revocationRelease_sound (s : State) (domain id : Nat) (hS : s.Sound gr) :
    (State.revocationRelease s domain id).Sound gr := by
  unfold State.revocationRelease; (repeat' split) <;> simp [hS]

@[simp] theorem execWindowCacheSweep_sound (client : Nat) (s : State) (hS : s.Sound gr) :
    NextSound gr (execWindowCacheSweep client s) := by
  unfold execWindowCacheSweep; (repeat' split) <;> simp [hS]

@[simp] theorem State.createFn_sound (s : State) (f : Nat) (x : Fn) (hS : s.Sound gr) :
    ResSound gr (State.createFn s f x) := by
  unfold State.createFn; dsimp only; (repeat' split) <;> simp (maxDischargeDepth := 9) +contextual [hS]

@[simp] theorem execFunctionCreate_sound (h : CmdHdr) (attachment vf vectors stagingMib fabricTokens resvSlots ringQuota ctxQuota : Nat) (s : State) (hS : s.Sound gr) :
    NextSound gr (execFunctionCreate h attachment vf vectors stagingMib fabricTokens resvSlots ringQuota ctxQuota s) := by
  unfold execFunctionCreate; (repeat' split) <;> simp (maxDischargeDepth := 9) +contextual [hS]

@[simp] theorem State.withdraw_sound (s : State) (f : Nat) (force advance : Bool) (hS : s.Sound gr) :
    (State.withdraw s f force advance).Sound gr := by
  unfold State.withdraw; (repeat' split) <;> simp (maxDischargeDepth := 9) +contextual [hS]

@[simp] theorem execFunctionDestroy_sound (h : CmdHdr) (s : State) (hS : s.Sound gr) :
    NextSound gr (execFunctionDestroy h s) := by
  unfold execFunctionDestroy; (repeat' split) <;> simp (maxDischargeDepth := 9) +contextual [hS]

@[simp] theorem execFunctionEnable_sound (h : CmdHdr) (s : State) (hS : s.Sound gr) :
    NextSound gr (execFunctionEnable h s) := by
  unfold execFunctionEnable
  try dsimp only
  (repeat' split) <;> first | (rw [next_sound]; refine State.workCommand_sound _ _ _ hS ?_; intro s' hs'; (try dsimp only); (repeat' split) <;> (first | (simp (maxDischargeDepth := 50) +contextual [hS , hs']; done) | (simp_all (maxDischargeDepth := 50) +contextual [pair_iff]; done))) | first | (simp (maxDischargeDepth := 50) +contextual [hS]; done) | (simp_all (maxDischargeDepth := 50) +contextual [pair_iff]; done) | (refine foldl_sound ?_ (by first | (simp (maxDischargeDepth := 50) +contextual [hS]; done) | (simp_all (maxDischargeDepth := 50) +contextual [pair_iff]; done)); intro s' x' hs'; (try dsimp only); (repeat' split) <;> (first | (simp (maxDischargeDepth := 50) +contextual [hS]; done) | (simp_all (maxDischargeDepth := 50) +contextual [pair_iff]; done)))

@[simp] theorem execFunctionDisable_sound (h : CmdHdr) (s : State) (hS : s.Sound gr) :
    NextSound gr (execFunctionDisable h s) := by
  unfold execFunctionDisable
  try dsimp only
  (repeat' split) <;> first | (rw [next_sound]; refine State.workCommand_sound _ _ _ hS ?_; intro s' hs'; (try dsimp only); (repeat' split) <;> (first | (simp (maxDischargeDepth := 50) +contextual [hS , hs']; done) | (simp_all (maxDischargeDepth := 50) +contextual [pair_iff]; done))) | first | (simp (maxDischargeDepth := 50) +contextual [hS]; done) | (simp_all (maxDischargeDepth := 50) +contextual [pair_iff]; done) | (refine foldl_sound ?_ (by first | (simp (maxDischargeDepth := 50) +contextual [hS]; done) | (simp_all (maxDischargeDepth := 50) +contextual [pair_iff]; done)); intro s' x' hs'; (try dsimp only); (repeat' split) <;> (first | (simp (maxDischargeDepth := 50) +contextual [hS]; done) | (simp_all (maxDischargeDepth := 50) +contextual [pair_iff]; done)))

@[simp] theorem execFunctionReset_sound (h : CmdHdr) (s : State) (hS : s.Sound gr) :
    NextSound gr (execFunctionReset h s) := by
  unfold execFunctionReset
  try dsimp only
  (repeat' split) <;> first | (rw [next_sound]; refine State.workCommand_sound _ _ _ hS ?_; intro s' hs'; (try dsimp only); (repeat' split) <;> (first | (simp (maxDischargeDepth := 50) +contextual [hS , hs']; done) | (simp_all (maxDischargeDepth := 50) +contextual [pair_iff]; done))) | first | (simp (maxDischargeDepth := 50) +contextual [hS]; done) | (simp_all (maxDischargeDepth := 50) +contextual [pair_iff]; done) | (refine foldl_sound ?_ (by first | (simp (maxDischargeDepth := 50) +contextual [hS]; done) | (simp_all (maxDischargeDepth := 50) +contextual [pair_iff]; done)); intro s' x' hs'; (try dsimp only); (repeat' split) <;> (first | (simp (maxDischargeDepth := 50) +contextual [hS]; done) | (simp_all (maxDischargeDepth := 50) +contextual [pair_iff]; done)))

@[simp] theorem execFunctionQuery_sound (h : CmdHdr) (s : State) (hS : s.Sound gr) :
    NextSound gr (execFunctionQuery h s) := by
  unfold execFunctionQuery
  try dsimp only
  (repeat' split) <;> first | (rw [next_sound]; refine State.command_sound _ _ _ hS ?_; intro s' hs'; (try dsimp only); (repeat' split) <;> (first | (simp (maxDischargeDepth := 50) +contextual [hS , hs']; done) | (simp_all (maxDischargeDepth := 50) +contextual [pair_iff]; done))) | first | (simp (maxDischargeDepth := 50) +contextual [hS]; done) | (simp_all (maxDischargeDepth := 50) +contextual [pair_iff]; done) | (refine foldl_sound ?_ (by first | (simp (maxDischargeDepth := 50) +contextual [hS]; done) | (simp_all (maxDischargeDepth := 50) +contextual [pair_iff]; done)); intro s' x' hs'; (try dsimp only); (repeat' split) <;> (first | (simp (maxDischargeDepth := 50) +contextual [hS]; done) | (simp_all (maxDischargeDepth := 50) +contextual [pair_iff]; done)))

@[simp] theorem State.beginFreeze_sound (s : State) (f limitMs : Nat) (hS : s.Sound gr) :
    (State.beginFreeze s f limitMs).Sound gr := by
  unfold State.beginFreeze
  try dsimp only
  (repeat' split) <;> first | (simp (maxDischargeDepth := 50) +contextual [hS]; done) | (simp_all (maxDischargeDepth := 50) +contextual [pair_iff]; done) | (refine foldl_sound ?_ (by first | (simp (maxDischargeDepth := 50) +contextual [hS]; done) | (simp_all (maxDischargeDepth := 50) +contextual [pair_iff]; done)); intro s' x' hs'; (try dsimp only); (repeat' split) <;> (first | (simp (maxDischargeDepth := 50) +contextual [hS]; done) | (simp_all (maxDischargeDepth := 50) +contextual [pair_iff]; done)))

@[simp] theorem execFunctionFreeze_sound (h : CmdHdr) (limitMs : Nat) (s : State) (hS : s.Sound gr) :
    NextSound gr (execFunctionFreeze h limitMs s) := by
  unfold execFunctionFreeze; (repeat' split) <;> simp (maxDischargeDepth := 9) +contextual [hS]

@[simp] theorem State.thaw_sound (s : State) (f : Nat) (hS : s.Sound gr) :
    (State.thaw s f).Sound gr := by
  unfold State.thaw; (repeat' split) <;> simp (maxDischargeDepth := 9) +contextual [hS]

@[simp] theorem execFunctionThaw_sound (h : CmdHdr) (s : State) (hS : s.Sound gr) :
    NextSound gr (execFunctionThaw h s) := by
  unfold execFunctionThaw
  try dsimp only
  (repeat' split) <;> first | (rw [next_sound]; refine State.workCommand_sound _ _ _ hS ?_; intro s' hs'; (try dsimp only); (repeat' split) <;> (first | (simp (maxDischargeDepth := 50) +contextual [hS , hs']; done) | (simp_all (maxDischargeDepth := 50) +contextual [pair_iff]; done))) | first | (simp (maxDischargeDepth := 50) +contextual [hS]; done) | (simp_all (maxDischargeDepth := 50) +contextual [pair_iff]; done) | (refine foldl_sound ?_ (by first | (simp (maxDischargeDepth := 50) +contextual [hS]; done) | (simp_all (maxDischargeDepth := 50) +contextual [pair_iff]; done)); intro s' x' hs'; (try dsimp only); (repeat' split) <;> (first | (simp (maxDischargeDepth := 50) +contextual [hS]; done) | (simp_all (maxDischargeDepth := 50) +contextual [pair_iff]; done)))

@[simp] theorem State.setPool_sound (s : State) (f : Nat) (x : Fn) (vectors staging tokens vfLimit slots : Nat) (hS : s.Sound gr) :
    (State.setPool s f x vectors staging tokens vfLimit slots).Sound gr := by
  unfold State.setPool; (repeat' split) <;> simp [hS]

@[simp] theorem execFunctionPoolSet_sound (h : CmdHdr) (vectors stagingMib fabricTokens vfLimit resvSlots : Nat) (s : State) (hS : s.Sound gr) :
    NextSound gr (execFunctionPoolSet h vectors stagingMib fabricTokens vfLimit resvSlots s) := by
  unfold execFunctionPoolSet
  try dsimp only
  (repeat' split) <;> first | (rw [next_sound]; refine State.workCommand_sound _ _ _ hS ?_; intro s' hs'; (try dsimp only); (repeat' split) <;> (first | (simp (maxDischargeDepth := 50) +contextual [hS , hs']; done) | (simp_all (maxDischargeDepth := 50) +contextual [pair_iff]; done))) | first | (simp (maxDischargeDepth := 50) +contextual [hS]; done) | (simp_all (maxDischargeDepth := 50) +contextual [pair_iff]; done) | (refine foldl_sound ?_ (by first | (simp (maxDischargeDepth := 50) +contextual [hS]; done) | (simp_all (maxDischargeDepth := 50) +contextual [pair_iff]; done)); intro s' x' hs'; (try dsimp only); (repeat' split) <;> (first | (simp (maxDischargeDepth := 50) +contextual [hS]; done) | (simp_all (maxDischargeDepth := 50) +contextual [pair_iff]; done)))

@[simp] theorem execFunctionQuotaSet_sound (h : CmdHdr) (ringQuota ctxQuota : Nat) (s : State) (hS : s.Sound gr) :
    NextSound gr (execFunctionQuotaSet h ringQuota ctxQuota s) := by
  unfold execFunctionQuotaSet; (repeat' split) <;> simp (maxDischargeDepth := 9) +contextual [hS]

@[simp] theorem State.setHorizon_sound (s : State) (f ms : Nat) (hS : s.Sound gr) :
    (State.setHorizon s f ms).Sound gr := by
  unfold State.setHorizon; simp [hS]

@[simp] theorem execFunctionHorizonSet_sound (h : CmdHdr) (horizonMs : Nat) (s : State) (hS : s.Sound gr) :
    NextSound gr (execFunctionHorizonSet h horizonMs s) := by
  unfold execFunctionHorizonSet
  try dsimp only
  (repeat' split) <;> first | (rw [next_sound]; refine State.command_sound _ _ _ hS ?_; intro s' hs'; (try dsimp only); (repeat' split) <;> (first | (simp (maxDischargeDepth := 50) +contextual [hS , hs']; done) | (simp_all (maxDischargeDepth := 50) +contextual [pair_iff]; done))) | first | (simp (maxDischargeDepth := 50) +contextual [hS]; done) | (simp_all (maxDischargeDepth := 50) +contextual [pair_iff]; done) | (refine foldl_sound ?_ (by first | (simp (maxDischargeDepth := 50) +contextual [hS]; done) | (simp_all (maxDischargeDepth := 50) +contextual [pair_iff]; done)); intro s' x' hs'; (try dsimp only); (repeat' split) <;> (first | (simp (maxDischargeDepth := 50) +contextual [hS]; done) | (simp_all (maxDischargeDepth := 50) +contextual [pair_iff]; done)))

@[simp] theorem State.setCc_sound (s : State) (f targetNs alpha beta init max : Nat) (hS : s.Sound gr) :
    (State.setCc s f targetNs alpha beta init max).Sound gr := by
  unfold State.setCc; simp [hS]

@[simp] theorem execFunctionCcSet_sound (h : CmdHdr) (targetNs alpha beta initParcels maxParcels : Nat) (s : State) (hS : s.Sound gr) :
    NextSound gr (execFunctionCcSet h targetNs alpha beta initParcels maxParcels s) := by
  unfold execFunctionCcSet; (repeat' split) <;> simp (maxDischargeDepth := 9) +contextual [hS]

@[simp] theorem State.generationRelease_sound (s : State) (f : Nat) (hS : s.Sound gr) :
    (State.generationRelease s f).Sound gr := by
  unfold State.generationRelease; (repeat' split) <;> simp (maxDischargeDepth := 9) +contextual [hS]

@[simp] theorem execFunctionSave_sound (h : CmdHdr) (buffer bufferLength : Nat) (s : State) (hS : s.Sound gr) :
    NextSound gr (execFunctionSave h buffer bufferLength s) := by
  unfold execFunctionSave
  try dsimp only
  (repeat' split) <;> first | (rw [next_sound]; refine State.command_sound _ _ _ hS ?_; intro s' hs'; (try dsimp only); (repeat' split) <;> (first | (simp (maxDischargeDepth := 50) +contextual [hS , hs']; done) | (simp_all (maxDischargeDepth := 50) +contextual [pair_iff]; done))) | first | (simp (maxDischargeDepth := 50) +contextual [hS]; done) | (simp_all (maxDischargeDepth := 50) +contextual [pair_iff]; done) | (refine foldl_sound ?_ (by first | (simp (maxDischargeDepth := 50) +contextual [hS]; done) | (simp_all (maxDischargeDepth := 50) +contextual [pair_iff]; done)); intro s' x' hs'; (try dsimp only); (repeat' split) <;> (first | (simp (maxDischargeDepth := 50) +contextual [hS]; done) | (simp_all (maxDischargeDepth := 50) +contextual [pair_iff]; done)))

@[simp] theorem State.loadWindows_sound (s : State) (x0 : List (Nat × Nat × Window)) (hS : s.Sound gr) :
    OptSound gr (State.loadWindows s x0) := by
  induction x0 generalizing s with
  | nil => exact hS
  | cons a t ih =>
    unfold State.loadWindows
    (repeat' split) <;> first | exact True.intro | exact ih _ (by simp [hS])

@[simp] theorem State.setGeneration_sound (s : State) (f gen : Nat) (hS : s.Sound gr) :
    (State.setGeneration s f gen).Sound gr := by
  unfold State.setGeneration; simp [hS]

@[simp] theorem State.loadMeters_sound (s : State) (f : Nat) (m : List Nat) (hS : s.Sound gr) :
    (State.loadMeters s f m).Sound gr := by
  unfold State.loadMeters
  exact foldl_sound (fun s k h => State.setCounter_sound _ _ _ h (Nat.mod_lt _ (by decide))) hS

@[simp] theorem State.repost_sound (s : State) (f gen : Nat) (x : Fn) (r : List Nat) (hS : s.Sound gr) :
    (State.repost s f gen x r).Sound gr := by
  unfold State.repost
  try dsimp only
  (repeat' split) <;> first | (simp (maxDischargeDepth := 50) +contextual [hS]; done) | (simp_all (maxDischargeDepth := 50) +contextual [pair_iff]; done) | (refine foldl_sound ?_ (by first | (simp (maxDischargeDepth := 50) +contextual [hS]; done) | (simp_all (maxDischargeDepth := 50) +contextual [pair_iff]; done)); intro s' x' hs'; (try dsimp only); (repeat' split) <;> (first | (simp (maxDischargeDepth := 50) +contextual [hS]; done) | (simp_all (maxDischargeDepth := 50) +contextual [pair_iff]; done)))

@[simp] theorem State.loadBlob_sound (s : State) (f : Nat) (b : List Byte) (hS : s.Sound gr) :
    (State.loadBlob s f b).1.Sound gr := by
  unfold State.loadBlob
  dsimp only
  split
  · exact hS
  · (repeat' split) <;> first | exact hS | (
      have h := some_of (State.loadWindows_sound _ _ hS) ‹State.loadWindows s _ = some _›
      refine State.setGeneration_sound _ _ _ (State.loadMeters_sound _ _ _ (foldl_sound (fun s r h => by simp [h]) ?_))
      simp (maxDischargeDepth := 50) [h]; done)

@[simp] theorem State.blobRead_sound (s : State) (f : Nat) (c : Completion) (hS : s.Sound gr) :
    (State.blobRead s f c).Sound gr := by
  unfold State.blobRead
  try dsimp only
  (repeat' split) <;> first | (simp (maxDischargeDepth := 50) +contextual [hS]; done) | (simp_all (maxDischargeDepth := 50) +contextual [pair_iff]; done) | (refine foldl_sound ?_ (by first | (simp (maxDischargeDepth := 50) +contextual [hS]; done) | (simp_all (maxDischargeDepth := 50) +contextual [pair_iff]; done)); intro s' x' hs'; (try dsimp only); (repeat' split) <;> (first | (simp (maxDischargeDepth := 50) +contextual [hS]; done) | (simp_all (maxDischargeDepth := 50) +contextual [pair_iff]; done)))

@[simp] theorem execFunctionRestore_sound (h : CmdHdr) (blob blobLength : Nat) (s : State) (hS : s.Sound gr) :
    NextSound gr (execFunctionRestore h blob blobLength s) := by
  unfold execFunctionRestore
  try dsimp only
  (repeat' split) <;> first | (rw [next_sound]; refine State.workCommand_sound _ _ _ hS ?_; intro s' hs'; (try dsimp only); (repeat' split) <;> (first | (simp (maxDischargeDepth := 50) +contextual [hS , hs']; done) | (simp_all (maxDischargeDepth := 50) +contextual [pair_iff]; done))) | first | (simp (maxDischargeDepth := 50) +contextual [hS]; done) | (simp_all (maxDischargeDepth := 50) +contextual [pair_iff]; done) | (refine foldl_sound ?_ (by first | (simp (maxDischargeDepth := 50) +contextual [hS]; done) | (simp_all (maxDischargeDepth := 50) +contextual [pair_iff]; done)); intro s' x' hs'; (try dsimp only); (repeat' split) <;> (first | (simp (maxDischargeDepth := 50) +contextual [hS]; done) | (simp_all (maxDischargeDepth := 50) +contextual [pair_iff]; done)))

@[simp] theorem execFlowSpillSet_sound (h : CmdHdr) (base capacity enable : Nat) (s : State) (hS : s.Sound gr) :
    NextSound gr (execFlowSpillSet h base capacity enable s) := by
  unfold execFlowSpillSet; (repeat' split) <;> simp (maxDischargeDepth := 9) +contextual [hS]

@[simp] theorem execBalerConfigSet_sound (h : CmdHdr) (elideEn : Nat) (s : State) (hS : s.Sound gr) :
    NextSound gr (execBalerConfigSet h elideEn s) := by
  unfold execBalerConfigSet; (repeat' split) <;> simp (maxDischargeDepth := 9) +contextual [hS]

@[simp] theorem execRankTableWrite_sound (h : CmdHdr) (table first : Nat) (entries : List Nat) (s : State) (hS : s.Sound gr) :
    NextSound gr (execRankTableWrite h table first entries s) := by
  unfold execRankTableWrite
  try dsimp only
  (repeat' split) <;> first | (rw [next_sound]; refine State.command_sound _ _ _ hS ?_; intro s' hs'; (try dsimp only); (repeat' split) <;> (first | (simp (maxDischargeDepth := 50) +contextual [hS , hs']; done) | (simp_all (maxDischargeDepth := 50) +contextual [pair_iff]; done))) | first | (simp (maxDischargeDepth := 50) +contextual [hS]; done) | (simp_all (maxDischargeDepth := 50) +contextual [pair_iff]; done) | (refine foldl_sound ?_ (by first | (simp (maxDischargeDepth := 50) +contextual [hS]; done) | (simp_all (maxDischargeDepth := 50) +contextual [pair_iff]; done)); intro s' x' hs'; (try dsimp only); (repeat' split) <;> (first | (simp (maxDischargeDepth := 50) +contextual [hS]; done) | (simp_all (maxDischargeDepth := 50) +contextual [pair_iff]; done)))

@[simp] theorem execRankTableCreate_sound (h : CmdHdr) (table entries : Nat) (s : State) (hS : s.Sound gr) :
    NextSound gr (execRankTableCreate h table entries s) := by
  unfold execRankTableCreate; (repeat' split) <;> simp (maxDischargeDepth := 9) +contextual [hS]

@[simp] theorem execRankTableDestroy_sound (h : CmdHdr) (table : Nat) (s : State) (hS : s.Sound gr) :
    NextSound gr (execRankTableDestroy h table s) := by
  unfold execRankTableDestroy; (repeat' split) <;> simp (maxDischargeDepth := 9) +contextual [hS]

@[simp] theorem execMatchContextSet_sound (h : CmdHdr) (enable log2Comms backoff postedMax unexpectedMax unexpectedKib : Nat) (s : State) (hS : s.Sound gr) :
    NextSound gr (execMatchContextSet h enable log2Comms backoff postedMax unexpectedMax unexpectedKib s) := by
  unfold execMatchContextSet
  try dsimp only
  (repeat' split) <;> first | (rw [next_sound]; refine State.workCommand_sound _ _ _ hS ?_; intro s' hs'; (try dsimp only); (repeat' split) <;> (first | (simp (maxDischargeDepth := 50) +contextual [hS , hs']; done) | (simp_all (maxDischargeDepth := 50) +contextual [pair_iff]; done))) | first | (simp (maxDischargeDepth := 50) +contextual [hS]; done) | (simp_all (maxDischargeDepth := 50) +contextual [pair_iff]; done) | (refine foldl_sound ?_ (by first | (simp (maxDischargeDepth := 50) +contextual [hS]; done) | (simp_all (maxDischargeDepth := 50) +contextual [pair_iff]; done)); intro s' x' hs'; (try dsimp only); (repeat' split) <;> (first | (simp (maxDischargeDepth := 50) +contextual [hS]; done) | (simp_all (maxDischargeDepth := 50) +contextual [pair_iff]; done)))

@[simp] theorem execMatchCommSet_sound (h : CmdHdr) (comm rankTable domain ownRank : Nat) (s : State) (hS : s.Sound gr) :
    NextSound gr (execMatchCommSet h comm rankTable domain ownRank s) := by
  unfold execMatchCommSet
  try dsimp only
  (repeat' split) <;> first | (rw [next_sound]; refine State.workCommand_sound _ _ _ hS ?_; intro s' hs'; (try dsimp only); (repeat' split) <;> (first | (simp (maxDischargeDepth := 50) +contextual [hS , hs']; done) | (simp_all (maxDischargeDepth := 50) +contextual [pair_iff]; done))) | first | (simp (maxDischargeDepth := 50) +contextual [hS]; done) | (simp_all (maxDischargeDepth := 50) +contextual [pair_iff]; done) | (refine foldl_sound ?_ (by first | (simp (maxDischargeDepth := 50) +contextual [hS]; done) | (simp_all (maxDischargeDepth := 50) +contextual [pair_iff]; done)); intro s' x' hs'; (try dsimp only); (repeat' split) <;> (first | (simp (maxDischargeDepth := 50) +contextual [hS]; done) | (simp_all (maxDischargeDepth := 50) +contextual [pair_iff]; done)))

@[simp] theorem State.forceComm_sound (s : State) (f comm : Nat) (hS : s.Sound gr) :
    (State.forceComm s f comm).Sound gr := by
  unfold State.forceComm; (repeat' split) <;> simp (maxDischargeDepth := 9) +contextual [hS]

@[simp] theorem execMatchCommClear_sound (h : CmdHdr) (comm : Nat) (s : State) (hS : s.Sound gr) :
    NextSound gr (execMatchCommClear h comm s) := by
  unfold execMatchCommClear; (repeat' split) <;> simp (maxDischargeDepth := 9) +contextual [hS]

@[simp] theorem State.createGroup_sound (s : State) (g : Nat) (x : Group) (hS : s.Sound gr) :
    OptSound gr (State.createGroup s g x) := by
  unfold State.createGroup
  cases Engine.grantEdges g x.depth x.edges (s.engine x.anchor) <;> simp [hS]

@[simp] theorem execCollGroupCreate_sound (h : CmdHdr) (group epoch parent anchor depth size : Nat) (children : List Nat) (s : State) (hS : s.Sound gr) :
    NextSound gr (execCollGroupCreate h group epoch parent anchor depth size children s) := by
  unfold execCollGroupCreate
  rw [next_sound]
  refine State.workCommand_sound _ _ _ hS (fun s' hs' => ?_)
  refine State.guarded_sound _ _ _ hs' ?_
  split
  · next e => have := some_of (State.createGroup_sound _ _ _ hs') e; simp [this]
  · simp [hs']

@[simp] theorem State.removeGroup_sound (s : State) (g : Nat) (x : Group) (hS : s.Sound gr) :
    (State.removeGroup s g x).Sound gr := by
  unfold State.removeGroup; (repeat' split) <;> simp (maxDischargeDepth := 9) +contextual [hS]

@[simp] theorem execCollGroupDestroy_sound (h : CmdHdr) (group : Nat) (s : State) (hS : s.Sound gr) :
    NextSound gr (execCollGroupDestroy h group s) := by
  unfold execCollGroupDestroy
  try dsimp only
  (repeat' split) <;> first | (rw [next_sound]; refine State.workCommand_sound _ _ _ hS ?_; intro s' hs'; (try dsimp only); (repeat' split) <;> (first | (simp (maxDischargeDepth := 50) +contextual [hS , hs']; done) | (simp_all (maxDischargeDepth := 50) +contextual [pair_iff]; done))) | first | (simp (maxDischargeDepth := 50) +contextual [hS]; done) | (simp_all (maxDischargeDepth := 50) +contextual [pair_iff]; done) | (refine foldl_sound ?_ (by first | (simp (maxDischargeDepth := 50) +contextual [hS]; done) | (simp_all (maxDischargeDepth := 50) +contextual [pair_iff]; done)); intro s' x' hs'; (try dsimp only); (repeat' split) <;> (first | (simp (maxDischargeDepth := 50) +contextual [hS]; done) | (simp_all (maxDischargeDepth := 50) +contextual [pair_iff]; done)))

@[simp] theorem execCollMemberSet_sound (h : CmdHdr) (group attachment rank : Nat) (s : State) (hS : s.Sound gr) :
    NextSound gr (execCollMemberSet h group attachment rank s) := by
  unfold execCollMemberSet
  try dsimp only
  (repeat' split) <;> first | (rw [next_sound]; refine State.workCommand_sound _ _ _ hS ?_; intro s' hs'; (try dsimp only); (repeat' split) <;> (first | (simp (maxDischargeDepth := 50) +contextual [hS , hs']; done) | (simp_all (maxDischargeDepth := 50) +contextual [pair_iff]; done))) | first | (simp (maxDischargeDepth := 50) +contextual [hS]; done) | (simp_all (maxDischargeDepth := 50) +contextual [pair_iff]; done) | (refine foldl_sound ?_ (by first | (simp (maxDischargeDepth := 50) +contextual [hS]; done) | (simp_all (maxDischargeDepth := 50) +contextual [pair_iff]; done)); intro s' x' hs'; (try dsimp only); (repeat' split) <;> (first | (simp (maxDischargeDepth := 50) +contextual [hS]; done) | (simp_all (maxDischargeDepth := 50) +contextual [pair_iff]; done)))

@[simp] theorem execCollGroupReset_sound (h : CmdHdr) (group epoch : Nat) (s : State) (hS : s.Sound gr) :
    NextSound gr (execCollGroupReset h group epoch s) := by
  unfold execCollGroupReset
  try dsimp only
  (repeat' split) <;> first | (rw [next_sound]; refine State.workCommand_sound _ _ _ hS ?_; intro s' hs'; (try dsimp only); (repeat' split) <;> (first | (simp (maxDischargeDepth := 50) +contextual [hS , hs']; done) | (simp_all (maxDischargeDepth := 50) +contextual [pair_iff]; done))) | first | (simp (maxDischargeDepth := 50) +contextual [hS]; done) | (simp_all (maxDischargeDepth := 50) +contextual [pair_iff]; done) | (refine foldl_sound ?_ (by first | (simp (maxDischargeDepth := 50) +contextual [hS]; done) | (simp_all (maxDischargeDepth := 50) +contextual [pair_iff]; done)); intro s' x' hs'; (try dsimp only); (repeat' split) <;> (first | (simp (maxDischargeDepth := 50) +contextual [hS]; done) | (simp_all (maxDischargeDepth := 50) +contextual [pair_iff]; done)))

@[simp] theorem execCollGroupQuery_sound (h : CmdHdr) (group : Nat) (s : State) (hS : s.Sound gr) :
    NextSound gr (execCollGroupQuery h group s) := by
  unfold execCollGroupQuery
  try dsimp only
  (repeat' split) <;> first | (rw [next_sound]; refine State.command_sound _ _ _ hS ?_; intro s' hs'; (try dsimp only); (repeat' split) <;> (first | (simp (maxDischargeDepth := 50) +contextual [hS , hs']; done) | (simp_all (maxDischargeDepth := 50) +contextual [pair_iff]; done))) | first | (simp (maxDischargeDepth := 50) +contextual [hS]; done) | (simp_all (maxDischargeDepth := 50) +contextual [pair_iff]; done) | (refine foldl_sound ?_ (by first | (simp (maxDischargeDepth := 50) +contextual [hS]; done) | (simp_all (maxDischargeDepth := 50) +contextual [pair_iff]; done)); intro s' x' hs'; (try dsimp only); (repeat' split) <;> (first | (simp (maxDischargeDepth := 50) +contextual [hS]; done) | (simp_all (maxDischargeDepth := 50) +contextual [pair_iff]; done)))

@[simp] theorem execTokenGroupRightsSet_sound (h : CmdHdr) (group enable first last pfMask : Nat) (s : State) (hS : s.Sound gr) :
    NextSound gr (execTokenGroupRightsSet h group enable first last pfMask s) := by
  unfold execTokenGroupRightsSet; (repeat' split) <;> simp (maxDischargeDepth := 9) +contextual [hS]

@[simp] theorem execTokenFabricHomeSet_sound (h : CmdHdr) (slot enable : Nat) (s : State) (hS : s.Sound gr) :
    NextSound gr (execTokenFabricHomeSet h slot enable s) := by
  unfold execTokenFabricHomeSet; (repeat' split) <;> simp (maxDischargeDepth := 9) +contextual [hS]

@[simp] theorem execTokenFabricBind_sound (h : CmdHdr) (binding homeIndex homeLoc : Nat) (s : State) (hS : s.Sound gr) :
    NextSound gr (execTokenFabricBind h binding homeIndex homeLoc s) := by
  unfold execTokenFabricBind
  try dsimp only
  (repeat' split) <;> first | (rw [next_sound]; refine State.command_sound _ _ _ hS ?_; intro s' hs'; (try dsimp only); (repeat' split) <;> (first | (simp (maxDischargeDepth := 50) +contextual [hS , hs']; done) | (simp_all (maxDischargeDepth := 50) +contextual [pair_iff]; done))) | first | (simp (maxDischargeDepth := 50) +contextual [hS]; done) | (simp_all (maxDischargeDepth := 50) +contextual [pair_iff]; done) | (refine foldl_sound ?_ (by first | (simp (maxDischargeDepth := 50) +contextual [hS]; done) | (simp_all (maxDischargeDepth := 50) +contextual [pair_iff]; done)); intro s' x' hs'; (try dsimp only); (repeat' split) <;> (first | (simp (maxDischargeDepth := 50) +contextual [hS]; done) | (simp_all (maxDischargeDepth := 50) +contextual [pair_iff]; done)))

@[simp] theorem State.loseBinding_sound (s : State) (b : Nat) (x : Binding) (hS : s.Sound gr) :
    (State.loseBinding s b x).Sound gr := by
  unfold State.loseBinding; (repeat' split) <;> simp [hS]

@[simp] theorem execTokenFabricUnbind_sound (h : CmdHdr) (binding : Nat) (s : State) (hS : s.Sound gr) :
    NextSound gr (execTokenFabricUnbind h binding s) := by
  unfold execTokenFabricUnbind
  try dsimp only
  (repeat' split) <;> first | (rw [next_sound]; refine State.command_sound _ _ _ hS ?_; intro s' hs'; (try dsimp only); (repeat' split) <;> (first | (simp (maxDischargeDepth := 50) +contextual [hS , hs']; done) | (simp_all (maxDischargeDepth := 50) +contextual [pair_iff]; done))) | first | (simp (maxDischargeDepth := 50) +contextual [hS]; done) | (simp_all (maxDischargeDepth := 50) +contextual [pair_iff]; done) | (refine foldl_sound ?_ (by first | (simp (maxDischargeDepth := 50) +contextual [hS]; done) | (simp_all (maxDischargeDepth := 50) +contextual [pair_iff]; done)); intro s' x' hs'; (try dsimp only); (repeat' split) <;> (first | (simp (maxDischargeDepth := 50) +contextual [hS]; done) | (simp_all (maxDischargeDepth := 50) +contextual [pair_iff]; done)))

@[simp] theorem execTokenQuery_sound (h : CmdHdr) (kind index : Nat) (s : State) (hS : s.Sound gr) :
    NextSound gr (execTokenQuery h kind index s) := by
  unfold execTokenQuery; (repeat' split) <;> simp (maxDischargeDepth := 9) +contextual [hS]

@[simp] theorem execTokenForceRelease_sound (h : CmdHdr) (token : Nat) (s : State) (hS : s.Sound gr) :
    NextSound gr (execTokenForceRelease h token s) := by
  unfold execTokenForceRelease; (repeat' split) <;> simp (maxDischargeDepth := 9) +contextual [hS]

@[simp] theorem execDeviceInfo_sound (h : CmdHdr) (s : State) (hS : s.Sound gr) :
    NextSound gr (execDeviceInfo h s) := by
  unfold execDeviceInfo; (repeat' split) <;> simp (maxDischargeDepth := 9) +contextual [hS]

@[simp] theorem State.closeAdmin_sound (s : State) (f : Nat) (hS : s.Sound gr) :
    (State.closeAdmin s f).Sound gr := by
  unfold State.closeAdmin; simp [hS]

@[simp] theorem State.appoint_sound (s : State) (new : Option Nat) (hS : s.Sound gr) :
    (State.appoint s new).Sound gr := by
  unfold State.appoint; (repeat' split) <;> simp [hS]

@[simp] theorem execManagerSet_sound (h : CmdHdr) (attachment : Nat) (s : State) (hS : s.Sound gr) :
    NextSound gr (execManagerSet h attachment s) := by
  unfold execManagerSet; (repeat' split) <;> simp (maxDischargeDepth := 9) +contextual [hS]

@[simp] theorem execPinConfigSet_sound (h : CmdHdr) (pin config : Nat) (s : State) (hS : s.Sound gr) :
    NextSound gr (execPinConfigSet h pin config s) := by
  unfold execPinConfigSet; (repeat' split) <;> simp (maxDischargeDepth := 9) +contextual [hS]

@[simp] theorem execControlAccessSet_sound (h : CmdHdr) (enableMask : Nat) (locations : List Nat) (s : State) (hS : s.Sound gr) :
    NextSound gr (execControlAccessSet h enableMask locations s) := by
  unfold execControlAccessSet; (repeat' split) <;> simp (maxDischargeDepth := 9) +contextual [hS]

@[simp] theorem State.readRegs_sound (p : Party) (width : Nat) (n off : Nat) (x0 : State) (hS : x0.Sound gr) :
    (State.readRegs p width n off x0).1.Sound gr := by
  induction n generalizing x0 off with
  | zero => unfold State.readRegs; first | (simp (maxDischargeDepth := 50) +contextual [hS]; done) | (simp_all (maxDischargeDepth := 50) +contextual [pair_iff]; done)
  | succ n ih =>
    unfold State.readRegs
    try dsimp only
    (repeat' split) <;> first | (simp (maxDischargeDepth := 50) +contextual [hS , ih]; done) | (simp_all (maxDischargeDepth := 50) +contextual [pair_iff]; done) | (refine foldl_sound ?_ (by first | (simp (maxDischargeDepth := 50) +contextual [hS , ih]; done) | (simp_all (maxDischargeDepth := 50) +contextual [pair_iff]; done)); intro s' x' hs'; (try dsimp only); (repeat' split) <;> (first | (simp (maxDischargeDepth := 50) +contextual [hS , ih]; done) | (simp_all (maxDischargeDepth := 50) +contextual [pair_iff]; done)))

@[simp] theorem execRegisterRead_sound (h : CmdHdr) (width offset count : Nat) (s : State) (hS : s.Sound gr) :
    NextSound gr (execRegisterRead h width offset count s) := by
  unfold execRegisterRead; (repeat' split) <;> simp (maxDischargeDepth := 9) +contextual [hS]

@[simp] theorem execRegisterWrite_sound (h : CmdHdr) (width offset value : Nat) (s : State) (hS : s.Sound gr) :
    NextSound gr (execRegisterWrite h width offset value s) := by
  unfold execRegisterWrite; (repeat' split) <;> simp (maxDischargeDepth := 9) +contextual [hS]

@[simp] theorem State.judgeSensor_sound (s : State) (i : Nat) (x : Sensor) (hS : s.Sound gr) :
    (State.judgeSensor s i x).Sound gr := by
  unfold State.judgeSensor; (repeat' split) <;> simp (maxDischargeDepth := 9) +contextual [hS]

@[simp] theorem execTelemetryRead_sound (h : CmdHdr) (s : State) (hS : s.Sound gr) :
    NextSound gr (execTelemetryRead h s) := by
  unfold execTelemetryRead; (repeat' split) <;> simp (maxDischargeDepth := 9) +contextual [hS]

@[simp] theorem execTelemetryThresholdSet_sound (h : CmdHdr) (sensor warn : Nat) (s : State) (hS : s.Sound gr) :
    NextSound gr (execTelemetryThresholdSet h sensor warn s) := by
  unfold execTelemetryThresholdSet; (repeat' split) <;> simp (maxDischargeDepth := 9) +contextual [hS]

@[simp] theorem execFaultSeveritySet_sound (h : CmdHdr) (source severity : Nat) (s : State) (hS : s.Sound gr) :
    NextSound gr (execFaultSeveritySet h source severity s) := by
  unfold execFaultSeveritySet; (repeat' split) <;> simp (maxDischargeDepth := 9) +contextual [hS]

@[simp] theorem execFaultStatusRead_sound (h : CmdHdr) (s : State) (hS : s.Sound gr) :
    NextSound gr (execFaultStatusRead h s) := by
  unfold execFaultStatusRead; (repeat' split) <;> simp (maxDischargeDepth := 9) +contextual [hS]

@[simp] theorem execFaultClear_sound (h : CmdHdr) (source : Nat) (s : State) (hS : s.Sound gr) :
    NextSound gr (execFaultClear h source s) := by
  unfold execFaultClear; (repeat' split) <;> simp (maxDischargeDepth := 9) +contextual [hS]

@[simp] theorem execEventRouteSet_sound (h : CmdHdr) (event ring enable : Nat) (s : State) (hS : s.Sound gr) :
    NextSound gr (execEventRouteSet h event ring enable s) := by
  unfold execEventRouteSet
  try dsimp only
  (repeat' split) <;> first | (rw [next_sound]; refine State.command_sound _ _ _ hS ?_; intro s' hs'; (try dsimp only); (repeat' split) <;> (first | (simp (maxDischargeDepth := 50) +contextual [hS , hs']; done) | (simp_all (maxDischargeDepth := 50) +contextual [pair_iff]; done))) | first | (simp (maxDischargeDepth := 50) +contextual [hS]; done) | (simp_all (maxDischargeDepth := 50) +contextual [pair_iff]; done) | (refine foldl_sound ?_ (by first | (simp (maxDischargeDepth := 50) +contextual [hS]; done) | (simp_all (maxDischargeDepth := 50) +contextual [pair_iff]; done)); intro s' x' hs'; (try dsimp only); (repeat' split) <;> (first | (simp (maxDischargeDepth := 50) +contextual [hS]; done) | (simp_all (maxDischargeDepth := 50) +contextual [pair_iff]; done)))

@[simp] theorem execViolationLogRead_sound (h : CmdHdr) (first count : Nat) (s : State) (hS : s.Sound gr) :
    NextSound gr (execViolationLogRead h first count s) := by
  unfold execViolationLogRead; (repeat' split) <;> simp (maxDischargeDepth := 9) +contextual [hS]

@[simp] theorem State.containPort_sound (s : State) (p : Nat) (hS : s.Sound gr) :
    (State.containPort s p).Sound gr := by
  unfold State.containPort; dsimp only; (repeat' split) <;> simp (maxDischargeDepth := 9) +contextual [hS]

@[simp] theorem State.containEngine_sound (s : State) (n : Nat) (hS : s.Sound gr) :
    (State.containEngine s n).Sound gr := by
  unfold State.containEngine; (repeat' split) <;> simp (maxDischargeDepth := 9) +contextual [hS]

@[simp] theorem State.containHostPort_sound (s : State) (p : Nat) (hS : s.Sound gr) :
    (State.containHostPort s p).Sound gr := by
  unfold State.containHostPort; simp [hS]

@[simp] theorem State.containFn_sound (s : State) (a f : Nat) (hS : s.Sound gr) :
    (State.containFn s a f).Sound gr := by
  unfold State.containFn; (repeat' split) <;> simp [hS]

@[simp] theorem State.contain_sound (s : State) (i : FaultInfo) (again : Bool) (hS : s.Sound gr) :
    (State.contain s i again).Sound gr := by
  unfold State.contain; (repeat' split) <;> simp (maxDischargeDepth := 9) +contextual [hS]

@[simp] theorem State.degradePort_sound (s : State) (p : Nat) (hS : s.Sound gr) :
    (State.degradePort s p).Sound gr := by
  unfold State.degradePort; (repeat' split) <;> simp [hS]

@[simp] theorem State.degradeEngine_sound (s : State) (n : Nat) (hS : s.Sound gr) :
    (State.degradeEngine s n).Sound gr := by
  unfold State.degradeEngine; simp [hS]

@[simp] theorem State.degradeHostPort_sound (s : State) (p : Nat) (hS : s.Sound gr) :
    (State.degradeHostPort s p).Sound gr := by
  unfold State.degradeHostPort; simp [hS]

@[simp] theorem State.degradeBlock_sound (s : State) (i : Nat) (hS : s.Sound gr) :
    (State.degradeBlock s i).Sound gr := by
  unfold State.degradeBlock; simp [hS]

@[simp] theorem State.degradeBank_sound (s : State) (b : Nat) (hS : s.Sound gr) :
    (State.degradeBank s b).Sound gr := by
  unfold State.degradeBank; simp [hS]

@[simp] theorem State.degrade_sound (s : State) (i : FaultInfo) (hS : s.Sound gr) :
    (State.degrade s i).Sound gr := by
  unfold State.degrade; (repeat' split) <;> simp (maxDischargeDepth := 9) +contextual [hS]

@[simp] theorem State.loseCell_sound (s : State) (address : Nat) (hS : s.Sound gr) :
    (State.loseCell s address).Sound gr := by
  unfold State.loseCell; simp [hS]

@[simp] theorem State.beginTakeover_sound (s : State) (hS : s.Sound gr) :
    (State.beginTakeover s).Sound gr := by
  unfold State.beginTakeover; simp [hS]

@[simp] theorem State.react_sound (s : State) (i : FaultInfo) (again : Bool) (x0 : Severity) (hS : s.Sound gr) :
    (State.react s i again x0).Sound gr := by
  unfold State.react; (repeat' split) <;> simp [hS]

@[simp] theorem State.assertFault_sound (s : State) (i : FaultInfo) (hS : s.Sound gr) :
    (State.assertFault s i).Sound gr := by
  unfold State.assertFault; (repeat' split) <;> simp (maxDischargeDepth := 9) +contextual [hS]

@[simp] theorem execFaultAssert_sound (info : FaultInfo) (s : State) (hS : s.Sound gr) :
    NextSound gr (execFaultAssert info s) := by
  unfold execFaultAssert; simp [hS]

@[simp] theorem execCollectorSelfFault_sound (failedWord : Nat) (s : State) (hS : s.Sound gr) :
    NextSound gr (execCollectorSelfFault failedWord s) := by
  unfold execCollectorSelfFault; (repeat' split) <;> simp [hS]

@[simp] theorem execHaltLanesPowerDown_sound (s : State) (hS : s.Sound gr) :
    NextSound gr (execHaltLanesPowerDown s) := by
  unfold execHaltLanesPowerDown; (repeat' split) <;> simp [hS]

@[simp] theorem State.programPage_sound (s : State) (block page region flags : Nat) (rest : List Byte) (recs : List JRec) (hS : s.Sound gr) :
    (State.programPage s block page region flags rest recs).Sound gr := by
  unfold State.programPage; simp [hS]

@[simp] theorem execHaltRecordWrite_sound (s : State) (hS : s.Sound gr) :
    NextSound gr (execHaltRecordWrite s) := by
  unfold execHaltRecordWrite; (repeat' split) <;> simp (maxDischargeDepth := 9) +contextual [hS]

@[simp] theorem execDegradeDrainComplete_sound (source : Nat) (s : State) (hS : s.Sound gr) :
    NextSound gr (execDegradeDrainComplete source s) := by
  unfold execDegradeDrainComplete; dsimp only; (repeat' split) <;> simp (maxDischargeDepth := 9) +contextual [hS]

@[simp] theorem execBankRetire_sound (bank : Nat) (s : State) (hS : s.Sound gr) :
    NextSound gr (execBankRetire bank s) := by
  unfold execBankRetire; (repeat' split) <;> simp [hS]

@[simp] theorem State.spareRow_sound (s : State) (bank row : Nat) (hS : s.Sound gr) :
    (State.spareRow s bank row).Sound gr := by
  unfold State.spareRow; simp [hS]

@[simp] theorem execSramScrub_sound (bank row corrected : Nat) (s : State) (hS : s.Sound gr) :
    NextSound gr (execSramScrub bank row corrected s) := by
  unfold execSramScrub; (repeat' split) <;> simp (maxDischargeDepth := 9) +contextual [hS]

@[simp] theorem State.repairRow_sound (s : State) (stack row : Nat) (hS : s.Sound gr) :
    (State.repairRow s stack row).Sound gr := by
  unfold State.repairRow; (repeat' split) <;> simp (maxDischargeDepth := 9) +contextual [hS]

@[simp] theorem execHbmScrub_sound (stack row corrected : Nat) (s : State) (hS : s.Sound gr) :
    NextSound gr (execHbmScrub stack row corrected s) := by
  unfold execHbmScrub; (repeat' split) <;> simp (maxDischargeDepth := 9) +contextual [hS]

@[simp] theorem State.resetPort_sound (s : State) (p : Nat) (hS : s.Sound gr) :
    (State.resetPort s p).Sound gr := by
  unfold State.resetPort; simp [hS]

@[simp] theorem execBlockReset_sound (h : CmdHdr) (kind index : Nat) (s : State) (hS : s.Sound gr) :
    NextSound gr (execBlockReset h kind index s) := by
  unfold execBlockReset
  try dsimp only
  (repeat' split) <;> first | (rw [next_sound]; refine State.workCommand_sound _ _ _ hS ?_; intro s' hs'; (try dsimp only); (repeat' split) <;> (first | (simp (maxDischargeDepth := 50) +contextual [hS , hs']; done) | (simp_all (maxDischargeDepth := 50) +contextual [pair_iff]; done))) | first | (simp (maxDischargeDepth := 50) +contextual [hS]; done) | (simp_all (maxDischargeDepth := 50) +contextual [pair_iff]; done) | (refine foldl_sound ?_ (by first | (simp (maxDischargeDepth := 50) +contextual [hS]; done) | (simp_all (maxDischargeDepth := 50) +contextual [pair_iff]; done)); intro s' x' hs'; (try dsimp only); (repeat' split) <;> (first | (simp (maxDischargeDepth := 50) +contextual [hS]; done) | (simp_all (maxDischargeDepth := 50) +contextual [pair_iff]; done)))

@[simp] theorem State.endJournal_sound (s : State) (h : CmdHdr) (st : Status) (detail : Nat) (payload : List Byte) (hS : s.Sound gr) :
    (State.endJournal s h st detail payload).Sound gr := by
  unfold State.endJournal; simp [hS]

@[simp] theorem State.setFwSlot_sound (s : State) (i : Nat) (x : Slot) (hS : s.Sound gr) :
    (State.setFwSlot s i x).Sound gr := by
  unfold State.setFwSlot; simp [hS]

@[simp] theorem State.verifyStage_sound (s : State) (h : CmdHdr) (failed : Bool) (hS : s.Sound gr) :
    (State.verifyStage s h failed).Sound gr := by
  unfold State.verifyStage; (repeat' split) <;> simp [hS]

@[simp] theorem State.verifySlot_sound (s : State) (h : CmdHdr) (slot : Nat) (failed : Bool) (hS : s.Sound gr) :
    (State.verifySlot s h slot failed).Sound gr := by
  unfold State.verifySlot; (repeat' split) <;> simp (maxDischargeDepth := 9) +contextual [hS]

@[simp] theorem State.journalDone_sound (s : State) (w : Waiting) (hS : s.Sound gr) :
    (State.journalDone s w).Sound gr := by
  unfold State.journalDone; (repeat' split) <;> simp [hS]

@[simp] theorem State.journalAnswer_sound (s : State) (h : CmdHdr) (failed : Bool) (hS : s.Sound gr) :
    (State.journalAnswer s h failed).Sound gr := by
  unfold State.journalAnswer; (repeat' split) <;> simp [hS]

@[simp] theorem State.journalAnswers_sound (fuel : Nat) (x0 : State) (hS : x0.Sound gr) :
    (State.journalAnswers fuel x0).Sound gr := by
  induction fuel generalizing x0 with
  | zero => unfold State.journalAnswers; first | (simp (maxDischargeDepth := 50) +contextual [hS]; done) | (simp_all (maxDischargeDepth := 50) +contextual [pair_iff]; done)
  | succ n ih =>
    unfold State.journalAnswers
    try dsimp only
    (repeat' split) <;> first | (simp (maxDischargeDepth := 50) +contextual [hS , ih]; done) | (simp_all (maxDischargeDepth := 50) +contextual [pair_iff]; done) | (refine foldl_sound ?_ (by first | (simp (maxDischargeDepth := 50) +contextual [hS , ih]; done) | (simp_all (maxDischargeDepth := 50) +contextual [pair_iff]; done)); intro s' x' hs'; (try dsimp only); (repeat' split) <;> (first | (simp (maxDischargeDepth := 50) +contextual [hS , ih]; done) | (simp_all (maxDischargeDepth := 50) +contextual [pair_iff]; done)))

@[simp] theorem State.journalSettle_sound (s : State) (hS : s.Sound gr) :
    (State.journalSettle s).Sound gr := by
  unfold State.journalSettle; (repeat' split) <;> simp [hS]

@[simp] theorem State.journalRunCmd_sound (s : State) (opcode : Nat) (h : CmdHdr) (ops : List JOp) (hS : s.Sound gr) :
    ResSound gr (State.journalRunCmd s opcode h ops) := by
  unfold State.journalRunCmd; (repeat' split) <;> simp (maxDischargeDepth := 9) +contextual [hS]

@[simp] theorem State.journalCommand_sound (s : State) (i : Instr) (body : State → CmdResult) (hS : s.Sound gr) (h_body : ∀ y0, State.Sound y0 gr → ResSound gr (body y0)) :
    (State.journalCommand s i body).Sound gr := by
  unfold State.journalCommand; (repeat' split) <;> simp (maxDischargeDepth := 9) +contextual [hS, h_body]

@[simp] theorem execConfigSave_sound (h : CmdHdr) (flags : Nat) (s : State) (hS : s.Sound gr) :
    NextSound gr (execConfigSave h flags s) := by
  unfold execConfigSave; (repeat' split) <;> simp (maxDischargeDepth := 9) +contextual [hS]

@[simp] theorem execJournalRead_sound (h : CmdHdr) (region count record offset : Nat) (s : State) (hS : s.Sound gr) :
    NextSound gr (execJournalRead h region count record offset s) := by
  unfold execJournalRead; (repeat' split) <;> simp (maxDischargeDepth := 9) +contextual [hS]

@[simp] theorem execJournalMark_sound (h : CmdHdr) (note : List Byte) (s : State) (hS : s.Sound gr) :
    NextSound gr (execJournalMark h note s) := by
  unfold execJournalMark; (repeat' split) <;> simp (maxDischargeDepth := 9) +contextual [hS]

@[simp] theorem execEvidenceHold_sound (h : CmdHdr) (enable : Nat) (s : State) (hS : s.Sound gr) :
    NextSound gr (execEvidenceHold h enable s) := by
  unfold execEvidenceHold
  try dsimp only
  (repeat' split) <;> first | (rw [next_sound]; refine State.journalCommand_sound _ _ _ hS ?_; intro s' hs'; (try dsimp only); (repeat' split) <;> (first | (simp (maxDischargeDepth := 50) +contextual [hS , hs']; done) | (simp_all (maxDischargeDepth := 50) +contextual [pair_iff]; done))) | first | (simp (maxDischargeDepth := 50) +contextual [hS]; done) | (simp_all (maxDischargeDepth := 50) +contextual [pair_iff]; done) | (refine foldl_sound ?_ (by first | (simp (maxDischargeDepth := 50) +contextual [hS]; done) | (simp_all (maxDischargeDepth := 50) +contextual [pair_iff]; done)); intro s' x' hs'; (try dsimp only); (repeat' split) <;> (first | (simp (maxDischargeDepth := 50) +contextual [hS]; done) | (simp_all (maxDischargeDepth := 50) +contextual [pair_iff]; done)))

@[simp] theorem execFwQuery_sound (h : CmdHdr) (s : State) (hS : s.Sound gr) :
    NextSound gr (execFwQuery h s) := by
  unfold execFwQuery; (repeat' split) <;> simp (maxDischargeDepth := 9) +contextual [hS]

@[simp] theorem execFwStageBegin_sound (h : CmdHdr) (slot length : Nat) (s : State) (hS : s.Sound gr) :
    NextSound gr (execFwStageBegin h slot length s) := by
  unfold execFwStageBegin; (repeat' split) <;> simp (maxDischargeDepth := 9) +contextual [hS]

@[simp] theorem execFwStageData_sound (h : CmdHdr) (offset : Nat) (data : List Byte) (s : State) (hS : s.Sound gr) :
    NextSound gr (execFwStageData h offset data s) := by
  unfold execFwStageData
  try dsimp only
  (repeat' split) <;> first | (rw [next_sound]; refine State.journalCommand_sound _ _ _ hS ?_; intro s' hs'; (try dsimp only); (repeat' split) <;> (first | (simp (maxDischargeDepth := 50) +contextual [hS , hs']; done) | (simp_all (maxDischargeDepth := 50) +contextual [pair_iff]; done))) | first | (simp (maxDischargeDepth := 50) +contextual [hS]; done) | (simp_all (maxDischargeDepth := 50) +contextual [pair_iff]; done) | (refine foldl_sound ?_ (by first | (simp (maxDischargeDepth := 50) +contextual [hS]; done) | (simp_all (maxDischargeDepth := 50) +contextual [pair_iff]; done)); intro s' x' hs'; (try dsimp only); (repeat' split) <;> (first | (simp (maxDischargeDepth := 50) +contextual [hS]; done) | (simp_all (maxDischargeDepth := 50) +contextual [pair_iff]; done)))

@[simp] theorem execFwStageEnd_sound (h : CmdHdr) (s : State) (hS : s.Sound gr) :
    NextSound gr (execFwStageEnd h s) := by
  unfold execFwStageEnd; (repeat' split) <;> simp (maxDischargeDepth := 9) +contextual [hS]

@[simp] theorem execFwStageAbort_sound (h : CmdHdr) (s : State) (hS : s.Sound gr) :
    NextSound gr (execFwStageAbort h s) := by
  unfold execFwStageAbort; (repeat' split) <;> simp (maxDischargeDepth := 9) +contextual [hS]

@[simp] theorem execFwActivate_sound (h : CmdHdr) (slot : Nat) (s : State) (hS : s.Sound gr) :
    NextSound gr (execFwActivate h slot s) := by
  unfold execFwActivate; (repeat' split) <;> simp (maxDischargeDepth := 9) +contextual [hS]

@[simp] theorem execFwBootSlotSet_sound (h : CmdHdr) (slot : Nat) (s : State) (hS : s.Sound gr) :
    NextSound gr (execFwBootSlotSet h slot s) := by
  unfold execFwBootSlotSet; (repeat' split) <;> simp (maxDischargeDepth := 9) +contextual [hS]

@[simp] theorem execMakerProcedure_sound (h : CmdHdr) (procedure : List Byte) (s : State) (hS : s.Sound gr) :
    NextSound gr (execMakerProcedure h procedure s) := by
  unfold execMakerProcedure; (repeat' split) <;> simp [hS]

@[simp] theorem State.copyBlock_sound (s : State) (src dst : Nat) (hS : s.Sound gr) :
    (State.copyBlock s src dst).Sound gr := by
  unfold State.copyBlock; (repeat' split) <;> simp (maxDischargeDepth := 9) +contextual [hS]

@[simp] theorem State.imagePage_sound (s : State) (g : Stage) (first : Bool) (i : Nat) (hS : s.Sound gr) :
    (State.imagePage s g first i).Sound gr := by
  unfold State.imagePage
  try dsimp only
  (repeat' split) <;> first | (simp (maxDischargeDepth := 50) +contextual [hS]; done) | (simp_all (maxDischargeDepth := 50) +contextual [pair_iff]; done) | (refine foldl_sound ?_ (by first | (simp (maxDischargeDepth := 50) +contextual [hS]; done) | (simp_all (maxDischargeDepth := 50) +contextual [pair_iff]; done)); intro s' x' hs'; (try dsimp only); (repeat' split) <;> (first | (simp (maxDischargeDepth := 50) +contextual [hS]; done) | (simp_all (maxDischargeDepth := 50) +contextual [pair_iff]; done)))

@[simp] theorem State.imagePages_sound (s : State) (h g : Stage) (rest : Bool) (hS : s.Sound gr) :
    (State.imagePages s h g rest).Sound gr := by
  unfold State.imagePages
  try dsimp only
  (repeat' split) <;> first | (simp (maxDischargeDepth := 50) +contextual [hS]; done) | (simp_all (maxDischargeDepth := 50) +contextual [pair_iff]; done) | (refine foldl_sound ?_ (by first | (simp (maxDischargeDepth := 50) +contextual [hS]; done) | (simp_all (maxDischargeDepth := 50) +contextual [pair_iff]; done)); intro s' x' hs'; (try dsimp only); (repeat' split) <;> (first | (simp (maxDischargeDepth := 50) +contextual [hS]; done) | (simp_all (maxDischargeDepth := 50) +contextual [pair_iff]; done)))

@[simp] theorem State.configPage_sound (s : State) (flags : Nat) (hS : s.Sound gr) :
    (State.configPage s flags).Sound gr := by
  unfold State.configPage
  try dsimp only
  (repeat' split) <;> first | (simp (maxDischargeDepth := 50) +contextual [hS]; done) | (simp_all (maxDischargeDepth := 50) +contextual [pair_iff]; done) | (refine foldl_sound ?_ (by first | (simp (maxDischargeDepth := 50) +contextual [hS]; done) | (simp_all (maxDischargeDepth := 50) +contextual [pair_iff]; done)); intro s' x' hs'; (try dsimp only); (repeat' split) <;> (first | (simp (maxDischargeDepth := 50) +contextual [hS]; done) | (simp_all (maxDischargeDepth := 50) +contextual [pair_iff]; done)))

@[simp] theorem State.pulseDone_sound (s : State) (o : JOp) (hS : s.Sound gr) :
    (State.pulseDone s o).Sound gr := by
  unfold State.pulseDone; (repeat' split) <;> simp [hS]

@[simp] theorem State.pulseFailed_sound (s : State) (o : JOp) (hS : s.Sound gr) :
    (State.pulseFailed s o).Sound gr := by
  unfold State.pulseFailed
  generalize List.replicate 4096 0xFF#8 = z
  dsimp only
  have h : ((State.evidence { s with jr := s.jr.growBad (s.jr.blockOf o) } 0x50054).emit (.program (s.jr.blockOf o) 0 z badMark)).Sound gr := by
    simp [hS]
  split
  · exact State.faultOf_sound _ _ h
  · exact h

@[simp] theorem execJournalPulseComplete_sound (ok : Bool) (s : State) (hS : s.Sound gr) :
    NextSound gr (execJournalPulseComplete ok s) := by
  unfold execJournalPulseComplete; dsimp only; (repeat' split) <;> simp (maxDischargeDepth := 9) +contextual [hS]

@[simp] theorem State.losePage_sound (s : State) (i : Nat) (hS : s.Sound gr) :
    (State.losePage s i).Sound gr := by
  unfold State.losePage
  try dsimp only
  (repeat' split) <;> first | (simp (maxDischargeDepth := 50) +contextual [hS]; done) | (simp_all (maxDischargeDepth := 50) +contextual [pair_iff]; done) | (refine foldl_sound ?_ (by first | (simp (maxDischargeDepth := 50) +contextual [hS]; done) | (simp_all (maxDischargeDepth := 50) +contextual [pair_iff]; done)); intro s' x' hs'; (try dsimp only); (repeat' split) <;> (first | (simp (maxDischargeDepth := 50) +contextual [hS]; done) | (simp_all (maxDischargeDepth := 50) +contextual [pair_iff]; done)))

@[simp] theorem State.losePages_sound (s : State) (p : JPage → Bool) (n : Nat) (hS : s.Sound gr) :
    (State.losePages s p n).Sound gr := by
  induction n generalizing s with
  | zero => unfold State.losePages; first | (simp (maxDischargeDepth := 50) +contextual [hS]; done) | (simp_all (maxDischargeDepth := 50) +contextual [pair_iff]; done)
  | succ n ih =>
    unfold State.losePages
    try dsimp only
    (repeat' split) <;> first | (simp (maxDischargeDepth := 50) +contextual [hS , ih]; done) | (simp_all (maxDischargeDepth := 50) +contextual [pair_iff]; done) | (refine foldl_sound ?_ (by first | (simp (maxDischargeDepth := 50) +contextual [hS , ih]; done) | (simp_all (maxDischargeDepth := 50) +contextual [pair_iff]; done)); intro s' x' hs'; (try dsimp only); (repeat' split) <;> (first | (simp (maxDischargeDepth := 50) +contextual [hS , ih]; done) | (simp_all (maxDischargeDepth := 50) +contextual [pair_iff]; done)))

@[simp] theorem State.readSpoilt_sound (s : State) (uncorrectable : Nat) (hS : s.Sound gr) :
    (State.readSpoilt s uncorrectable).Sound gr := by
  unfold State.readSpoilt
  try dsimp only
  (repeat' split) <;> first | (simp (maxDischargeDepth := 50) +contextual [hS]; done) | (simp_all (maxDischargeDepth := 50) +contextual [pair_iff]; done) | (refine foldl_sound ?_ (by first | (simp (maxDischargeDepth := 50) +contextual [hS]; done) | (simp_all (maxDischargeDepth := 50) +contextual [pair_iff]; done)); intro s' x' hs'; (try dsimp only); (repeat' split) <;> (first | (simp (maxDischargeDepth := 50) +contextual [hS]; done) | (simp_all (maxDischargeDepth := 50) +contextual [pair_iff]; done)))

@[simp] theorem execJournalPageReadComplete_sound (mains spares : List (List Byte)) (s : State) (hS : s.Sound gr) :
    NextSound gr (execJournalPageReadComplete mains spares s) := by
  unfold execJournalPageReadComplete; (repeat' split) <;> simp (maxDischargeDepth := 9) +contextual [hS]

@[simp] theorem execEvidencePageFlush_sound (s : State) (hS : s.Sound gr) :
    NextSound gr (execEvidencePageFlush s) := by
  unfold execEvidencePageFlush; (repeat' split) <;> simp [hS]

@[simp] theorem execAnchorHourlyWrite_sound (s : State) (hS : s.Sound gr) :
    NextSound gr (execAnchorHourlyWrite s) := by
  unfold execAnchorHourlyWrite; (repeat' split) <;> simp [hS]

@[simp] theorem State.loseSectors_sound (s : State) (block : Nat) (pages : List Nat) (hS : s.Sound gr) :
    (State.loseSectors s block pages).Sound gr := by
  unfold State.loseSectors; (repeat' split) <;> simp [hS]

@[simp] theorem State.refreshBlock_sound (s : State) (b : Nat) (hS : s.Sound gr) :
    (State.refreshBlock s b).Sound gr := by
  unfold State.refreshBlock; (repeat' split) <;> simp [hS]

@[simp] theorem execJournalPatrol_sound (block page : Nat) (mains spares : List (List Byte)) (s : State) (hS : s.Sound gr) :
    NextSound gr (execJournalPatrol block page mains spares s) := by
  unfold execJournalPatrol; (repeat' split) <;> simp (maxDischargeDepth := 9) +contextual [hS]

@[simp] theorem State.sendForward_sound (s : State) (t : Nat) (x : Forward) (hS : s.Sound gr) :
    (State.sendForward s t x).Sound gr := by
  unfold State.sendForward; simp [hS]

@[simp] theorem State.beginForward_sound (s : State) (location : Nat) (packet : List Byte) (hS : s.Sound gr) :
    (State.beginForward s location packet).1.Sound gr := by
  unfold State.beginForward; simp [hS]

@[simp] theorem execCommandForward_sound (h : CmdHdr) (location : Nat) (packet : List Byte) (s : State) (hS : s.Sound gr) :
    NextSound gr (execCommandForward h location packet s) := by
  unfold execCommandForward; (repeat' split) <;> simp (maxDischargeDepth := 9) +contextual [hS]

@[simp] theorem execCommandForwardResend_sound (transfer : Nat) (s : State) (hS : s.Sound gr) :
    NextSound gr (execCommandForwardResend transfer s) := by
  unfold execCommandForwardResend; (repeat' split) <;> simp [hS]

@[simp] theorem State.endForward_sound (s : State) (t : Nat) (st : Status) (payload : List Byte) (hS : s.Sound gr) :
    (State.endForward s t st payload).Sound gr := by
  unfold State.endForward; simp [hS]

@[simp] theorem execCommandForwardTimeout_sound (transfer : Nat) (s : State) (hS : s.Sound gr) :
    NextSound gr (execCommandForwardTimeout transfer s) := by
  unfold execCommandForwardTimeout; (repeat' split) <;> simp [hS]

@[simp] theorem execDeviceReset_sound (h : CmdHdr) (s : State) (hS : s.Sound gr) :
    NextSound gr (execDeviceReset h s) := by
  unfold execDeviceReset; (repeat' split) <;> simp (maxDischargeDepth := 9) +contextual [hS]

@[simp] theorem runSetting_sound (i : Instr) (x0 : State) (hS : x0.Sound gr) :
    NextSound gr (runSetting i x0) := by
  unfold runSetting; (repeat' split) <;> simp [hS]

@[simp] theorem nextOr_sound (s : State) (o : Host.Outcome State Fault Refusal) (hS : s.Sound gr) (ho : NextSound gr o) :
    (nextOr s o).Sound gr := by
  cases o <;> simp_all [nextOr]

@[simp] theorem State.createPfs_sound (s : State) (hS : s.Sound gr) :
    (State.createPfs s).Sound gr := by
  unfold State.createPfs; (repeat' split) <;> simp (maxDischargeDepth := 9) +contextual [hS]

@[simp] theorem State.replayRest_sound (s : State) (hS : s.Sound gr) :
    (State.replayRest s).Sound gr := by
  unfold State.replayRest; (repeat' split) <;> simp (maxDischargeDepth := 9) +contextual [hS]

@[simp] theorem State.serveRecorded_sound (s : State) (hS : s.Sound gr) :
    (State.serveRecorded s).Sound gr := by
  unfold State.serveRecorded; (repeat' split) <;> simp (maxDischargeDepth := 9) +contextual [hS]

@[simp] theorem State.wakeLinks_sound (s : State) (hS : s.Sound gr) :
    (State.wakeLinks s).Sound gr := by
  unfold State.wakeLinks; (repeat' split) <;> simp (maxDischargeDepth := 9) +contextual [hS]

@[simp] theorem State.sleepLinks_sound (s : State) (hS : s.Sound gr) :
    (State.sleepLinks s).Sound gr := by
  unfold State.sleepLinks; (repeat' split) <;> simp (maxDischargeDepth := 9) +contextual [hS]

@[simp] theorem State.enterService_sound (s : State) (hS : s.Sound gr) :
    (State.enterService s).Sound gr := by
  unfold State.enterService; dsimp only; (repeat' split) <;> simp (maxDischargeDepth := 9) +contextual [hS]

@[simp] theorem State.enterHeath_sound (s : State) (hS : s.Sound gr) :
    (State.enterHeath s).Sound gr := by
  unfold State.enterHeath; simp [hS]

@[simp] theorem State.toService_sound (s : State) (h : CmdHdr) (hS : s.Sound gr) :
    ResSound gr (State.toService s h) := by
  unfold State.toService; (repeat' split) <;> simp (maxDischargeDepth := 9) +contextual [hS]

@[simp] theorem State.toDrain_sound (s : State) (h : CmdHdr) (hS : s.Sound gr) :
    ResSound gr (State.toDrain s h) := by
  unfold State.toDrain; (repeat' split) <;> simp [hS]

@[simp] theorem State.toHeath_sound (s : State) (hS : s.Sound gr) :
    ResSound gr (State.toHeath s) := by
  unfold State.toHeath; (repeat' split) <;> simp (maxDischargeDepth := 9) +contextual [hS]

@[simp] theorem execModeSet_sound (h : CmdHdr) (mode : Nat) (s : State) (hS : s.Sound gr) :
    NextSound gr (execModeSet h mode s) := by
  unfold execModeSet
  try dsimp only
  (repeat' split) <;> first | (rw [next_sound]; refine State.workCommand_sound _ _ _ hS ?_; intro s' hs'; (try dsimp only); (repeat' split) <;> (first | (simp (maxDischargeDepth := 50) +contextual [hS , hs']; done) | (simp_all (maxDischargeDepth := 50) +contextual [pair_iff]; done))) | first | (simp (maxDischargeDepth := 50) +contextual [hS]; done) | (simp_all (maxDischargeDepth := 50) +contextual [pair_iff]; done) | (refine foldl_sound ?_ (by first | (simp (maxDischargeDepth := 50) +contextual [hS]; done) | (simp_all (maxDischargeDepth := 50) +contextual [pair_iff]; done)); intro s' x' hs'; (try dsimp only); (repeat' split) <;> (first | (simp (maxDischargeDepth := 50) +contextual [hS]; done) | (simp_all (maxDischargeDepth := 50) +contextual [pair_iff]; done)))

@[simp] theorem execDrainComplete_sound (s : State) (hS : s.Sound gr) :
    NextSound gr (execDrainComplete s) := by
  unfold execDrainComplete; (repeat' split) <;> simp [hS]

@[simp] theorem State.setStage_sound (s : State) (st : BootStage) (hS : s.Sound gr) :
    (State.setStage s st).Sound gr := by
  unfold State.setStage; simp [hS]

@[simp] theorem State.endStrap_sound (s : State) (hS : s.Sound gr) :
    (State.endStrap s).Sound gr := by
  unfold State.endStrap; dsimp only; (repeat' split) <;> simp (maxDischargeDepth := 9) +contextual [hS]

@[simp] theorem State.endPll_sound (s : State) (hS : s.Sound gr) :
    (State.endPll s).Sound gr := by
  unfold State.endPll; (repeat' split) <;> simp (maxDischargeDepth := 9) +contextual [hS]

@[simp] theorem State.bootFails_sound (s : State) (hS : s.Sound gr) :
    (State.bootFails s).Sound gr := by
  unfold State.bootFails; simp [hS]

@[simp] theorem State.endBoot_sound (s : State) (hS : s.Sound gr) :
    (State.endBoot s).Sound gr := by
  unfold State.endBoot; dsimp only; (repeat' split) <;> simp (maxDischargeDepth := 9) +contextual [hS]

@[simp] theorem State.endHbm_sound (s : State) (hS : s.Sound gr) :
    (State.endHbm s).Sound gr := by
  unfold State.endHbm; simp [hS]

@[simp] theorem State.trainLinks_sound (s : State) (hS : s.Sound gr) :
    (State.trainLinks s).Sound gr := by
  unfold State.trainLinks; (repeat' split) <;> simp (maxDischargeDepth := 9) +contextual [hS]

@[simp] theorem State.resetRecord_sound (s : State) (hS : s.Sound gr) :
    (State.resetRecord s).Sound gr := by
  unfold State.resetRecord; simp [hS]

@[simp] theorem State.endConfig_sound (s : State) (hS : s.Sound gr) :
    (State.endConfig s).Sound gr := by
  unfold State.endConfig; (repeat' split) <;> simp (maxDischargeDepth := 9) +contextual [hS]

@[simp] theorem State.endStage_sound (s : State) (hS : s.Sound gr) :
    (State.endStage s).Sound gr := by
  unfold State.endStage; (repeat' split) <;> simp (maxDischargeDepth := 9) +contextual [hS]

@[simp] theorem execBringupStageComplete_sound (s : State) (hS : s.Sound gr) :
    NextSound gr (execBringupStageComplete s) := by
  unfold execBringupStageComplete; simp [hS]

@[simp] theorem execPllLockRetry_sound (locked : Bool) (s : State) (hS : s.Sound gr) :
    NextSound gr (execPllLockRetry locked s) := by
  unfold execPllLockRetry; (repeat' split) <;> simp [hS]

@[simp] theorem State.wakeFails_sound (s : State) (hS : s.Sound gr) :
    (State.wakeFails s).Sound gr := by
  unfold State.wakeFails; simp [hS]

@[simp] theorem execAvsAdjust_sound (target : Nat) (acked : Bool) (readback : Nat) (s : State) (hS : s.Sound gr) :
    NextSound gr (execAvsAdjust target acked readback s) := by
  unfold execAvsAdjust; (repeat' split) <;> simp (maxDischargeDepth := 9) +contextual [hS]

@[simp] theorem execPmbAlert_sound (s : State) (hS : s.Sound gr) :
    NextSound gr (execPmbAlert s) := by
  unfold execPmbAlert; simp [hS]

@[simp] theorem execTelemetrySample_sound (sensor : Nat) (value : Int) (s : State) (hS : s.Sound gr) :
    NextSound gr (execTelemetrySample sensor value s) := by
  unfold execTelemetrySample; (repeat' split) <;> simp (maxDischargeDepth := 9) +contextual [hS]

@[simp] theorem runCmd_sound (i : Instr) (s : State) (hS : s.Sound gr) :
    NextSound gr (runCmd i s) := by
  unfold runCmd; (repeat' split) <;> simp [hS]

@[simp] theorem State.runHeld_sound (fuel : Nat) (x0 : State) (hS : x0.Sound gr) :
    NextSound gr (State.runHeld fuel x0) := by
  induction fuel generalizing x0 with
  | zero => exact hS
  | succ n ih =>
    unfold State.runHeld
    split
    · exact hS
    · split
      · exact hS
      · next i rest _ =>
        have hr : NextSound gr (runCmd i { x0 with cc := { x0.cc with held := rest } }) := by simp [hS]
        split
        · next e => exact ih _ (next_of hr e)
        · exact hr

@[simp] theorem State.goOn_sound (s : State) (hS : s.Sound gr) :
    NextSound gr (State.goOn s) := by
  unfold State.goOn; simp [hS]

@[simp] theorem State.oddPacket_sound (s : State) (h : CmdHdr) (b : List Byte) (k : State → State) (hS : s.Sound gr) (h_k : ∀ y0, State.Sound y0 gr → State.Sound (k y0) gr) :
    (State.oddPacket s h b k).Sound gr := by
  unfold State.oddPacket; (repeat' split) <;> simp [hS, h_k]

@[simp] theorem State.refusePacket_sound (s : State) (h : CmdHdr) (b : List Byte) (st : Status) (detail : Nat) (hS : s.Sound gr) :
    (State.refusePacket s h b st detail).Sound gr := by
  unfold State.refusePacket; (repeat' split) <;> simp (maxDischargeDepth := 9) +contextual [hS]

@[simp] theorem State.undefinedAction_sound (s : State) (c : Cmd) (b : List Byte) (hS : s.Sound gr) :
    (State.undefinedAction s c b).Sound gr := by
  unfold State.undefinedAction
  refine State.oddPacket_sound _ _ _ _ hS (fun s h => ?_)
  split <;> simp (maxDischargeDepth := 50) [h]

@[simp] theorem State.packetArrives_sound (s : State) (src : CmdSrc) (b : List Byte) (hS : s.Sound gr) :
    NextSound gr (State.packetArrives s src b) := by
  unfold State.packetArrives; dsimp only; (repeat' split) <;> simp (maxDischargeDepth := 9) +contextual [hS]

@[simp] theorem State.packetReturn_sound (s : State) (k : Nat) (d : DmaRead) (c : Completion) (hS : s.Sound gr) :
    NextSound gr (State.packetReturn s k d c) := by
  unfold State.packetReturn; (repeat' split) <;> simp (maxDischargeDepth := 9) +contextual [hS]

@[simp] theorem State.readReturn_sound (s : State) (tag : Nat) (c : Completion) (busy : Bool) (hS : s.Sound gr) :
    NextSound gr (State.readReturn s tag c busy) := by
  unfold State.readReturn; dsimp only; (repeat' split) <;> simp (maxDischargeDepth := 9) +contextual [hS]

@[simp] theorem execDmaReadCompletion_sound (tag : Nat) (c : Completion) (balerBusy : Bool) (s : State) (hS : s.Sound gr) :
    NextSound gr (execDmaReadCompletion tag c balerBusy s) := by
  unfold execDmaReadCompletion; simp [hS]

@[simp] theorem execCompletionTimeout_sound (tag : Nat) (s : State) (hS : s.Sound gr) :
    NextSound gr (execCompletionTimeout tag s) := by
  unfold execCompletionTimeout; simp [hS]

@[simp] theorem State.mctpRespond_sound (s : State) (requester tag command : Nat) (code : Nat) (data : List Byte) (hS : s.Sound gr) :
    (State.mctpRespond s requester tag command code data).Sound gr := by
  unfold State.mctpRespond; simp [hS]

@[simp] theorem execSetEndpointId_sound (requester tag eid : Nat) (s : State) (hS : s.Sound gr) :
    NextSound gr (execSetEndpointId requester tag eid s) := by
  unfold execSetEndpointId; (repeat' split) <;> simp [hS]

@[simp] theorem execGetEndpointId_sound (requester tag : Nat) (s : State) (hS : s.Sound gr) :
    NextSound gr (execGetEndpointId requester tag s) := by
  unfold execGetEndpointId; simp [hS]

@[simp] theorem execGetEndpointUuid_sound (requester tag : Nat) (s : State) (hS : s.Sound gr) :
    NextSound gr (execGetEndpointUuid requester tag s) := by
  unfold execGetEndpointUuid; simp [hS]

@[simp] theorem execGetMctpVersionSupport_sound (requester tag msgType : Nat) (s : State) (hS : s.Sound gr) :
    NextSound gr (execGetMctpVersionSupport requester tag msgType s) := by
  unfold execGetMctpVersionSupport; simp [hS]

@[simp] theorem execGetMessageTypeSupport_sound (requester tag : Nat) (s : State) (hS : s.Sound gr) :
    NextSound gr (execGetMessageTypeSupport requester tag s) := by
  unfold execGetMessageTypeSupport; simp [hS]

@[simp] theorem execGetVendorDefinedMessageSupport_sound (requester tag selector : Nat) (s : State) (hS : s.Sound gr) :
    NextSound gr (execGetVendorDefinedMessageSupport requester tag selector s) := by
  unfold execGetVendorDefinedMessageSupport; simp [hS]

@[simp] theorem execI3cEntdaa_sound (address : Nat) (s : State) (hS : s.Sound gr) :
    NextSound gr (execI3cEntdaa address s) := by
  unfold execI3cEntdaa; simp [hS]

@[simp] theorem execMctpMessageReceive_sound (requester tag : Nat) (ic : Bool) (packet : List Byte) (s : State) (hS : s.Sound gr) :
    NextSound gr (execMctpMessageReceive requester tag ic packet s) := by
  unfold execMctpMessageReceive; (repeat' split) <;> simp [hS]

@[simp] theorem State.transferDone_sound (s : State) (a : Assembly) (n : Nat) (hS : s.Sound gr) :
    NextSound gr (State.transferDone s a n) := by
  unfold State.transferDone; (repeat' split) <;> simp [hS]

@[simp] theorem State.fragment_sound (s : State) (transfer : Nat) (b : List Byte) (hS : s.Sound gr) :
    NextSound gr (State.fragment s transfer b) := by
  unfold State.fragment; dsimp only; (repeat' split) <;> simp (maxDischargeDepth := 9) +contextual [hS]

@[simp] theorem execControlCellReceive_sound (s : State) (hS : s.Sound gr) :
    NextSound gr (execControlCellReceive s) := by
  unfold execControlCellReceive; dsimp only; (repeat' split) <;> simp (maxDischargeDepth := 9) +contextual [hS]

@[simp] theorem execControlTransferTimeout_sound (source transfer : Nat) (s : State) (hS : s.Sound gr) :
    NextSound gr (execControlTransferTimeout source transfer s) := by
  unfold execControlTransferTimeout; (repeat' split) <;> simp [hS]

@[simp] theorem execResetPoint_sound (fn : Nat) (s : State) (hS : s.Sound gr) :
    NextSound gr (execResetPoint fn s) := by
  unfold execResetPoint; (repeat' split) <;> simp (maxDischargeDepth := 9) +contextual [hS]

@[simp] theorem execGenerationHoldRelease_sound (fn : Nat) (s : State) (hS : s.Sound gr) :
    NextSound gr (execGenerationHoldRelease fn s) := by
  unfold execGenerationHoldRelease; (repeat' split) <;> simp [hS]

@[simp] theorem execRevocationComplete_sound (domain id : Nat) (s : State) (hS : s.Sound gr) :
    NextSound gr (execRevocationComplete domain id s) := by
  unfold execRevocationComplete; (repeat' split) <;> simp [hS]

@[simp] theorem execRevocationHoldRelease_sound (domain id : Nat) (s : State) (hS : s.Sound gr) :
    NextSound gr (execRevocationHoldRelease domain id s) := by
  unfold execRevocationHoldRelease; (repeat' split) <;> simp [hS]

@[simp] theorem State.swapPairs_sound (s : State) (hS : s.Sound gr) :
    (State.swapPairs s).Sound gr := by
  unfold State.swapPairs; simp [hS]

@[simp] theorem execLockstepTakeoverComplete_sound (s : State) (hS : s.Sound gr) :
    NextSound gr (execLockstepTakeoverComplete s) := by
  unfold execLockstepTakeoverComplete; (repeat' split) <;> simp [hS]

@[simp] theorem State.activated_sound (s : State) (slot : Nat) (hS : s.Sound gr) :
    (State.activated s slot).Sound gr := by
  have h : ({ s with cc := { s.cc with running := slot, boot := slot }, jr := { s.jr with bootSlot := some slot },
                     minVer := maxN s.minVer (s.fwSlot slot).security } : State).Sound gr := by
    refine ⟨hS.1, ?_, hS.2.2.1, hS.2.2.2.1, hS.2.2.2.2⟩
    refine Nat.le_trans hS.2.1 ?_
    show s.minVer ≤ maxN s.minVer _
    unfold maxN; split <;> omega
  unfold State.activated
  dsimp only
  exact State.answerOn_sound _ _ _ _ _ (State.journalPush_sound _ _ (State.swapPairs_sound _ h))

@[simp] theorem State.activateFails_sound (s : State) (slot : Nat) (hS : s.Sound gr) :
    (State.activateFails s slot).Sound gr := by
  unfold State.activateFails; simp [hS]

@[simp] theorem execStandbySelftestComplete_sound (pass : Bool) (s : State) (hS : s.Sound gr) :
    NextSound gr (execStandbySelftestComplete pass s) := by
  unfold execStandbySelftestComplete; (repeat' split) <;> simp [hS]

@[simp] theorem execFailedPairSelfTestComplete_sound (pass : Bool) (s : State) (hS : s.Sound gr) :
    NextSound gr (execFailedPairSelfTestComplete pass s) := by
  unfold execFailedPairSelfTestComplete; (repeat' split) <;> simp [hS]

@[simp] theorem State.counted_sound (s : State) (hS : s.Sound gr) :
    (State.counted s).Sound gr := by
  unfold State.counted; simp [hS]

/-- Every row: where its meaning answers a next state, that state agrees with the ground. -/
theorem exec_sound (i : Instr) (s : State) (hS : s.Sound gr) : NextSound gr (exec i s) := by
  cases i <;> simp only [exec] <;> simp [hS]

end Sys2Proof.Machine
end

