-- ==== Sys2Proof/Tests/Slice0.lean ====
section
/-! SUPPORT. Tests: the ill-formed operands that well-formedness refuses, examples that the spec works out, and for every statement states and
operands that meet its premises, clause by clause and at the ends of their ranges. -/
namespace Sys2Proof.Tests

set_option Elab.async false

open Sys2Proof Sys2Proof.Machine

/-! ### States and headers -/

/-- A command over MCTP, with the target that its opcode asks for. -/
def hd (target fn : Nat) : CmdHdr := { src := .mctp 8 1, seq := 5, force := false, target := target, fn := fn }

def targetFor (s : State) (c : Cmd) : Nat :=
  match opInfo c.opcode with
  | none => 255
  | some i =>
    match i.target with
    | .any => 255
    | .unit n => n
    | .function => match s.fn? c.h.fn with | some x => x.att | none => 0
    | .attachment k => if c.params.getD k 0 ≤ 31 then c.params.getD k 0 else 0xFF
    | .manager => if c.params.getD 0 0 ≤ 31 then c.params.getD 0 0 else 0xFF
    | .hostPort => 32 + c.params.getD 0 0
    | .block =>
      if c.params.getD 0 0 = 2 then c.params.getD 1 0 else if c.params.getD 0 0 = 3 then 32 + c.params.getD 1 0 else 0xFF

/-- The row, with a header of `hd0` that names its target, is accepted in `s`. -/
def takesAs (hd0 : Nat → CmdHdr) (s : State) (mk : CmdHdr → Instr) : Bool :=
  match cmdOf (mk (hd0 255)) with
  | none => false
  | some c0 =>
    match cmdOf (mk (hd0 (targetFor s c0))) with
    | none => false
    | some c => decide (Accepted (mk (hd0 (targetFor s c0))) c s)

/-- The row, with a header that names function `fn`, is accepted in `s`. -/
def takes (s : State) (fn : Nat) (mk : CmdHdr → Instr) : Bool := takesAs (hd · fn) s mk

/-- The row is accepted in `s` with FORCE. -/
def forced (s : State) (fn : Nat) (mk : CmdHdr → Instr) : Bool := takesAs (fun t => { hd t fn with force := true }) s mk

/-- No function is named. -/
def noFn : Nat := 0xFFFF

/-- One router in SERVICE with the manager on attachment 0, its PF and one VF function (32) running, FP0 up and FP1 in STANDBY. -/
def pf : Fn := { Fn.initial 0 0 4 0 0 0 64 65536 0 with state := .RUNNING, busMaster := true }
def vf : Fn := { Fn.initial 0 1 4 0 2 100 64 65536 0 with state := .RUNNING, busMaster := true }

def upPort (p : Nat) : Port := { Port.initial p 7 with state := .UP, active := 0xFF#8, locked := true, role := 1, peer := 1, fCurrent := 100 }

def svc : State :=
  { State.reset with
    manager := some 0
    rst := { RST.reset with mode := .SERVICE, stage := .DONE, watchdog := true }
    jn := { JN.reset with topology := true, nx := 2, ny := 2, nz := 2, routers := 2 }
    ports := [(0, upPort 0), (1, { upPort 1 with state := .STANDBY, rate := 3, active := 1#8 }), (63, { upPort 63 with role := 9 })]
    hostPorts := [(0, { HostPort.initial with split := 1 })]
    atts := [(0, { Att.initial with state := .UP, speed := 6, width := 8, vfEnable := true, numVfs := 4, vfBar := 4096 })]
    fns := [(0, pf), (32, vf)]
    gens := [(0, { gen := 1, frame := none, held := 0, goal := none }), (32, { gen := 1, frame := none, held := 0, goal := none })]
    cc := { CC.reset with standbyReady := true }
    jr := { JR.reset with state := .READY }
    tt := { TT.reset with now := 500000000000 * unit } }

/-- A reservation from this router's PE0 to the neighbour behind FP0, which carries the route. -/
def resv1 : Reservation :=
  { rate := 1, rank := 7, burst := 1, destKind := 0, hops := 0, sourceFn := 32, destFn := 0, source := 0, dest := 32, flight := 0,
    installTime := 0, egress := 1, ports := [], atts := [0], suspended := false, forced := [], atRisk := true, bucket := 0, demoted := 0,
    late := 0, resentFrame := none }

/-- `svc` with FP0 changed. -/
def port0 (f : Port → Port) : State := svc.modPort 0 f

/-- FP0 was offered a root that last advanced `age` ns ago, and where `other` holds FP2 another one just now. -/
def offered (age : Nat) (other : Bool) : State :=
  let o : RootOffer := { location := 3, priority := 9, seq := 1, hops := 0, noRoot := false, advanced := svc.ns - age }
  let s := port0 fun x => { x with offer := some o }
  if other then { s with ports := Tbl.put s.ports 2 { upPort 2 with offer := some { o with advanced := svc.ns } } } else s

/-- A cell, and a queued cell, of the given VC. -/
def wcell (kind vc dest tag index : Nat) (payload : List Byte := List.replicate 64 0#8) : WireCell :=
  { hdr := ({ escape := false, dateline := false, index := index, tag := tag, kind := kind, vc := vc, dest := dest } : CellHdr).encode,
    payload := payload }

def qcell (vc : Nat) (esc : Bool) (arrived : Nat) : QCell :=
  { cell := wcell 0 vc 32 1 0, vc := vc, esc := esc, dateline := false, buf := 0, queue := .wq 0, place := .pool, ingress := .engine 0,
    arrived := arrived, ladder := (0, 0, 0) }

/-- A train header of a kind, with a number of cells and a sequence number. -/
def th (kind cells seq : Nat) : TrainHdr :=
  { reserved := 0, replay := false, cells := cells, ackKind := 0, kind := kind, xoffMap := 0#8, ackSeq := 0#16, seq := BitVec.ofNat 16 seq }

/-- The HELLO of the partner of FP0. -/
def hello0 : Hello :=
  { location := 1, port := 0, role := 1, good := 0xFF#8, failed := 0#8, resume := false, rate := 0, incarnation := 3, peerIncarnation := 0,
    rxExpected := 0, sidingBase := 0, txNext := 0, flight := 100 }

def change0 (accepted : Bool) : LaneChange :=
  { failed := 1#8, active := 0xF0#8, change := 1, deadline := 0, lastSent := 0, restore := false, exposure := false, accepted := accepted }

/-- `svc` with function 32 changed. -/
def fnState (f : Fn → Fn) : State := svc.modFn 32 f

/-- A window of function 32 in domain 3, of one extent of 4 KiB. -/
def win0 : Window :=
  { valid := true, rights := 30, accessed := false, dirtyTrack := false, check := 9, gen := 2, fn := 32, length := 4096, extentBase := 0,
    openTime := 0, extents := [{ offset := 0, length := 4096, iova := 0, dirty := false, bitmap := none }], revoked := none }

/-- `svc` with domain 3 of function 32, window 15 of it, rank table 1 of 16 entries and communicator 0 in a matching context. -/
def memState : State :=
  { fnState fun x => { x with matchEn := true, log2Comms := 4, postedMax := 16, unexpectedMax := 16, unexpectedKib := 64 } with
    wu := { WU.reset with domains := [(3, { fn := 32, job := 0, log2Ids := 4, base := 0 })], slots := [(slotKey 3 15, win0)] }
    cs := { CS.reset with rankTables := [(1, { fn := 32, size := 16, entries := [] })] } }

def group0 (state : Nat) : Group := { Group.initial 1 0xFF 0 4 2 [] with state := state }

/-- Function 32 waits for, or holds, what the table says of binding 5; token rights for group 0 and function 32. -/
def bind0 (st : BindState) (req : Option TokenReq) : Binding :=
  { Binding.initial 32 0 7 with state := st, req := req }

def tokState (b : Binding) (y : LocalToken) (h : Home) (inbox : List (Nat × TokenMsg)) : State :=
  { svc with tk := { TK.reset with
      rights := [(0, { enable := true, first := 32, last := 32, pfMask := 0#32 }), (63, { enable := true, first := 32, last := 32, pfMask := 0#32 })]
      bindings := [(5, b)], locals := [(15, y), (1023, y)], homes := [(63, h)], inbox := inbox } }

def freeTok : LocalToken := { holder := none, lost := false, waiters := [] }

def party (f : Nat) : Waiter := { endpoint := 0, fn := f, gen := 1, binding := 5, priority := 0 }

def home0 (holder : Option Waiter) : Home :=
  { enable := true, holder := holder, lost := false, waiters := [], lease := 0, granting := none, answers := [] }

def msg0 (kind : Nat) : TokenMsg :=
  { kind := kind, index := 63, lost := false, won := false, queued := false, priority := 0, endpoint := 0, function := 32, generation := 1,
    binding := 5, request := 9 }

def req0 : TokenReq := { kind := tmWAIT, request := 9, sent := 0, wait := 50000, first := 0 }

/-- `svc` whose journal holds one record of each region. -/
def journalState : State :=
  let page := fun (block region flags type : Nat) (b : List Byte) =>
    ({ block := block, page := 0, region := region, flags := flags, seq := 0, age := 0, rest := [],
       recs := [{ type := type, number := 0, payload := b }] } : JPage)
  { svc with jr := { svc.jr with pages := [page 436 2 3 0x20 [1#8, 2#8], page 500 3 0 5 [], page 600 4 0 0x10 []], cfgNext := 1 } }

/-- A WORK ring of function 32 with one descriptor waiting, a source flow of PE0 with one parcel, and an operation in flight. -/
def ring0 (kind : Nat) : Ring :=
  { kind := kind, base := 0, indexAddr := 64, log2 := 6, irqEn := false, vector := 0, pd := 0, rankTable := 1, state := .ACTIVE, cause := 0,
    producer := 1, next := 0, done := 0, tally := 0, entries := [], stalled := none, reading := false, again := false, fetching := none,
    retried := false, retriedDesc := false, overrun := none, unpublished := none, bell := false, closing := false, fullFrame := none, held := [] }

def dh : DescHdr := { flags := 0, counter := 0, rank := 0, user := 0 }

def put0 : PutArea :=
  { opFlags := 0, localGen := 0, localId := 0, remoteGen := 0, remoteKey := 0, length := 64, localOffset := 0, remoteOffset := 0,
    signalCounter := 0, signalValue := 0, reserved := 0 }

def op0 (a : DescArea) : Op :=
  { fn := 32, ring := 0, index := 0, gen := 1, hdr := dh, area := a, deadline := 0, phase := .sending, flow := some 4, dest := 0, destFn := 0,
    roleGen := 1, domain := 3, cut := 64, open_ := 1, delivered := 0, resends := 0, sent := 1 }

def parcel0 : OutParcel :=
  { seq := 0, op := opPUT, place := some 0, roleGen := 1, area := List.replicate 12 0#8, offset := 0, length := 64, lead := [], data := none,
    reads := [], pieces := [], map := none, tag := 3, respTag := none, cells := 2, left := [], sendings := 1, released := 0,
    timeout := some 0, retryAt := none, wait := 0, due := false, colour := none, first := none, member := 0 }

def src0 (ps : List OutParcel) : SrcFlow :=
  { fn := 32, endpoint := 0, dstFn := 0, domain := 3, ordered := false, gen := 1, roleGen := 1, state := .OPEN, dstFlow := 6, nextSeq := 1,
    queue := [], parcels := ps, opening := none, tags := [], cwnd := 8192, srtt := 1000, lastCut := none, timeouts := 0, atomics := [],
    lastUse := 0 }

def dst0 (ordered : Bool) : DstFlow :=
  { endpoint := 0, srcFn := 0, srcFlow := 1, srcGen := 1, fn := 32, gen := 1, domain := some 3, ordered := ordered, base := 0, done := [],
    busy := [], tags := [], staged := [], results := [], finals := [], violFrame := none, want := 0 }

def parcelIn (op seq flow : Nat) (mcast : Bool := false) : Parcel :=
  { mcast := mcast, tag := 3, cells := 2, flow := flow, roleGen := 1, op := op, seq := seq, length := 64, sendTime := 0,
    area := List.replicate 12 0#8, data := List.replicate 64 0#8, delay := 0 }

/-- PE0 with the flows 4 (source) and 6 (destination), both cached, and what else is named. -/
def engState (f : Engine → Engine) (ps : List OutParcel := [parcel0]) (ordered : Bool := false) : State :=
  { svc.setEngine 0 (f { Engine.initial with src := [(4, src0 ps)], dst := [(6, dst0 ordered)] }) with
    cs := { CS.reset with cached := [(0, 4, true), (0, 6, false)] } }

def read0 (u : DmaUse) : DmaRead :=
  { att := 0, fn := 32, gen := 1, addr := 0, len := 64, use := u, issued := 0, place := none, offset := 0, sent := true }

/-- `svc` with every function number in use. -/
def fullTable (n : Nat) : Tbl Fn := (List.range n).map fun k => (k, { vf with vf := 3 + k })

def fullState (n : Nat) : State := { svc with fns := fullTable n }

/-! ### Operands -/

def hd0 : CmdHdr := hd 255 0
def hdX : CmdHdr := { hd0 with seq := 2 ^ 32 }
def dhX : DescHdr := { dh with rank := 2 ^ 32 }
def putX : PutArea := { put0 with length := 2 ^ 32 + 1 }
def thX : TrainHdr := th 16 0 0
def fi : FaultInfo := { source := 0, inst := 0, address := 0, syndrome := 0 }
def fiX : FaultInfo := { fi with source := 384 }
def atom0 : AtomicArea :=
  { opFlags := 0, atomicOp := 0, width := 0, localGen := 0, localId := 0, remoteGen := 0, remoteKey := 0, localOffset := 0, remoteOffset := 0,
    operand := 0, compare := 0, reserved := 0 }
def mcast0 : McastArea :=
  { opFlags := 0, localGen := 0, localId := 0, group := 0, length := 0, localOffset := 0, remoteOffset := 0, reserved := 0 }
def send0 : SendArea := { opFlags := 0, localGen := 0, localId := 0, comm := 0, length := 0, localOffset := 0, tag := 0, reserved := 0 }
def recv0 : RecvArea :=
  { opFlags := 0, localGen := 0, localId := 0, comm := 0, length := 0, source := 0, localOffset := 0, tag := 0, mask := 0, recordOffset := 0,
    reserved := 0 }
def coll0 : CollArea :=
  { kind := 0, type := 0, outType := 0, redOp := 0, mode := 0, flags := 0, group := 0, seq := 0, count := 0, root := 0, stepCounter := 0,
    sendGen := 0, recvGen := 0, sendId := 0, recvId := 0, sendOffset := 0, recvOffset := 0, reserved := 0 }
def cmd0 : CommandArea := { packet := 0, reply := 0, packetLength := 0, replyLength := 0, reserved := 0 }
def note48 : List Byte := List.replicate 48 0#8

/-! ### Well-formedness -/

theorem test_ill_formed_device :
    [Instr.deviceInfo hdX, .modeSet hdX 0, .modeSet hd0 256, .managerSet hdX 0, .managerSet hd0 256, .deviceReset hdX, .blockReset hdX 0 0,
     .blockReset hd0 256 0, .blockReset hd0 0 256, .configSave hdX 0, .configSave hd0 4294967296, .pinConfigSet hdX 0 0,
     .pinConfigSet hd0 65536 0, .pinConfigSet hd0 0 65536, .balerConfigSet hdX 0, .balerConfigSet hd0 256,
     .controlAccessSet hdX 0 [0, 0, 0, 0], .controlAccessSet hd0 256 [0, 0, 0, 0], .controlAccessSet hd0 0 [],
     .controlAccessSet hd0 0 [65536, 0, 0, 0], .registerRead hdX 0 0 0, .registerRead hd0 256 0 0, .registerRead hd0 0 4294967296 0,
     .registerRead hd0 0 0 4294967296, .registerWrite hdX 0 0 0, .registerWrite hd0 256 0 0, .registerWrite hd0 0 4294967296 0,
     .registerWrite hd0 0 0 18446744073709551616, .commandForward hdX 0 [], .commandForward hd0 65536 [], .linkEnable hdX 0,
     .linkEnable hd0 256, .linkDisable hdX 0, .linkDisable hd0 256, .linkRoleSet hdX 0 0 0, .linkRoleSet hd0 256 0 0,
     .linkRoleSet hd0 0 256 0, .linkRoleSet hd0 0 0 65536, .linkGraceSet hdX 0 0, .linkGraceSet hd0 256 0, .linkGraceSet hd0 0 4294967296,
     .linkLanesRestore hdX 0, .linkLanesRestore hd0 256, .linkStandby hdX 0, .linkStandby hd0 256, .linkWake hdX 0, .linkWake hd0 256,
     .linkQuery hdX 0, .linkQuery hd0 256, .linkModuleSet hdX 0 0 0 0 0, .linkModuleSet hd0 256 0 0 0 0, .linkModuleSet hd0 0 256 0 0 0,
     .linkModuleSet hd0 0 0 65536 0 0, .linkModuleSet hd0 0 0 0 65536 0, .linkModuleSet hd0 0 0 0 0 65536, .queueWeightSet hdX 0 0 0 0,
     .queueWeightSet hd0 256 0 0 0, .queueWeightSet hd0 0 256 0 0, .queueWeightSet hd0 0 0 65536 0, .queueWeightSet hd0 0 0 0 65536,
     .queueMapSet hdX 0 0, .queueMapSet hd0 18446744073709551616 0, .queueMapSet hd0 0 18446744073709551616, .signalBoxConfigSet hdX 0,
     .signalBoxConfigSet hd0 256, .hostPortSplitSet hdX 0 0, .hostPortSplitSet hd0 256 0, .hostPortSplitSet hd0 0 256].all (fun i => !i.wf) = true := by decide +kernel

theorem test_ill_formed_routes :
    [Instr.routeTopologySet hdX 0 0 0 0 0 0 0 0, .routeTopologySet hd0 256 0 0 0 0 0 0 0, .routeTopologySet hd0 0 256 0 0 0 0 0 0,
     .routeTopologySet hd0 0 0 256 0 0 0 0 0, .routeTopologySet hd0 0 0 0 256 0 0 0 0, .routeTopologySet hd0 0 0 0 0 65536 0 0 0,
     .routeTopologySet hd0 0 0 0 0 0 256 0 0, .routeTopologySet hd0 0 0 0 0 0 0 256 0, .routeTopologySet hd0 0 0 0 0 0 0 0 256,
     .routeEntrySet hdX 0 0 0 0 0, .routeEntrySet hd0 65536 0 0 0 0, .routeEntrySet hd0 0 256 0 0 0, .routeEntrySet hd0 0 0 256 0 0,
     .routeEntrySet hd0 0 0 0 256 0, .routeEntrySet hd0 0 0 0 0 256, .routeQuery hdX 0, .routeQuery hd0 65536, .routeAdaptSet hdX 0 0 0 0,
     .routeAdaptSet hd0 256 0 0 0, .routeAdaptSet hd0 0 256 0 0, .routeAdaptSet hd0 0 0 256 0, .routeAdaptSet hd0 0 0 0 256,
     .poolConfigSet hdX 0, .poolConfigSet hd0 256, .reasmQuotaSet hdX 0 0, .reasmQuotaSet hd0 256 0, .reasmQuotaSet hd0 0 65536,
     .multicastInstall hdX 0 0 0, .multicastInstall hd0 65536 0 0, .multicastInstall hd0 0 256 0,
     .multicastInstall hd0 0 0 340282366920938463463374607431768211456, .multicastRemove hdX 0, .multicastRemove hd0 65536,
     .multicastMemberSet hdX 0 0 0 0 0 0, .multicastMemberSet hd0 65536 0 0 0 0 0, .multicastMemberSet hd0 0 65536 0 0 0 0,
     .multicastMemberSet hd0 0 0 65536 0 0 0, .multicastMemberSet hd0 0 0 0 4294967296 0 0, .multicastMemberSet hd0 0 0 0 0 4294967296 0,
     .multicastMemberSet hd0 0 0 0 0 0 4294967296, .multicastMemberClear hdX 0, .multicastMemberClear hd0 65536,
     .multicastSenderSet hdX 0 0 0 0, .multicastSenderSet hd0 65536 0 0 0, .multicastSenderSet hd0 0 65536 0 0,
     .multicastSenderSet hd0 0 0 4294967296 0, .multicastSenderSet hd0 0 0 0 4294967296, .multicastSenderClear hdX 0,
     .multicastSenderClear hd0 65536].all (fun i => !i.wf) = true := by decide +kernel

theorem test_ill_formed_time :
    [Instr.timeConfig hdX 0 0, .timeConfig hd0 256 0, .timeConfig hd0 0 256, .timeSetSeconds hdX 0, .timeSetSeconds hd0 18446744073709551616,
     .timetableFractionSet hdX 0, .timetableFractionSet hd0 256, .reservationInstall hdX 0 0 0 0 0 0 0 0 0 0 0 0 0,
     .reservationInstall hd0 65536 0 0 0 0 0 0 0 0 0 0 0 0, .reservationInstall hd0 0 65536 0 0 0 0 0 0 0 0 0 0 0,
     .reservationInstall hd0 0 0 256 0 0 0 0 0 0 0 0 0 0, .reservationInstall hd0 0 0 0 256 0 0 0 0 0 0 0 0 0,
     .reservationInstall hd0 0 0 0 0 256 0 0 0 0 0 0 0 0, .reservationInstall hd0 0 0 0 0 0 256 0 0 0 0 0 0 0,
     .reservationInstall hd0 0 0 0 0 0 0 65536 0 0 0 0 0 0, .reservationInstall hd0 0 0 0 0 0 0 0 65536 0 0 0 0 0,
     .reservationInstall hd0 0 0 0 0 0 0 0 0 4294967296 0 0 0 0, .reservationInstall hd0 0 0 0 0 0 0 0 0 0 4294967296 0 0 0,
     .reservationInstall hd0 0 0 0 0 0 0 0 0 0 0 4294967296 0 0, .reservationInstall hd0 0 0 0 0 0 0 0 0 0 0 0 18446744073709551616 0,
     .reservationInstall hd0 0 0 0 0 0 0 0 0 0 0 0 0 340282366920938463463374607431768211456, .reservationRemove hdX 0,
     .reservationRemove hd0 65536, .reservationQuery hdX 0, .reservationQuery hd0 65536, .timeQuery hdX].all (fun i => !i.wf) = true := by decide +kernel

theorem test_ill_formed_functions :
    [Instr.functionCreate hdX 0 0 0 0 0 0 0 0, .functionCreate hd0 256 0 0 0 0 0 0 0, .functionCreate hd0 0 256 0 0 0 0 0 0,
     .functionCreate hd0 0 0 65536 0 0 0 0 0, .functionCreate hd0 0 0 0 65536 0 0 0 0, .functionCreate hd0 0 0 0 0 256 0 0 0,
     .functionCreate hd0 0 0 0 0 0 65536 0 0, .functionCreate hd0 0 0 0 0 0 0 65536 0, .functionCreate hd0 0 0 0 0 0 0 0 4294967296,
     .functionDestroy hdX, .functionEnable hdX, .functionDisable hdX, .functionReset hdX, .functionQuery hdX, .functionFreeze hdX 0,
     .functionFreeze hd0 65536, .functionSave hdX 0 0, .functionSave hd0 18446744073709551616 0, .functionSave hd0 0 18446744073709551616,
     .functionRestore hdX 0 0, .functionRestore hd0 18446744073709551616 0, .functionRestore hd0 0 18446744073709551616, .functionThaw hdX,
     .functionPoolSet hdX 0 0 0 0 0, .functionPoolSet hd0 65536 0 0 0 0, .functionPoolSet hd0 0 65536 0 0 0, .functionPoolSet hd0 0 0 256 0 0,
     .functionPoolSet hd0 0 0 0 256 0, .functionPoolSet hd0 0 0 0 0 65536, .functionQuotaSet hdX 0 0, .functionQuotaSet hd0 65536 0,
     .functionQuotaSet hd0 0 4294967296, .functionHorizonSet hdX 0, .functionHorizonSet hd0 65536, .functionSchedSet hdX 0 0 0 0,
     .functionSchedSet hd0 256 0 0 0, .functionSchedSet hd0 0 256 0 0, .functionSchedSet hd0 0 0 65536 0, .functionSchedSet hd0 0 0 0 256,
     .functionShaperSet hdX 0 0, .functionShaperSet hd0 4294967296 0, .functionShaperSet hd0 0 4294967296,
     .functionPolicerSet hdX 0 0 0 0 0 0 0, .functionPolicerSet hd0 256 0 0 0 0 0 0, .functionPolicerSet hd0 0 256 0 0 0 0 0,
     .functionPolicerSet hd0 0 0 256 0 0 0 0, .functionPolicerSet hd0 0 0 0 4294967296 0 0 0, .functionPolicerSet hd0 0 0 0 0 4294967296 0 0,
     .functionPolicerSet hd0 0 0 0 0 0 65536 0, .functionPolicerSet hd0 0 0 0 0 0 0 65536, .functionCcSet hdX 0 0 0 0 0,
     .functionCcSet hd0 65536 0 0 0 0, .functionCcSet hd0 0 256 0 0 0, .functionCcSet hd0 0 0 256 0 0, .functionCcSet hd0 0 0 0 256 0,
     .functionCcSet hd0 0 0 0 0 256].all (fun i => !i.wf) = true := by decide +kernel

theorem test_ill_formed_tables :
    [Instr.flowSpillSet hdX 0 0 0, .flowSpillSet hd0 18446744073709551616 0 0, .flowSpillSet hd0 0 4294967296 0, .flowSpillSet hd0 0 0 256,
     .rankTableWrite hdX 0 0 [], .rankTableWrite hd0 65536 0 [], .rankTableWrite hd0 0 4294967296 [],
     .rankTableWrite hd0 0 0 [18446744073709551616], .rankTableCreate hdX 0 0, .rankTableCreate hd0 65536 0,
     .rankTableCreate hd0 0 4294967296, .rankTableDestroy hdX 0, .rankTableDestroy hd0 65536, .matchContextSet hdX 0 0 0 0 0 0,
     .matchContextSet hd0 256 0 0 0 0 0, .matchContextSet hd0 0 256 0 0 0 0, .matchContextSet hd0 0 0 65536 0 0 0,
     .matchContextSet hd0 0 0 0 4294967296 0 0, .matchContextSet hd0 0 0 0 0 4294967296 0, .matchContextSet hd0 0 0 0 0 0 4294967296,
     .matchCommSet hdX 0 0 0 0, .matchCommSet hd0 65536 0 0 0, .matchCommSet hd0 0 65536 0 0, .matchCommSet hd0 0 0 65536 0,
     .matchCommSet hd0 0 0 0 4294967296, .matchCommClear hdX 0, .matchCommClear hd0 65536].all (fun i => !i.wf) = true := by decide +kernel

theorem test_ill_formed_windows :
    [Instr.domainCreate hdX 0 0 0, .domainCreate hd0 65536 0 0, .domainCreate hd0 0 256 0, .domainCreate hd0 0 0 4294967296,
     .domainDestroy hdX 0, .domainDestroy hd0 65536, .windowOpen hdX 0 0 0 0 [], .windowOpen hd0 65536 0 0 0 [], .windowOpen hd0 0 256 0 0 [],
     .windowOpen hd0 0 0 256 0 [], .windowOpen hd0 0 0 0 4294967296 [], .windowOpen hd0 0 0 0 0 (List.replicate 256 (0, 0)),
     .windowOpen hd0 0 0 0 0 [(2 ^ 64, 0)], .windowOpen hd0 0 0 0 0 [(0, 2 ^ 64)], .windowRevoke hdX 0 0, .windowRevoke hd0 65536 0,
     .windowRevoke hd0 0 4294967296, .windowQuery hdX 0 0, .windowQuery hd0 65536 0, .windowQuery hd0 0 4294967296,
     .windowModify hdX 0 0 0 0 [], .windowModify hd0 65536 0 0 0 [], .windowModify hd0 0 256 0 0 [], .windowModify hd0 0 0 256 0 [],
     .windowModify hd0 0 0 0 4294967296 [], .windowModify hd0 0 0 0 0 (List.replicate 256 0),
     .windowModify hd0 0 0 0 0 [18446744073709551616], .windowDirtyEnable hdX 0 0, .windowDirtyEnable hd0 65536 0,
     .windowDirtyEnable hd0 0 4294967296, .windowDirtyDisable hdX 0 0, .windowDirtyDisable hd0 65536 0, .windowDirtyDisable hd0 0 4294967296,
     .windowDirtyFetch hdX 0 0 0 0, .windowDirtyFetch hd0 65536 0 0 0, .windowDirtyFetch hd0 0 4294967296 0 0,
     .windowDirtyFetch hd0 0 0 18446744073709551616 0, .windowDirtyFetch hd0 0 0 0 18446744073709551616, .windowDirtyClearMarks hdX 0 0,
     .windowDirtyClearMarks hd0 65536 0, .windowDirtyClearMarks hd0 0 4294967296].all (fun i => !i.wf) = true := by decide +kernel

theorem test_ill_formed_collectives :
    [Instr.collGroupCreate hdX 0 0 0 0 0 0 [], .collGroupCreate hd0 65536 0 0 0 0 0 [], .collGroupCreate hd0 0 256 0 0 0 0 [],
     .collGroupCreate hd0 0 0 256 0 0 0 [], .collGroupCreate hd0 0 0 0 256 0 0 [], .collGroupCreate hd0 0 0 0 0 256 0 [],
     .collGroupCreate hd0 0 0 0 0 0 4294967296 [], .collGroupCreate hd0 0 0 0 0 0 0 (List.replicate 256 0),
     .collGroupCreate hd0 0 0 0 0 0 0 [256], .collGroupDestroy hdX 0, .collGroupDestroy hd0 65536, .collMemberSet hdX 0 0 0,
     .collMemberSet hd0 65536 0 0, .collMemberSet hd0 0 256 0, .collMemberSet hd0 0 0 4294967296, .collGroupReset hdX 0 0,
     .collGroupReset hd0 65536 0, .collGroupReset hd0 0 256, .collGroupQuery hdX 0, .collGroupQuery hd0 65536,
     .tokenGroupRightsSet hdX 0 0 0 0 0, .tokenGroupRightsSet hd0 256 0 0 0 0, .tokenGroupRightsSet hd0 0 256 0 0 0,
     .tokenGroupRightsSet hd0 0 0 65536 0 0, .tokenGroupRightsSet hd0 0 0 0 65536 0, .tokenGroupRightsSet hd0 0 0 0 0 4294967296,
     .tokenFabricHomeSet hdX 0 0, .tokenFabricHomeSet hd0 256 0, .tokenFabricHomeSet hd0 0 256, .tokenFabricBind hdX 0 0 0,
     .tokenFabricBind hd0 256 0 0, .tokenFabricBind hd0 0 256 0, .tokenFabricBind hd0 0 0 65536, .tokenFabricUnbind hdX 0,
     .tokenFabricUnbind hd0 256, .tokenQuery hdX 0 0, .tokenQuery hd0 256 0, .tokenQuery hd0 0 65536, .tokenForceRelease hdX 0,
     .tokenForceRelease hd0 65536].all (fun i => !i.wf) = true := by decide +kernel

theorem test_ill_formed_faults :
    [Instr.faultSeveritySet hdX 0 0, .faultSeveritySet hd0 65536 0, .faultSeveritySet hd0 0 256, .faultStatusRead hdX, .faultClear hdX 0,
     .faultClear hd0 65536, .eventRouteSet hdX 0 0 0, .eventRouteSet hd0 65536 0 0, .eventRouteSet hd0 0 65536 0, .eventRouteSet hd0 0 0 256,
     .violationLogRead hdX 0 0, .violationLogRead hd0 256 0, .violationLogRead hd0 0 65536, .journalRead hdX 0 0 0 0,
     .journalRead hd0 256 0 0 0, .journalRead hd0 0 65536 0 0, .journalRead hd0 0 0 4294967296 0, .journalRead hd0 0 0 0 4294967296,
     .journalMark hdX note48, .journalMark hd0 [], .evidenceHold hdX 0, .evidenceHold hd0 256, .fwQuery hdX, .fwStageBegin hdX 0 0,
     .fwStageBegin hd0 256 0, .fwStageBegin hd0 0 4294967296, .fwStageData hdX 0 [], .fwStageData hd0 4294967296 [], .fwStageEnd hdX,
     .fwActivate hdX 0, .fwActivate hd0 256, .fwBootSlotSet hdX 0, .fwBootSlotSet hd0 256, .makerProcedure hdX [], .fwStageAbort hdX,
     .meterRingSet hdX 0 0 0, .meterRingSet hd0 18446744073709551616 0 0, .meterRingSet hd0 0 256 0, .meterRingSet hd0 0 0 256,
     .meterRead hdX, .telemetryRead hdX, .telemetryThresholdSet hdX 0 0, .telemetryThresholdSet hd0 256 0, .telemetryThresholdSet hd0 0 65536].all (fun i => !i.wf) = true := by decide +kernel

theorem test_ill_formed_messages :
    [Instr.setEndpointId 256 0 0, .setEndpointId 0 8 0, .setEndpointId 0 0 256, .getEndpointId 256 0, .getEndpointId 0 8,
     .getEndpointUuid 256 0, .getEndpointUuid 0 8, .getMctpVersionSupport 256 0 0, .getMctpVersionSupport 0 8 0,
     .getMctpVersionSupport 0 0 256, .getMessageTypeSupport 256 0, .getMessageTypeSupport 0 8, .getVendorDefinedMessageSupport 256 0 0,
     .getVendorDefinedMessageSupport 0 8 0, .getVendorDefinedMessageSupport 0 0 256, .i3cEntdaa 128, .mctpMessageReceive 256 0 false [],
     .mctpMessageReceive 0 8 false [], .controlTransferTimeout (2 ^ 16) 0, .controlTransferTimeout 0 (2 ^ 16), .commandForwardResend (2 ^ 16),
     .commandForwardTimeout (2 ^ 16)].all (fun i => !i.wf) = true := by decide +kernel

theorem test_ill_formed_rings :
    [Instr.doorbell 2048 0, .doorbell 0 (2 ^ 32), .producerIndexReadReturn 2048 0 (.data []), .producerIndexReadReturn 0 16384 (.data []),
     .descriptorFetchReturn 2048 0 (.data []), .descriptorFetchReturn 0 16384 (.data []), .ringCreate 2048 0, .ringCreate 0 16384,
     .ringDestroy 2048 0, .ringDestroy 0 16384, .ringQuery 2048 0, .ringQuery 0 16384, .counterAlloc 2048 0, .counterAlloc 0 4096,
     .counterFree 2048 0, .counterFree 0 4096, .counterSet 2048 0, .counterSet 0 4096].all (fun i => !i.wf) = true := by decide +kernel

theorem test_ill_formed_descriptors :
    [Instr.nop 2048 0 dh 0, .nop 0 16384 dh 0, .nop 0 0 dhX 0, .wait 2048 0 dh 0 0 0, .wait 0 16384 dh 0 0 0, .wait 0 0 dhX 0 0 0,
     .wait 0 0 dh (2 ^ 16) 0 0, .wait 0 0 dh 0 (2 ^ 64) 0, .counterAdd 2048 0 dh 0 0, .counterAdd 0 16384 dh 0 0, .counterAdd 0 0 dhX 0 0,
     .counterAdd 0 0 dh (2 ^ 64) 0, .put 2048 0 dh put0, .put 0 16384 dh put0, .put 0 0 dhX put0, .put 0 0 dh putX, .get 2048 0 dh put0,
     .get 0 16384 dh put0, .get 0 0 dhX put0, .get 0 0 dh putX, .putWithSignal 2048 0 dh put0, .putWithSignal 0 16384 dh put0,
     .putWithSignal 0 0 dhX put0, .putWithSignal 0 0 dh putX, .fence 2048 0 dh 0, .fence 0 16384 dh 0, .fence 0 0 dhX 0,
     .mcastPut 2048 0 dh mcast0, .mcastPut 0 16384 dh mcast0, .mcastPut 0 0 dhX mcast0, .mcastPut 0 0 dh { mcast0 with group := 2 ^ 16 },
     .atomic 2048 0 dh atom0, .atomic 0 16384 dh atom0, .atomic 0 0 dhX atom0, .atomic 0 0 dh { atom0 with compare := 2 ^ 64 },
     .send 2048 0 dh send0, .send 0 16384 dh send0, .send 0 0 dhX send0, .send 0 0 dh { send0 with comm := 2 ^ 16 }, .recv 2048 0 dh recv0,
     .recv 0 16384 dh recv0, .recv 0 0 dhX recv0, .recv 0 0 dh { recv0 with comm := 2 ^ 16 }, .cancel 2048 0 dh ⟨0, 0, 0⟩,
     .cancel 0 16384 dh ⟨0, 0, 0⟩, .cancel 0 0 dhX ⟨0, 0, 0⟩, .cancel 0 0 dh ⟨2 ^ 16, 0, 0⟩, .collective 2048 0 dh coll0,
     .collective 0 16384 dh coll0, .collective 0 0 dhX coll0, .collective 0 0 dh { coll0 with group := 2 ^ 16 }, .command 2048 0 dh cmd0,
     .command 0 16384 dh cmd0, .command 0 0 dhX cmd0, .command 0 0 dh { cmd0 with replyLength := 2 ^ 32 }].all (fun i => !i.wf) = true := by decide +kernel

theorem test_ill_formed_fabric :
    [Instr.parcelSend 32 0 0 false, .parcelSend 0 (2 ^ 22) 0 false, .parcelSend 0 0 4096 false, .egressCellSelect 96, .trainRelease 64,
     .timeExchangeSend 64, .summarySend 64, .helloSend 64, .keepaliveSend 64, .laneChangeResend 64, .dataTrainReceive 64 (th 0 0 0) [],
     .dataTrainReceive 0 thX [], .dataTrainReceive 0 (th 0 0 0) [{ hdr := 0#64, payload := [] }], .trainCrcFail 64 false,
     .fecUncorrectable 64 0 0, .idleTrainReceive 64 (th 0 0 0), .idleTrainReceive 0 thX, .timeTrainReceive 64 (th 0 0 0) [],
     .timeTrainReceive 0 thX [], .nakTrainReceive 64 (th 0 0 0) [], .nakTrainReceive 0 thX [], .nakRepeatTimeout 64].all (fun i => !i.wf) = true := by decide +kernel

theorem test_ill_formed_links :
    [Instr.laneChangeTrainReceive 64 (th 0 0 0) [], .laneChangeTrainReceive 0 thX [], .violationTrainReceive 64 (th 0 0 0) [],
     .violationTrainReceive 0 thX [], .summaryTrainReceive 64 (th 0 0 0) [], .summaryTrainReceive 0 thX [],
     .keepaliveTrainReceive 64 (th 0 0 0) [], .keepaliveTrainReceive 0 thX [], .helloTrainReceive 64 (th 0 0 0) [],
     .helloTrainReceive 0 thX [], .lanesLocked 64 0#8, .trainingTimeout 64, .handshakeComplete 64, .noGoodTrainTimeout 64, .graceExpiry 64,
     .laneLockLoss 64 0#8, .laneErrorRateCheck 64 0#8, .laneChangeTimeout 64, .exposureCheck 64, .standbyKeepaliveLoss 64,
     .linkDisableDrainEnd 64, .escapeWaitExpiry 96 0].all (fun i => !i.wf) = true := by decide +kernel

theorem test_ill_formed_engines :
    [Instr.reasmCellReceive 32, .reasmEntryTimeout 32 0 false, .reasmEntryTimeout 0 (2 ^ 16) false, .tagQuarantineExpiry 32 0,
     .tagQuarantineExpiry 0 (2 ^ 16), .openReceive 32, .putParcelReceive 32, .putElidedReceive 32, .getReqReceive 32, .getRespReceive 32,
     .atomicParcelReceive 32, .signalReceive 32, .closeReceive 32, .mcastPutReceive 32, .mcastRepairReceive 32, .ackSend 32, .ackReceive 32,
     .nackReceive 32].all (fun i => !i.wf) = true := by decide +kernel

theorem test_ill_formed_flows :
    [Instr.parcelTimeout 32 0 0 false, .parcelTimeout 0 (2 ^ 22) 0 false, .parcelTimeout 0 0 4096 false, .retryAfterExpiry 32 0 0,
     .retryAfterExpiry 0 (2 ^ 22) 0, .retryAfterExpiry 0 0 4096, .resourceBackoffExpiry 32 0 0, .resourceBackoffExpiry 0 (2 ^ 22) 0,
     .resourceBackoffExpiry 0 0 4096, .horizonExpiry (2 ^ 20), .flowIdleClose 32 0, .flowIdleClose 0 (2 ^ 22),
     .flowContextFetchComplete 32 0 false, .flowContextFetchComplete 0 (2 ^ 22) false, .msgEagerReceive 32, .msgRtsReceive 32,
     .msgGetReceive 32, .msgFinReceive 32, .rtsExpiry 2048 0, .recvExpiry (2 ^ 20), .collUpReceive 32, .collDownReceive 32,
     .chunkResendTimeout (2 ^ 16) 0 0, .chunkResendTimeout 0 256 0, .tickBoundary 128 0, .meterOccupancySample 2048].all (fun i => !i.wf) = true := by decide +kernel

theorem test_ill_formed_hosts :
    [Instr.windowCacheSweep 34, .revocationComplete (2 ^ 16) 0, .revocationComplete 0 (2 ^ 24), .revocationHoldRelease (2 ^ 16) 0,
     .revocationHoldRelease 0 (2 ^ 24), .atsInvalidate 32 0 0, .atsInvalidate 0 (2 ^ 64) 0, .atsInvalidate 0 0 18446744073709551617,
     .generationHoldRelease 2048, .resetPoint 2048, .freezeDrained 2048, .freezeLimitExpiry 2048, .flrVf 2048, .flrPf 32, .vfEnableClear 32,
     .busMasterEnableClear 2048, .perstAssert 16, .pcieLinkDown 32, .pcieLinkUp 32 0 0 false, .pcieLinkUp 0 16 0 false,
     .pcieLinkUp 0 0 17 false, .hostLinkRetrainSlow 32 0 0 false, .hostLinkRetrainSlow 0 16 0 false, .hostLinkRetrainSlow 0 0 17 false,
     .msixUnmask 2048 0, .msixUnmask 0 2048, .badRegisterAccess 2048 false, .viewDeniedAccess 2048 0 false,
     .viewDeniedAccess 0 (2 ^ 32) false, .counterFlagClear (.fn 2048) 0 0, .counterFlagClear .cores (2 ^ 26) 0,
     .counterFlagClear .cores 0 (2 ^ 32), .counterLowWordRead (.fn 2048) 0, .counterLowWordRead .cores (2 ^ 26), .parkPeakRead (.fn 2048),
     .hostRegisterWrite 2048 (.bar0 0 4) 0, .hostRegisterWrite 0 (.bar0 0 2) 0, .hostRegisterWrite 0 (.bar0 0 4) (2 ^ 64)].all (fun i => !i.wf) = true := by decide +kernel

theorem test_ill_formed_tokens :
    [Instr.localTokenAcquireRead 2048 0, .localTokenAcquireRead 0 1024, .localTokenWaitRead 2048 0, .localTokenWaitRead 0 1024,
     .localTokenReleaseWrite 2048 0 0, .localTokenReleaseWrite 0 1024 0, .localTokenReleaseWrite 0 0 (2 ^ 64),
     .tokenWaitCancelWrite 2048 false 0 0, .tokenWaitCancelWrite 0 false 1024 0, .tokenWaitCancelWrite 0 false 0 (2 ^ 64),
     .fabricBindingAcquireRead 2048 0, .fabricBindingAcquireRead 0 64, .fabricBindingWaitRead 2048 0, .fabricBindingWaitRead 0 64,
     .fabricBindingReleaseWrite 2048 0 0, .fabricBindingReleaseWrite 0 64 0, .fabricBindingReleaseWrite 0 0 (2 ^ 64), .tokenRequestRetry 64,
     .tokenRequestFail 64, .tokenRenewSend 64, .tokenWaitResend 64, .tokenLeaseLapse 64, .tokenGrantLapse 64, .tokenLeaseDrop 64,
     .rootOfferTimeout 64].all (fun i => !i.wf) = true := by decide +kernel

theorem test_ill_formed_board :
    [Instr.faultAssert fiX, .collectorSelfFault 256, .degradeDrainComplete 384, .bankRetire 176, .sramScrub 176 0 0, .hbmScrub 2 0 0,
     .resetNRelease 256, .thermalTrip 16 0, .telemetrySample 16 0, .avsAdjust (2 ^ 16) false 0, .avsAdjust 0 false (2 ^ 16),
     .journalPatrol 8192 0 [] [], .journalPatrol 0 65 [] [], .journalPatrol 0 0 [[]] [[]], .journalPageReadComplete [[]] [[]], .pcieCorrectableError 32, .laneChangeComplete 64].all (fun i => !i.wf) = true := by decide +kernel

theorem test_well_formed_1 :
    [Instr.deviceInfo hd0, .modeSet hd0 0, .managerSet hd0 0, .deviceReset hd0, .blockReset hd0 0 0, .configSave hd0 0, .pinConfigSet hd0 0 0,
     .balerConfigSet hd0 0, .controlAccessSet hd0 0 [0, 0, 0, 0], .registerRead hd0 0 0 0, .registerWrite hd0 0 0 0, .commandForward hd0 0 [],
     .linkEnable hd0 0, .linkDisable hd0 0, .linkRoleSet hd0 0 0 0, .linkGraceSet hd0 0 0, .linkLanesRestore hd0 0, .linkStandby hd0 0,
     .linkWake hd0 0, .linkQuery hd0 0, .linkModuleSet hd0 0 0 0 0 0, .queueWeightSet hd0 0 0 0 0, .queueMapSet hd0 0 0,
     .signalBoxConfigSet hd0 0, .hostPortSplitSet hd0 0 0, .routeTopologySet hd0 0 0 0 0 0 0 0 0, .routeEntrySet hd0 0 0 0 0 0,
     .routeQuery hd0 0, .routeAdaptSet hd0 0 0 0 0, .poolConfigSet hd0 0, .reasmQuotaSet hd0 0 0, .multicastInstall hd0 0 0 0,
     .multicastRemove hd0 0, .multicastMemberSet hd0 0 0 0 0 0 0, .multicastMemberClear hd0 0, .multicastSenderSet hd0 0 0 0 0,
     .multicastSenderClear hd0 0, .timeConfig hd0 0 0, .timeSetSeconds hd0 0, .timetableFractionSet hd0 0,
     .reservationInstall hd0 0 0 0 0 0 0 0 0 0 0 0 0 0, .reservationRemove hd0 0, .reservationQuery hd0 0, .timeQuery hd0,
     .functionCreate hd0 0 0 0 0 0 0 0 0, .functionDestroy hd0, .functionEnable hd0, .functionDisable hd0, .functionReset hd0,
     .functionQuery hd0, .functionFreeze hd0 0, .functionSave hd0 0 0, .functionRestore hd0 0 0, .functionThaw hd0,
     .functionPoolSet hd0 0 0 0 0 0, .functionQuotaSet hd0 0 0, .functionHorizonSet hd0 0, .functionSchedSet hd0 0 0 0 0,
     .functionShaperSet hd0 0 0, .functionPolicerSet hd0 0 0 0 0 0 0 0, .functionCcSet hd0 0 0 0 0 0, .flowSpillSet hd0 0 0 0,
     .rankTableWrite hd0 0 0 [], .rankTableCreate hd0 0 0, .rankTableDestroy hd0 0, .matchContextSet hd0 0 0 0 0 0 0,
     .matchCommSet hd0 0 0 0 0, .matchCommClear hd0 0, .domainCreate hd0 0 0 0, .domainDestroy hd0 0, .windowOpen hd0 0 0 0 0 [],
     .windowRevoke hd0 0 0, .windowQuery hd0 0 0, .windowModify hd0 0 0 0 0 [], .windowDirtyEnable hd0 0 0].all (fun i => i.wf) = true := by decide +kernel

theorem test_well_formed_2 :
    [Instr.windowDirtyDisable hd0 0 0, .windowDirtyFetch hd0 0 0 0 0, .windowDirtyClearMarks hd0 0 0, .collGroupCreate hd0 0 0 0 0 0 0 [],
     .collGroupDestroy hd0 0, .collMemberSet hd0 0 0 0, .collGroupReset hd0 0 0, .collGroupQuery hd0 0, .tokenGroupRightsSet hd0 0 0 0 0 0,
     .tokenFabricHomeSet hd0 0 0, .tokenFabricBind hd0 0 0 0, .tokenFabricUnbind hd0 0, .tokenQuery hd0 0 0, .tokenForceRelease hd0 0,
     .faultSeveritySet hd0 0 0, .faultStatusRead hd0, .faultClear hd0 0, .eventRouteSet hd0 0 0 0, .violationLogRead hd0 0 0,
     .journalRead hd0 0 0 0 0, .journalMark hd0 note48, .evidenceHold hd0 0, .fwQuery hd0, .fwStageBegin hd0 0 0, .fwStageData hd0 0 [],
     .fwStageEnd hd0, .fwActivate hd0 0, .fwBootSlotSet hd0 0, .makerProcedure hd0 [], .fwStageAbort hd0, .meterRingSet hd0 0 0 0,
     .meterRead hd0, .telemetryRead hd0, .telemetryThresholdSet hd0 0 0, .setEndpointId 0 0 0, .getEndpointId 0 0, .getEndpointUuid 0 0,
     .getMctpVersionSupport 0 0 0, .getMessageTypeSupport 0 0, .getVendorDefinedMessageSupport 0 0 0, .i3cEntdaa 0,
     .mctpMessageReceive 0 0 false [], .controlCellReceive, .controlTransferTimeout 0 0, .commandForwardResend 0, .commandForwardTimeout 0,
     .doorbell 0 0, .producerIndexReadReturn 0 0 (.data []), .descriptorFetchReturn 0 0 (.data []), .ringCreate 0 0, .ringDestroy 0 0,
     .ringQuery 0 0, .counterAlloc 0 0, .counterFree 0 0, .counterSet 0 0, .nop 0 0 dh 0, .wait 0 0 dh 0 0 0, .counterAdd 0 0 dh 0 0,
     .put 0 0 dh put0, .get 0 0 dh put0, .putWithSignal 0 0 dh put0, .fence 0 0 dh 0, .mcastPut 0 0 dh mcast0, .atomic 0 0 dh atom0,
     .send 0 0 dh send0, .recv 0 0 dh recv0, .cancel 0 0 dh ⟨0, 0, 0⟩, .collective 0 0 dh coll0, .command 0 0 dh cmd0,
     .parcelSend 0 0 0 false, .dmaReadCompletion 0 (.data []) false, .egressCellSelect 0, .trainRelease 0, .timeExchangeSend 0, .summarySend 0].all (fun i => i.wf) = true := by decide +kernel

theorem test_well_formed_3 :
    [Instr.helloSend 0, .keepaliveSend 0, .laneChangeResend 0, .dataTrainReceive 0 (th 0 0 0) [], .trainCrcFail 0 false,
     .fecUncorrectable 0 0 0, .idleTrainReceive 0 (th 0 0 0), .timeTrainReceive 0 (th 0 0 0) [], .nakTrainReceive 0 (th 0 0 0) [],
     .nakRepeatTimeout 0, .laneChangeTrainReceive 0 (th 0 0 0) [], .violationTrainReceive 0 (th 0 0 0) [],
     .summaryTrainReceive 0 (th 0 0 0) [], .keepaliveTrainReceive 0 (th 0 0 0) [], .helloTrainReceive 0 (th 0 0 0) [], .lanesLocked 0 0#8,
     .trainingTimeout 0, .handshakeComplete 0, .noGoodTrainTimeout 0, .graceExpiry 0, .laneLockLoss 0 0#8, .laneErrorRateCheck 0 0#8,
     .laneChangeTimeout 0, .exposureCheck 0, .standbyKeepaliveLoss 0, .linkDisableDrainEnd 0, .escapeWaitExpiry 0 0, .reasmCellReceive 0,
     .reasmEntryTimeout 0 0 false, .tagQuarantineExpiry 0 0, .openReceive 0, .putParcelReceive 0, .putElidedReceive 0, .getReqReceive 0,
     .getRespReceive 0, .atomicParcelReceive 0, .signalReceive 0, .closeReceive 0, .mcastPutReceive 0, .mcastRepairReceive 0, .ackSend 0,
     .ackReceive 0, .nackReceive 0, .parcelTimeout 0 0 0 false, .retryAfterExpiry 0 0 0, .resourceBackoffExpiry 0 0 0, .horizonExpiry 0,
     .flowIdleClose 0 0, .flowContextFetchComplete 0 0 false, .msgEagerReceive 0, .msgRtsReceive 0, .msgGetReceive 0, .msgFinReceive 0,
     .rtsExpiry 0 0, .recvExpiry 0, .collUpReceive 0, .collDownReceive 0, .chunkResendTimeout 0 0 0, .tickBoundary 0 0, .meterSnapshot,
     .meterOccupancySample 0, .windowCacheSweep 0, .revocationComplete 0 0, .revocationHoldRelease 0 0, .atsInvalidate 0 0 0,
     .generationHoldRelease 0, .resetPoint 0, .freezeDrained 0, .freezeLimitExpiry 0, .drainComplete, .flrVf 0, .flrPf 0, .vfEnableClear 0,
     .busMasterEnableClear 0, .perstAssert 0].all (fun i => i.wf) = true := by decide +kernel

theorem test_well_formed_4 :
    [Instr.pcieLinkDown 0, .pcieLinkUp 0 0 0 false, .hostLinkRetrainSlow 0 0 0 false, .msixUnmask 0 0, .badRegisterAccess 0 false,
     .viewDeniedAccess 0 0 false, .counterFlagClear .cores 0 0, .counterLowWordRead .cores 0, .parkPeakRead .cores,
     .hostRegisterWrite 0 (.bar0 0 4) 0, .localTokenAcquireRead 0 0, .localTokenWaitRead 0 0, .localTokenReleaseWrite 0 0 0,
     .tokenWaitCancelWrite 0 false 0 0, .fabricBindingAcquireRead 0 0, .fabricBindingWaitRead 0 0, .fabricBindingReleaseWrite 0 0 0,
     .tokenMsgAcquire, .tokenMsgWait, .tokenMsgCancel, .tokenMsgRelease, .tokenMsgRenew, .tokenMsgAnswer, .tokenMsgGrant, .tokenMsgGrantAck,
     .tokenRequestRetry 0, .tokenRequestFail 0, .tokenReleaseResend 0, .tokenRenewSend 0, .tokenWaitResend 0, .tokenLeaseLapse 0,
     .tokenGrantLapse 0, .tokenLeaseDrop 0, .rootOfferTimeout 0, .holdoverExpiry, .backupTakeover, .ppsEdge, .faultAssert fi,
     .collectorSelfFault 0, .haltLanesPowerDown, .haltRecordWrite, .degradeDrainComplete 0, .bankRetire 0, .sramScrub 0 0 0, .hbmScrub 0 0 0,
     .lockstepTakeoverComplete, .standbySelftestComplete false, .powerOn, .powerLoss, .resetNAssert, .resetNRelease 0, .bringupStageComplete,
     .pllLockRetry false, .watchdogExpiry, .thermalTrip 0 0, .thermalTripRelease, .telemetrySample 0 0, .avsAdjust 0 false 0, .pmbAlert,
     .journalPulseComplete false, .evidencePageFlush, .anchorHourlyWrite, .journalPatrol 0 0 [] [], .completionTimeout 0,
     .pcieCorrectableError 0, .laneChangeComplete 0, .journalPageReadComplete [] [], .failedPairSelfTestComplete false].all (fun i => i.wf) = true := by decide +kernel

theorem test_ill_formed_commandForward (l : List Byte) (h : l.length = 65521) : Instr.wf (.commandForward hd0 0 l) = false := by simp [Instr.wf, room, h]

theorem test_ill_formed_rankTableWrite (l : List Nat) (h : l.length = 8190) : Instr.wf (.rankTableWrite hd0 0 0 l) = false := by simp [Instr.wf, room, h]

theorem test_ill_formed_fwStageData (l : List Byte) (h : l.length = 65521) : Instr.wf (.fwStageData hd0 0 l) = false := by simp [Instr.wf, room, h]

theorem test_ill_formed_makerProcedure (l : List Byte) (h : l.length = 65525) : Instr.wf (.makerProcedure hd0 l) = false := by simp [Instr.wf, room, h]

theorem test_ill_formed_fields :
    [{ put0 with opFlags := 256 }.wf, { put0 with localGen := 256 }.wf, { put0 with localId := 2 ^ 24 }.wf, { put0 with remoteGen := 256 }.wf,
     { put0 with remoteKey := 2 ^ 32 }.wf, { put0 with length := 2 ^ 32 + 1 }.wf, { put0 with localOffset := 2 ^ 64 }.wf,
     { put0 with remoteOffset := 2 ^ 64 }.wf, { put0 with signalCounter := 2 ^ 16 }.wf, { put0 with signalValue := 2 ^ 64 }.wf,
     { atom0 with opFlags := 256 }.wf, { atom0 with atomicOp := 256 }.wf, { atom0 with width := 256 }.wf, { atom0 with localGen := 256 }.wf,
     { atom0 with localId := 2 ^ 24 }.wf, { atom0 with remoteGen := 256 }.wf, { atom0 with remoteKey := 2 ^ 32 }.wf,
     { atom0 with localOffset := 2 ^ 64 }.wf, { atom0 with remoteOffset := 2 ^ 64 }.wf, { atom0 with operand := 2 ^ 64 }.wf,
     { atom0 with compare := 2 ^ 64 }.wf, { mcast0 with opFlags := 256 }.wf, { mcast0 with localGen := 256 }.wf,
     { mcast0 with localId := 2 ^ 24 }.wf, { mcast0 with group := 2 ^ 16 }.wf, { mcast0 with length := 2 ^ 32 + 1 }.wf,
     { mcast0 with localOffset := 2 ^ 64 }.wf, { mcast0 with remoteOffset := 2 ^ 64 }.wf, { send0 with opFlags := 256 }.wf,
     { send0 with localGen := 256 }.wf, { send0 with localId := 2 ^ 24 }.wf, { send0 with comm := 2 ^ 16 }.wf,
     { send0 with length := 2 ^ 32 }.wf, { send0 with localOffset := 2 ^ 64 }.wf, { send0 with tag := 2 ^ 64 }.wf,
     { recv0 with opFlags := 256 }.wf, { recv0 with localGen := 256 }.wf, { recv0 with localId := 2 ^ 24 }.wf,
     { recv0 with comm := 2 ^ 16 }.wf, { recv0 with length := 2 ^ 32 }.wf, { recv0 with source := 2 ^ 32 }.wf,
     { recv0 with localOffset := 2 ^ 64 }.wf, { recv0 with tag := 2 ^ 64 }.wf, { recv0 with mask := 2 ^ 64 }.wf,
     { recv0 with recordOffset := 2 ^ 64 }.wf, { coll0 with kind := 256 }.wf, { coll0 with type := 256 }.wf, { coll0 with outType := 256 }.wf,
     { coll0 with redOp := 256 }.wf, { coll0 with mode := 256 }.wf, { coll0 with flags := 256 }.wf, { coll0 with group := 2 ^ 16 }.wf,
     { coll0 with seq := 2 ^ 32 }.wf, { coll0 with count := 2 ^ 32 }.wf, { coll0 with root := 2 ^ 32 }.wf,
     { coll0 with stepCounter := 2 ^ 16 }.wf, { coll0 with sendGen := 256 }.wf, { coll0 with recvGen := 256 }.wf,
     { coll0 with sendId := 2 ^ 24 }.wf, { coll0 with recvId := 2 ^ 24 }.wf, { coll0 with sendOffset := 2 ^ 64 }.wf,
     { coll0 with recvOffset := 2 ^ 64 }.wf, { cmd0 with packet := 2 ^ 64 }.wf, { cmd0 with reply := 2 ^ 64 }.wf,
     { cmd0 with packetLength := 2 ^ 32 }.wf, { cmd0 with replyLength := 2 ^ 32 }.wf, { dh with flags := 256 }.wf,
     { dh with counter := 2 ^ 16 }.wf, { dh with rank := 2 ^ 32 }.wf, { dh with user := 2 ^ 64 }.wf, { (th 0 0 0) with cells := 16 }.wf,
     { (th 0 0 0) with ackKind := 4 }.wf, { (th 0 0 0) with kind := 16 }.wf, { fi with source := 384 }.wf, { fi with inst := 2 ^ 32 }.wf,
     { fi with address := 2 ^ 64 }.wf, { fi with syndrome := 2 ^ 64 }.wf, { hd0 with seq := 2 ^ 32 }.wf, { hd0 with target := 256 }.wf,
     { hd0 with fn := 2 ^ 16 }.wf, { hd0 with src := .mctp 256 0 }.wf, { hd0 with src := .mctp 0 8 }.wf,
     { hd0 with src := .control 65536 0 }.wf, { hd0 with src := .control 0 65536 }.wf, (WriteTarget.bar0 (2 ^ 26) 4).wf,
     (WriteTarget.bar0 0 5).wf, (WriteTarget.aperture (2 ^ 17) 4).wf, (WriteTarget.aperture 0 2).wf, (Party.fn 2048).wf,
     (CancelArea.wf ⟨2 ^ 16, 0, 0⟩), (CancelArea.wf ⟨0, 2 ^ 32, 0⟩)].all (!·) = true := by decide +kernel

/-! ### Examples that the spec works out -/

/-- 01_architecture.md, the example under R32: router 5 of the station at (3, 10, 7), attachment HP6B. -/
theorem test_endpoint_id :
    epAtt 478893 = 13 ∧ locX (epLoc 478893) = 3 ∧ locY (epLoc 478893) = 10 ∧ locZ (epLoc 478893) = 7 ∧ locRouter (epLoc 478893) = 5 := by
  decide +kernel

/-- 02_fabric_time.md, the example under R64: a lag of 430 ns is regained in 4 ticks. -/
theorem test_lag_regained :
    let l : Lag := { Lag.on 7000 with boundary := 7000430 }
    (l.onward 3).ns = 55 ∧ (l.onward 4).ns = 0 := by decide +kernel

/-- 03_fabric_links.md, the example under R118: at f = 1,050 ns full rate is refused and step 1 fits. -/
theorem test_exposure : exposure 0 1050 = 604000 ∧ exposure 1 1050 = 453000 ∧ bestStep 0 8 1050 = some 1 := by decide +kernel

/-- 04_cells_and_routing.md, the examples under R145 and R157: cells of parcels of 4,096 and of 150 bytes. -/
theorem test_parcel_cells : parcelCells 4096 = 65 ∧ parcelCells 150 = 3 := by decide +kernel

/-- 04_cells_and_routing.md, the example under R176: from router 5 of (3, 10, 7) to station (5, 9, 7) the first hop is X+. -/
def torus : State :=
  { svc with jn := { svc.jn with nx := 8, ny := 16, nz := 8, routers := 16, location := 3 * 4096 + 10 * 256 + 7 * 16 + 5 } }

theorem test_dirs :
    let to_ := 5 * 4096 + 9 * 256 + 7 * 16 + 9
    torus.jn.dirs to_ 0 = 1 ∧ torus.jn.dirs to_ 1 = 2 ∧ torus.jn.dirs to_ 2 = 0 := by decide +kernel

/-- 06_host_ports.md, the example under R211: x8 at 32 GT/s carries 444 cells a tick. -/
theorem test_att_cells :
    let s := svc.setAtt 0 { svc.att 0 with speed := 5, width := 8 }
    s.attCap 0 = 444 ∧ s.egressLimit 64 = 222 := by decide +kernel

/-- 08_windows.md, the example under R293: a PUT over two extents is cut where the first ends. -/
def window0A31 : Window :=
  { valid := true, rights := 30, accessed := false, dirtyTrack := true, check := 0xB6, gen := 1, fn := 301, length := 3145728, extentBase := 0,
    openTime := 0, extents := [{ offset := 0, length := 2097152, iova := 0x7F0000000000, dirty := false, bitmap := some (0, []) },
      { offset := 2097152, length := 1048576, iova := 0x7F4000100000, dirty := false, bitmap := some (4096, []) }], revoked := none }

theorem test_window_pieces :
    window0A31.pieces 2095104 4096 = [(0x7F00001FF800, 2048), (0x7F4000100000, 2048)] ∧
    (window0A31.mark window0A31 .write 2095104 4096).extents.map (·.bitmap.map (·.2)) = [some [31], some [0]] := by decide +kernel

/-- 11_roundhouse.md, the example under R392: 7 children and depth 4 take 576 KiB, 47 and 16 take 12,544 KiB. -/
theorem test_group_store :
    (Group.initial 0 0xFF 0 4 2 (List.replicate 7 0)).storeKib = 576 ∧ (Group.initial 0 0xFF 0 16 2 (List.replicate 47 0)).storeKib = 12544 := by
  decide +kernel

/-- 12_baler.md, the example under R437, one BFP8 block: x × 2^160 for 7.96875, −2.5, 0.03125, 0.09375, 2^−130, 4.0, −6.0 and 25 zeros. -/
theorem test_bfp8_block :
    let b := ([255 * 2 ^ 155, -(5 * 2 ^ 159), 2 ^ 155, 3 * 2 ^ 155, 2 ^ 30, 4 * 2 ^ 160, -(6 * 2 ^ 160)] ++ List.replicate 25 0).map fun a =>
      Elem.acc a false false false false
    (encodeBlock 2 none b).1 = [0x81#8, 0x7F#8, 0xD8#8, 0#8, 0x02#8, 0x80#8, 0x40#8, 0xA0#8] ++ List.replicate 25 0#8 ∧
      (encodeBlock 2 none b).2.flushed = 1 ∧ (encodeBlock 2 none b).2.clamped = 1 := by decide +kernel

/-- 12_baler.md, the example under R441: the map of 1,023 units takes 256 bytes. -/
theorem test_elision_map : unitCount 65472 = 1023 ∧ mapBytes 1023 = 256 ∧ ceilDiv (28 + 8 + 256 + 512 * 64) 64 = 517 := by decide +kernel

/-- 13_tokens.md, the example under R462, token 37: the values that its reads return. -/
theorem test_token_values :
    tokenValue true false false 0x4D 301 = 0x804D012D ∧ tokenValue false false true 0x4D 301 = 0x204D012D ∧
    tokenValue true true false 0x22 412 = 0xC022019C ∧ tokenValue true false false 0x07 520 = 0x80070208 := by decide +kernel

/-- 13_tokens.md, the same example: of two waiters of level 5 the one that registered first is next. -/
theorem test_token_order :
    (nextWaiter [{ party 412 with priority := 5 }, { party 520 with priority := 5 }]).map (·.fn) = some 412 := by decide +kernel

/-- 14_commands.md, the example of LINK_GRACE_SET: its 24 bytes, and the row that they spell. -/
def gracePacket (us : Nat) : List Byte :=
  [0x04#8, 0x02#8, 0#8, 0#8, 0x23#8, 0x01#8, 0#8, 0#8, 0x08#8, 0#8, 0xFF#8, 0x01#8, 0xFF#8, 0xFF#8, 0#8, 0#8, 0x14#8, 0#8, 0#8, 0#8] ++ le 4 us

def graceHdr : CmdHdr := { src := .mctp 8 1, seq := 0x123, force := false, target := 0xFF, fn := 0xFFFF }

theorem test_grace_packet :
    (⟨graceHdr, 0x0204, [20, 5000], []⟩ : Cmd).bytes = gracePacket 5000 ∧
    (gracePacket 5000).drop 20 = [0x88#8, 0x13#8, 0#8, 0#8] ∧ hdrOf (.mctp 8 1) (gracePacket 5000) = graceHdr ∧
    ((opInfo 0x0204).bind fun i => parseArea i graceHdr ((gracePacket 5000).drop 16)).bind instrOf = some (.linkGraceSet graceHdr 20 5000) := by
  decide +kernel

/-- 14_commands.md, the same example: 5,000 µs is set and answered OK; 60,000 µs is BAD_PARAM with detail 20 and changes no port. -/
theorem test_grace_runs :
    (match exec (.mctpMessageReceive 8 1 false (gracePacket 5000)) svc with
      | .next t => (t.port 20).grace == 5000 && t.out == [.mctp 8 1 [0x04#8, 0x02#8, 0#8, 0#8, 0x23#8, 0x01#8, 0#8, 0#8, 0#8, 0#8, 0#8, 0#8,
          0#8, 0#8, 0#8, 0#8]]
      | _ => false) = true ∧
    (match exec (.mctpMessageReceive 8 1 false (gracePacket 60000)) svc with
      | .next t => t.ports == svc.ports && t.out == [.mctp 8 1 (replyBytes 0x0204 0x123 .BAD_PARAM 20 [])]
      | _ => false) = true := by decide +kernel

/-- 16_modes_reset.md, R551: the code of the converter, 152, is choice 9. -/
theorem test_strap : strapOf 152 = (9, false) ∧ strapOf 2 = (0, true) ∧ strapOf 255 = (0, true) := by decide +kernel

/-- R103 and R142: CRC-32C of "123456789" is 0xE306_9283, the check value of the Castagnoli polynomial that R103 names. -/
theorem test_crc32c : crc32c ((List.range 9).map fun k => BitVec.ofNat 8 (0x31 + k)) = 0xE3069283 := by decide +kernel

/-- R562: the minimal polynomial of α is the field's own, 0x4443, and an element times its inverse is 1. -/
theorem test_bch_field : minPoly (alphaPow 1) = 0x4443 ∧ gfMul (alphaPow 3) (gfInv (alphaPow 3)) = 1 := by decide +kernel

/-- R530, R548 and R531: from reset, stage STRAP ends in FUSE. -/
theorem test_bringup_stage :
    (match exec .bringupStageComplete State.reset with | .next t => t.rst.stage == .FUSE && t.rst.mode == .BRINGUP | _ => false) = true := by
  decide +kernel

/-- R589: an adjustment of 5 mV from the 800 mV of reset is legal whatever the part's floor, which is at most 800 mV. -/
theorem witness_BringUpAndSupply_avs : svc.rst.mode ≠ .HEATH ∧ svc.targetLegal 805 = true := by
  refine ⟨by decide, ?_⟩
  have h : coreFloor ≤ 805 := by unfold coreFloor minN; split <;> omega
  have e : svc.targetLegal 805 = (decide (coreFloor ≤ 805) && decide (805 ≤ 850) &&
    (decide (805 = Config.avsTarget) || (decide (805 ≤ 800 + 5) && decide (800 ≤ 805 + 5)))) := rfl
  rw [e]; simp [h]

/-! ### What the statements ask for -/

/-- What StepRunsTheFront asks for: no premise: a front command whose step is a next state. -/
theorem witness_StepRunsTheFront :
  (match step { State.reset with pending := [.powerLoss] } with | .next _ => true | _ => false) = true := by decide +kernel

/-- What FusesNeverLowered asks for: a step from reset that is a next state. -/
theorem witness_FusesNeverLowered :
  (match step State.reset with | .next t => t.variant == .AX | _ => false) = true := by decide +kernel

/-- What InvariantKept asks for: the state after reset meets the invariant, and its step is a next state. -/
theorem witness_InvariantKept :
  (State.reset.ctr = [] ∧ State.reset.cc.kept = []) ∧
  ((match step { State.reset with pending := [.powerLoss] } with | .next _ => true | _ => false) = true) := by decide +kernel

/-- What PacketsReadBack asks for: well-formed commands, at the ends of their fields. -/
theorem witness_PacketsReadBack :
  ((cmdOf (.linkGraceSet (hd 255 noFn) 63 65535)).isSome = true ∧ Instr.wf (.linkGraceSet (hd 255 noFn) 63 65535) = true) ∧
  ((cmdOf (.rankTableWrite (hd 0 32) 65535 0 [0, 2 ^ 64 - 1])).isSome = true ∧
    Instr.wf (.rankTableWrite (hd 0 32) 65535 0 [0, 2 ^ 64 - 1]) = true) := by decide +kernel

/-- What RefusedChangesNothing asks for: a command for each check of R480 that fails. -/
theorem witness_RefusedChangesNothing :
  (let c : Cmd := ⟨hd 255 32, 0x0204, [0, 100], []⟩; cmdOf (.linkGraceSet (hd 255 32) 0 100) = some c ∧ (opInfo c.opcode).isSome ∧
    svc.serves c.h.src = true ∧ svc.runningDup c = false ∧ svc.standsStill = false ∧
    (svc.cc.kept.find? fun k => sameOrigin k.hdr c.h) = none ∧ ((opInfo c.opcode).bind fun i => svc.packetFault i c) = some 12) ∧
  (let c : Cmd := ⟨hd 255 noFn, 0x0103, [255], []⟩; let s := svc; let d : Cmd := { c with h := { c.h with src := .control 16 1 } };
    cmdOf (.managerSet d.h 255) = some d ∧ ((opInfo d.opcode).bind fun i => s.packetFault i d) = none ∧ s.serves d.h.src = true ∧
    s.permitted d = false) ∧
  (let c : Cmd := ⟨hd 0 0, 0x0502, [], []⟩; svc.permitted c = false ∧ ((opInfo c.opcode).bind fun i => svc.packetFault i c) = none) ∧
  (let s := { svc with variant := .TX }; let c : Cmd := ⟨hd 5 40, 0x0506, [], []⟩;
    ((opInfo c.opcode).bind fun i => s.packetFault i c) = none ∧ s.permitted c = true ∧ c.h.target ≠ 0xFF ∧ s.hasUnit c.h.target = false) ∧
  (let s := { svc with rst := { svc.rst with mode := .HEATH } }; let c : Cmd := ⟨hd 255 noFn, 0x0204, [0, 100], []⟩;
    ((opInfo c.opcode).bind fun i => s.packetFault i c) = none ∧ s.permitted c = true ∧ s.modeAllows c.opcode = false ∧
    s.serves c.h.src = true) ∧
  (let c : Cmd := ⟨{ hd 255 noFn with force := true }, 0x0204, [0, 100], []⟩;
    ((opInfo c.opcode).bind fun i => svc.packetFault i c) = none ∧ svc.permitted c = true ∧ svc.modeAllows c.opcode = true ∧
    c.h.force = true ∧ c.forceOk = false) := by decide +kernel

/-- What DuplicatesAnswered asks for: a duplicate of a kept reply, of equal and of other bytes, and one of a command still running. -/
theorem witness_DuplicatesAnswered :
  (let i : Instr := .linkGraceSet (hd 255 noFn) 0 100; let c : Cmd := ⟨hd 255 noFn, 0x0204, [0, 100], []⟩;
    let s := { svc with cc := { svc.cc with kept := [{ instr := i, hdr := c.h, reply := [] }] } }; cmdOf i = some c ∧
    s.serves c.h.src = true ∧ s.runningDup c = false ∧ s.standsStill = false ∧
    ((s.cc.kept.find? fun k => sameOrigin k.hdr c.h).map fun k => decide (k.bytes = c.bytes)) = some true) ∧
  (let i : Instr := .linkGraceSet (hd 255 noFn) 0 101; let c : Cmd := ⟨hd 255 noFn, 0x0204, [0, 100], []⟩;
    let s := { svc with cc := { svc.cc with kept := [{ instr := i, hdr := c.h, reply := [] }] } };
    ((s.cc.kept.find? fun k => sameOrigin k.hdr c.h).map fun k => decide (k.bytes = c.bytes)) = some false) ∧
  (let i : Instr := .linkDisable (hd 255 noFn) 0; let c : Cmd := ⟨hd 255 noFn, 0x0202, [0], []⟩;
    let s := { svc with cc := { svc.cc with waiting := [{ instr := i, hdr := c.h, opcode := 0x0202, on := .linkDisable 0 }] } };
    cmdOf i = some c ∧ s.runningDup c = true) := by decide +kernel

/-- What RepliesKeptAndLaidOut asks for: lists of 0, 63 and 64 replies of a source, another source, and a reply of each extreme field. -/
theorem witness_RepliesKeptAndLaidOut :
  (let k : Kept := { instr := .powerLoss, hdr := hd 255 0, reply := [] }; srcKey (.mctp 9 1) ≠ srcKey k.hdr.src ∧
    (List.replicate 63 k).length < 64 ∧ ((List.replicate 64 k).filter fun y => srcKey y.hdr.src == srcKey k.hdr.src).length = 64) ∧
  (0xFFFF < 2 ^ 16 ∧ (2 ^ 32 - 1 : Nat) < 2 ^ 32 ∧ (replyBytes 0xFFFF (2 ^ 32 - 1) .OK 0 []).length ≤ maxMessage) := by decide +kernel

/-- What CountersAtTheirMaximum asks for: a counter at 0, one below its maximum, and at it. -/
theorem witness_CountersAtTheirMaximum :
  (let s := svc; s.counter 0x18 + 1 < 0xFFFFFFFF ∧ (s.setCounter 0x18 0xFFFFFFFE).counter 0x18 + 1 = 0xFFFFFFFF ∧
    (s.setCounter 0x18 0xFFFFFFFF).counter 0x18 = 0xFFFFFFFF) ∧
  (svc.rst.mode ≠ .HEATH ∧ svc.counter (meterOff 2047 5) + (2 ^ 64 - 2) < 2 ^ 64 - 1 ∧
    2 ^ 64 - 1 ≤ svc.counter (meterOff 0 0) + (2 ^ 64 - 1) ∧
    (svc.setCounter (meterOff 0 0) (2 ^ 64 - 1)).counter (meterOff 0 0) = 2 ^ 64 - 1) := by decide +kernel

/-- What NextTickBoundary asks for: a block on its boundary and one 1,000 ns behind. -/
theorem witness_NextTickBoundary :
  let l := Lag.on 7; 1000 * l.tick ≤ l.boundary ∧
    1000 * ({ l with boundary := 8000 } : Lag).tick ≤ ({ l with boundary := 8000 } : Lag).boundary := by decide +kernel

/-- What LagRegained asks for: a lag of 1,000 ns, regained in 8 ticks, and of 1 ns, in 1. -/
theorem witness_LagRegained :
  (let l : Lag := { Lag.on 7 with boundary := 8000 }; 1000 * l.tick ≤ l.boundary ∧ 7 + 1 ≤ (l.ns + 124) / 125 ∧ (l.ns + 124) / 125 = 8) ∧
  (let l : Lag := { Lag.on 7 with boundary := 7001 }; 1000 * l.tick ≤ l.boundary ∧ 0 < (l.ns + 124) / 125 ∧ (l.ns + 124) / 125 = 1) := by decide +kernel

/-- What TicksAndLag asks for: a boundary reached by blocks of each kind, alive and not, and lags of 1, 1,000, 1,001, 16,000, 16,001 and
0 ns, rising and staying. -/
theorem witness_TicksAndLag :
  (let s := { svc with tt := { svc.tt with lags := [(0, Lag.on 10), (1, Lag.on 10), (2, Lag.on 10), (32, Lag.on 10), (63, Lag.on 10), (64, Lag.on 10)] } };
    s.rst.mode ≠ .OFF ∧ [0, 1, 2, 3, 4, 32, 63, 64, 127].all s.tickBlock = true ∧
    [0, 1, 2, 32, 63, 64].all (fun i => decide ((s.lagBefore i).next 0 ≤ s.ns)) = true ∧
    [0, 2, 32, 63].all (fun i => (s.reportLag i (s.lagBefore i).ns
      { s.lagBefore i with boundary := (s.lagBefore i).next 0, tick := (s.lagBefore i).tick + 1 }).alive) = true) ∧
  (let s := { svc with rst := { svc.rst with mode := .HALT }, tt := { svc.tt with lags := [(0, Lag.on 10)] } };
    (s.lagBefore 0).next 0 ≤ s.ns ∧ s.tickBlock 0 = true ∧ (s.reportLag 0 (s.lagBefore 0).ns
      { s.lagBefore 0 with boundary := (s.lagBefore 0).next 0, tick := (s.lagBefore 0).tick + 1 }).alive = false) ∧
  (svc.severity 208 = .DEGRADE ∧ svc.severity (208 + 127) = .DEGRADE) ∧
  (let l := fun (n : Nat) => ({ Lag.on 7 with boundary := 7000 + n } : Lag); (l 1).ns = 1 ∧ 0 < (l 1).ns ∧ (l 1000).ns ≤ 1000 ∧
    1000 < (l 1001).ns ∧ (l 1001).late = false ∧ (l 16000).ns ≤ 16000 ∧ 16000 < (l 16001).ns ∧
    { l 16001 with late := true }.late = true ∧ (l 0).ns = 0 ∧ { l 0 with fault := true }.fault = true) := by decide +kernel

/-- What TimeMovesForward asks for: an empty queue, with a slew in each direction, and with a held rate at both ends of its range. -/
theorem witness_TimeMovesForward :
  (svc.pending = [] ∧ svc.rst.mode ≠ .OFF ∧ svc.tt.slewMax ≤ 8 ∧
    ({ svc with tt := { svc.tt with sync := .LOCKED } } : State).tt.holding = false) ∧
  (let s := { svc with tt := { svc.tt with slewMax := 8, slewLeft := -1000 } }; s.pending = [] ∧ s.rst.mode ≠ .OFF ∧ s.tt.slewMax ≤ 8) ∧
  (let s := fun (r p : Int) => { svc with tt := { svc.tt with sync := .HOLDOVER, rate := r, ratePart := p } };
    [s (-102400) 0, s 102400 12799].all (fun s => s.tt.holding && decide (-102400 ≤ s.tt.rate ∧ s.tt.rate ≤ 102400 ∧ 0 ≤ s.tt.ratePart ∧
      s.tt.ratePart < 12800)) = true) := by decide +kernel

/-- What TimeCommandsAndReservations asks for: every command at the ends of its ranges, with and without an offered root. -/
theorem witness_TimeCommandsAndReservations :
  (takes svc noFn (.timeConfig · 1 0) = true ∧ takes svc noFn (.timeConfig · 1 255) = true ∧ svc.candidates = []) ∧
  (let s := offered 1 false; takes s noFn (.timeConfig · 1 9) = true ∧ s.candidates ≠ []) ∧
  (takes svc noFn (.timeConfig · 0 0) = true ∧ takes svc noFn (.timeConfig · 2 255) = true) ∧
  (let s := { svc with rst := { RST.reset with stage := .AWAIT }, tt := { svc.tt with role := .ROOT, ppsEn := true } };
    takes s noFn (.timeSetSeconds · 18446744073) = true ∧ 18446744073 * 1000000000 < 2 ^ 64 ∧ s.tt.joining = false ∧ s.tt.ppsEn = true) ∧
  (let s := { svc with rst := { RST.reset with stage := .AWAIT }, tt := { svc.tt with role := .ROOT } };
    takes s noFn (.timeSetSeconds · 0) = true ∧ s.tt.joining = false ∧ s.tt.ppsEn = false) ∧
  (takes svc noFn (.timetableFractionSet · 0) = true ∧ takes svc noFn (.timetableFractionSet · 75) = true ∧
    ((List.range 96).all fun e => decide (svc.charged e ≤ ({ svc with tt := { svc.tt with fraction := 0 } } : State).egressLimit e)) = true) ∧
  (takes svc noFn (.reservationInstall · 1 1 0 1 0 0 32 0 0 32 0 0 0) = true ∧ svc.absentHere 0 = false ∧ svc.absentHere 32 = false ∧
    svc.endpointOk 0 = true ∧ svc.endpointOk 32 = true) ∧
  (let s := svc; let r := resv1; takes s noFn (.reservationInstall · 65535 1 7 1 0 0 32 0 0 32 0 0 1) = true ∧ s.absentHere 0 = false ∧
    s.absentHere 32 = false ∧ s.endpointOk 0 = true ∧ s.endpointOk 32 = true ∧ s.egressOk 0 32 1 = true ∧ epLoc 0 = s.location ∧
    s.attOf 32 = 0 % 32 ∧ s.fnBusy 32 = false ∧ ((s.fn? 32).map fun x => decide (s.slotsUsed 32 + 1 ≤ x.resvSlots)) = some true ∧
    Tbl.has s.tt.resv 65535 = false ∧ s.tt.resv.length < 4096 ∧ s.resvPorts 65535 r 1 = some [0] ∧
    s.fits 65535 { r with ports := [0] } ({ r with ports := [0] } : Reservation).egresses = true) ∧
  (let s := { svc with tt := { svc.tt with resv := [(5, resv1)] } }; takes s noFn (.reservationRemove · 5) = true ∧
    Tbl.has s.tt.resv 5 = true) := by decide +kernel

/-- What TimeEvents asks for: each timer at its end, with another root offered and without one, a BACKUP, and edges with seconds to set and
with errors within and beyond 1,000 ns. -/
theorem witness_TimeEvents :
  (let s := { offered 100000 false with tt := { svc.tt with sync := .LOCKED } }; s.alive = true ∧
    ((s.port 0).offer.map fun o => decide (o.noRoot = false ∧ o.advanced + 100000 ≤ s.ns)) = some true ∧ s.tt.announcing = false ∧
    bestParent s.candidates = none) ∧
  (let s := { offered 100000 true with tt := { svc.tt with sync := .LOCKED } };
    ((s.port 0).offer.map fun o => decide (o.noRoot = false ∧ o.advanced + 100000 ≤ s.ns)) = some true ∧
    (bestParent s.candidates).map (·.1) = some 2) ∧
  (let s := { svc with tt := { svc.tt with sync := .HOLDOVER, holdoverSince := svc.ns - 5000000 } }; s.tt.sync = .HOLDOVER ∧
    s.tt.holdoverSince + 5000000 ≤ s.ns) ∧
  (let s := { svc with tt := { svc.tt with role := .BACKUP, noBetterSince := svc.ns - 1000000 } }; s.tt.role = .BACKUP ∧
    s.tt.announcing = false ∧ s.betterOffered = false ∧ s.betterEnded + 1000000 ≤ s.ns) ∧
  (let s := { svc with tt := { svc.tt with role := .ROOT, ppsEn := true, announcing := true } }; s.tt.pendingSeconds = none ∧
    -(1000 * (unit : Int)) ≤ ppsError s.tt.now ∧ ppsError s.tt.now ≤ 1000 * (unit : Int) ∧
    ({ s with tt := { s.tt with pendingSeconds := some 3 } } : State).tt.pendingSeconds = some 3) ∧
  (1000 * (unit : Int) < ppsError ((500000000000 + 1001) * unit) ∧ ppsError ((500000000000 - 1001) * unit) < -(1000 * (unit : Int)) ∧
    ppsError ((500000000000 - 1000) * unit) = -(1000 * (unit : Int))) := by decide +kernel

/-- What TimetableNeverOversold asks for: a reservation that fits, under a new id. -/
theorem witness_TimetableNeverOversold :
  let r := { resv1 with ports := [0] }; Tbl.has svc.tt.resv 65535 = false ∧ svc.tt.resv = [] ∧ svc.fits 65535 r r.egresses = true ∧
    ((List.range 96).all fun e => svc.charged e == 0) = true := by decide +kernel

/-- What DataTrainReceived asks for: the four classes at their ends: 0, 1, 16,383, 16,384, 49,151, 49,152 and 65,535; 1 and 8 cells; UP and
STANDBY. -/
theorem witness_DataTrainReceived :
  (svc.alive = true ∧ (svc.port 0).state = .UP ∧ (svc.port 1).state = .STANDBY ∧ (th 0 1 0).kind = 0 ∧ (th 0 1 0).reserved = 0 ∧
    1 ≤ (th 0 1 0).cells ∧ (th 0 8 0).cells ≤ 8) ∧
  (let d := fun n => ((th 0 1 n).seq.toNat + 65536 -
      (((svc.modPort 0 fun x => { x with lastGood := svc.ns }).headerFields 0 (th 0 1 n) true).port 0).rxExpected) % 65536; d 0 = 0 ∧ d 1 = 1 ∧
    d 16383 < 16384 ∧ d 16384 = 16384 ∧ d 49151 < 49152 ∧ d 49152 = 49152 ∧ d 65535 = 65535) := by decide +kernel

/-- What TrainHeaders asks for: each kind of acknowledgement. -/
theorem witness_TrainHeaders :
  let h := { th 1 0 0 with ackKind := 1, ackSeq := 0xFFFF#16 }; (th 1 0 0).ackKind = 0 ∧ h.ackKind = 1 ∧
    ((svc.modPort 0 fun x => { x with xoffIn := h.xoffMap }).port 0).neverSent ((h.ackSeq.toNat + 1) % 65536) = false ∧
    { th 1 0 0 with ackKind := 3 }.ackKind = 3 := by decide +kernel

/-- What ControlTrainsHeard asks for: each kind, with the least and the greatest codes, in UP and in STANDBY. -/
theorem witness_ControlTrainsHeard :
  (let d := svc.modPort 0 fun x => { x with lastGood := svc.ns }; svc.alive = true ∧ (svc.port 0).state = .UP ∧ (svc.port 1).state = .STANDBY ∧
    (th 1 0 0).reserved = 0 ∧ (th 1 0 0).cells = 0 ∧ ((d.headerFields 0 (th 3 0 0) false).port 0).state = .UP ∧
    ((d.headerFields 0 (th 6 0 0) true).port 0).state = .UP) ∧
  (let z := List.replicate 64 (0#8); rd z 10 1 < 4 ∧ zeroFrom z 30 = true ∧ timeBad z = false ∧ rd (patch z 10 [3#8]) 10 1 = 3 ∧
    timeBad (patch z 10 [3#8]) = false) ∧
  (let z := List.replicate 64 (0#8); zeroFrom (patch z 2 [1#8]) 3 = true ∧ rd (patch z 2 [1#8]) 2 1 = 1 ∧
    zeroFrom (patch z 2 [4#8]) 3 = true ∧ rd (patch z 2 [4#8]) 2 1 = 4) ∧
  (let z := List.replicate 64 (0#8); zeroFrom (patch z 0 [1#8]) 4 = true ∧ 1 ≤ rd (patch z 0 [1#8]) 0 1 ∧ rd (patch z 0 [3#8]) 0 1 ≤ 3 ∧
    zeroFrom (patch z 0 [8#8]) 12 = true ∧ rd (patch z 0 [8#8]) 0 1 ≤ 8) ∧
  (let z := List.replicate 64 (0#8); zeroFrom z 50 = true ∧ summaryBad z = false ∧ zeroFrom (patch z 2 [63#8, 5#8]) 4 = true ∧
    rd (patch z 2 [63#8, 5#8]) 2 1 ≤ 63 ∧ rd (patch z 2 [63#8, 5#8]) 3 1 ≤ 5) ∧
  (let z := patch (List.replicate 64 (0#8)) 2 [63#8, 9#8, 0#8, 0#8, 1#8, 3#8]; rd z 6 1 < 2 ∧ zeroFrom z 20 = true ∧ rd z 2 1 ≤ 63 ∧
    rd z 3 1 ≤ 9 ∧ rd z 7 1 ≤ 3) := by decide +kernel

/-- What TrainsRejectedOrLost asks for: an unknown kind, a reserved field, cells of a control train and of none; CRC and FEC damage; a request
whose round trip is over. -/
theorem witness_TrainsRejectedOrLost :
  (svc.hears 0 = true ∧ svc.hears 1 = true ∧ svc.hears 63 = true ∧ (svc.port 0).state ≠ .STANDBY ∧ 9 ≤ (th 9 0 0).kind ∧
    9 ≤ (th 15 0 0).kind) ∧
  (let z := List.replicate 64 (0#8); { th 8 0 0 with reserved := 1 }.reserved ≠ 0 ∧ zeroFrom z 3 = true ∧ rd z 10 1 < 4 ∧ rd z 6 1 < 2 ∧
    (th 8 1 0).cells ≠ 0 ∧ (th 6 1 0).cells ≠ 0) ∧
  ((svc.port 0).state = .UP ∧ (th 0 0 0).cells = 0 ∧ 8 < (th 0 9 0).cells ∧ (svc.port 0).nakAt = none) ∧
  (((svc.evidence (lkBase 0 + 0x68)).port 0).state = .UP ∧ ((svc.evidence (lkBase 0 + 0x68)).port 0).nakAt = none ∧
    ((svc.evidences (lkBase 0 + 0x6C) 2).port 0).nakAt = none ∧ ((svc.evidences (lkBase 0 + 0x6C) 2).port 0).state = .UP) ∧
  (let u := svc.modPort 0 (fun x => { x with nakAt := some 0 }); 0 + (u.port 0).round ≤ svc.ns) := by decide +kernel

/-- What TrainsSent asks for: each choice of TRAIN_RELEASE, and each timed train when it is due. -/
theorem witness_TrainsSent :
  (let y : SidingTrain := { seq := 5, cells := [qcell 0 false 0], released := 0 };
    let s := port0 fun x => { x with replay := [5], siding := [y] }; s.alive = true ∧ (s.port 0).state = .UP ∧ (s.port 0).change = none ∧
    (s.port 0).replay = [5] ∧ ((s.port 0).siding.find? fun y => y.seq == 5) = some y ∧ (s.port 0).replays y = true) ∧
  (let s := port0 fun x => { x with txReady := [qcell 0 false 0] }; (s.port 0).replay = [] ∧ (s.port 0).nextCells ≠ [] ∧
    (s.port 0).sidingRoom (s.port 0).nextCells.length = true) ∧
  (let s := port0 fun x => { x with notice := some (1, 0, 0) }; (s.port 0).nextCells = [] ∧ (s.port 0).notice = some (1, 0, 0) ∧
    (s.port 0).noticeTick ≠ some s.tickNo) ∧
  ((svc.port 0).replay = [] ∧ (svc.port 0).nextCells = [] ∧ (svc.port 0).notice = none ∧ (svc.port 0).nakDue = false) ∧
  (let s := svc.modPort 1 fun x => { x with nakDue := true }; (s.port 1).replay = [] ∧ (s.port 1).nextCells = [] ∧
    (s.port 1).notice = none ∧ (s.port 1).change = none ∧ (s.port 1).nakDue = true ∧ (s.port 1).state = .STANDBY) ∧
  ((svc.port 0).state = .UP ∧ (svc.port 0).lastSummary = none ∧ svc.tt.announcing = false ∧ (svc.port 0).lastTimeSend = none) ∧
  (let s := port0 fun x => { x with state := .HANDSHAKE, lastHello := some (svc.ns - 1000) }; (s.port 0).shaking = true ∧
    svc.ns - 1000 + 1000 ≤ s.ns) ∧
  (let s := svc.modPort 1 fun x => { x with lastHello := some (svc.ns - 8000) }; (s.port 1).state = .STANDBY ∧ svc.ns - 8000 + 8000 ≤ s.ns) ∧
  (let s := port0 fun x => { x with change := some { change0 false with lastSent := svc.ns - 10000 } };
    (s.port 0).change = some { change0 false with lastSent := svc.ns - 10000 } ∧ svc.ns - 10000 + 10000 ≤ s.ns) := by decide +kernel

/-- What LinkStates asks for: each timer of a link at its end, locking, and handshakes that match, do not, and fit no step; SERVICE and HEATH;
a partner to go on with and one not. -/
theorem witness_LinkStates :
  (let s := port0 fun x => { x with lastGood := svc.ns - 10000 }; s.alive = true ∧ (s.port 0).state = .UP ∧
    (s.port 0).lastGood + 10000 ≤ s.ns) ∧
  (let s := port0 fun x => { x with change := some (change0 false) }; (s.port 0).state = .UP ∧ (s.port 0).change = some (change0 false) ∧
    (change0 false).deadline ≤ s.ns) ∧
  (let s := port0 fun x => { x with state := .HELD, graceDeadline := some svc.ns }; (s.port 0).state = .HELD ∧
    (s.port 0).graceDeadline = some s.ns) ∧
  (let s := svc.modPort 1 fun x => { x with lastGood := svc.ns - 100000 }; (s.port 1).state = .STANDBY ∧
    (s.port 1).lastGood + 100000 ≤ s.ns) ∧
  (let s := port0 fun x => { x with state := .TRAINING, trainSince := svc.ns - 100000000 }; (s.port 0).state = .TRAINING ∧
    (s.port 0).trainSince + 100000000 ≤ s.ns) ∧
  (let s := port0 fun x => { x with state := .HELD, locked := false }; (s.port 0).state = .HELD ∧ (s.port 0).locked = false) ∧
  (let s := port0 fun x => { x with state := .HANDSHAKE, exchanges := 8, hello := some { hello0 with location := 2 } };
    (s.port 0).shaking = true ∧ 8 ≤ (s.port 0).exchanges ∧ (s.port 0).partnerMatches { hello0 with location := 2 } = false) ∧
  (let s := port0 fun x => { x with state := .HANDSHAKE, exchanges := 8, hello := some hello0 };
    let fits := fun (flight : Nat) => bestStep hello0.rate (popcount8 ((s.port 0).good &&& hello0.good &&& ~~~ ((s.port 0).failed ||| hello0.failed)))
      (maxN (s.port 0).fHandshake flight);
    (s.port 0).partnerMatches hello0 = true ∧ (fits hello0.flight).isSome = true ∧ fits 60000 = none ∧ s.rst.mode ≠ .HEATH ∧
    ({ s with rst := { s.rst with mode := .HEATH } } : State).rst.mode = .HEATH ∧ ({ s with rst := { s.rst with mode := .HEATH } } : State).alive = true) ∧
  (let s := port0 fun x => { x with state := .HELD }; s.resumes 0 hello0 = false ∧ (s.port 0).state = .HELD) := by decide +kernel

/-- What LanesDegrade asks for: a lane lost of eight and the last one, an accepted change, and exposures at and over the limit at each
step. -/
theorem witness_LanesDegrade :
  (let s := svc; s.alive = true ∧ (s.port 0).state = .UP ∧ 1#8 &&& ~~~ (s.port 0).failed ≠ 0#8 ∧
    (bestStep (s.port 0).rate (popcount8 (~~~ ((s.port 0).failed ||| 1#8))) (s.port 0).fHandshake).isSome ∧
    bestStep (s.port 0).rate (popcount8 (~~~ ((s.port 0).failed ||| 0xFF#8))) (s.port 0).fHandshake = none) ∧
  (let s := port0 fun x => { x with change := some (change0 true) }; (s.port 0).change = some (change0 true) ∧
    (change0 true).accepted = true) ∧
  ((svc.port 0).exposureFrame ≠ some svc.frame ∧ exposure (svc.port 0).rate (svc.port 0).fCurrent ≤ exposureLimit) ∧
  (let s := port0 fun x => { x with fCurrent := 60000, overExposed := 1 }; (s.port 0).exposureFrame ≠ some s.frame ∧
    exposureLimit < exposure (s.port 0).rate (s.port 0).fCurrent ∧ (s.port 0).overExposed < 2) ∧
  (let s := fun (r : Nat) => port0 fun x => { x with fCurrent := 60000, overExposed := 2, rate := r };
    [0, 1, 2].all (fun r => decide (((s r).port 0).exposureFrame ≠ some (s r).frame ∧
      exposureLimit < exposure ((s r).port 0).rate ((s r).port 0).fCurrent ∧ 2 ≤ ((s r).port 0).overExposed ∧ ((s r).port 0).rate < 3 ∧
      ((s r).port 0).change = none)) = true) := by decide +kernel

/-- What LinkSettings asks for: each setting at the ends of its ranges, and a role set on a port in each state. -/
theorem witness_LinkSettings :
  (takes svc noFn (.linkGraceSet · 0 100) = true ∧ takes svc noFn (.linkGraceSet · 63 50000) = true ∧ svc.portWaits 63 = false) ∧
  (takes svc noFn (.linkModuleSet · 63 255 255 255 255) = true) ∧
  (takes svc noFn (.queueWeightSet · 0 0 1 0) = true ∧ takes svc noFn (.queueWeightSet · 95 15 1024 1024) = true ∧
    svc.hasEngine (95 - 64) = true) ∧
  (takes svc noFn (.queueMapSet · 0 0) = true ∧ (le 8 (0 : Nat)).all levelByteOk = true ∧ takes svc noFn (.signalBoxConfigSet · 255) = true) ∧
  (takes svc noFn (.linkRoleSet · 63 9 0) = true ∧ takes svc noFn (.linkRoleSet · 0 3 0xFFFF) = true ∧ (svc.port 1).state ≠ .UP) ∧
  (let s := port0 fun x => { x with hello := some hello0 }; (s.port 0).state = .UP ∧ (s.port 0).hello = some hello0 ∧
    takes s noFn (.linkRoleSet · 0 1 1) = true ∧
    ((s.counted.modPort 0 fun x => { x with roleSet := true, role := 1, peer := 1 }).port 0).partnerMatches hello0 = true ∧
    takes s noFn (.linkRoleSet · 0 1 2) = true ∧
    ((s.counted.modPort 0 fun x => { x with roleSet := true, role := 1, peer := 2 }).port 0).partnerMatches hello0 = false) := by decide +kernel

/-- What LinkStateCommands asks for: each command in each state that it distinguishes, and the ends of a drain. -/
theorem witness_LinkStateCommands :
  (takes svc noFn (.linkEnable · 2) = true ∧ (svc.port 2).role ≠ 0 ∧ (svc.port 2).state = .DISABLED ∧
    takes svc noFn (.linkEnable · 0) = true ∧ (svc.port 0).state ≠ .DISABLED ∧ svc.portWaits 0 = false) ∧
  (takes svc noFn (.linkDisable · 2) = true ∧ takes svc noFn (.linkDisable · 0) = true ∧ (svc.port 0).drain = none ∧
    svc.waitFull (hd 255 noFn) = false) ∧
  (takes svc noFn (.linkLanesRestore · 0) = true ∧ (svc.port 0).failed = 0#8 ∧ (svc.port 0).change = none) ∧
  (let s := port0 fun x => { x with failed := 1#8, hello := some hello0 }; takes s noFn (.linkLanesRestore · 0) = true ∧
    (s.port 0).failed ≠ 0#8 ∧ (s.port 0).hello = some hello0 ∧ (bestStep hello0.rate 8 (s.port 0).fHandshake).isSome) ∧
  (takes svc noFn (.linkStandby · 0) = true ∧ takes svc noFn (.linkStandby · 1) = true ∧ takes svc noFn (.linkWake · 1) = true ∧
    takes svc noFn (.linkWake · 0) = true) ∧
  (let s := port0 fun x => { x with drain := some (svc.ns, 7) }; (s.port 0).drain = some (svc.ns, 7) ∧ svc.ns ≤ s.ns ∧ s.portCells 0 = []) := by decide +kernel

/-- What CellsMove asks for: cells of VC4 and VC5 whose wait is over, and the choice of a fabric and of an engine egress. -/
theorem witness_CellsMove :
  (let q := qcell 4 false (svc.ns - 2048); let s := svc.setEgress 0 { Egress.initial with cells := [q] }; (s.egress 0).cells[0]? = some q ∧
    q.vc = 4 ∧ q.arrived + s.jn.escapeWait * 64 ≤ s.ns ∧ (s.escapeHop q.ingress q.cell.h).isSome = true) ∧
  (let q := { qcell 0 false 0 with queue := .wq 0 }; let s := svc.setEgress 0 { Egress.initial with cells := [q] };
    (s.selectCell 0).map (fun r => (r.1, r.2.cells[r.1]?)) = some (0, some q) ∧ q.esc = false) ∧
  (let q := { qcell 0 false 0 with queue := .wq 15 }; let s := svc.setEgress 95 { Egress.initial with cells := [q] };
    (s.selectCell 95).map (fun r => (r.1, r.2.cells[r.1]?)) = some (0, some q)) := by decide +kernel

/-- What RouteSettings asks for: each setting at the ends of its ranges. -/
theorem witness_RouteSettings :
  (let s := { svc with rst := { RST.reset with stage := .AWAIT } }; takes s noFn (.routeTopologySet · 1 1 1 1 0 0 0 0) = true ∧
    takes s noFn (.routeTopologySet · 16 16 16 16 65535 15 15 15) = true ∧ locX 65535 < 16 ∧ locY 65535 < 16 ∧ locZ 65535 < 16 ∧
    locRouter 65535 < 16) ∧
  (takes svc noFn (.routeEntrySet · 0 1 0 0 0) = true ∧ svc.jn.topology = true ∧ svc.jn.inTorus 0 = true ∧
    ((List.range 3).all fun k => dirsOk (svc.jn.dirs 0 k) 0) = true) ∧
  (let st := (1 : Nat); takes svc noFn (.routeEntrySet · st 0 0 0 3) = true ∧ svc.jn.inTorus st = true ∧
    dirsOk (svc.jn.dirs (st * 16) 0) 0 = true ∧ dirsOk (svc.jn.dirs (st * 16) 1) 0 = true ∧ dirsOk (svc.jn.dirs (st * 16) 2) 3 = true) ∧
  (takes svc noFn (.routeAdaptSet · 0 255 255 255) = true ∧ takes svc noFn (.routeAdaptSet · 1 0 0 0) = true) ∧
  (takes svc noFn (.poolConfigSet · 1) = true ∧ takes svc noFn (.poolConfigSet · 64) = true) ∧
  (takes svc noFn (.reasmQuotaSet · 0 16) = true ∧ takes svc noFn (.reasmQuotaSet · 1 1024) = true ∧ svc.badAtt 1 = false) := by decide +kernel

/-- What MulticastSettings asks for: groups 0 and 4,095, ingress 63 and 0x7F, groups present and absent, and members and senders of a
function. -/
theorem witness_MulticastSettings :
  (takes svc noFn (.multicastInstall · 0 63 1) = true ∧ svc.badMask 63 1 = false ∧
    takes svc noFn (.multicastInstall · 4095 0x7F 1) = true ∧ svc.badMask 0x7F 1 = false ∧ Tbl.has svc.jn.mcast 4095 = false) ∧
  (let s := { svc with jn := { svc.jn with mcast := [(5, { ingress := 0, mask := 2#80 })] } };
    takes s noFn (.multicastInstall · 5 0x7F 1) = true ∧ Tbl.has s.jn.mcast 5 = true ∧ takes s noFn (.multicastRemove · 5) = true) ∧
  (takes svc noFn (.multicastRemove · 5) = true ∧ Tbl.has svc.jn.mcast 5 = false) ∧
  (let s := memState; (s.fn? 32).isSome ∧ s.fnBusy 32 = false ∧ takes s 32 (.multicastMemberSet · 4095 3 2047 65535 2097151 15) = true ∧
    ((s.windowOf 32 3 15).map fun w => bit w.rights 2) = some true ∧ Tbl.has (s.engine 0).members 4095 = false) ∧
  (let m : Member := { fn := 32, sender := 0, senderFn := 0, index := 0, domain := 3, window := 15, gen := 2, base := 0, done := [], busy := [], violFrame := none };
    let s := memState.setEngine 0 { Engine.initial with members := [(7, m)] }; takes s 32 (.multicastMemberClear · 7) = true ∧
    Tbl.get? (s.engine 0).members 7 = some m ∧ m.fn = 32) ∧
  (let s := memState; takes s 32 (.multicastSenderSet · 4095 1 0 16) = true ∧ takes s 32 (.multicastSenderSet · 0 1 15 1) = true ∧
    (Tbl.get? s.cs.rankTables 1).map (fun t => (t.fn, t.size)) = some (32, 16) ∧ s.mapsFull 16 = false ∧
    (s.engines.any fun e => Tbl.has e.2.senders 4095) = false) ∧
  (let g : Sender := { fn := 32, rankTable := 1, first := 0, count := 1, seq := 0, srtt := 20000, out := [], resting := [] };
    let s := memState.setEngine 0 { Engine.initial with senders := [(7, g)] }; takes s 32 (.multicastSenderClear · 7) = true ∧
    Tbl.get? (s.engine 0).senders 7 = some g ∧ g.fn = 32 ∧ s.mcastInFlight 32 7 = false) := by decide +kernel

/-- What FunctionSettings asks for: each setting at the ends of its ranges, creation with a free and with a held generation, and with every
number used. -/
theorem witness_FunctionSettings :
  ((svc.fn? 32).isSome = true ∧ svc.fnBusy 32 = false ∧ takes svc 32 (.functionSchedSet · 7 1 1 15) = true ∧
    takes svc 32 (.functionSchedSet · 0 0 65535 0) = true) ∧
  (takes svc 32 (.functionShaperSet · 0 0) = true ∧ takes svc 32 (.functionShaperSet · 0xFFFFF 0xFFFFF) = true) ∧
  (takes svc 32 (.functionPolicerSet · 0 0 0 0 0 1024 1024) = true ∧
    takes svc 32 (.functionPolicerSet · 2 1 1 0xFFFFF 0xFFFFF 4294967295 1024) = true) ∧
  (takes svc 32 (.functionCcSet · 500 1 1 1 1) = true ∧ takes svc 32 (.functionCcSet · 65535 64 100 64 64) = true) ∧
  (takes svc 32 (.functionQuotaSet · 16320 0) = true ∧ (svc.fn? 32).map (fun x => decide (x.rings.length ≤ 0)) = some true ∧
    svc.ringsShort 32 16320 = false ∧ takes svc 32 (.functionQuotaSet · 0 (ctxMax .AX)) = true) ∧
  (let s := fnState fun x => { x with state := .READY }; takes s 32 (.functionPoolSet · 1 0 64 0 4095) = true ∧ s.manager ≠ some 32 ∧
    s.poolShort 32 0 1 0 = false ∧ takes s 32 (.functionPoolSet · 1984 0 0 0 0) = true) ∧
  (let r : Ring := { kind := 1, base := 0, indexAddr := 0, log2 := 6, irqEn := false, vector := 0, pd := 0, rankTable := 0, state := .ACTIVE, cause := 0, producer := 0, next := 0, done := 0, tally := 0, entries := [], stalled := none, reading := false, again := false, fetching := none, retried := false, retriedDesc := false, overrun := none, unpublished := none, bell := false, closing := false, fullFrame := none, held := [] };
    let s := fnState fun x => { x with rings := [(9, r)] }; takes s 32 (.eventRouteSet · 0x0C0 9 1) = true ∧ eventToF 0x0C0 = true ∧
    (s.fn? 32).map (fun x => x.hasEventRing 9) = some true) ∧
  (takes svc noFn (.functionCreate · 0 2 1 0 64 4095 16256 (ctxMax .AX)) = true ∧ svc.badAtt 0 = false ∧ 2 ≤ (svc.att 0).vfLimit ∧
    svc.fnAt 0 2 = none ∧ svc.freeFn ≤ 2047 ∧ svc.poolShort svc.freeFn 0 1 0 = false ∧ svc.ringsShort svc.freeFn 16256 = false) ∧
  (let s := { svc with gens := [(0, { gen := 1, frame := none, held := 0, goal := none }), (32, { gen := 1, frame := none, held := 0, goal := none }), (33, { gen := 7, frame := some svc.frame, held := 0, goal := none })] };
    (((s.counted.addFn 33 vf).advanceGen 33).genOf 33).held ≠ 0) ∧
  ((((({ svc with gens := [(33, { gen := 7, frame := none, held := 0, goal := none })] } : State).counted.addFn 33 vf).advanceGen 33).genOf 33).held = 0) ∧
  (takes (fullState 2048) noFn (.functionCreate · 0 2 1 0 0 0 0 0) = true ∧ (fullState 2048).fnAt 0 2 = none) := by decide +kernel

/-- What FunctionHorizon asks for: 10, 249, 250 and 10,000 ms, and 9 and 10,001. -/
theorem witness_FunctionHorizon :
  takes svc 32 (.functionHorizonSet · 10) = true ∧ takes svc 32 (.functionHorizonSet · 10000) = true ∧
    (svc.fn? 32).map (·.horizonMs) = some 250 ∧ takes svc 32 (.functionHorizonSet · 9) = true ∧
    takes svc 32 (.functionHorizonSet · 10001) = true := by decide +kernel

/-- What FunctionLife asks for: each command in each state that it distinguishes, with and without FORCE. -/
theorem witness_FunctionLife :
  (let s := fnState fun x => { x with state := .READY }; (hd 0 32).force = false ∧ s.waitFull (hd 0 32) = false ∧ s.fnBusy 32 = false ∧
    takes s 32 (.functionEnable ·) = true ∧ (s.fn? 32).map s.enableOk = some true ∧ takes s 32 (.functionDestroy ·) = true ∧
    s.unquiet 32 true true true = false ∧ takes s 32 (.functionDisable ·) = true ∧ forced s 32 (.functionDestroy ·) = true) ∧
  (takes svc 32 (.functionEnable ·) = true ∧ takes svc 32 (.functionDisable ·) = true ∧ svc.unquiet 32 true true true = false ∧
    forced svc 32 (.functionDisable ·) = true ∧ forced svc 32 (.functionReset ·) = true ∧
    takes svc 32 (.functionReset ·) = true ∧ svc.unquiet 32 true true false = false ∧ takes svc 32 (.functionFreeze · 1) = true ∧
    takes svc 32 (.functionFreeze · 10000) = true ∧ svc.unquiet 32 false true false = false ∧ takes svc 32 (.functionThaw ·) = true ∧
    (((svc.counted.tokensLost 32).modFn 32 fun z => { z with state := .FREEZING, freeze := some (svc.ns + 1000000) }).fn? 32).isSome = true) ∧
  (let s := fnState fun x => { x with state := .HALTED }; takes s 32 (.functionDisable ·) = true ∧ s.unquiet 32 true true true = false) ∧
  (let s := fnState fun x => { x with state := .RESETTING }; takes s 32 (.functionReset ·) = true) ∧
  (let s := fnState fun x => { x with state := .FROZEN, freezeGen := 1 }; takes s 32 (.functionThaw ·) = true ∧
    (s.fn? 32).map s.hostReady = some true ∧
    takes s 32 (.functionDestroy ·) = true ∧ takes s 32 (.functionSave · 0 1048576) = true ∧ s.managerReachable = true ∧
    (s.fn? 32).map (fun x => decide ((s.counted.blobOf 32 x).length ≤ 1048576)) = some true ∧ s.gen 32 = 1 ∧
    takes s 32 (.functionSave · 0 0) = true ∧ (s.fn? 32).map (fun x => decide (0 < (s.counted.blobOf 32 x).length)) = some true) ∧
  (let s := fnState fun x => { x with state := .READY }; takes s 32 (.functionRestore · 0 64) = true ∧
    (s.fn? 32).map s.hostReady = some true ∧ s.managerReachable = true ∧ s.manager = some 0) := by decide +kernel

/-- What ContextAndMatchTables asks for: each command at the ends of its ranges. -/
theorem witness_ContextAndMatchTables :
  (takes svc noFn (.flowSpillSet · 4096 4194304 1) = true ∧ takes svc noFn (.flowSpillSet · 0 0 0) = true ∧ svc.cs.spilled = []) ∧
  (takes svc noFn (.balerConfigSet · 0) = true ∧ takes svc noFn (.balerConfigSet · 1) = true) ∧
  (takes svc 32 (.rankTableCreate · 65535 1) = true ∧ Tbl.has svc.cs.rankTables 65535 = false ∧ 8 * 1 ≤ rankRegion svc.variant ∧
    takes svc 32 (.rankTableCreate · 0 2097152) = true) ∧
  (let s := { svc with cs := { CS.reset with rankTables := [(9, { fn := 0, size := rankRegion .AX / 8, entries := [] })] } };
    takes s 32 (.rankTableCreate · 0 1) = true ∧ rankRegion s.variant < sumNat (s.cs.rankTables.map fun t => 8 * t.2.size) + 8) ∧
  (let s := memState; takes s noFn (.rankTableWrite · 1 15 [0]) = true ∧ ([0] : List Nat).all s.entryOk = true ∧
    takes s noFn (.rankTableDestroy · 1) = true ∧ s.tableBound 1 = false) ∧
  (let s := memState; takes s 32 (.matchContextSet · 1 16 1 1048576 0 0) = true ∧ takes s 32 (.matchContextSet · 0 0 1000 0 0 0) = true ∧
    (s.fn? 32).map (fun x => s.matchInUse 32 x 1 16 1048576 0 0) = some false ∧
    s.grantsBut 32 (·.matchBytes) + matchBytes 16 1048576 0 0 ≤ matchRegion s.variant) ∧
  (let s := memState; takes s 32 (.matchCommSet · 15 1 3 15) = true ∧ s.ownsDomain 32 3 = true ∧ s.postedOn 32 15 = [] ∧
    takes s 32 (.matchCommSet · 0 1 3 0) = true) ∧
  (let s := memState.modFn 32 fun x => { x with comms := [(0, { rankTable := 1, domain := 3, ownRank := 0 })] };
    takes s 32 (.matchCommClear · 0) = true ∧ s.postedOn 32 0 = [] ∧ ((s.lists 32).unexpected.any fun u => u.comm == 0) = false ∧
    (s.fn? 32).map (fun x => Tbl.has x.comms 0) = some true) := by decide +kernel

/-- What WindowCommands asks for: domains of 16 and of 2^24 windows, a busy window, an invalidation of each kind, and each command on a window
and on a free slot. -/
theorem witness_WindowCommands :
  (takes svc 32 (.domainCreate · 65535 4 0) = true ∧ (svc.allocate [] (64 * 2 ^ 4)).isSome = true ∧
    takes svc 32 (.domainCreate · 0 24 1) = true ∧ (svc.allocate [] (64 * 2 ^ 24)).isSome = true ∧ svc.wu.domains = []) ∧
  (let s := { memState with wu := { memState.wu with slots := [] } }; takes s noFn (.domainDestroy · 3) = true ∧
    Tbl.has s.wu.domains 3 = true ∧ s.domainOpen 3 = false ∧ s.domainBound 3 = false) ∧
  (let s := { memState with wu := { memState.wu with revocations := [{ domain := 3, id := 15, why := .modify, started := 0, held := false }] } };
    s.windowBusy 3 15 = true ∧ takes s noFn (.windowRevoke · 3 15) = true ∧ takes s noFn (.windowQuery · 3 15) = true ∧
    s.waitFull (hd 255 noFn) = false) ∧
  (Inval.revoke.revokes = true ∧ Inval.modify.revokes = false ∧
    (let s := memState.setSlot 3 15 { win0 with revoked := some memState.frame };
      (Tbl.get? s.wu.slots (slotKey 3 15)).map (fun w => w.revoked == some s.frame) = some true) ∧
    (Tbl.get? memState.wu.slots (slotKey 3 15)).map (fun w => w.revoked == some memState.frame) = some false) ∧
  (let s := memState; s.windowBusy 3 0 = false ∧ (s.slot 3 0).valid = false ∧ takes s noFn (.windowOpen · 3 30 1 0 [(4096, 0)]) = true ∧
    [(4096, 0)].all extentOk = true ∧ (s.counted.placeExtents [] (layExtents [(4096, 0)] 0) true).isSome = true) ∧
  (let s := memState; s.windowBusy 3 15 = false ∧ 15 < 2 ^ 4 ∧ (s.slot 3 15).valid = true ∧ takes s noFn (.windowQuery · 3 15) = true ∧
    Tbl.has s.wu.slots (slotKey 3 15) = true ∧ takes s noFn (.windowRevoke · 3 15) = true) ∧
  (let s := memState; takes s noFn (.windowModify · 3 0 1 15 [4096]) = true ∧ takes s noFn (.windowModify · 3 30 0 15 [4096]) = true ∧
    badIova [4096] (s.slot 3 15).extents = none) ∧
  (let s := memState; takes s noFn (.windowDirtyEnable · 3 15) = true ∧ (s.counted.addBitmaps [] (s.slot 3 15).extents).isSome = true ∧
    takes s noFn (.windowDirtyDisable · 3 15) = true ∧ takes s noFn (.windowDirtyFetch · 3 15 0 0) = true ∧ s.managerReachable = true ∧
    ((s.slot 3 15).extents.flatMap (·.mapBytes)).length ≤ 0 ∧ takes s noFn (.windowDirtyClearMarks · 3 15) = true) := by decide +kernel

/-- What CollectiveAndTokenCommands asks for: groups and tokens at the ends of their numbers. -/
theorem witness_CollectiveAndTokenCommands :
  (takes svc noFn (.collGroupCreate · 0 0 0xFF 0 0 2 []) = true ∧ takes svc noFn (.collGroupCreate · 1023 255 0xFF 0 16 524288 []) = true ∧
    svc.assigned 0 = true ∧ groupDepth 0 = 4 ∧ groupDepth 16 = 16 ∧ svc.group? 1023 = none ∧ svc.rh.groups.length < 1024 ∧
    (Group.initial 255 0xFF 0 16 524288 []).storeKib ≤ svc.rhFreeKib ∧
    (svc.counted.createGroup 1023 (Group.initial 255 0xFF 0 16 524288 [])).isSome = true) ∧
  (let s := svc; takes s noFn (.collGroupCreate · 0 0 63 0 2 2 [0]) = true ∧ s.edgePort 63 = true ∧ [0].contains 63 = false ∧
    [0].all s.edgePort = true ∧ hasRepeat [0] = false ∧ (s.counted.createGroup 0 (Group.initial 0 63 0 2 2 [0])).isSome = true) ∧
  (let s := svc.setGroup 1023 (group0 1); s.group? 1023 = some (group0 1) ∧ takes s noFn (.collGroupDestroy · 1023) = true ∧
    takes s noFn (.collGroupReset · 1023 255) = true ∧ s.groupOps 1023 = [] ∧ takes s 32 (.collMemberSet · 1023 0 1) = true ∧
    1 < (group0 1).size ∧ s.badAtt 0 = false ∧ takes s noFn (.collGroupQuery · 1023) = true) ∧
  (let s := svc.setGroup 0 (group0 2); s.group? 0 = some (group0 2) ∧ forced s noFn (.collGroupDestroy · 0) = true) ∧
  (let t : State := { svc.counted with tk := { svc.tk with rights := Tbl.put svc.tk.rights 63 { enable := true, first := 0, last := 2047, pfMask := BitVec.ofNat 32 (2 ^ 32 - 1) } } };
    takes svc noFn (.tokenGroupRightsSet · 63 1 0 2047 4294967295) = true ∧ svc.counted.rightsBusy t 63 = false) ∧
  (takes svc noFn (.tokenFabricHomeSet · 63 1) = true ∧ takes svc noFn (.tokenFabricHomeSet · 0 0) = true ∧ (svc.home 0).holder = none) ∧
  (takes svc 32 (.tokenFabricBind · 63 63 0) = true ∧ svc.binding? 63 = none ∧ svc.bindingCount 32 < 2 ∧ svc.fnBusy 32 = false) ∧
  (let s := tokState (bind0 .IDLE none) freeTok (home0 none) []; takes s 32 (.tokenFabricUnbind · 5) = true ∧
    s.ownBinding 32 5 = some (bind0 .IDLE none) ∧ (bind0 .IDLE none).waits = false) ∧
  (let s := tokState (bind0 .IDLE none) { freeTok with holder := some 32 } (home0 none) [];
    takes s noFn (.tokenForceRelease · 1023) = true ∧ (s.localToken 1023).holder.isSome = true) ∧
  (takes svc noFn (.tokenQuery · 0 1023) = true ∧ takes svc noFn (.tokenQuery · 1 63) = true ∧ takes svc noFn (.tokenQuery · 2 63) = true ∧
    tokenCount 0 = 1024 ∧ 63 < tokenCount 1 ∧ 63 < tokenCount 2) := by decide +kernel

/-- What TokenAccesses asks for: a local token that is free, held by the reader and held by another, with and without waiters and room for one
more; a binding in each state. -/
theorem witness_TokenAccesses :
  (let s := tokState (bind0 .IDLE none) freeTok (home0 none) []; s.alive = true ∧
    (s.fn? 32).map (fun x => (x.state, s.tokenRight 32 x 0, s.tokenRight 32 x 63)) = some (.RUNNING, true, true) ∧ 1023 / 16 = 63 ∧
    (s.localToken 1023).holder = none) ∧
  (let s := tokState (bind0 .IDLE none) { freeTok with holder := some 32, waiters := [party 0] } (home0 none) [];
    (s.localToken 15).holder = some 32 ∧ (nextWaiter (s.localToken 15).waiters).isSome = true ∧ nextWaiter [] = none) ∧
  (let s := tokState (bind0 .IDLE none) { freeTok with holder := some 0 } (home0 none) []; (s.localToken 15).holder = some 0 ∧
    ((s.localToken 15).waiters.any fun w => w.fn == 32) = false ∧ s.waiterRoom (s.endpoint 0) 32 = true) ∧
  (let s := tokState (bind0 .IDLE none) { freeTok with holder := some 0 } { home0 none with waiters := List.replicate 8 (party 32) } [];
    ((s.localToken 15).waiters.any fun w => w.fn == 32) = false ∧ s.waiterRoom (s.endpoint 0) 32 = false) ∧
  (let s := tokState (bind0 .IDLE none) { freeTok with holder := some 0, waiters := [party 32] } (home0 none) [];
    ((s.localToken 15).waiters.any fun w => w.fn == 32) = true) ∧
  (let s := tokState (bind0 .PENDING (some req0)) freeTok (home0 none) []; s.ownBinding 32 5 = some (bind0 .PENDING (some req0)) ∧
    (bind0 .PENDING (some req0)).req.isSome = true ∧ (bind0 .PENDING (some req0)).waits = true ∧
    (bind0 .PENDING (some req0)).state ≠ .HELD) ∧
  (let s := tokState (bind0 .HELD none) freeTok (home0 none) []; s.ownBinding 32 5 = some (bind0 .HELD none) ∧
    (bind0 .HELD none).ready = none ∧ (bind0 .HELD none).req = none) ∧
  ((bind0 .IDLE none).req = none ∧ (bind0 .IDLE none).ready = none ∧ (bind0 .IDLE none).state ≠ .HELD ∧
    { bind0 .IDLE none with ready := some 1 }.ready = some 1) := by decide +kernel

/-- What TokenMessages asks for: each message at home 63, free, held by its sender and by another, enabled and not; an ANSWER and a GRANT of a
waiting and of an idle binding, and of a release. -/
theorem witness_TokenMessages :
  (let s := tokState (bind0 .IDLE none) freeTok (home0 none) [(0, msg0 tmACQUIRE)]; s.alive = true ∧ (msg0 tmACQUIRE).index < 64 ∧
    (s.tk.inbox.find? fun n => n.2.kind == (msg0 tmACQUIRE).kind) = some (0, msg0 tmACQUIRE) ∧ (s.home 63).enable = true ∧
    (s.home 63).earlier (msg0 tmACQUIRE) = none ∧ (s.home 63).holder = none) ∧
  (let h := home0 (some (party 32)); h.heldBy (msgParty (msg0 tmRELEASE)) = true ∧ (party 32).same (msgParty (msg0 tmWAIT)) = true ∧
    (party 0).same (msgParty (msg0 tmWAIT)) = false ∧ { h with granting := some 9 }.granting = some (msg0 tmGRANT_ACK).request ∧
    h.earlier (msg0 tmRENEW) = none ∧ { h with enable := false }.enable = false ∧
    ({ h with answers := [((0, 5 + 256 * tmWAIT), 9, msg0 tmANSWER)] } : Home).earlier (msg0 tmWAIT) = some (msg0 tmANSWER)) ∧
  (let s := tokState (bind0 .IDLE none) freeTok (home0 (some (party 0))) [(0, msg0 tmWAIT)];
    ((s.home 63).waiters.any (·.same (msgParty (msg0 tmWAIT)))) = false ∧ s.waiterRoom 0 32 = true) ∧
  (let s := tokState (bind0 .IDLE none) freeTok { home0 (some (party 0)) with waiters := List.replicate 8 (party 32) } [(0, msg0 tmWAIT)];
    s.waiterRoom 0 32 = false ∧ ((s.home 63).waiters.any (·.same (msgParty (msg0 tmWAIT)))) = true) ∧
  (let s := tokState (bind0 .PENDING (some req0)) freeTok (home0 none) [(0, msg0 tmANSWER)]; s.binding? 5 = some (bind0 .PENDING (some req0)) ∧
    Tbl.has s.tk.releases 9 = false ∧ req0.request = (msg0 tmANSWER).request ∧
    (let r : Release := { homeLoc := 0, msg := msg0 tmRELEASE, sent := 0, wait := 50000 };
      Tbl.has ({ s with tk := { s.tk with releases := [(9, r)] } } : State).tk.releases (msg0 tmANSWER).request = true)) ∧
  (let s := tokState { bind0 .WAITING none with gen := 1 } freeTok (home0 none) [(0, { msg0 tmGRANT with index := 7 })];
    (s.binding? 5).map (fun x => (x.named { msg0 tmGRANT with index := 7 }, x.homeLoc, x.waits)) = some (true, 0, true) ∧
    (s.binding? 5).map (fun x => x.named (msg0 tmGRANT)) = some false ∧ (bind0 .IDLE none).waits = false) := by decide +kernel

/-- What TokensInTime asks for: each timer at its end. -/
theorem witness_TokensInTime :
  (let q : TokenReq := { req0 with sent := svc.ns - 50000, first := svc.ns - 50000 }; let x := bind0 .PENDING (some q);
    let s := tokState x freeTok (home0 none) []; s.alive = true ∧ s.binding? 5 = some x ∧ q.sent + q.wait ≤ s.ns ∧
    s.ns + minN (2 * q.wait) 1000000 ≤ s.requestLimit x q) ∧
  (let x := bind0 .PENDING (some req0); let s := tokState x freeTok (home0 none) []; s.requestLimit x req0 ≤ s.ns) ∧
  (let r : Release := { homeLoc := 0, msg := msg0 tmRELEASE, sent := svc.ns - 50000, wait := 50000 };
    let s := { svc with tk := { svc.tk with releases := [(9, r)] } }; Tbl.get? s.tk.releases 9 = some r ∧ r.sent + r.wait ≤ s.ns) ∧
  ((bind0 .HELD none).state = .HELD ∧ (bind0 .WAITING none).state = .WAITING ∧ (bind0 .HELD none).lastSent / 1000000 < svc.frame) ∧
  (let x := { bind0 .HELD none with renewed := svc.ns - 3000000 }; x.renewed + 3000000 ≤ svc.ns) ∧
  (let s := tokState (bind0 .IDLE none) freeTok { home0 (some (party 32)) with lease := svc.ns } []; (s.home 63).holder.isSome = true ∧
    (s.home 63).granting.isSome = false ∧ (s.home 63).lease ≤ s.ns ∧
    { home0 (some (party 32)) with granting := some 9 }.granting.isSome = true) := by decide +kernel

/-- What Queries asks for: each query at the ends of its numbers. -/
theorem witness_Queries :
  (takes svc noFn (.deviceInfo ·) = true ∧ takes svc noFn (.linkQuery · 0) = true ∧ takes svc noFn (.linkQuery · 63) = true ∧
    takes svc noFn (.routeQuery · 4095) = true ∧ takes svc noFn (.timeQuery ·) = true) ∧
  (let s := { svc with tt := { svc.tt with resv := [(65535, resv1)] } }; takes s noFn (.reservationQuery · 65535) = true ∧
    Tbl.get? s.tt.resv 65535 = some resv1) ∧
  (takes svc 32 (.functionQuery ·) = true ∧ takes svc 32 (.meterRead ·) = true ∧ takes svc noFn (.telemetryRead ·) = true ∧
    takes svc noFn (.faultStatusRead ·) = true ∧ takes svc noFn (.fwQuery ·) = true) ∧
  (takes svc noFn (.violationLogRead · 255 1) = true ∧ takes svc noFn (.violationLogRead · 0 256) = true) ∧
  (takes svc noFn (.registerRead · 4 0 1024) = true ∧ takes svc noFn (.registerRead · 8 67108856 1) = true ∧ badWidth 4 = false ∧
    badWidth 8 = false ∧ 67108856 % 8 = 0) := by decide +kernel

/-- What DeviceSettings asks for: each setting at the ends of its ranges. -/
theorem witness_DeviceSettings :
  (takes svc noFn (.pinConfigSet · 0 0) = true ∧ takes svc noFn (.pinConfigSet · 15 26) = true ∧ bits 26 1 0 ≠ 3 ∧ bits 26 3 2 ≠ 3) ∧
  (takes svc noFn (.controlAccessSet · 15 [65535, 0, 1, 2]) = true) ∧
  (takes svc noFn (.registerWrite · 4 67108860 4294967295) = true ∧ takes svc noFn (.registerWrite · 8 0 18446744073709551615) = true) ∧
  (takes svc noFn (.telemetryThresholdSet · 0 1680) = true ∧ (defaultWarn 0).isSome = true ∧ warnValue 0 1680 ≤ 1680 ∧
    takes svc noFn (.telemetryThresholdSet · 15 65535) = true) ∧
  (takes svc noFn (.faultSeveritySet · 0 0) = true ∧ (faultRow 0).map (fun r => r.2.contains (severityOfCode 0)) = some true ∧
    (faultRow 0).map (fun r => r.2.contains (severityOfCode 3)) = some true ∧ takes svc noFn (.faultSeveritySet · 0 3) = true) ∧
  (let s := { svc with fc := { svc.fc with latched := [336] } }; takes s noFn (.faultClear · 336) = true ∧ (faultRow 336).isSome = true ∧
    ({ s with tt := { s.tt with sync := .LOCKED } } : State).faultPersists 336 = false ∧ s.faultPersists 336 = true) ∧
  (takes svc noFn (.meterRingSet · 64 6 0) = true ∧ takes svc noFn (.meterRingSet · 0 16 1) = true) := by decide +kernel

/-- What ModeSet asks for: each move from each mode. -/
theorem witness_ModeSet :
  (let m := fun (x : Mode) (st : BootStage) => ({ svc with rst := { svc.rst with mode := x, stage := st, drained := true } } : State);
    takes (m .SERVICE .DONE) noFn (.modeSet · 2) = true ∧ takes (m .BRINGUP .AWAIT) noFn (.modeSet · 2) = true ∧
    takes (m .DRAIN .DONE) noFn (.modeSet · 2) = true ∧ takes (m .HEATH .DONE) noFn (.modeSet · 2) = true ∧
    takes (m .SERVICE .DONE) noFn (.modeSet · 3) = true ∧ takes (m .DRAIN .DONE) noFn (.modeSet · 4) = true ∧
    takes (m .DRAIN .DONE) noFn (.modeSet · 3) = true ∧ takes (m .HEATH .DONE) noFn (.modeSet · 4) = true) ∧
  (let m := fun (x : Mode) (st : BootStage) => ({ svc with rst := { svc.rst with mode := x, stage := st } } : State);
    takes (m .BRINGUP .AWAIT) noFn (.modeSet · 3) = true ∧ takes (m .HEATH .DONE) noFn (.modeSet · 3) = true ∧
    takes (m .BRINGUP .AWAIT) noFn (.modeSet · 4) = true ∧ takes (m .SERVICE .DONE) noFn (.modeSet · 4) = true ∧
    (m .HEATH .DONE).avsStopped = false ∧ (m .BRINGUP .AWAIT).jn.topology = true ∧ (m .HEATH .DONE).waitFull (hd 255 noFn) = false) := by decide +kernel

/-- What ManagerResetsAndForwards asks for: each command at the ends of its numbers. -/
theorem witness_ManagerResetsAndForwards :
  (takes svc noFn (.managerSet · 0xFF) = true ∧ takes svc noFn (.managerSet · 0) = true ∧ svc.badAtt 0 = false ∧
    svc.adminBusy (.mctp 8 1) = false ∧ takes svc noFn (.deviceReset ·) = true ∧ svc.rst.mode ≠ .OFF ∧ svc.rst.deferred = none ∧
    takes { svc with manager := none } noFn (.managerSet · 0) = true) ∧
  (takes svc noFn (.blockReset · 1 63) = true ∧ (svc.port 63).state ≠ .DISABLED ∧ svc.portWaits 63 = false) ∧
  (takes svc noFn (.blockReset · 2 31) = true ∧ (svc.counted.resetEngine 31).fnsOf 31 = [] ∧ takes svc noFn (.blockReset · 3 15) = true) ∧
  (let s := { svc with manager := none }; takes s noFn (.blockReset · 2 0) = true ∧ (s.counted.resetEngine 0).fnsOf 0 ≠ []) ∧
  (takes svc noFn (.hostPortSplitSet · 15 0) = true ∧ takes svc noFn (.hostPortSplitSet · 15 1) = true ∧ svc.splitBusy 15 1 = false ∧
    svc.splitBusy 15 0 = false) ∧
  (let p := le 2 0x0101 ++ List.replicate 14 (0#8); takes svc noFn (.commandForward · 16 p) = true ∧ rd p 0 2 ≠ 0x010C ∧
    svc.waitFull (hd 255 noFn) = false) ∧
  (let x : Forward := { location := 16, packet := [], sent := svc.ns - 10000000, deadline := svc.ns };
    let s := { svc with cc := { svc.cc with forwards := [(65535, x)] } }; s.alive = true ∧ Tbl.get? s.cc.forwards 65535 = some x ∧
    x.sent + 10000000 ≤ s.ns ∧ x.deadline ≤ s.ns) := by decide +kernel

/-- What JournalCommands asks for: each command that its checks let pass. -/
theorem witness_JournalCommands :
  (svc.waitFull (hd 255 noFn) = false ∧ svc.jr.state ≠ .UNSUPPORTED ∧ takes svc noFn (.configSave · 0) = true ∧
    takes svc noFn (.configSave · 1) = true ∧
    ({ type := 0x20, number := 0, payload := svc.counted.configPayload 1 } : JRec).size ≤ 1048576) ∧
  (takes journalState noFn (.journalRead · 0 1 0 0) = true ∧ takes journalState noFn (.journalRead · 1 1024 0 0) = true ∧
    takes journalState noFn (.journalRead · 2 1 0 2) = true ∧ journalState.pastNewest 2 0 = false ∧ journalState.pastNewest 0 0 = false ∧
    journalState.pastNewest 1 0 = false ∧ journalState.configLength 0 = 2) ∧
  (takes svc noFn (.evidenceHold · 0) = true ∧ svc.jr.hold = ((0 : Nat) == 1) ∧ takes svc noFn (.evidenceHold · 1) = true ∧
    svc.jr.hold ≠ ((1 : Nat) == 1)) ∧
  (takes svc noFn (.fwStageBegin · 1 33554432) = true ∧ svc.fwBusy = false ∧ 1 ≠ svc.cc.running ∧ svc.cc.stage = none ∧
    forced svc noFn (.fwStageBegin · 2 0) = true ∧
    svc.jr.slotBad.getD 1 0 + ceilDiv (256 + 33554432) 262144 ≤ 144 ∧ svc.jr.slotBad.getD 2 0 + ceilDiv 256 262144 ≤ 144) ∧
  (let g : Stage := { slot := 1, length := 32768, data := [], spoilt := false }; let s := { svc with cc := { svc.cc with stage := some g } };
    s.cc.stage = some g ∧ takes s noFn (.fwStageData · 0 [1#8]) = true ∧ s.beyondStage 0 1 = false ∧ takes s noFn (.fwStageEnd ·) = true ∧
    takes s noFn (.fwStageAbort ·) = true ∧ s.fwBusy = false ∧ s.beyondStage 32767 1 = false) ∧
  (let s := svc;
    takes s noFn (.fwActivate · 0) = true ∧ (s.fwSlot 0).state = .VALID ∧ s.cc.standbyReady = true ∧ s.fwBusy = false ∧
    takes s noFn (.fwBootSlotSet · 1) = true ∧ takes s noFn (.fwBootSlotSet · 0) = true) ∧
  (let t := svc.counted.evidenceRecord 5 (le 8 svc.ns ++ List.replicate 48 (0#8));
    let u : State := { t with jr := { t.jr with evBuf := [], evSince := none } };
    takes svc noFn (.journalMark · (List.replicate 48 (0#8))) = true ∧ svc.jr.evidenceFull = false ∧ u.waitFull (hd 255 noFn) = false ∧
    u.jr.state ≠ .UNSUPPORTED) := by decide +kernel

/-- What MakerProcedure asks for: the command is accepted. -/
theorem witness_MakerProcedure :
  takes svc noFn (.makerProcedure · [1#8]) = true := by decide +kernel

/-- What JournalEvents asks for: the end and the loss of a pulse of each kind, a page read, evidence 1 s old and an anchor 1 h old, a patrol of a
fresh block and of an old one, and an activation that ends. -/
theorem witness_JournalEvents :
  (let cur := fun (o : JOp) => ({ svc with jr := { svc.jr with current := some o, pulse := some 0 } } : State);
    let t := fun (o : JOp) => ({ cur o with jr := { (cur o).jr with current := none, pulse := none } } : State);
    let r : JRec := { type := 1, number := 0, payload := [] }; let p := JOp.program 3 0 [r];
    svc.alive = true ∧ svc.rst.deferred = none ∧ (cur p).jr.current = some (.program 3 0 [r]) ∧ p.isPulse = true ∧
    ((t p).programPage ((t p).jr.evBlocks.getLast?.getD 0) (t p).jr.evFill 3 0 [] (numbered (t p).jr.evNext [r])).rst.deferred = none ∧
    ((t .anchor).programPage (t .anchor).jr.anchorBlock (t .anchor).jr.anchorFill 1 3 []
      [{ type := 0x30, number := (t .anchor).jr.anchorNext, payload := [] }]).rst.deferred = none ∧ JOp.anchor.isPulse = true ∧
    ((t (.erase 575)).tally 0x50038).rst.deferred = none ∧ (JOp.erase 575).isPulse = true ∧
    ((t p).pulseFailed p).rst.deferred = none ∧ ((t .anchor).pulseFailed .anchor).rst.deferred = none) ∧
  (let s : State := { svc with jr := { svc.jr with current := some .read } }; s.jr.current = some .read ∧ s.alive = true ∧
    (readPages [] []).2.2 = 0 ∧ (readPages [] []).2.1 ≤ 24) ∧
  (let s : State := { svc with jr := { svc.jr with evSince := some (svc.ns - 1000000000), evBuf := [{ type := 1, number := 0, payload := [] }] } };
    s.jr.evSince = some (svc.ns - 1000000000) ∧ svc.ns - 1000000000 + 1000000000 ≤ s.ns ∧ s.jr.evBuf ≠ [] ∧ s.jr.state ≠ .UNSUPPORTED) ∧
  (let s := { svc with jr := { svc.jr with age := 3600 } }; s.jr.anchorAge + 3600 ≤ s.jr.age ∧ s.jr.queue.contains .anchor = false ∧
    s.jr.current ≠ some .anchor) ∧
  (let u := fun (s : State) => ((s.tally 0x50040 0).evidences 0x50050 0).loseSectors 0 (unreadable 0 [] []);
    let p : JPage := { block := 0, page := 0, region := 2, flags := 3, seq := 0, age := 0, recs := [], rest := [] };
    let s := { svc with jr := { svc.jr with age := 31622400, pages := [p] } };
    svc.jr.state = .READY ∧ (u svc).jr.oldBlock 0 = false ∧ (u s).jr.oldBlock 0 = true) ∧
  (let w : Waiting := { instr := .fwActivate (hd 255 noFn) 0, hdr := hd 255 noFn, opcode := 0x0A05, on := .activate };
    let s := { svc with cc := { svc.cc with waiting := [w] } }; (s.cc.waiting.find? fun w => w.on == .activate) = some w ∧
    (s.swapPairs.journalPush .anchor).cc.held = [] ∧ (s.setFwSlot 0 (s.fwSlot 0)).cc.held = []) := by decide +kernel

/-- What BringUpAndSupply asks for: the end of each stage, a PLL, a drain, a wake from HEATH and samples below the trip. -/
theorem witness_BringUpAndSupply :
  (let at_ := fun (st : BootStage) => ({ State.reset with rst := { RST.reset with stage := st } } : State);
    ([BootStage.STRAP, .FUSE, .PLL, .SRAM, .BOOT, .HBM, .LINKS, .CONFIG].all fun st => (at_ st).bringing) = true ∧
    (at_ .BOOT).endBoot.rst.stage ≠ .LINKS ∧
    (State.endBoot { at_ .BOOT with variant := .TX }).rst.stage = .LINKS) ∧
  (let s := { svc with rst := { svc.rst with mode := .DRAIN } }; s.rst.drained = false ∧ s.hasDrained = true ∧ s.rst.mode = .DRAIN) ∧
  (let s := { svc with rst := { svc.rst with mode := .HEATH } }; svc.running = true ∧ svc.avsStopped = false ∧ 2 ≤ stageCode svc.rst.stage ∧
    s.targetLegal 700 = true) ∧
  (svc.rst.thermalHold = false ∧ svc.sensorPresent 0 = true ∧ svc.sensorPresent 15 = true ∧ (1791 : Int) < 1792 ∧ (15 : Nat) ≠ 12) := by decide +kernel

/-- What DeviceResets asks for: each source of a reset, due with and without a pulse in progress, in BRINGUP and outside it. -/
theorem witness_DeviceResets :
  (svc.rst.mode ≠ .OFF ∧ svc.rst.resetN = false ∧ State.reset.rst.mode = .BRINGUP ∧ State.reset.rst.stage = .STRAP ∧
    svc.rst.watchdog = true) ∧
  (svc.rst.thermalHold = false ∧ (7 : Nat) < 8 ∧ (1792 : Int) ≤ 1792) ∧
  (let s := { svc with rst := { svc.rst with thermalHold := true, hotAt := svc.ns - 1000000000 } }; s.rst.thermalHold = true ∧
    s.rst.deferred = none ∧ s.rst.hotAt + 1000000000 ≤ s.ns) ∧
  (({ svc with rst := { RST.reset with mode := .OFF } } : State).rst.mode = .OFF) ∧
  (let due := fun (m : Mode) (p : Option Nat) =>
      ({ svc with rst := { svc.rst with mode := m, deferred := some (3, 0) }, jr := { svc.jr with pulse := p } } : State);
    (due .SERVICE (some 0)).rst.deferred = some (3, 0) ∧ (due .SERVICE (some 0)).jr.pulse.isSome = true ∧
    (due .SERVICE none).jr.pulse = none ∧ (due .SERVICE none).rst.mode ≠ .BRINGUP ∧ (due .BRINGUP none).rst.mode = .BRINGUP) := by decide +kernel

/-- What FaultEvents asks for: a source of each severity, a mismatch with a standby pair ready, a takeover that ends, the self-fault codes at
their ends, HALT, drains that are over, a leaving bank, and corrections of new and of known rows. -/
theorem witness_FaultEvents :
  (let i : FaultInfo := { source := 0, inst := 0, address := 0, syndrome := 0 };
    let ok := fun (s : State) (n : Nat) (v : Severity) => s.asserts (s.sourceOf { i with source := n }).source && decide (s.severity n = v)
      && !decide ((s.latchFault { i with source := n } (s.applied n v) false).rst.mode = .HALT);
    let s := { svc with fc := { svc.fc with severity := [(64, .HALT)] } };
    svc.running = true ∧ ok svc 0 .LOG = true ∧ ok s 64 .HALT = true ∧ ok svc 354 .HALT = true ∧ svc.railsWatched = true ∧ ok svc 64 .CONTAIN = true ∧
    ok svc 336 .LOG = true ∧ ok svc 208 .DEGRADE = true ∧
    (svc.sourceOf { i with source := 64 }).source ≠ 356 ∧ (svc.sourceOf { i with source := 64 }).source ≠ 350) ∧
  (svc.asserts 350 = true ∧ svc.cc.standbyReady = true ∧ svc.severity 350 = .LOG) ∧
  (let s := { svc with cc := { svc.cc with takeover := some 0, reloading := true } }; s.cc.takeover = some 0 ∧ s.swapPairs.cc.held = [] ∧
    s.cc.reloading = true) ∧
  (svc.fc.selfFault = false ∧ failedWordOk 0 = true ∧ failedWordOk 11 = true ∧ failedWordOk 16 = true ∧ failedWordOk 39 = true ∧
    failedWordOk 255 = true) ∧
  (let s := { svc with rst := { svc.rst with mode := .HALT, haltAt := svc.ns - 100000 } }; s.rst.haltAt + 100000 ≤ s.ns ∧
    s.rst.haltRecorded = false ∧ s.jr.pulse = none ∧ s.jr.usable = true ∧ s.rst.mode = .HALT) ∧
  (let s := svc.setEngine 31 { Engine.initial with draining := true }; (s.engine 31).draining = true ∧ s.attWork 31 = false ∧
    s.alive = true) ∧
  (let s := svc.setHostPort 15 { HostPort.initial with draining := true }; (s.hostPort 15).draining = true ∧ s.attWork 30 = false ∧
    s.attWork 31 = false) ∧
  (({ svc with jn := { svc.jn with banksLeaving := [175] } } : State).jn.banksLeaving.contains 175 = true) ∧
  (secondCorrection (recent svc.ns svc.fc.corrected) 175 0 1 = false ∧ secondCorrection (recent svc.ns [(175, 0, svc.ns)]) 175 0 1 = true ∧
    secondCorrection (recent svc.ns [(1, 0, svc.ns)]) 1 0 1 = true ∧ svc.hasUnit 49 = true) := by decide +kernel

/-- What HaltStopsTheBlock asks for: a block in SERVICE with a waiting command of MCTP. -/
theorem witness_HaltStopsTheBlock :
  let s := { svc with cc := { svc.cc with waiting := [{ instr := .linkDisable (hd 255 noFn) 0, hdr := hd 255 noFn, opcode := 0x0202, on := .linkDisable 0 }] } };
    s.rst.mode ≠ .HALT ∧ s.rst.mode ≠ .OFF ∧ s.cc.waiting.length = 1 := by decide +kernel

/-- What ManagementAndPackets asks for: ids 1 and 254, packets in good and in bad form, CONTROL cells of each class, transfers that are one
cell, that lack a fragment and that find no room, and one that has been silent for 1 ms. -/
theorem witness_ManagementAndPackets :
  (svc.serves (.mctp 0 0) = true ∧ svc.mctpOn = true ∧ svc.serves (.mctp 255 7) = true) ∧
  (let p := (⟨hd 255 noFn, 0x0204, [63, 100], []⟩ : Cmd).bytes; let i := (opInfo 0x0204).getD ⟨0, .any, false, [], .none⟩;
    frameFault p = none ∧ rd p 0 2 = 0x0204 ∧ (opInfo 0x0204).isSome = true ∧
    ((parseArea i (hdrOf (.mctp 8 1) p) (p.drop 16)).map fun c => (paddingFault i c (p.drop 16), instrOf c)) = some (none, some (.linkGraceSet (hd 255 noFn) 63 100)) ∧
    frameFault [] = some (.BAD_PACKET, 8) ∧ frameFault (patch p 0 (le 2 0xFFFF)) = none ∧ opInfo (rd (patch p 0 (le 2 0xFFFF)) 0 2) = none ∧
    frameFault (patch (p.take 17) 8 (le 2 1)) = none ∧ (parseArea i (hdrOf (.mctp 8 1) p) ((p.take 17).drop 16)).isNone = true) ∧
  (let c := fun (d cls flags num : Nat) => wcell 7 7 d 1 0 (le 1 cls ++ le 1 flags ++ le 2 num ++ le 4 32 ++ List.replicate 56 (0#8));
    let q := fun (x : WireCell) => { qcell 7 false 0 with cell := x };
    let s := fun (x : WireCell) (l : List Assembly) => ({ svc with cc := { svc.cc with controlIn := [q x], assemblies := l } } : State);
    let a : Assembly := { source := 1, transfer := 1, cls := 1, frags := [], last := none, at_ := svc.ns - 1000000 };
    (s (c 0 1 3 0) []).cc.controlIn = [q (c 0 1 3 0)] ∧ (c 1 1 3 0).h.dest % 32 ≠ 0 ∧ (c 0 1 3 0).h.dest % 32 = 0 ∧
    rd (c 0 0 3 0).payload 0 1 = 0 ∧ 3 < rd (c 0 4 3 0).payload 0 1 ∧ rd (c 0 1 3 0).payload 0 1 = 1 ∧ rd (c 0 2 3 0).payload 0 1 = 2 ∧
    rd (c 0 3 3 0).payload 0 1 = 3 ∧ envelopeOk (c 0 1 3 0).payload = true ∧ envelopeOk (c 0 2 2 1170).payload = true ∧
    envelopeOk (c 0 3 3 0).payload = true ∧ tokenOk (patch (List.replicate 56 (0#8)) 0 (le 1 8)) = true ∧
    (c 0 1 3 0).h.tag = 1 ∧ controlSource (c 0 1 3 0).payload = 1 ∧ bit (rd (c 0 1 3 0).payload 1 1) 1 = true ∧
    bit (rd (c 0 1 1 0).payload 1 1) 1 = false ∧
    ((List.replicate 8 { a with source := 2 }).filter fun x => !(x.source == 1 && x.transfer == 1 && x.cls == 1)).length = 8 ∧
    (svc.cc.assembly 1 1 1 svc.ns).frags = [] ∧ (svc.cc.assembly 1 1 1 svc.ns).cls = 1 ∧
    Tbl.has (Tbl.put ([] : Tbl (List Byte)) 0 []) 0 = true ∧ Tbl.has (Tbl.put ([] : Tbl (List Byte)) 1 []) 0 = false ∧
    (let f : Forward := { location := 1, packet := [], sent := 0, deadline := 0 };
      (Tbl.get? ({ s (c 0 2 3 0) [] with cc := { (s (c 0 2 3 0) []).cc with forwards := [(1, f)] } } : State).cc.forwards 1).map (·.location) = some 1) ∧
    (s (c 0 1 3 0) [a]).cc.assemblies = [a] ∧ a.at_ + 1000000 ≤ svc.ns ∧ svc.alive = true) := by decide +kernel

/-- What WaitsAndCompletions asks for: a function at its reset point, a generation and a revocation held and released, a takeover, an
activation, a pair under test, and a read of each use, awaited and stale. -/
theorem witness_WaitsAndCompletions :
  (let r : ResetRec := { oldGen := 1, ends := .READY, port := false };
    let s := fnState fun x => { x with state := .RESETTING, resetRec := some r };
    (s.fn? 32).map (fun x => (x.resetRec, s.atResetPoint 32 x r)) = some (some r, true) ∧ (s.resetPoint 32).settle.cc.held = [] ∧
    s.alive = true) ∧
  (let s := { svc with gens := Tbl.put svc.gens 32 { gen := 255, frame := some 0, held := 1, goal := none } }; (s.genOf 32).held = 1 ∧
    (s.genOf 32).frame ≠ some s.frame) ∧
  (let r : Revocation := { domain := 3, id := 15, why := .revoke, started := 0, held := false };
    let s := { memState with wu := { memState.wu with revocations := [r] } }; s.wu.revocations = [r] ∧ r.held = false ∧ r.why = .revoke ∧
    (let t := ({ s with wu := { s.wu with revocations := [], lastNs := minN 8191 (s.ns - r.started) } } : State).setSlot 3 15
        { s.slot 3 15 with revoked := some s.frame };
      (t.answerOn (.revoke 3 15) .OK 0 (le 1 (s.slot 3 15).gen)).cc.waiting = [] ∧
      (t.answerOn (.revoke 3 15) .OK 0 (le 1 (s.slot 3 15).gen)).cc.pause = none) ∧
    { r with held := true }.held = true ∧ (s.slot 3 15).revoked ≠ some s.frame) ∧
  (({ svc with cc := { svc.cc with takeover := some 0, reloading := true } } : State).cc.takeover.isSome = true ∧ svc.cc.held = []) ∧
  (let w : Waiting := { instr := .fwActivate (hd 255 noFn) 0, hdr := hd 255 noFn, opcode := 0x0A05, on := .activate };
    let s := { svc with cc := { svc.cc with waiting := [w], reloading := true } };
    s.cc.waiting.find? (fun w => w.on == .activate) = some w ∧ s.cc.reloading = true) ∧
  (let s := fun (d : DmaRead) => ({ svc with dma := [(7, d)] } : State);
    let stale := fun (u : DmaUse) (g : Nat) =>
      let d := { read0 u with gen := g }; decide (Tbl.get? (s d).dma 7 = some d ∧ d.sent = true) && (((s d).endRead 7 d).staleRead d);
    let staleData := fun (u : DmaUse) (g : Nat) =>
      let d := { read0 u with gen := g }; decide (Tbl.get? (s d).dma 7 = some d ∧ d.sent = true) && (((s d).endRead 7 d).staleData d);
    Tbl.get? svc.dma 7 = none ∧ staleData .setup 1 = false ∧ staleData .setup 2 = true ∧ staleData (.parcel 31 65535 4095) 1 = false ∧
    staleData (.spill 0 4 true) 2 = false ∧ stale (.descriptors 16383 0 1) 1 = false ∧ stale (.descriptors 0 0 1) 2 = true ∧
    stale .blob 1 = false ∧ stale .blob 0 = true ∧ stale (.packet 0) 256 = true) := by decide +kernel

/-- What HostPortEvents asks for: each event on PF 0, VF function 32 and host port 0, on links that carry and that do not, and in HALT. -/
theorem witness_HostPortEvents :
  (svc.hosts = true ∧ (svc.fn? 32).map (fun x => (x.vf, x.busMaster, x.state)) = some (1, true, .RUNNING) ∧ (svc.fn? 0).isSome = true ∧
    (svc.att 0).vfEnable = true ∧ (((svc.beginReset 32 true .READY).modFn 32 Fn.flr).fn? 32).isSome = true) ∧
  (svc.hasHostPort 0 = true ∧ (svc.hostPort 0).perst = false ∧ svc.assigned 0 = true ∧ svc.assigned 1 = true ∧ (svc.att 0).state ≠ .DOWN) ∧
  (let t := (svc.setHostPort 0 { svc.hostPort 0 with perst := false }).linkTrained 1 6 8 true; t.served = true ∧ linkCarries 6 8 = true ∧
    linkCarries 4 4 = true ∧ linkCarries 3 16 = false ∧ linkCarries 1 1 = false ∧ (svc.hostPort 0).degraded = false ∧
    ({ svc with rst := { svc.rst with mode := .BRINGUP } } : State).served = false) ∧
  (let s := fnState fun x => { x with state := .FREEZING, freeze := some svc.ns };
    (s.fn? 32).map (fun x => (x.state, x.freeze == some s.ns, s.workOf 32 x)) = some (.FREEZING, true, false)) ∧
  (({ svc with rst := { svc.rst with mode := .HALT } } : State).fn? 32).isSome = true ∧
  (let e : Vector := { addr := 0, data := 0, masked := true, pending := true };
    let s := fun (on mask : Bool) => fnState fun x => { x with msixEnable := on, msixMask := mask, msix := [(0, e), (3, { e with pending := false })] };
    ((s true false).fn? 32).map (fun x => (decide (3 < x.tableSize), x.msixMask, x.msixEnable, (Tbl.getD x.msix 0 Vector.initial).pending, (Tbl.getD x.msix 3 Vector.initial).pending)) =
      some (true, false, true, true, false) ∧ (s true false).mayIssue 0 = true ∧
    ((s false true).fn? 32).map (fun x => (x.msixMask, x.msixEnable)) = some (true, false)) ∧
  (let s := fnState fun x => { x with busMaster := true, state := .HALTED };
    (s.fn? 32).map (fun x => (x.busMaster, decide (x.state ≠ .RUNNING))) = some (true, true)) := by decide +kernel

/-- What RegisterAccesses asks for: accesses of the manager's PF, of another PF in and out of its view, and of a party that is no function;
flags registers, low words, and each configuration control of a PF. -/
theorem witness_RegisterAccesses :
  (let s := { svc with manager := none }; (s.fn? 0).map (·.vf) = some 0 ∧ s.hosts = true ∧ s.inView 0 0x30000 = false ∧
    s.inView 0 (peBase 1) = false ∧ s.inView 0 0 = true ∧ s.viewWrites 0 0 = false ∧ s.inView 0 (peBase 0 + 0x6034) = true ∧
    s.viewWrites 0 (peBase 0 + 0x6034) = true ∧ flagCounters (peBase 0 + 0x6034) ≠ [] ∧ s.reaches (.fn 0) = true ∧
    counter64 (peBase 0 + 0x6008) = true ∧ s.inView 0 (peBase 0 + 0x6008) = true) ∧
  (svc.reaches .cores = true ∧ svc.reaches (.fn 0) = true ∧ svc.inView 0 0x1C = true ∧ svc.viewWrites 0 0x1C = true ∧
    flagCounters 0x1C ≠ [] ∧ flagCounters 0x700044 ≠ [] ∧ counter64 0x40050 = true ∧ counter64 0x30040 = true ∧
    flagCounters 0x30020 = [] ∧ 67108856 % 8 = 0) ∧
  ((svc.fn? 0).map (·.vf) = some 0 ∧ bit 1 0 = true ∧ bit 2 0 = false ∧ ({ svc.att 0 with vfEnable := false }).vfEnable = false ∧
    0 ≤ (svc.att 0).vfLimit ∧ 3 % 8 ≤ 3 ∧ 5 % 8 ≤ 5) := by decide +kernel

/-- What RingsServed asks for: functions in each state, rings of each kind and state, setup actions on rings and counters present and absent, on
good and bad addresses, and every counter in use. -/
theorem witness_RingsServed :
  (let s := fnState fun x => { x with rings := [(0, ring0 0), (16383, { ring0 0 with state := .FROZEN }), (1, { ring0 3 with state := .WAITING }), (2, ring0 1)] };
    s.alive = true ∧ (s.fn? 32).map (·.state) = some .RUNNING ∧ (s.ring? 32 0).map (·.state) = some .ACTIVE ∧ (s.ring? 32 16383).map (·.state) = some .FROZEN ∧ s.rst.mode = .SERVICE ∧
    (s.ring? 32 1).map (fun g => (g.state, g.kind, g.entries.length)) = some (.WAITING, 3, 0) ∧ (s.ring? 32 2).map (·.kind) = some 1 ∧
    (s.ring? 32 5).isNone = true ∧ (s.fn? 32).map (fun x => (x.setup.isNone, (Tbl.get? x.rings 5).isNone, x.setupAddr % 64)) = some (true, true, 0)) ∧
  (([FnState.READY, .RESETTING, .HALTED, .FREEZING, .FROZEN].all fun st =>
    let s := fnState fun x => { x with state := st, rings := [(0, ring0 0)] };
    (s.fn? 32).map (·.state) == some st && (s.ring? 32 0).map (·.state) == some .ACTIVE) = true) ∧
  (let s := fnState fun x => { x with setup := some { action := 1, target := 0, tag := 0 }, setupAddr := 60 };
    (s.fn? 32).map (fun x => (x.setup.isSome, decide (x.setupAddr % 64 ≠ 0), decide (x.setupAddr % 8 ≠ 0))) = some (true, true, true)) ∧
  (let s := fnState fun x => { x with rings := [(0, { ring0 0 with entries := [(0, { opcode := 0, hdr := dh, gen := 1, outcome := none })] }), (1, ring0 2)] };
    (s.fn? 32).map (fun x => ((Tbl.get? x.rings 0).map (·.entries.length), (Tbl.get? x.rings 1).map (·.kind), x.rings.length)) = some (some 1, some 2, 2)) ∧
  (let s := fnState fun x => { x with counters := [(4095, { value := 0, broken := false, mirror := 0 })] };
    (s.fn? 32).map (fun x => ((Tbl.get? x.counters 0).isNone, (Tbl.get? x.counters 4095).isSome, x.setupAddr % 8)) = some (true, true, 0) ∧
    s.countersUsed < 65536) := by decide +kernel

/-- What RingsServed_reads asks for: reads of a ring that end well, badly once and badly twice, and one of an earlier generation. -/
theorem witness_RingsServed_reads :
  (let d := read0 (.index 0); let s := { (fnState fun x => { x with rings := [(0, ring0 0)] }) with dma := [(7, d)] };
    (s.endRead 7 d).staleRead d = false ∧ s.readFor 32 (fun u => u == .index 0) = some (7, d) ∧ d.fn = 32 ∧
    (((s.endRead 7 d).reportRead 32 .timeout).ring? 32 0).map (fun g => (g.retried, g.held)) = some (false, [])) ∧
  (let d := read0 (.index 0);
    let s := { (fnState fun x => { x with rings := [(0, { ring0 0 with retried := true })] }) with dma := [(7, d)] };
    (((s.endRead 7 d).reportRead 32 .timeout).ring? 32 0).map (fun g => (g.retried, g.held, g.state)) = some (true, [], .ACTIVE)) ∧
  (let d := { read0 (.index 0) with gen := 2 }; let s := { (fnState fun x => { x with rings := [(0, ring0 0)] }) with dma := [(7, d)] };
    (s.endRead 7 d).staleRead d = true ∧ s.readFor 32 (fun u => u == .index 0) = some (7, d)) ∧
  (let d := read0 (.descriptors 0 0 1); let s := { (fnState fun x => { x with rings := [(0, ring0 0)] }) with dma := [(7, d)] };
    let due := fun (u : DmaUse) => match u with | .descriptors q _ _ => q == 0 | _ => false;
    (s.endRead 7 d).staleRead d = false ∧ s.readFor 32 due = some (7, d) ∧
    (((s.endRead 7 d).reportRead 32 .timeout).ring? 32 0).map (·.retriedDesc) = some false ∧
    (let e := { d with gen := 0 }; let s := { s with dma := [(7, e)] }; (s.endRead 7 e).staleRead e = true ∧ s.readFor 32 due = some (7, e))) ∧
  (let d := read0 (.descriptors 0 0 1);
    let s := { (fnState fun x => { x with rings := [(0, { ring0 0 with retriedDesc := true })] }) with dma := [(7, d)] };
    (((s.endRead 7 d).reportRead 32 .timeout).ring? 32 0).map (fun g => (g.retriedDesc, g.held, g.state)) = some (true, [], .ACTIVE)) := by decide +kernel

/-- What DescriptorsAccepted asks for: a good and a bad descriptor of each area, and a RECV with and without room on the posted list. -/
theorem witness_DescriptorsAccepted :
  (let x0 := (fnState fun x => { x with rings := [(0, ring0 0), (1, ring0 3)], matchEn := true, postedMax := 1, counters := [(0, { value := 0, broken := false, mirror := 0 })], comms := [(0, { rankTable := 1, domain := 0, ownRank := 0 })] }).setGroup 0
      { group0 1 with members := [(0, { fn := 32, rank := 0, next := 0 })] };
    let s := x0.setEngine 0 { Engine.initial with
      senders := [(0, { fn := 32, rankTable := 1, first := 0, count := 1, seq := 0, srtt := 1000, out := [], resting := [] })] };
    let g := ring0 0;
    let cancel : CancelArea := { ring := 0, index := 0, reserved := 0 };
    let good := fun (x : Fn) (g : Ring) (a : DescArea) => (s.malformedReason 32 x g dh a, s.postedFull 32 x a) == (none, false);
    let bad := fun (x : Fn) (a : DescArea) => (s.malformedReason 32 x g dh a).isSome;
    s.acceptsNext 32 0 = true ∧ s.acceptsNext 32 1 = true ∧ s.freePlace = some 0 ∧
    (s.fn? 32).map (fun x => good x g (.nop 0) && good x g (.wait 0 0 0) && good x g (.counterAdd 0 0) && good x g (.put put0)
      && good x g (.get put0) && good x g (.putWithSignal put0) && good x g (.fence 0) && good x g (.mcastPut mcast0)
      && good x g (.atomic { atom0 with width := 8, atomicOp := 1 }) && good x g (.send send0) && good x g (.recv recv0) && good x g (.cancel cancel)
      && good x g (.collective { coll0 with kind := 1 }) && good x (ring0 3) (.command { cmd0 with packetLength := 16, replyLength := 16 })) = some true ∧
    (s.fn? 32).map (fun x => bad x (.nop 1) && bad x (.wait 0 0 1) && bad x (.counterAdd 0 1) && bad x (.put { put0 with reserved := 1 })
      && bad x (.get { put0 with reserved := 1 }) && bad x (.putWithSignal { put0 with reserved := 1 }) && bad x (.fence 1) && bad x (.mcastPut { mcast0 with reserved := 1 })
      && bad x (.atomic { atom0 with reserved := 1 }) && bad x (.send { send0 with reserved := 1 }) && bad x (.recv { recv0 with reserved := 1 })
      && bad x (.cancel { cancel with reserved := 1 }) && bad x (.collective { coll0 with reserved := 1 }) && bad x (.command cmd0)) = some true ∧
    (s.fn? 32).map (fun x => s.recvFull 32 x recv0) = some false) ∧
  (let s := fnState fun x => { x with rings := [(0, ring0 0)], matchEn := true, postedMax := 0, comms := [(0, { rankTable := 1, domain := 0, ownRank := 0 })] };
    (s.fn? 32).map (fun x => (s.malformedReason 32 x (ring0 0) dh (.recv recv0), s.recvFull 32 x recv0)) = some (none, true)) := by decide +kernel

/-- What Reassembly asks for: a cell of each kind, tags without an owner, with and without an entry, an entry silent for 4 frames and less, and a
quarantine that is over and not. -/
theorem witness_Reassembly :
  (let c := wcell 0 0 0 3 0; let s := engState fun e => { e with ejected := [c] }; s.engineWorks 0 = true ∧
    ((s.engine 0).takeCell isDataCell).map (·.1) = some c ∧ c.h.kind = 0 ∧ (wcell 3 0 0 0 0).h.kind = 3 ∧ (wcell 6 0 0 0 0).h.kind = 6 ∧
    isDataCell (wcell 3 0 0 0 0) = true ∧ isDataCell (wcell 6 0 0 0 0) = true) ∧
  (let sg := fun (op : Nat) => wcell 3 0 0 0 0 (patch (List.replicate 64 (0#8)) 3 (le 2 (op * 64))); (sg opOPEN).h.kind = 3 ∧
    (sg opOPEN).parcel.op = opOPEN ∧ isTaggedSingle (sg opOPEN).parcel.op = false ∧ isTaggedSingle (sg opGET_RESP).parcel.op = true ∧
    (sg opPUT).parcel.op ≠ opOPEN ∧ isTaggedSingle (sg opPUT).parcel.op = false ∧ (sg opPUT).parcel.flow = 0) ∧
  (let t := fun (last : Nat) => ({ owner := .flow 6, quarantine := none, entry := some { cells := [], last := last, tailAt := 0 }, nacked := false } : Tag);
    let s := engState fun e => { e with tags := [(3, t (svc.ns - 4000000)), (4, t (svc.ns - 3999999))] };
    (Tbl.get? (s.engine 0).tags 3).map (fun y => (y.quarantine, y.entry.isSome)) = some (none, true) ∧ (Tbl.get? (s.engine 0).tags 0).isNone = true ∧
    (s.dstFlow? 0 6).isSome = true ∧
    svc.ns - 4000000 + 4000000 ≤ s.ns ∧ s.ns < svc.ns - 3999999 + 4000000) ∧
  (let r : Reasm := { cells := [], last := svc.ns - 4000000, tailAt := 0 }; let s := engState fun e => { e with mreasm := [(4095, r)] };
    Tbl.get? (s.engine 0).mreasm 4095 = some r ∧ r.last + 4000000 ≤ s.ns) ∧
  (let t := fun (u : Nat) => ({ owner := .flow 6, quarantine := some u, entry := none, nacked := false } : Tag);
    let s := engState fun e => { e with tags := [(3, t svc.ns), (4, t (svc.ns + 1))] };
    (Tbl.get? (s.engine 0).tags 3).map (·.quarantine) = some (some s.ns) ∧ s.ns < svc.ns + 1) := by decide +kernel

/-- What AnswersArrive asks for: an ACK and a NACK of a flow that the engine holds, an ACK of one that it does not, one with a reserved bit, an ACK
with and without a result, of a CLOSE and of a PUT, and responses. -/
theorem witness_AnswersArrive :
  (let c := wcell 4 6 0 0 0 (le 4 4 ++ le 2 32 ++ le 1 1 ++ List.replicate 57 (0#8)); let s := engState fun e => { e with ejected := [c] };
    let a := AnswerCell.ofCell c; ((s.engine 0).takeCell isAck).map (·.1) = some c ∧ a.nack = false ∧ a.mcast = false ∧ answerOk c = true ∧
    s.chunkAcked 0 a = none ∧ (s.answered 0 a).isSome = true ∧ s.isCached 0 a.flow true = true ∧ bit a.code 0 = false ∧
    (let p := { parcel0 with op := opCLOSE, place := none }; ((src0 [p]).parcels.find? fun p => p.seq == a.seq) = some p ∧ p.sendings ≠ 0 ∧
      p.op ≠ opOPEN) ∧
    ((src0 [parcel0]).parcels.find? fun p => p.seq == a.seq) = some parcel0 ∧ parcel0.op ≠ opCLOSE ∧ parcel0.place = some 0) ∧
  (let c := wcell 4 6 0 0 0 (le 4 4 ++ le 2 32 ++ le 1 1 ++ List.replicate 56 (0#8) ++ [1#8]); answerOk c = false ∧ isAck c = true) ∧
  (let c := wcell 5 6 0 0 0 (le 4 4 ++ le 2 32 ++ le 1 1 ++ List.replicate 56 (0#8) ++ [1#8]); answerOk c = false ∧ isNack c = true) ∧
  (let c := wcell 5 6 0 0 0 (le 4 4 ++ le 2 32 ++ le 1 1 ++ le 1 nackRETRY_AFTER ++ List.replicate 56 (0#8)); let s := engState fun e => { e with ejected := [c] };
    let a := AnswerCell.ofCell c; ((s.engine 0).takeCell isNack).map (·.1) = some c ∧ answerOk c = true ∧ a.nack = true ∧ a.mcast = false ∧
    (s.tally (peBase 0 + 0x6018)).chunkAcked 0 a = none ∧ ((s.tally (peBase 0 + 0x6018)).answered 0 a).isSome = true ∧
    (s.tally (peBase 0 + 0x6018)).isCached 0 a.flow true = true) ∧
  (let c := wcell 4 6 0 0 0 (le 4 9 ++ List.replicate 60 (0#8)); let s := engState fun e => { e with ejected := [c] };
    s.answered 0 (AnswerCell.ofCell c) = none ∧ answerOk c = true ∧ s.chunkAcked 0 (AnswerCell.ofCell c) = none) ∧
  (let p := { parcelIn opGET_RESP 0 4 with tag := 8 }; let q := { parcel0 with op := opGET_REQ, respTag := some 8 };
    let s := { (engState (fun e => { e with handed := [p] }) [q]) with ops := [(0, op0 (.get put0))] };
    ((s.engine 0).takeHanded (fun p => p.op == opGET_RESP)).map (·.1) = some p ∧ (s.srcFlow? 0 4).isSome = true ∧
    s.isCached 0 4 true = true ∧ s.srcFlow? 0 9 = none ∧
    ((src0 [q]).parcels.find? fun q => q.seq == p.seq && q.asksTag && q.respTag == some p.tag) = some q ∧ q.place = some 0 ∧
    (Tbl.get? (((s.touch (0, 4, true)).acknowledge 0 4 (src0 [q]) q (rd p.area 0 4)).freeTag 0 8).ops 0).isSome = true) := by decide +kernel

/-- What ParcelsInTime asks for: parcels to be sent, to be sent again and waiting, timers that have ended and that have not, of one parcel, of a
multicast parcel and of a flow, and a fetched context. -/
theorem witness_ParcelsInTime :
  (let s := engState id [{ parcel0 with left := [wcell 1 0 0 3 0] }];
    (s.srcFlow? 0 4).map (fun x => (x.named 0).map (·.left.length)) = some (some 1) ∧ s.engineWorks 0 = true) ∧
  ((src0 [parcel0]).named 0 = some parcel0 ∧ parcel0.left = [] ∧ parcel0.due = false ∧ parcel0.retryAt = none ∧ parcel0.timeout = some 0 ∧ 0 ≤ svc.ns ∧
    { parcel0 with due := true }.due = true ∧ svc.ns < svc.ns + 1 ∧ { src0 [parcel0] with timeouts := 1 }.timeouts = 1) ∧
  (let s := engState id; let y := { src0 [parcel0] with timeouts := 2, cwnd := 4096, lastCut := some s.ns }; parcel0.op ≠ opOPEN ∧
    y.opening = none ∧ 2 ≤ y.timeouts ∧
    ({ s with ops := [(0, { op0 (.put put0) with deadline := s.ns + 250000000 })] } : State).mayResend y parcel0 = true) ∧
  ({ parcel0 with retryAt := some (0, true) }.retryAt = some (0, true) ∧ { parcel0 with retryAt := some (0, false) }.retryAt = some (0, false) ∧
    { parcel0 with retryAt := some (svc.ns + 1, false) }.retryAt = some (svc.ns + 1, false)) ∧
  (let m : McastOut := { seq := 4095, place := 0, offset := 0, length := 64, data := none, reads := [], pieces := [], tag := 3, cells := 2, left := [],
                         released := 0, timeout := some svc.ns, acked := [], sendings := 1, colour := none };
    let y := fun (m : McastOut) => ({ fn := 32, rankTable := 1, first := 0, count := 2, seq := 0, srtt := 1000, out := [m], resting := [] } : Sender);
    let s := engState fun e => { e with senders := [(65535, y m)] }; s.sender? 0 65535 = some (y m) ∧
    ((y m).out.find? fun m => m.seq == 4095) = some m ∧ m.timeout = some s.ns ∧
    { m with timeout := some (s.ns + 1) }.timeout = some (s.ns + 1)) ∧
  (let x := src0 []; x.state = .OPEN ∧ x.parcels = [] ∧ x.queue = [] ∧ x.opening = none ∧ x.lastUse + 16000000 ≤ svc.ns ∧
    svc.ns < { x with lastUse := svc.ns - 15999999 }.lastUse + 16000000) ∧
  (let s := { engState id with cs := { CS.reset with fetching := [(0, 4, true)] } }; s.cs.fetching.contains (0, 4, true) = true ∧
    s.spillReading 0 4 true = false) := by decide +kernel

/-- What ParcelsCarried asks for: a parcel of each op, fresh in and out of order, done, in progress, of a stale role and of a flow that is gone. -/
theorem witness_ParcelsCarried :
  (let s := fun (p : Parcel) => engState fun e => { e with handed := [p] };
    ([opPUT, opPUT_ELIDED, opGET_REQ, opATOMIC, opSIGNAL, opCLOSE, opMCAST_REPAIR, opMSG_EAGER, opMSG_RTS, opMSG_GET, opMSG_FIN].all fun op =>
      let p := parcelIn op 0 6;
      (((s p).engine 0).takeHanded (fun q => !q.mcast && (q.op == op || (op == opPUT && !listedOp q.op)))).map (·.1) == some p) = true ∧
    (let p := parcelIn 60 4095 6; (((s p).engine 0).takeHanded (fun q => !q.mcast && (q.op == opPUT || (opPUT == opPUT && !listedOp q.op)))).map (·.1) = some p) ∧
    (let t := s (parcelIn opPUT 0 6);
      (t.dstFlow? 0 6).isSome = true ∧ t.isCached 0 6 false = true ∧ ((t.touch (0, 6, false)).roleRefusal 32 1).2 = none ∧
      t.engineWorks 0 = true)) ∧
  (classifySeq 0 [] [] 0 = .fresh ∧ (dst0 false).ordered = false ∧
    classifySeq 0 [] [] 2047 = .fresh ∧ classifySeq 0 [] [] 2048 = .again ∧ classifySeq 0 [] [] 4095 = .again ∧
    classifySeq 0 [5] [] 5 = .again ∧ classifySeq 0 [] [5] 5 = .busy ∧ (dst0 true).ordered = true ∧ (2047 : Nat) ≠ (dst0 true).base) ∧
  (let s := engState id; ((s.touch (0, 6, false)).roleRefusal 32 9).2.isSome = true) ∧
  (let o : Origin := { endpoint := 0, fn := 0, flow := 1, gen := 1 };
    let s := engState fun e => { e with gone := [(9, o)] }; s.dstFlow? 0 9 = none ∧ Tbl.get? (s.engine 0).gone 9 = some o) := by decide +kernel

/-- What OpensAndChunks asks for: an OPEN of a flow held already, of a new one, in DRAIN and refused, a multicast parcel of no group, of a member, of
a wrong op, done and busy, a chunk in each direction, a placement, and a chunk whose timeout has ended. -/
theorem witness_OpensAndChunks :
  (let p : Parcel := { parcelIn opOPEN 0 1 with area := le 8 (32 * 2 ^ 32) ++ le 4 0, data := le 1 1 ++ List.replicate 7 (0#8) };
    let s := engState fun e => { e with handed := [p] }; let v := rd p.area 0 12;
    let same := fun (flow : Nat) (x : Nat × DstFlow) => x.2.endpoint == bits v 20 0 && x.2.srcFn == bits v 31 21 && x.2.srcFlow == flow
      && x.2.srcGen == rd p.data 0 1 && x.2.fn == bits v 42 32;
    ((s.engine 0).takeHanded (fun q => !q.mcast && q.op == opOPEN)).map (·.1) = some p ∧ bits v 42 32 = 32 ∧ (s.roleRefusal 32 p.roleGen).2 = none ∧
    (s.roleRefusal 32 9).2.isSome = true ∧ ((s.engine 0).dst.find? (same 1)).map (·.1) = some 6 ∧ s.isCached 0 6 false = true ∧
    ((s.engine 0).dst.find? (same 2)).isNone = true ∧ bits v 47 43 = 0 ∧ bits v 95 82 = 0 ∧ p.data.length = 8 ∧ rd p.data 2 6 = 0 ∧ bit v 81 = false ∧
    s.rst.mode ≠ .DRAIN ∧ ({ s with rst := { s.rst with mode := .DRAIN } } : State).rst.mode = .DRAIN) ∧
  (let m : Member := { fn := 32, sender := 0, senderFn := 0, index := 0, domain := 3, window := 15, gen := 2, base := 0, done := [], busy := [], violFrame := none };
    let p := parcelIn opMCAST_PUT 0 7 true;
    let s := { memState.setEngine 0 { Engine.initial with members := [(7, m)], handed := [p] } with cs := memState.cs };
    ((s.engine 0).takeHanded (fun q => q.mcast)).map (·.1) = some p ∧ s.member? 0 7 = some m ∧ (s.roleRefusal 32 (s.gen 32)).2 = none ∧
    s.member? 0 8 = none ∧ (s.placeMember 0 7 m 0 0 3 0 p.data none).2 = none ∧ rd p.area 4 6 < 2 ^ 43 ∧ rd p.area 10 1 < 2 ∧ rd p.area 11 1 = 0 ∧
    p.op = opMCAST_PUT ∧ (parcelIn opPUT 0 7 true).op ≠ opMCAST_PUT ∧ classifySeq m.base m.done m.busy 0 = .fresh ∧
    classifySeq m.base m.done m.busy 4095 = .again ∧ classifySeq m.base m.done [1] 1 = .busy) ∧
  (let w : Placing := { client := 0, fn := 32, domain := 3, window := 15, winGen := 2, offset := 0, data := [], writes := [], cut := false, redo := false, flow := some (6, 0), member := none, tag := 3, delay := 0 };
    let s := engState fun e => { e with placing := [w] }; (s.engine 0).placing = [w] ∧ w.flow = some (6, 0) ∧
    { w with flow := none }.flow = none) ∧
  (let p := parcelIn opCOLL_UP 0 1023; let s := { svc with rh := { RH.reset with inbox := [(0, p)] } };
    (s.nextChunk 0 opCOLL_UP).map (fun x => (x.2.takeChunk x.1.1 x.1.2).lagging 2) = some false ∧
    (let late : State := { s with tt := { s.tt with lags := [(2, { Lag.on s.tickNo with degraded := true })] } };
      (late.nextChunk 0 opCOLL_UP).map (fun x => (x.2.takeChunk x.1.1 x.1.2).lagging 2) = some true) ∧
    (({ svc with rh := { RH.reset with inbox := [(0, { p with op := opCOLL_DOWN })] } } : State).nextChunk 0 opCOLL_DOWN).map
      (fun x => (x.2.takeChunk x.1.1 x.1.2).lagging 2) = some false) ∧
  (let o : EdgeOut := { edge := 0, seq := 0, chunk := 0, op := opCOLL_UP, area := [], data := [], slot := some 0, resends := 8, timeout := svc.ns };
    let x := { group0 2 with children := [0], out := [o] }; let s := svc.setGroup 5 x; s.group? 5 = some x ∧
    (x.out.find? fun o => o.edge == 0 && o.chunk == 0 && o.slot.isSome && decide (o.timeout ≤ s.ns)) = some o ∧ s.edgeUp x 0 = true ∧
    s.edgeUp { x with children := [2] } 0 = false ∧ s.rst.mode ≠ .HEATH ∧
    (let o' := { o with resends := 7 }; let x' := { group0 2 with children := [0], out := [o'], members := [(0, { fn := 32, rank := 0, next := 1 })] };
      let op := { op0 (.collective { coll0 with group := 5, kind := 1 }) with deadline := 0 };
      let t := fun (d : Nat) => ({ svc.setGroup 5 x' with ops := [(0, { op with deadline := d })] } : State);
      (t (svc.ns + 5120000)).chunkMay 5 o' (20000 * 2 ^ 8) = true ∧ (t (svc.ns + 5119999)).chunkMay 5 o' (20000 * 2 ^ 8) = false ∧
      (t 0).group? 5 = some x')) := by decide +kernel

/-- What DeadlinesAndMeters asks for: operations of each kind at and before their deadline, a message past its own, and ticks at a minute, recorded
and not, and between minutes, and samples of occupancy in a new frame and in the same. -/
theorem witness_DeadlinesAndMeters :
  (let o := fun (a : DescArea) => { op0 a with deadline := svc.ns };
    let s := { svc with ops := [(0, o (.put put0)), (1, { o (.recv recv0) with deadline := svc.ns + 1, phase := .posted }), (2, o (.mcastPut mcast0)),
                                (3, { o (.recv recv0) with phase := .posted }), (4, o (.collective { coll0 with flags := 1 })), (1048575, o (.nop 0))] };
    s.alive = true ∧ ([0, 2, 3, 4, 1048575].all fun k => ((Tbl.get? s.ops k).map fun (q : Op) => decide (q.deadline ≤ s.ns)) == some true) = true ∧
    (Tbl.get? s.ops 3).map (·.phase) = some .posted ∧
    (Tbl.get? s.ops 1).map (fun (q : Op) => decide (s.ns < q.deadline)) = some true) ∧
  (let u : Unexpected := { comm := 0, rank := 0, tag := 0, data := none, length := 0, handle := 0, deadline := svc.ns - 1, endpoint := 0, srcFn := 0, srcGen := 1 };
    let s := svc.setLists 32 { posted := [], unexpected := [u, { u with deadline := svc.ns }] }; (s.lists 32).unexpected[0]? = some u ∧ u.data = none ∧
    u.deadline < s.ns ∧ s.ns ≤ { u with deadline := svc.ns }.deadline) ∧
  (let s := fun (tick last : Nat) => ({ svc with tt := { svc.tt with lags := [(0, { Lag.on 0 with tick := tick })] }, sb := { svc.sb with lastMinute := last } } : State);
    ((s 120000000 1).lag 0).tick = 60000000 * 2 ∧ (s 120000000 1).sb.lastMinute < 2 ∧ 2 ≤ (s 120000000 2).sb.lastMinute ∧
    ((s 120000001 1).lag 0).tick % 60000000 ≠ 0 ∧ (s 0 0).alive = true) ∧
  ((svc.fn? 32).map (·.occFrame) = some none ∧ ((fnState fun x => { x with occFrame := some svc.frame }).fn? 32).map (·.occFrame) = some (some svc.frame)) := by decide +kernel

/-- What BringUpAndSupply asks for of a wake: in HEATH with a wake in progress 850 mV is legal whatever the part's floor, which is at most 800 mV. -/
theorem witness_BringUpAndSupply_wake :
    let s := { svc with rst := { svc.rst with mode := .HEATH, wake := some 0 } }
    s.rst.mode = .HEATH ∧ s.waking = true ∧ s.targetLegal 850 = true := by
  refine ⟨by decide, by decide, ?_⟩
  have h : coreFloor ≤ 850 := by unfold coreFloor minN; split <;> omega
  simp [State.targetLegal, State.waking, h]

/-- What RingsServed asks for of the counters: one function with 65,536 listed and function 32 with none. -/
theorem witness_RingsServed_full :
    let c : Counter := { value := 0, broken := false, mirror := 0 }
    let s : State := { svc with fns := [(0, { pf with counters := List.replicate 65536 (1, c) }), (32, vf)] }
    65536 ≤ s.countersUsed ∧ (s.fn? 32).map (fun x => Tbl.get? x.counters 0) = some none := by
  refine ⟨?_, rfl⟩
  simp only [State.countersUsed, List.map_cons, List.map_nil, List.length_replicate, sumNat, List.foldl_cons, List.foldl_nil]
  omega

/-- What DescriptorsAccepted asks for of a table without a free place. -/
theorem witness_DescriptorsAccepted_full :
    let s : State := { fnState fun x => { x with rings := [(0, ring0 0)] } with ops := List.replicate 1048576 (0, op0 (.nop 0)) }
    s.freePlace = none ∧ s.acceptsNext 32 0 = true ∧
      (s.fn? 32).map (fun x => (s.malformedReason 32 x (ring0 0) dh (.nop 0), s.postedFull 32 x (.nop 0))) = some (none, false) := by
  refine ⟨?_, by decide +kernel, by decide +kernel⟩
  simp only [State.freePlace, List.length_replicate, Nat.lt_irrefl, if_false]

/-- A table of consecutive numbers lists each. -/
theorem get?_range (g : Nat → Fn) (n f : Nat) (h : f < n) : (Tbl.get? ((List.range n).map fun k => (k, g k)) f).isSome = true := by
  induction n with
  | zero => omega
  | succ n ih =>
    have app : ∀ (t u : Tbl Fn), (Tbl.get? t f).isSome = true → (Tbl.get? (t ++ u) f).isSome = true := by
      intro t u
      induction t with
      | nil => intro h; cases h
      | cons e t ih => simp only [Tbl.get?, List.cons_append]; split <;> simp_all
    have app2 : ∀ (t : Tbl Fn) (v : Fn), (Tbl.get? (t ++ [(f, v)]) f).isSome = true := by
      intro t v
      induction t with
      | nil => simp [Tbl.get?]
      | cons e t ih => simp only [Tbl.get?, List.cons_append]; split <;> simp_all
    rw [List.range_succ, List.map_append]
    by_cases e : f < n
    · exact app _ _ (ih e)
    · have : f = n := by omega
      subst this; exact app2 _ _
theorem fullState_has (n f : Nat) (h : f < n) : ((fullState n).fn? f).isSome = true := get?_range _ n f h

/-- What FunctionSettings asks for of a full table: each function number 32 to 2,047 is in use. -/
theorem witness_FunctionSettings_full : ∀ f, 32 ≤ f → f < 2048 → ((fullState 2048).fn? f).isSome = true :=
  fun f _ h => fullState_has 2048 f h


end Sys2Proof.Tests
end

