-- ==== Sys2Proof/Proofs/Invariant.lean ====
section
/-! PROOFS. The invariant over a step (R10, R491), from the lemma of every row in Laws/SoundCommands. -/
namespace Sys2Proof.Machine

open Sys2Proof

/-- What a step from `s` is compared with: its fuses, the queue behind the front, and counters and replies that fit where they do in `s`. -/
def State.footing (s : State) : Footing :=
  { variant := s.variant, minVer := s.minVer, pending := s.pending.tail, fit := s.Inv }

/-- A state whose queue has lost its front agrees with the footing from before. -/
theorem State.sound_footing (s : State) : ({ s with pending := s.pending.tail } : State).Sound s.footing :=
  ⟨rfl, Nat.le_refl _, rfl, fun hInv => hInv.1, fun hInv => hInv.2⟩

/-- A state with an empty queue agrees with its own footing. -/
theorem State.sound_footing_of_empty {s : State} (hp : s.pending = []) : s.Sound s.footing :=
  ⟨rfl, Nat.le_refl _, by simp [State.footing, hp], fun hInv => hInv.1, fun hInv => hInv.2⟩

/-- A step that answers a next state keeps the fuses, takes at most the front off the queue and keeps the invariant. -/
theorem step_sound {s t : State} (h : step s = .next t) : t.Sound s.footing := by
  unfold step at h
  split at h
  next hp =>
    cases h
    exact coreCycle_sound s (State.sound_footing_of_empty hp)
  next c rest hp =>
    have hS := s.sound_footing
    rw [hp] at hS
    exact next_of (exec_sound c _ hS) h

/-- Agreement with a footing gives back the invariant. -/
theorem State.Sound.inv {s t : State} (h : t.Sound s.footing) (hInv : s.Inv) : t.Inv := by
  obtain ⟨-, -, -, hctr, hkept⟩ := h
  exact ⟨hctr hInv, hkept hInv⟩

/-- Settles O4: the agreement that every row and the core cycle keep carries the invariant. -/
theorem invariantKept : Obligations.InvariantKept :=
  fun _ _ hInv h => (step_sound h).inv hInv

end Sys2Proof.Machine
end

