-- ==== Sys2Proof/Proofs/Counters.lean ====
section
/-! PROOFS. Counters at their maximum (R10): one lemma per kind and case. -/
namespace Sys2Proof.Machine

open Sys2Proof

/-! ### EVIDENCE -/

/-- Below its last step an EVIDENCE counter only advances. -/
theorem State.evidence_advances {s : State} {off : Nat} (h : s.counter off + 1 < 0xFFFFFFFF) :
    s.evidence off = s.setCounter off (s.counter off + 1) := by
  have hlt : s.counter off < 0xFFFFFFFF := by omega
  have hne : s.counter off + 1 ≠ 0xFFFFFFFF := by omega
  simp only [State.evidence, State.evidenceStep, if_pos hlt, if_neg hne]

/-- The step that reaches the maximum sets the saturation flag and raises COUNTER_SATURATED. -/
theorem State.evidence_saturates {s : State} {off : Nat} (h : s.counter off + 1 = 0xFFFFFFFF) :
    s.evidence off = ({ s.setCounter off 0xFFFFFFFF with sat := insertNat off s.sat } : State).raise 0x002 none off := by
  have hlt : s.counter off < 0xFFFFFFFF := by omega
  simp only [State.evidence, State.evidenceStep, if_pos hlt, h, if_true, State.setCounter_sat]

/-- At its maximum an EVIDENCE counter holds. -/
theorem State.evidence_holds {s : State} {off : Nat} (h : s.counter off = 0xFFFFFFFF) : s.evidence off = s := by
  simp only [State.evidence, State.evidenceStep, h, Nat.lt_irrefl, if_false]

/-! ### METER -/

/-- A METER that stays below its maximum only advances. -/
theorem State.meter_advances {s : State} {f k n : Nat} (hm : s.rst.mode ≠ .HEATH) (h : s.counter (meterOff f k) + n < 2 ^ 64 - 1) :
    s.meter f k n = s.setCounter (meterOff f k) (s.counter (meterOff f k) + n) := by
  have hne : s.counter (meterOff f k) ≠ 2 ^ 64 - 1 := by omega
  simp only [State.meter, hne, hm, or_self, if_false, if_pos h]

/-- A METER that gets to its maximum stays there and raises METER_SATURATED. -/
theorem State.meter_saturates {s : State} {f k n : Nat} (hm : s.rst.mode ≠ .HEATH) (h : s.counter (meterOff f k) < 2 ^ 64 - 1)
    (hn : 2 ^ 64 - 1 ≤ s.counter (meterOff f k) + n) :
    s.meter f k n = (s.setCounter (meterOff f k) (2 ^ 64 - 1)).raise 0x003 none (f + k * 65536) := by
  have hne : s.counter (meterOff f k) ≠ 2 ^ 64 - 1 := by omega
  simp only [State.meter, hne, hm, or_self, if_false, if_neg (Nat.not_lt.mpr hn)]

/-- At its maximum a METER holds. -/
theorem State.meter_holds {s : State} {f k n : Nat} (h : s.counter (meterOff f k) = 2 ^ 64 - 1) : s.meter f k n = s := by
  simp only [State.meter, h, true_or, if_true]

/-- Settles O9: the cases of the three kinds of counter. -/
theorem countersAtTheirMaximum : Obligations.CountersAtTheirMaximum := by
  intro s off
  refine ⟨s.counter_tally off 1, State.evidence_advances, State.evidence_saturates, State.evidence_holds, ?_,
    fun v => ⟨s.counter_setCounter off v, fun o ho => s.counter_setCounter_of_ne v ho⟩⟩
  rintro f k n rfl hm
  exact ⟨State.meter_advances hm, State.meter_saturates hm, State.meter_holds⟩

end Sys2Proof.Machine
end

