-- ==== Sys2Proof/Proofs/Refusals.lean ====
section
/-! PROOFS. The checks of R480 before a command's own: what `State.refusal` finds, what a refused command answers, and what follows it. -/
namespace Sys2Proof.Machine

open Sys2Proof

/-! ### The ends of a command -/

/-- The row ends with `u`, or with what settles after `u`. -/
def EndsWith (i : Instr) (s u : State) : Prop :=
  exec i s = .next u ∨ exec i s = .next u.settle ∨ exec i s = .next u.journalSettle ∨ exec i s = .next u.dueReset

/-- A row that is not carried out ends with what `State.command` answers, where no body has a part in that. -/
theorem endsWith_of_command {i : Instr} {c : Cmd} {s u : State} (hc : cmdOf i = some c) (hno : s.carriesOut i = false)
    (hu : ∀ body, s.command i body = u) : EndsWith i s u := by
  rcases exec_command hc s with ⟨b, h⟩ | ⟨b, h⟩ | ⟨b, h⟩ | ⟨b, h⟩ | ⟨hd, p, -, h⟩
  · exact Or.inl (by rw [h, hu])
  · exact Or.inr (Or.inl (by rw [h, hu]))
  · exact Or.inr (Or.inr (Or.inl (by rw [h, hu])))
  · exact Or.inr (Or.inr (Or.inr (by rw [h, hu])))
  · rw [h] at hno; cases hno

/-- The command comes to its checks: it is served, duplicates nothing, and command service does not stand still. -/
structure ComesToChecks (c : Cmd) (s : State) : Prop where
  served : s.serves c.h.src = true
  fresh : s.runningDup c = false
  moves : s.standsStill = false
  unanswered : (s.cc.kept.find? fun k => sameOrigin k.hdr c.h) = none

/-- What comes to its checks is started. -/
theorem ComesToChecks.command {i : Instr} {c : Cmd} {s : State} (h : ComesToChecks c s) (hc : cmdOf i = some c) (body : State → CmdResult) :
    s.command i body = s.startCommand i c body := by
  simp [State.command, hc, h.served, h.fresh, h.moves]

/-- A command that a check of R480 refuses is answered with its status; BAD_PACKET is counted. -/
theorem ComesToChecks.endsWith_of_refusal {i : Instr} {c : Cmd} {s : State} {st : Status} {d : Nat} (h : ComesToChecks c s)
    (hc : cmdOf i = some c) (hr : s.refusal c = some (st, d)) :
    EndsWith i s ((if st = .BAD_PACKET then s.evidence 0x40058 else s).sendReply c.h (replyBytes c.opcode c.h.seq st d [])) := by
  refine endsWith_of_command hc ?_ fun body => ?_
  · simp [State.carriesOut, hc, hr]
  · rw [h.command hc]
    simp only [State.startCommand, h.unanswered, hr]

/-- FORCE on an opcode that does not take it (R474) is BAD_PARAM. -/
theorem ComesToChecks.endsWith_of_force {i : Instr} {c : Cmd} {s : State} (h : ComesToChecks c s) (hc : cmdOf i = some c)
    (hr : s.refusal c = none) (hf : c.h.force = true) (hno : c.forceOk = false) : EndsWith i s (s.counted.answer i c .BAD_PARAM 2 []) := by
  refine endsWith_of_command hc ?_ fun body => ?_
  · simp [State.carriesOut, hc, hf, hno]
  · rw [h.command hc]
    simp [State.startCommand, h.unanswered, hr, hf, hno]

/-! ### Which check fails first -/

section
variable {s : State} {c : Cmd} {info : OpInfo} (hi : opInfo c.opcode = some info)
include hi

theorem refusal_of_packetFault {off : Nat} (h : s.packetFault info c = some off) : s.refusal c = some (.BAD_PACKET, off) := by
  simp only [State.refusal, hi, h]

theorem refusal_of_not_permitted (h : s.packetFault info c = none) (hp : s.permitted c = false) :
    s.refusal c = some (.NOT_PERMITTED, 0) := by
  simp [State.refusal, hi, h, hp]

theorem refusal_of_unit_absent (h : s.packetFault info c = none) (hp : s.permitted c = true) (ht : c.h.target ≠ 0xFF)
    (hu : s.hasUnit c.h.target = false) : s.refusal c = some (.UNIT_ABSENT, 0) := by
  simp [State.refusal, hi, h, hp, ht, hu]

/-- With a packet that is right, the right to the opcode and the unit there, the mode alone decides. -/
theorem refusal_of_unit_present (h : s.packetFault info c = none) (hp : s.permitted c = true)
    (ht : c.h.target = 0xFF ∨ s.hasUnit c.h.target = true) :
    s.refusal c = if s.modeAllows c.opcode then none else some (.WRONG_MODE, 0) := by
  have hthere : ¬(c.h.target ≠ 0xFF ∧ (!s.hasUnit c.h.target) = true) := by
    rintro ⟨hne, hno⟩
    rcases ht with ht | ht
    · exact hne ht
    · simp [ht] at hno
  simp only [State.refusal, hi, h, hp, if_neg hthere, Bool.not_true, Bool.false_eq_true, if_false]
  cases s.modeAllows c.opcode <;> rfl

end

/-- Settles O6: the first check that fails is the one that `State.refusal` names, and its answer is all that happens. -/
theorem refusedChangesNothing : Obligations.RefusedChangesNothing := by
  intro i c s info hc hi hserved hfresh hmoves hkept
  have ready : ComesToChecks c s := ⟨hserved, hfresh, hmoves, hkept⟩
  refine ⟨fun off h => ready.endsWith_of_refusal hc (refusal_of_packetFault hi h), fun h => ⟨fun hp => ?_, fun hp => ⟨fun ht hu => ?_,
    fun ht => ⟨fun hm => ?_, fun hm hf hno => ?_⟩⟩⟩⟩
  · exact ready.endsWith_of_refusal hc (refusal_of_not_permitted hi h hp)
  · exact ready.endsWith_of_refusal hc (refusal_of_unit_absent hi h hp ht hu)
  · exact ready.endsWith_of_refusal hc (by rw [refusal_of_unit_present hi h hp ht, hm]; rfl)
  · exact ready.endsWith_of_force hc (by rw [refusal_of_unit_present hi h hp ht, hm]; rfl) hf hno

end Sys2Proof.Machine
end

