-- ==== Sys2Proof/Proofs/Answers.lean ====
section
/-! PROOFS. ACK, NACK and GET_RESP at the engine of the flow that sent the parcel (R327 to R332, R337, R338). -/
namespace Sys2Proof.Machine

open Sys2Proof

/-! ### The rows, once a cell or a parcel is taken -/

theorem exec_ackReceive {s : State} {n : Nat} {c : WireCell} {e : Engine} (hw : s.engineWorks n = true)
    (h : (s.engine n).takeCell isAck = some (c, e)) : exec (.ackReceive n) s = .next ((s.setEngine n e).answerCell n c).settle := by
  simp only [exec, execAckReceive, hw, h]

theorem exec_nackReceive {s : State} {n : Nat} {c : WireCell} {e : Engine} (hw : s.engineWorks n = true)
    (h : (s.engine n).takeCell isNack = some (c, e)) : exec (.nackReceive n) s = .next ((s.setEngine n e).answerCell n c).settle := by
  simp only [exec, execNackReceive, hw, h]

theorem exec_getRespReceive {s : State} {n : Nat} {p : Parcel} {e : Engine} (hw : s.engineWorks n = true)
    (h : (s.engine n).takeHanded (fun p => p.op == opGET_RESP) = some (p, e)) :
    exec (.getRespReceive n) s = .next ((s.setEngine n e).response n p).settle := by
  simp only [exec, execGetRespReceive, hw, h]

/-! ### An answer cell -/

/-- A malformed answer is counted stale, and nothing else happens. -/
theorem State.answerCell_of_malformed (s : State) (n : Nat) {c : WireCell} (h : answerOk c = false) : s.answerCell n c = s.staleArrival n := by
  simp [State.answerCell, h]

section
variable {s : State} {n : Nat} {c : WireCell} (hok : answerOk c = true) (hm : (AnswerCell.ofCell c).mcast = false)
include hok hm

/-- An ACK of no flow of the named generation is counted stale. -/
theorem State.answerCell_ack_of_no_flow (hk : (AnswerCell.ofCell c).nack = false) (hch : s.chunkAcked n (AnswerCell.ofCell c) = none)
    (hx : s.answered n (AnswerCell.ofCell c) = none) : s.answerCell n c = s.staleArrival n := by
  simp only [State.answerCell, hok, hk, hch, hm, hx, Bool.not_true, Bool.false_eq_true, if_false]

/-- An ACK of a cached flow goes to that flow. -/
theorem State.answerCell_ack {x : SrcFlow} (hk : (AnswerCell.ofCell c).nack = false) (hch : s.chunkAcked n (AnswerCell.ofCell c) = none)
    (hx : s.answered n (AnswerCell.ofCell c) = some x) (hc : s.isCached n (AnswerCell.ofCell c).flow true = true) :
    s.answerCell n c = (s.touch (n, (AnswerCell.ofCell c).flow, true)).flowAck n (AnswerCell.ofCell c).flow x (AnswerCell.ofCell c) := by
  simp only [State.answerCell, hok, hk, hch, hm, hx, hc, Bool.not_true, Bool.false_eq_true, if_false]

/-- A NACK of a cached flow is counted as a NACK and goes to that flow. -/
theorem State.answerCell_nack {x : SrcFlow} (hk : (AnswerCell.ofCell c).nack = true)
    (hch : (s.tally (peBase n + 0x6018)).chunkAcked n (AnswerCell.ofCell c) = none)
    (hx : (s.tally (peBase n + 0x6018)).answered n (AnswerCell.ofCell c) = some x)
    (hc : (s.tally (peBase n + 0x6018)).isCached n (AnswerCell.ofCell c).flow true = true) :
    s.answerCell n c = ((s.tally (peBase n + 0x6018)).touch (n, (AnswerCell.ofCell c).flow, true)).flowNack n
      (AnswerCell.ofCell c).flow x (AnswerCell.ofCell c) := by
  simp only [State.answerCell, hok, hk, hch, hm, hx, hc, Bool.not_true, Bool.false_eq_true, if_false, if_true]

end

/-! ### What an ACK does for the parcel that it names -/

section
variable {a : AnswerCell} {x : SrcFlow} {p : OutParcel} (hcode : bit a.code 0 = false)
  (hp : (x.parcels.find? fun p => p.seq == a.seq) = some p) (hs : p.sendings ≠ 0) (ho : p.op ≠ opOPEN)
include hcode hp hs ho

/-- An acknowledged CLOSE removes the flow. -/
theorem State.flowAck_close (t : State) (n : Nat) (hclose : p.op = opCLOSE) :
    t.flowAck n a.flow x a = (t.acknowledge n a.flow (x.grant a) p a.value).removeSrc n a.flow := by
  simp only [State.flowAck, hcode, Bool.false_eq_true, if_false, hp, if_neg hs, if_neg ho, if_pos hclose]

/-- An acknowledged parcel of an operation goes to the operation's place. -/
theorem State.flowAck_place (t : State) (n : Nat) {place : Nat} (hclose : p.op ≠ opCLOSE) (hplace : p.place = some place) :
    t.flowAck n a.flow x a =
      (t.acknowledge n a.flow (x.grant a) p a.value).opAcked n a.flow place p (if bit a.code 1 then some a.result else none) := by
  simp only [State.flowAck, hcode, Bool.false_eq_true, if_false, hp, if_neg hs, if_neg ho, if_neg hclose, hplace]

end

/-! ### A response -/

/-- A response of no flow is counted stale. -/
theorem State.response_of_no_flow {s : State} {n : Nat} {p : Parcel} (h : s.srcFlow? n p.flow = none) : s.response n p = s.staleArrival n := by
  simp only [State.response, h]

/-- A response of a cached flow acknowledges its parcel, frees its tag and is placed. -/
theorem State.response_placed {s : State} {n place : Nat} {p : Parcel} {x : SrcFlow} {q : OutParcel} {o : Op}
    (hx : s.srcFlow? n p.flow = some x) (hc : s.isCached n p.flow true = true)
    (hq : (x.parcels.find? fun q => q.seq == p.seq && q.asksTag && q.respTag == some p.tag) = some q) (hplace : q.place = some place)
    (ho : Tbl.get? (((s.touch (n, p.flow, true)).acknowledge n p.flow x q (rd p.area 0 4)).freeTag n p.tag).ops place = some o) :
    s.response n p =
      (((s.touch (n, p.flow, true)).acknowledge n p.flow x q (rd p.area 0 4)).freeTag n p.tag).responsePlaced place o q p.data := by
  simp only [State.response, hx, hc, hq, hplace, ho, Bool.not_true, Bool.false_eq_true, if_false]

/-- Settles O56: the lemma of each answer, after the row has taken it. -/
theorem answersArrive : Obligations.AnswersArrive := by
  intro s n c e hw a t
  refine ⟨fun htake => ⟨fun hbad => ?_, fun hok hk hch hm => ⟨fun hx => ?_, fun x hx hc => ?_⟩⟩,
    fun t x p hcode hp hs ho => ⟨State.flowAck_close hcode hp hs ho t n, fun place => State.flowAck_place hcode hp hs ho t n⟩,
    fun htake => ⟨fun hbad => ?_, fun hok hk hch hm x hx hc => ?_⟩,
    fun p htake => ⟨fun hx => ?_, fun x q place o hx hc hq hplace ho => ?_⟩⟩
  · rw [exec_ackReceive hw htake, State.answerCell_of_malformed _ n hbad]
  · rw [exec_ackReceive hw htake, State.answerCell_ack_of_no_flow hok hm hk hch hx]
  · rw [exec_ackReceive hw htake, State.answerCell_ack hok hm hk hch hx hc]
  · rw [exec_nackReceive hw htake, State.answerCell_of_malformed _ n hbad]
  · rw [exec_nackReceive hw htake, State.answerCell_nack hok hm hk hch hx hc]
  · rw [exec_getRespReceive hw htake, State.response_of_no_flow hx]
  · rw [exec_getRespReceive hw htake, State.response_placed hx hc hq hplace ho]

end Sys2Proof.Machine
end

