-- ==== Sys2Proof/Proofs/Settings.lean ====
section
/-! PROOFS. The settings of the device: an accepted command whose guards let it pass makes its setting and is answered OK (R480 step 8). -/
namespace Sys2Proof.Machine

open Sys2Proof

/-! ### An accepted command, by its guards -/

section
variable {i : Instr} {c : Cmd} {s u : State} {body : State → CmdResult} {gs : List (Bool × Status × Nat)} {k : CmdResult}

/-- An accepted command whose guards let it pass goes on. -/
theorem exec_of_guards (h : Accepted i c s) (hex : exec i s = .next (s.command i body)) (hb : body s.counted = s.counted.guarded gs k)
    (hg : gs.all (fun g => !g.1) = true) : exec i s = .next (State.conclude i c k) := by
  rw [hex, State.command_of_accepted body h, hb, guarded_none hg]

/-- An accepted command whose guards let it pass, and that then answers OK. -/
theorem exec_ok_of_guards (h : Accepted i c s) (hex : exec i s = .next (s.command i body))
    (hb : body s.counted = s.counted.guarded gs u.ok) (hg : gs.all (fun g => !g.1) = true) : exec i s = .next (u.answer i c .OK 0 []) :=
  exec_of_guards h hex hb hg

/-- An accepted command that a guard stops is answered with that guard's status, and has changed nothing. -/
theorem exec_of_guard_holds {st : Status} {d : Nat} (h : Accepted i c s) (hex : exec i s = .next (s.command i body))
    (hb : body s.counted = s.counted.guarded gs k) (hg : gs.find? (·.1) = some (true, st, d)) :
    exec i s = .next (s.counted.answer i c st d []) := by
  rw [hex, State.command_of_accepted body h, hb, guarded_some hg, conclude_done]

end

/-! ### The settings -/

section
variable {s : State} {c : Cmd} {h : CmdHdr}

theorem exec_pinConfigSet {pin config : Nat} (ha : Accepted (.pinConfigSet h pin config) c s) (hpin : pin ≤ 15)
    (hfn : bits config 1 0 ≠ 3) (hpull : bits config 3 2 ≠ 3) :
    let g : Gpio := { (Tbl.getD s.rst.gpio pin ⟨false, 1, 0, false⟩ : Gpio) with
      level := bit config 4, pull := bits config 3 2, fn := bits config 1 0 }
    let t : State := { s.counted with rst := { s.rst with gpio := Tbl.put s.rst.gpio pin g } }
    exec (.pinConfigSet h pin config) s =
      .next ((if bits config 1 0 = 0 then t else t.emit (.gpio pin g.level)).answer (.pinConfigSet h pin config) c .OK 0 []) :=
  exec_ok_of_guards ha rfl rfl (by simp [bad, hpin, hfn, hpull])

theorem exec_controlAccessSet {mask : Nat} {locations : List Nat} (ha : Accepted (.controlAccessSet h mask locations) c s)
    (hm : mask ≤ 15) (hl : locations.length = 4) :
    exec (.controlAccessSet h mask locations) s =
      .next (({ s.counted with cc := { s.cc with remoteEn := mask, remote := locations } } : State).answer
        (.controlAccessSet h mask locations) c .OK 0 []) := by
  have hpad : locations.take 4 ++ List.replicate (4 - locations.length) 0 = locations := by simp [← hl]
  refine exec_ok_of_guards (gs := [bad 0x0109 0 (decide (15 < mask))]) ha rfl ?_ (by simp [bad, hm])
  simp only [hpad]
  rfl

theorem exec_registerWrite {width off v : Nat} (ha : Accepted (.registerWrite h width off v) c s) (hw : badWidth width = false)
    (hal : off % width = 0) (hend : off + width ≤ 67108864) (hv : width = 4 → v < 2 ^ 32) :
    exec (.registerWrite h width off v) s = .next ((s.counted.writeReg off width v).answer (.registerWrite h width off v) c .OK 0 []) :=
  exec_ok_of_guards ha rfl rfl (by simp [bad, hw, hal, hend]; omega)

theorem exec_telemetryThresholdSet {sensor warn : Nat} (ha : Accepted (.telemetryThresholdSet h sensor warn) c s) (hs : sensor ≤ 15)
    (hd : (defaultWarn sensor).isSome) (hw : sensor < 10 → warnValue sensor warn ≤ 1680) :
    exec (.telemetryThresholdSet h sensor warn) s =
      .next ((s.counted.judgeSensor sensor { s.sensor sensor with warn := warnValue sensor warn }).answer
        (.telemetryThresholdSet h sensor warn) c .OK 0 []) := by
  have hsome : (defaultWarn sensor).isNone = false := by simpa using hd
  exact exec_ok_of_guards ha rfl rfl (by simp [bad, hs, hsome]; omega)

theorem exec_faultSeveritySet {source v : Nat} {row : Severity × List Severity} (ha : Accepted (.faultSeveritySet h source v) c s)
    (hrow : faultRow source = some row) (hv : v ≤ 3) (hin : row.2.contains (severityOfCode v) = true) :
    exec (.faultSeveritySet h source v) s =
      .next (({ s.counted with fc := { s.fc with
        severity := if severityOfCode v = row.1 then Tbl.del s.fc.severity source
          else Tbl.put s.fc.severity source (severityOfCode v) } } : State).answer (.faultSeveritySet h source v) c .OK 0 []) := by
  refine exec_ok_of_guards (gs := [bad 0x0901 1 (decide (3 < v) || !row.2.contains (severityOfCode v))]) ha rfl ?_
    (by simp only [bad, hin]; simp [hv])
  simp only [hrow]
  rfl

theorem exec_faultClear {source : Nat} (ha : Accepted (.faultClear h source) c s) (hrow : (faultRow source).isSome)
    (hp : s.faultPersists source = false) :
    exec (.faultClear h source) s =
      .next (({ s.counted with fc := { s.fc with latched := s.fc.latched.filter fun (n : Nat) => n != source } } : State).answer
        (.faultClear h source) c .OK 0 []) := by
  have hsome : (faultRow source).isNone = false := by simpa using hrow
  have hgone : s.counted.faultPersists source = false := hp
  exact exec_ok_of_guards ha rfl rfl (by simp only [bad, no, hsome, hgone]; rfl)

/-- A FAULT_CLEAR while the condition persists is BUSY. -/
theorem exec_faultClear_busy {source : Nat} (ha : Accepted (.faultClear h source) c s) (hrow : (faultRow source).isSome)
    (hp : s.faultPersists source = true) : exec (.faultClear h source) s = .next (s.counted.answer (.faultClear h source) c .BUSY 0 []) := by
  have hsome : (faultRow source).isNone = false := by simpa using hrow
  have hthere : s.counted.faultPersists source = true := hp
  exact exec_of_guard_holds ha rfl rfl (by simp only [bad, no, hsome, hthere]; rfl)

theorem exec_meterRingSet {base log2 en : Nat} (ha : Accepted (.meterRingSet h base log2 en) c s) (hb : base % 64 = 0) (hlo : 6 ≤ log2)
    (hhi : log2 ≤ 16) (hen : en ≤ 1) :
    exec (.meterRingSet h base log2 en) s =
      .next (({ s.counted with sb := { s.sb with ringBase := base, ringLog2 := log2, ringEnable := en == 1 } } : State).answer
        (.meterRingSet h base log2 en) c .OK 0 []) :=
  exec_ok_of_guards ha rfl rfl (by simp [bad, hb, hlo, hhi, hen])

end

/-- Settles O39: the lemma of each setting. -/
theorem deviceSettings : Obligations.DeviceSettings :=
  fun _ _ _ => ⟨fun _ _ => exec_pinConfigSet, fun _ _ => exec_controlAccessSet, fun _ _ _ => exec_registerWrite,
    fun _ _ => exec_telemetryThresholdSet, fun _ _ _ => exec_faultSeveritySet, fun _ => exec_faultClear,
    fun _ => exec_faultClear_busy, fun _ _ _ => exec_meterRingSet⟩

end Sys2Proof.Machine
end

