-- ==== Sys2Proof/Proofs/FunctionSettings.lean ====
section
/-! PROOFS. Functions are created within their limit, and their settings. -/
namespace Sys2Proof.Machine

open Sys2Proof

/-! ### Guards of a function's setting, and commands after which waiting work goes on -/

/-- A function that exists and that no waiting command acts on passes the guards of a function's setting. -/
theorem fnGuards_pass {s : State} {f : Nat} {x : Fn} (hx : s.fn? f = some x) (hb : s.fnBusy f = false) :
    (s.fnGuards f).all (fun g => !g.1) = true := by
  simp [State.fnGuards, no, hx, hb]

section
variable {i : Instr} {c : Cmd} {s u : State} {body : State → CmdResult} {gs : List (Bool × Status × Nat)} {k : CmdResult}

/-- As `exec_of_guards`, for a command after which waiting work goes on. -/
theorem exec_work_of_guards (h : Accepted i c s) (hex : exec i s = .next (s.workCommand i body))
    (hb : body s.counted = s.counted.guarded gs k) (hg : gs.all (fun g => !g.1) = true) :
    exec i s = .next (State.conclude i c k).settle := by
  rw [hex, State.work_of_accepted body h, hb, guarded_none hg]

/-- As `exec_ok_of_guards`, for a command after which waiting work goes on. -/
theorem exec_work_ok_of_guards (h : Accepted i c s) (hex : exec i s = .next (s.workCommand i body))
    (hb : body s.counted = s.counted.guarded gs u.ok) (hg : gs.all (fun g => !g.1) = true) :
    exec i s = .next (u.answer i c .OK 0 []).settle := by
  rw [exec_work_of_guards h hex hb hg, conclude_ok]

/-- As `exec_of_guard_holds`, for a command after which waiting work goes on. -/
theorem exec_work_of_guard_holds {st : Status} {d : Nat} (h : Accepted i c s) (hex : exec i s = .next (s.workCommand i body))
    (hb : body s.counted = s.counted.guarded gs k) (hg : gs.find? (·.1) = some (true, st, d)) :
    exec i s = .next (s.counted.answer i c st d []).settle := by
  rw [hex, State.work_of_accepted body h, hb, guarded_some hg, conclude_done]

end

/-! ### Settings

The guards read the state in which CC_COMMANDS has counted the command, which in all that they ask for is the one before. -/

section
variable {s : State} {c : Cmd} {h : CmdHdr} {x : Fn} (hx : s.counted.fn? h.fn = some x) (hb : s.counted.fnBusy h.fn = false)
include hx hb

theorem exec_functionSchedSet {level lane share dwq : Nat} (ha : Accepted (.functionSchedSet h level lane share dwq) c s)
    (hlevel : level ≤ 7) (hlane : lane ≤ 1) (hshare : share ≠ 0) (hdwq : dwq ≤ 15) :
    exec (.functionSchedSet h level lane share dwq) s =
      .next ((s.counted.pushChange (.sched h.fn level (lane == 1) share dwq)).answer (.functionSchedSet h level lane share dwq) c .OK 0 []) :=
  exec_ok_of_guards ha rfl rfl (by simp [fnGuards_pass hx hb, bad, hlevel, hlane, hshare, hdwq])

theorem exec_functionShaperSet {lo hi : Nat} (ha : Accepted (.functionShaperSet h lo hi) c s) (hle : lo ≤ hi) (hhi : hi ≤ 0xFFFFF) :
    exec (.functionShaperSet h lo hi) s =
      .next ((s.counted.pushChange (.shaper h.fn lo hi)).answer (.functionShaperSet h lo hi) c .OK 0 []) := by
  have hlo : lo ≤ 0xFFFFF := Nat.le_trans hle hhi
  exact exec_ok_of_guards ha rfl rfl (by simp [fnGuards_pass hx hb, bad, hle, hhi, hlo])

theorem exec_functionPolicerSet {cls en act cir pir cbs pbs : Nat} (ha : Accepted (.functionPolicerSet h cls en act cir pir cbs pbs) c s)
    (hcls : cls ≤ 2) (hen : en ≤ 1) (hact : act ≤ 1) (hle : cir ≤ pir) (hpir : pir ≤ 0xFFFFF) (hcbs : 1024 ≤ cbs) (hpbs : 1024 ≤ pbs) :
    exec (.functionPolicerSet h cls en act cir pir cbs pbs) s =
      .next ((s.counted.pushChange (.policer h.fn cls (en == 1) act cir pir cbs pbs)).answer
        (.functionPolicerSet h cls en act cir pir cbs pbs) c .OK 0 []) := by
  have hcir : cir ≤ 0xFFFFF := Nat.le_trans hle hpir
  exact exec_ok_of_guards ha rfl rfl
    (by simp [fnGuards_pass hx hb, bad, hcls, hen, hact, hle, hpir, hcir, hcbs, hpbs])

theorem exec_functionCcSet {target alpha beta init hi : Nat} (ha : Accepted (.functionCcSet h target alpha beta init hi) c s)
    (ht : 500 ≤ target) (ha1 : 1 ≤ alpha) (ha64 : alpha ≤ 64) (hb1 : 1 ≤ beta) (hb100 : beta ≤ 100) (hi1 : 1 ≤ init) (hle : init ≤ hi)
    (hhi : hi ≤ 64) :
    exec (.functionCcSet h target alpha beta init hi) s =
      .next ((s.counted.setCc h.fn target alpha beta init hi).answer (.functionCcSet h target alpha beta init hi) c .OK 0 []) := by
  refine exec_ok_of_guards ha rfl rfl ?_
  have hi64 : init ≤ 64 := Nat.le_trans hle hhi
  have hpos : 1 ≤ hi := Nat.le_trans hi1 hle
  simp [fnGuards_pass hx hb, bad, ht, ha64, hb100, hle, hhi, hi64]
  omega

theorem exec_functionQuotaSet {rings ctx : Nat} (ha : Accepted (.functionQuotaSet h rings ctx) c s) (hr : rings ≤ 16384)
    (hc : ctx ≤ ctxMax s.counted.variant) (hused : x.rings.length ≤ rings) (hshort : s.counted.ringsShort h.fn rings = false) :
    exec (.functionQuotaSet h rings ctx) s =
      .next ((s.counted.modFn h.fn fun y => { y with ringQuota := rings, ctxQuota := ctx }).answer
        (.functionQuotaSet h rings ctx) c .OK 0 []).settle := by
  exact exec_work_ok_of_guards ha rfl rfl (by simp [fnGuards_pass hx hb, bad, no, hx, hr, hc, hused, hshort])

theorem exec_functionPoolSet {vectors staging tokens slots : Nat} (ha : Accepted (.functionPoolSet h vectors staging tokens 0 slots) c s)
    (hv1 : 1 ≤ vectors) (hv : vectors ≤ 2048) (ht : tokens ≤ 64) (hs : slots ≤ 4095) (hm : s.counted.manager ≠ some h.fn) (hst : x.state = .READY)
    (hshort : s.counted.poolShort h.fn x.att vectors staging = false) :
    exec (.functionPoolSet h vectors staging tokens 0 slots) s =
      .next ((s.counted.setPool h.fn x vectors staging tokens 0 slots).answer (.functionPoolSet h vectors staging tokens 0 slots) c
        .OK 0 []).settle := by
  have hv0 : vectors ≠ 0 := by omega
  rw [exec_work_of_guards ha rfl rfl (by simp [bad, no, hx, hv0, hv, ht, hs])]
  simp only [hx]
  rw [guarded_none (by simp [bad, no, hb, hm, hst, hshort]), conclude_ok]

theorem exec_eventRouteSet {event ring : Nat} (ha : Accepted (.eventRouteSet h event ring 1) c s) (hev : eventToF event = true)
    (hring : x.hasEventRing ring = true) :
    exec (.eventRouteSet h event ring 1) s =
      .next ((s.counted.setFn h.fn { x with routes := Tbl.put x.routes event ring }).answer (.eventRouteSet h event ring 1) c .OK 0 []) := by
  rw [exec_of_guards ha rfl rfl (by simp [bad, hev])]
  simp only [hx, if_true]
  rw [guarded_none (by simp [no, hb, hring]), conclude_ok]

end

/-! ### Creation -/

/-- Where the table lists every number searched, the search ends behind them. -/
theorem Tbl.free_of_full {α : Type} (t : Tbl α) (fuel i : Nat) (h : ∀ j, i ≤ j → j < i + fuel → Tbl.has t j = true) :
    Tbl.free t fuel i = i + fuel := by
  induction fuel generalizing i with
  | zero => rfl
  | succ n ih =>
    have hi : Tbl.has t i = true := h i (Nat.le_refl i) (by omega)
    rw [Tbl.free, if_pos hi, ih (i + 1) fun j hlo hhi => h j (by omega) (by omega)]
    omega

/-- With 2,048 functions no number is free (R1). -/
theorem State.freeFn_of_full {s : State} (h : ∀ f, 32 ≤ f → f < 2048 → (s.fn? f).isSome) : s.freeFn = 2048 :=
  Tbl.free_of_full s.fns 2016 32 fun f hlo hhi => h f hlo (by omega)

/-- Where the change of generation is free, the creation is answered at once (R221). -/
theorem State.createFn_free {s : State} {f : Nat} {x : Fn} (h : (((s.addFn f x).advanceGen f).genOf f).held = 0) :
    s.createFn f x = ((s.addFn f x).advanceGen f).payload (((s.addFn f x).advanceGen f).createdReply f) := by
  simp only [State.createFn, if_pos h]

/-- Where the change of generation is held, so is the creation (R221). -/
theorem State.createFn_held {s : State} {f : Nat} {x : Fn} (h : (((s.addFn f x).advanceGen f).genOf f).held ≠ 0) :
    s.createFn f x = .hold ((s.addFn f x).advanceGen f) (.create f) := by
  simp only [State.createFn, if_neg h]

section
variable {s : State} {c : Cmd} {h : CmdHdr} {att vf vectors staging tokens slots rings ctx : Nat}
  (ha : Accepted (.functionCreate h att vf vectors staging tokens slots rings ctx) c s) (hatt : s.counted.badAtt att = false) (hvf1 : 1 ≤ vf)
  (hvf : vf ≤ (s.counted.att att).vfLimit) (hv1 : 1 ≤ vectors) (hv : vectors ≤ 2048) (ht : tokens ≤ 64) (hs : slots ≤ 4095) (hr : rings ≤ 16384)
  (hc : ctx ≤ ctxMax s.counted.variant) (hnew : s.counted.fnAt att vf = none)
include ha hatt hvf1 hvf hv1 hv ht hs hr hc hnew

/-- A FUNCTION_CREATE with values in range, a free number and room in the pools creates. -/
theorem exec_functionCreate (hf : s.counted.freeFn ≤ 2047) (hpool : s.counted.poolShort s.counted.freeFn att vectors staging = false)
    (hrings : s.counted.ringsShort s.counted.freeFn rings = false) :
    exec (.functionCreate h att vf vectors staging tokens slots rings ctx) s =
      .next (State.conclude (.functionCreate h att vf vectors staging tokens slots rings ctx) c (s.counted.createFn s.freeFn
        (Fn.initial att vf vectors staging tokens slots rings ctx s.minute))).settle := by
  have hv0 : vectors ≠ 0 := by omega
  have hvf0 : vf ≠ 0 := by omega
  exact exec_work_of_guards ha rfl rfl
    (by simp [bad, no, hatt, hvf0, hvf, hv0, hv, ht, hs, hr, hc, hnew, hf, hpool, hrings])

/-- With every function number in use it is CAPACITY, and creates nothing (R1). -/
theorem exec_functionCreate_full (hfull : ∀ f, 32 ≤ f → f < 2048 → (s.counted.fn? f).isSome) :
    exec (.functionCreate h att vf vectors staging tokens slots rings ctx) s =
      .next (s.counted.answer (.functionCreate h att vf vectors staging tokens slots rings ctx) c .CAPACITY 0 []).settle := by
  have hfree : s.counted.freeFn = 2048 := State.freeFn_of_full hfull
  have hv0 : vectors ≠ 0 := by omega
  have hvf0 : vf ≠ 0 := by omega
  exact exec_work_of_guard_holds ha rfl rfl
    (by simp [bad, no, hatt, hvf0, hvf, hv0, hv, ht, hs, hr, hc, hnew, hfree])

end

/-- Settles O29: the lemma of each setting and of the two ends of a creation. -/
theorem functionSettings : Obligations.FunctionSettings := by
  refine ⟨fun s c h x hx hb => ⟨fun _ _ _ _ => exec_functionSchedSet hx hb, fun _ _ => exec_functionShaperSet hx hb,
    fun _ _ _ _ _ _ _ => exec_functionPolicerSet hx hb, fun _ _ _ _ _ => exec_functionCcSet hx hb, fun _ _ => exec_functionQuotaSet hx hb,
    fun _ _ _ _ => exec_functionPoolSet hx hb, fun _ _ => exec_eventRouteSet hx hb⟩, ?_, ?_⟩
  · intro s c h att vf vectors staging tokens slots rings ctx i f t ha hatt hvf1 hvf hv1 hv ht hs hr hc hnew hf hpool hrings
    have created := exec_functionCreate ha hatt hvf1 hvf hv1 hv ht hs hr hc hnew hf hpool hrings
    refine ⟨fun hheld => ?_, fun hheld => ?_⟩
    · rw [created, State.createFn_free (f := s.freeFn) hheld, conclude_payload]
    · rw [created, State.createFn_held (f := s.freeFn) hheld]
  · intro s c h att vf vectors staging tokens slots rings ctx i ha hatt hvf1 hvf hv1 hv ht hs hr hc hnew hfull
    exact exec_functionCreate_full ha hatt hvf1 hvf hv1 hv ht hs hr hc hnew hfull

end Sys2Proof.Machine
end

