-- ==== Sys2Proof/Proofs/Registers.lean ====
section
/-! PROOFS. Register accesses of a party: reads and writes in a view and outside one, a host's writes to BAR0, its aperture and its
configuration controls. -/
namespace Sys2Proof.Machine

open Sys2Proof

/-! ### What a party sees and writes -/

/-- The party sees the register: a PF where its view shows it, every other party everywhere (R25). -/
def State.Sees (s : State) (p : Party) (off : Nat) : Prop := ∀ f, p = .fn f → s.inView f off = true

/-- The party writes the register: a PF where its view lets it, every other party everywhere (R25). -/
def State.Writes (s : State) (p : Party) (off : Nat) : Prop := ∀ f, p = .fn f → s.inView f off = true ∧ s.viewWrites f off = true

section
variable {s : State}

/-- A party that is no function sees every register. -/
theorem sees_of_not_fn {p : Party} (off : Nat) (h : ∀ f, p ≠ .fn f) : s.Sees p off := fun f e => absurd e (h f)

/-- A party that is no function writes every register. -/
theorem writes_of_not_fn {p : Party} (off : Nat) (h : ∀ f, p ≠ .fn f) : s.Writes p off := fun f e => absurd e (h f)

theorem sees_fn {f off : Nat} (h : s.inView f off = true) : s.Sees (.fn f) off := by
  rintro g ⟨⟩
  exact h

theorem writes_fn {f off : Nat} (h : s.inView f off = true) (hw : s.viewWrites f off = true) : s.Writes (.fn f) off := by
  rintro g ⟨⟩
  exact ⟨h, hw⟩

/-- A PF reaches the registers while the hosts are served. -/
theorem reaches_pf {f : Nat} {x : Fn} (hx : s.fn? f = some x) (hpf : x.vf = 0) (hh : s.hosts = true) : s.reaches (.fn f) = true := by
  simp [State.reaches, hx, hpf, hh]

/-! ### Reads -/

/-- A read of a register that the party sees gives its value. -/
theorem partyRead_of_sees {p : Party} {off : Nat} (width : Nat) (hr : s.reaches p = true) (h : s.Sees p off) :
    s.partyRead p off width = (s.readReg p off width).2.emit (.value p off (s.readReg p off width).1) := by
  cases p with
  | fn f => simp only [State.partyRead, hr, if_true, State.readAt, h f rfl]
  | _ => simp only [State.partyRead, hr, if_true, State.readAt]

/-- A PF's read outside its view gives zero and is counted. -/
theorem partyRead_outside {f off : Nat} (width : Nat) (hr : s.reaches (.fn f) = true) (h : s.inView f off = false) :
    s.partyRead (.fn f) off width = (s.evidence 0x18).emit (.value (.fn f) off 0) := by
  simp only [State.partyRead, hr, if_true, State.readAt, h, Bool.false_eq_true, if_false, State.viewDenied]

/-- A read of a low word latches the high word. -/
theorem read32_low_word (s : State) (p : Party) {off : Nat} (hc : counter64 off = true) (h0 : off ≠ 0x30000) (h8 : off ≠ 0x30008) :
    s.readReg p off 4 = (s.reg p off, s.setLatch p off (some (s.reg p (off + 4)))) := by
  simp [State.readReg, State.read32, hc, h0, h8]

/-- A read of the seconds' low word latches the fraction as well (R93). -/
theorem read32_seconds (s : State) (p : Party) :
    s.readReg p 0x30000 4 =
      (s.reg p 0x30000, (s.setLatch p 0x30000 (some (s.reg p 0x30004))).setLatch p 0x30008 (some (s.tt.now % unit))) := by
  have hc : counter64 0x30000 = true := by decide
  simp [State.readReg, State.read32, hc, State.latchFrac, State.setLatch]

/-- A read of CS_PARK clears the peak. -/
theorem read32_park (s : State) (p : Party) :
    s.readReg p 0x500118 4 = (s.reg p 0x500118, { s with cs := { s.cs with parkPeak := 0 } }) := by
  have hc : counter64 0x500118 = false := by decide
  simp [State.readReg, State.read32, hc, State.afterRead]

/-- A row that reads the low word of a counter that the party sees. -/
theorem exec_counterLowWordRead {p : Party} {off : Nat} (hr : s.reaches p = true) (h : s.Sees p off) (hc : counter64 off = true)
    (h0 : off ≠ 0x30000) (h8 : off ≠ 0x30008) :
    exec (.counterLowWordRead p off) s = .next ((s.setLatch p off (some (s.reg p (off + 4)))).emit (.value p off (s.reg p off))) := by
  simp only [exec, execCounterLowWordRead, hc, if_true, partyRead_of_sees 4 hr h, read32_low_word s p hc h0 h8]

theorem exec_secondsRead {p : Party} (hr : s.reaches p = true) (h : s.Sees p 0x30000) :
    exec (.counterLowWordRead p 0x30000) s = .next (((s.setLatch p 0x30000 (some (s.reg p 0x30004))).setLatch p 0x30008
      (some (s.tt.now % unit))).emit (.value p 0x30000 (s.reg p 0x30000))) := by
  have hc : counter64 0x30000 = true := by decide
  simp only [exec, execCounterLowWordRead, hc, if_true, partyRead_of_sees 4 hr h, read32_seconds]

theorem exec_parkPeakRead {p : Party} (hr : s.reaches p = true) (h : s.Sees p 0x500118) :
    exec (.parkPeakRead p) s =
      .next (({ s with cs := { s.cs with parkPeak := 0 } } : State).emit (.value p 0x500118 (s.reg p 0x500118))) := by
  simp only [exec, execParkPeakRead, partyRead_of_sees 4 hr h, read32_park]

/-! ### Writes -/

/-- A write of a register that the party writes reaches it. -/
theorem partyWrite_of_writes {p : Party} {off : Nat} (width v : Nat) (hr : s.reaches p = true) (h : s.Writes p off) :
    s.partyWrite p off width v = s.writeReg off width v := by
  cases p with
  | fn f =>
    obtain ⟨hin, hw⟩ := h f rfl
    simp only [State.partyWrite, hr, if_true, State.writeAt, hin, hw]
  | _ => simp only [State.partyWrite, hr, if_true, State.writeAt]

/-- What a PF only reads ignores its write. -/
theorem partyWrite_readOnly {f off : Nat} (width v : Nat) (hr : s.reaches (.fn f) = true) (h : s.inView f off = true)
    (hw : s.viewWrites f off = false) : s.partyWrite (.fn f) off width v = s := by
  simp only [State.partyWrite, hr, if_true, State.writeAt, h, hw, Bool.false_eq_true, if_false]

/-- A PF's write outside its view is ignored and counted. -/
theorem partyWrite_outside {f off : Nat} (width v : Nat) (hr : s.reaches (.fn f) = true) (h : s.inView f off = false) :
    s.partyWrite (.fn f) off width v = s.evidence 0x18 := by
  simp only [State.partyWrite, hr, if_true, State.writeAt, h, Bool.false_eq_true, if_false, State.viewDenied]

theorem exec_counterFlagClear {p : Party} {off : Nat} (v : Nat) (hne : flagCounters off ≠ []) (hr : s.reaches p = true) (h : s.Writes p off) :
    exec (.counterFlagClear p off v) s = .next (s.writeReg off 4 v) := by
  have hsome : (flagCounters off).isEmpty = false := by simpa using hne
  simp only [exec, execCounterFlagClear, hsome, Bool.false_eq_true, if_false, partyWrite_of_writes 4 v hr h]

/-- A write to a register that no rule gives another meaning clears the counters whose flags it names. -/
theorem writeReg_clears_flags (s : State) {off : Nat} (v : Nat) (h1 : off ≠ 0x30020) (h2 : off ≠ 0x80030) (h3 : off ≠ 0x2000C)
    (h4 : off ≠ 0x20010) :
    s.writeReg off 4 v = ((flagCounters off).mapIdx fun i c => (i, c)).foldl
      (fun s x => if bit (v % 2 ^ 32) x.1 then s.clearEvidence x.2 else s) s := by
  simp only [State.writeReg, State.write32, h1, h2, h3, h4, if_false, State.clearFlags]
  rfl

/-! ### A host's accesses -/

theorem exec_viewDeniedAccess {f off : Nat} {x : Fn} (hx : s.fn? f = some x) (hpf : x.vf = 0) (hh : s.hosts = true)
    (h : s.inView f off = false) :
    exec (.viewDeniedAccess f off true) s = .next ((s.evidence 0x18).emit (.value (.fn f) off 0)) ∧
    exec (.viewDeniedAccess f off false) s = .next (s.evidence 0x18) := by
  have hr := reaches_pf hx hpf hh
  refine ⟨?_, ?_⟩
  · simp only [exec, execViewDeniedAccess, h, Bool.false_eq_true, if_false, if_true, partyRead_outside 4 hr h]
  · simp only [exec, execViewDeniedAccess, h, Bool.false_eq_true, if_false, partyWrite_outside 4 0 hr h]

section
variable {f : Nat} {x : Fn} (hx : s.fn? f = some x)
include hx

/-- An aligned write of a word or a double word to BAR0 is the function's register write. -/
theorem exec_hostWrite_bar0 {off width : Nat} (v : Nat) (hw : width = 4 ∨ width = 8) (hal : off % width = 0) :
    exec (.hostRegisterWrite f (.bar0 off width) v) s = .next (s.partyWrite (.fn f) off width (v % 2 ^ (8 * width))) := by
  have hok : ¬((width ≠ 4 ∧ width ≠ 8) ∨ off % width ≠ 0) := by omega
  simp only [exec, execHostRegisterWrite, hx, if_neg hok]

/-- A write to the function's aperture while the hosts are served: the doorbell at offset 0, the plain registers of its page. -/
theorem exec_hostWrite_aperture (v : Nat) (hh : s.hosts = true) :
    exec (.hostRegisterWrite f (.aperture 0 4) v) s = exec (.doorbell f (v % 2 ^ 32)) s ∧
    exec (.hostRegisterWrite f (.aperture 0x8 4) v) s = .next (s.setFn f { x with setupAddr := setWord x.setupAddr 0 (v % 2 ^ 32) / 8 * 8 }) ∧
    exec (.hostRegisterWrite f (.aperture 0x18 4) v) s = .next (s.setFn f { x with counterValue := setWord x.counterValue 0 (v % 2 ^ 32) }) ∧
    exec (.hostRegisterWrite f (.aperture 0x1 4) v) s = exec (.badRegisterAccess f false) s := by
  refine ⟨?_, ?_, ?_, ?_⟩ <;> simp [exec, execHostRegisterWrite, apertureWrite, State.apertureWrite32, hx, hh]

/-- A write to a configuration control while the hosts are served. -/
theorem exec_hostWrite_config (field : ConfigField) (v : Nat) (hh : s.hosts = true) :
    exec (.hostRegisterWrite f (.config field) v) s = .next (s.configWrite f x field v) := by
  simp only [exec, execHostRegisterWrite, hx, hh, if_true]

end

/-! ### Configuration controls: those of every function, and those of a PF alone (R208, R219, R222 to R224) -/

section
variable {f v : Nat} {x : Fn}

theorem configWrite_busMaster_set (h : bit v 0 = true) : s.configWrite f x .busMasterEnable v = s.setFn f { x with busMaster := true } := by
  simp only [State.configWrite, h, if_true]

theorem configWrite_busMaster_clear (h : bit v 0 = false) : s.configWrite f x .busMasterEnable v = s.busMasterClear f := by
  simp only [State.configWrite, h, Bool.false_eq_true, if_false]

section
variable (hpf : x.vf = 0)
include hpf

theorem isPf_of_vf : x.isPf = true := by simp [Fn.isPf, hpf]

theorem configWrite_vfEnable_set (h : bit v 0 = true) :
    s.configWrite f x .vfEnable v = s.setAtt x.att { s.att x.att with vfEnable := true } := by
  simp only [State.configWrite, isPf_of_vf hpf, h, Bool.not_true, Bool.false_eq_true, if_false, if_true]

theorem configWrite_vfEnable_clear (h : bit v 0 = false) : s.configWrite f x .vfEnable v = s.vfEnableClear x.att := by
  simp only [State.configWrite, isPf_of_vf hpf, h, Bool.not_true, Bool.false_eq_true, if_false]

theorem configWrite_numVfs (he : (s.att x.att).vfEnable = false) (hv : v ≤ (s.att x.att).vfLimit) :
    s.configWrite f x .numVfs v = s.setAtt x.att { s.att x.att with numVfs := v } := by
  simp only [State.configWrite, isPf_of_vf hpf, he, hv, Bool.not_false, and_self, if_true]

theorem configWrite_maxPayload (hv : v % 8 ≤ 3) :
    s.configWrite f x .maxPayload v = s.setAtt x.att { s.att x.att with maxPayload := 128 * 2 ^ (v % 8) } := by
  simp only [State.configWrite, isPf_of_vf hpf, hv, and_self, if_true]

theorem configWrite_maxReadRequest (hv : v % 8 ≤ 5) :
    s.configWrite f x .maxReadRequest v = s.setAtt x.att { s.att x.att with maxRead := 128 * 2 ^ (v % 8) } := by
  simp only [State.configWrite, isPf_of_vf hpf, hv, and_self, if_true]

theorem configWrite_bar0 : s.configWrite f x .bar0 v = s.setFn f { x with bar0 := v % 2 ^ 64 / 67108864 * 67108864 } := by
  simp only [State.configWrite, isPf_of_vf hpf, if_true]

theorem configWrite_bar2 : s.configWrite f x .bar2 v = s.setFn f { x with bar2 := v % 2 ^ 64 / 131072 * 131072 } := by
  simp only [State.configWrite, isPf_of_vf hpf, if_true]

theorem configWrite_vfBar : s.configWrite f x .vfBar v = s.setAtt x.att { s.att x.att with vfBar := v % 2 ^ 64 / 131072 * 131072 } := by
  simp only [State.configWrite, isPf_of_vf hpf, if_true]

end

end

end

/-- Settles O52: the lemma of each access. -/
theorem registerAccesses : Obligations.RegisterAccesses := by
  intro s
  refine ⟨fun _ _ _ hx hpf hh h => exec_viewDeniedAccess hx hpf hh h,
    fun _ off v hne hr hp => exec_counterFlagClear v hne hr (writes_of_not_fn off hp),
    fun _ _ v hne hr h hw => exec_counterFlagClear v hne hr (writes_fn h hw),
    fun _ v _ h1 h2 h3 h4 => writeReg_clears_flags s v h1 h2 h3 h4,
    fun _ off hc hr hp h0 h8 => exec_counterLowWordRead hr (sees_of_not_fn off hp) hc h0 h8,
    fun _ hr hp => exec_secondsRead hr (sees_of_not_fn _ hp),
    fun _ hr hp => exec_parkPeakRead hr (sees_of_not_fn _ hp),
    fun _ _ hr h hc h0 h8 => exec_counterLowWordRead hr (sees_fn h) hc h0 h8,
    fun f x off width v hx hw hal hr => ?_, fun _ _ v hx hh => exec_hostWrite_aperture hx v hh, fun f x v hx hh => ?_⟩
  · rw [exec_hostWrite_bar0 hx v hw hal]
    exact ⟨fun h hw => congrArg _ (partyWrite_of_writes _ _ hr (writes_fn h hw)),
      fun h hw => congrArg _ (partyWrite_readOnly _ _ hr h hw), fun h => congrArg _ (partyWrite_outside _ _ hr h)⟩
  · have w := fun field => exec_hostWrite_config hx field v hh
    exact ⟨fun hb => (w _).trans (congrArg _ (configWrite_busMaster_set hb)), fun hb => (w _).trans (congrArg _ (configWrite_busMaster_clear hb)),
      fun hpf hb => (w _).trans (congrArg _ (configWrite_vfEnable_set hpf hb)),
      fun hpf hb => (w _).trans (congrArg _ (configWrite_vfEnable_clear hpf hb)),
      fun hpf he hv => (w _).trans (congrArg _ (configWrite_numVfs hpf he hv)), w _, w _, w _, w _,
      fun hpf hv => (w _).trans (congrArg _ (configWrite_maxPayload hpf hv)),
      fun hpf hv => (w _).trans (congrArg _ (configWrite_maxReadRequest hpf hv)),
      fun hpf => (w _).trans (congrArg _ (configWrite_bar0 hpf)), fun hpf => (w _).trans (congrArg _ (configWrite_bar2 hpf)),
      fun hpf => (w _).trans (congrArg _ (configWrite_vfBar hpf))⟩

end Sys2Proof.Machine
end

