-- ==== Sys2Proof/Proofs/Time.lean ====
section
/-! PROOFS. Fabric time on an empty queue (R22, R49, R53, R55), and the tick boundaries with the reports of lag (R61, R63). -/
namespace Sys2Proof.Machine

open Sys2Proof

/-! ### One core cycle -/

/-- The slew of one core cycle stays within its limit (R49, R53). -/
theorem TT.slew_bounds (t : TT) : -(t.slewMax : Int) ≤ t.slew ∧ t.slew ≤ t.slewMax := by
  simp only [TT.slew]
  split
  · omega
  · split <;> omega

/-- A held rate within 200 ppm (R55) moves a core cycle by at most 8 units either way. -/
theorem TT.drift_bounds {t : TT}
    (h : t.holding = true → -102400 ≤ t.rate ∧ t.rate ≤ 102400 ∧ 0 ≤ t.ratePart ∧ t.ratePart < 12800) :
    -8 ≤ t.drift.1 ∧ t.drift.1 ≤ 8 := by
  cases hh : t.holding with
  | false => simp [TT.drift, hh]
  | true =>
    obtain ⟨hlo, hhi, hpart, hpart'⟩ := h hh
    simp only [TT.drift, hh, if_true, ratePeriod]
    omega

/-- With power on, a step on an empty queue is one core cycle of 40,960 units and its turn (log 1). -/
theorem step_of_empty {s : State} (hp : s.pending = []) (hm : s.rst.mode ≠ .OFF) :
    step s = .next { s with
      tt := { s.tt with now := ((s.tt.now : Int) + 40960 + s.tt.turn).toNat, slewLeft := s.tt.slewLeft - s.tt.slew, ratePart := s.tt.drift.2 }
      jr := s.jr.ageStep (40960 + s.tt.turn).toNat } := by
  simp only [step, hp, coreCycle, if_neg hm]

/-- Settles O13: a core cycle is 40,960 units and its turn, and slew and drift keep the turn within 16 units. -/
theorem timeMovesForward : Obligations.TimeMovesForward := by
  intro s hp hm hmax hrate
  obtain ⟨hslo, hshi⟩ := s.tt.slew_bounds
  obtain ⟨hdlo, hdhi⟩ := TT.drift_bounds hrate
  have hturn : s.tt.turn = s.tt.slew + s.tt.drift.1 := rfl
  have hage : ((s.tt.now : Int) + 40960 + s.tt.turn).toNat - s.tt.now = (40960 + s.tt.turn).toNat := by omega
  refine ⟨_, step_of_empty hp hm, ?_, ?_, ?_, ?_, ?_⟩
  all_goals dsimp only
  · omega
  · omega
  · omega
  · omega
  · rw [hage]

/-! ### A boundary reached -/

/-- Where fabric time has come to a block's next boundary, its lag is reported and its work of the new tick is done. -/
theorem exec_tickBoundary {s : State} {i workEnd : Nat} (hm : s.rst.mode ≠ .OFF) (hb : s.tickBlock i = true)
    (ht : (s.lagBefore i).next workEnd ≤ s.ns) :
    exec (.tickBoundary i workEnd) s =
      .next ((s.reportLag i (s.lagBefore i).ns
        { s.lagBefore i with boundary := (s.lagBefore i).next workEnd, tick := (s.lagBefore i).tick + 1 }).tickWork i
        ((s.lagBefore i).tick + 1)) := by
  have hon : (s.rst.mode != .OFF && s.tickBlock i) = true := by simp [hm, hb]
  simp only [exec, execTickBoundary, hon, if_true, State.boundary, if_neg (Nat.not_lt.mpr ht)]

theorem State.tickWork_of_dead {t : State} (h : t.alive = false) (i n : Nat) : t.tickWork i n = t := by
  simp [State.tickWork, h]

theorem State.tickWork_signalBox {t : State} (h : t.alive = true) (n : Nat) :
    t.tickWork 0 n = (Tbl.keys t.engines).foldl State.drainAnswers (t.sbTick n) := by
  simp [State.tickWork, h]

theorem State.tickWork_roundhouse {t : State} (h : t.alive = true) (n : Nat) : t.tickWork 2 n = t.rhTick := by
  simp [State.tickWork, h]

theorem State.tickWork_engine {t : State} {i : Nat} (h : t.alive = true) (hlo : 32 ≤ i) (hhi : i < 64) (n : Nat) :
    t.tickWork i n = (t.drainAnswers (i - 32)).settleInvals (i - 32) := by
  have h0 : i ≠ 0 := by omega
  simp [State.tickWork, h, h0, hlo, hhi]

/-- Blocks 1, 3, 4 and 64 on have no work at their boundary (log 2). -/
theorem State.tickWork_other {i : Nat} (t : State) (h : i = 1 ∨ i = 3 ∨ i = 4 ∨ 64 ≤ i) (n : Nat) : t.tickWork i n = t := by
  have h0 : i ≠ 0 := by omega
  have h2 : i ≠ 2 := by omega
  have hengine : ¬ (32 ≤ i ∧ i < 64) := by omega
  simp [State.tickWork, h0, h2, hengine]

/-! ### What a lag reports (R63) -/

section
variable (s : State) {i before : Nat} {l : Lag}

/-- A lag of at most 1,000 ns raises nothing and ends the DEGRADE reaction. -/
theorem State.reportLag_small (h : l.ns ≤ 1000) (h0 : 0 < l.ns) : s.reportLag i before l = s.setLag i { l with degraded := false } := by
  have hz : (l.ns == 0) = false := beq_false_of_ne (by omega)
  have h1 : ¬ 1000 < l.ns := by omega
  have h16 : ¬ 16000 < l.ns := by omega
  simp [State.reportLag, hz, h1, h16]

/-- TICK_LATE as the lag first exceeds 1,000 ns. -/
theorem State.reportLag_late (h : 1000 < l.ns) (h16 : l.ns ≤ 16000) (hl : l.late = false) :
    s.reportLag i before l = (s.setLag i { l with late := true }).raise 0x010 none i := by
  have hz : (l.ns == 0) = false := beq_false_of_ne (by omega)
  have h16' : ¬ 16000 < l.ns := by omega
  simp [State.reportLag, hz, h, h16', hl]

/-- TICK_LAG as the lag rises above 16,000 ns; its DEGRADE reaction begins. -/
theorem State.reportLag_fault (hsev : s.severity (208 + i) = .DEGRADE) (h : 16000 < l.ns) (hl : l.late = true) (hb : before ≤ 16000) :
    s.reportLag i before l = (s.setLag i { l with fault := true, degraded := true }).faultOf (208 + i) := by
  have hz : (l.ns == 0) = false := beq_false_of_ne (by omega)
  have h1 : 1000 < l.ns := by omega
  simp [State.reportLag, hz, h, h1, hl, hb, hsev]

/-- No second TICK_LAG while the lag stays above 16,000 ns. -/
theorem State.reportLag_stays (h : 16000 < l.ns) (hl : l.late = true) (hb : 16000 < before) : s.reportLag i before l = s.setLag i l := by
  have hz : (l.ns == 0) = false := beq_false_of_ne (by omega)
  have h1 : 1000 < l.ns := by omega
  have hb' : ¬ before ≤ 16000 := by omega
  have hsame : { l with late := true } = l := by rw [← hl]
  simp [State.reportLag, hz, h1, hl, hb', hsame]

/-- TICK_RECOVERED as the lag of a TICK_LAG is gone. -/
theorem State.reportLag_recovered (h : l.ns = 0) (hf : l.fault = true) :
    s.reportLag i before l = (s.setLag i { l with late := false, fault := false, degraded := false }).raise 0x011 none i := by
  simp [State.reportLag, h, hf]

end

/-- Settles O12: the row that reaches a boundary, the work of each block, and the report of each lag. -/
theorem ticksAndLag : Obligations.TicksAndLag := by
  refine ⟨fun s i workEnd hm hb ht => ?_, fun s i before l hsev =>
    ⟨s.reportLag_small, s.reportLag_late, s.reportLag_fault hsev, s.reportLag_stays, s.reportLag_recovered⟩⟩
  intro n t
  have hrow : exec (.tickBoundary i workEnd) s = .next (t.tickWork i n) := exec_tickBoundary hm hb ht
  rw [hrow]
  refine ⟨fun ha hi => ?_, fun ha hi => ?_, fun ha hlo hhi => by rw [t.tickWork_engine ha hlo hhi], ?_⟩
  · subst hi; rw [t.tickWork_signalBox ha]
  · subst hi; rw [t.tickWork_roundhouse ha]
  · rintro (hdead | hother)
    · rw [t.tickWork_of_dead hdead]
    · rw [t.tickWork_other hother]

end Sys2Proof.Machine
end

