-- ==== Sys2Proof/Proofs/Descriptors.lean ====
section
/-! PROOFS. Descriptors at the head of a ring (R33, R262, R273 to R276): accepted, held back for a place, or malformed, once for all
opcodes; an opcode differs in its area and in how its operation begins. -/
namespace Sys2Proof.Machine

open Sys2Proof

section
variable {s : State} {f r : Nat} {x : Fn} {g : Ring} {h : DescHdr} {a : DescArea}
  (hacc : s.acceptsNext f r = true) (hx : s.fn? f = some x) (hg : s.ring? f r = some g)
include hacc hx hg

/-- A malformed entry freezes its ring, and the function is lost to its groups (R274, R276). -/
theorem State.descriptor_malformed {why : Nat} (hw : s.malformedReason f x g h a = some why) :
    s.descriptor f r h a = ((s.malformed f r g.next why (descBytes h a)).memberLost f).settle := by
  simp only [State.descriptor, hacc, if_true, State.acceptEntry, hx, hg, hw, State.badEntry]

/-- A RECV waits for room on the posted list (R381). -/
theorem State.descriptor_stallPosted (hw : s.malformedReason f x g h a = none) (hfull : s.postedFull f x a = true) :
    s.descriptor f r h a = (s.stallPosted f r x).settle := by
  simp only [State.descriptor, hacc, if_true, State.acceptEntry, hx, hg, hw, hfull]

/-- An entry waits for a free place (R313). -/
theorem State.descriptor_stallPlace (hw : s.malformedReason f x g h a = none) (hroom : s.postedFull f x a = false)
    (hp : s.freePlace = none) : s.descriptor f r h a = (s.stall f r .place).settle := by
  simp only [State.descriptor, hacc, if_true, State.acceptEntry, hx, hg, hw, hroom, Bool.false_eq_true, if_false, hp]

/-- An accepted entry enters its ring, and its operation begins (R33, R262). -/
theorem State.descriptor_accepted {place : Nat} (hw : s.malformedReason f x g h a = none) (hroom : s.postedFull f x a = false)
    (hp : s.freePlace = some place) :
    let o := s.newOp f r x g h a
    let t := (s.enter f r g place o).begin_ place o g
    s.descriptor f r h a = (t.settleWaits t.ops.length).settle := by
  simp only [State.descriptor, hacc, if_true, State.acceptEntry, hx, hg, hw, hroom, Bool.false_eq_true, if_false, hp]

end

/-- The three ends of the row `i`, whose entry has the area `a` and whose operation begins by `begins`: O54 says this of every opcode. -/
def State.DescriptorEnds (s : State) (f r : Nat) (x : Fn) (g : Ring) (h : DescHdr) (a : DescArea) (i : Instr)
    (begins : Nat → Op → State → State) : Prop :=
  (∀ place, s.malformedReason f x g h a = none → s.postedFull f x a = false → s.freePlace = some place →
    let o := s.newOp f r x g h a
    let t := begins place o (s.enter f r g place o)
    exec i s = .next (t.settleWaits t.ops.length).settle ∧ o.deadline = s.ns + x.horizonMs * 1000000 ∧ o.index = g.next) ∧
  (s.malformedReason f x g h a = none → s.postedFull f x a = false → s.freePlace = none →
    exec i s = .next (s.stall f r .place).settle) ∧
  (∀ why, s.malformedReason f x g h a = some why →
    exec i s = .next ((s.malformed f r g.next why (descBytes h a)).memberLost f).settle)

/-- A row that hands its area to `State.descriptor` has these ends, with its own arm of `State.begin_`. -/
theorem State.descriptorEnds {s : State} {f r : Nat} {x : Fn} {g : Ring} {h : DescHdr} {a : DescArea} {i : Instr}
    {begins : Nat → Op → State → State} (hacc : s.acceptsNext f r = true) (hx : s.fn? f = some x) (hg : s.ring? f r = some g)
    (hrow : exec i s = .next (s.descriptor f r h a))
    (hbegin : ∀ place t, t.begin_ place (s.newOp f r x g h a) g = begins place (s.newOp f r x g h a) t) :
    s.DescriptorEnds f r x g h a i begins := by
  refine ⟨fun place hw hroom hp => ⟨?_, rfl, rfl⟩, fun hw hroom hp => ?_, fun why hw => ?_⟩
  · rw [hrow, State.descriptor_accepted hacc hx hg hw hroom hp, hbegin]
  · rw [hrow, State.descriptor_stallPlace hacc hx hg hw hroom hp]
  · rw [hrow, State.descriptor_malformed hacc hx hg hw]

/-- Settles O54: every row of an opcode hands its area to `State.descriptor`, and `State.begin_` has an arm for it. -/
theorem descriptorsAccepted : Obligations.DescriptorsAccepted := by
  intro s f r x g h hacc hx hg ends
  have row {a : DescArea} {i : Instr} {begins : Nat → Op → State → State} (hrow : exec i s = .next (s.descriptor f r h a))
      (hbegin : ∀ place t, t.begin_ place (s.newOp f r x g h a) g = begins place (s.newOp f r x g h a) t) : ends a i begins :=
    State.descriptorEnds hacc hx hg hrow hbegin
  -- From here `row` alone says what `ends` is: unfolding it at each opcode would be slow.
  clear_value ends
  exact ⟨fun _ => row rfl fun _ _ => rfl, fun _ _ _ => row rfl fun _ _ => rfl, fun _ _ => row rfl fun _ _ => rfl,
    fun _ => row rfl fun _ _ => rfl, fun _ => row rfl fun _ _ => rfl, fun _ => row rfl fun _ _ => rfl, fun _ => row rfl fun _ _ => rfl,
    fun _ => row rfl fun _ _ => rfl, fun _ => row rfl fun _ _ => rfl, fun _ => row rfl fun _ _ => rfl, fun _ => row rfl fun _ _ => rfl,
    fun a hw hfull => congrArg Host.Outcome.next (State.descriptor_stallPosted (a := .recv a) hacc hx hg hw hfull),
    fun _ => row rfl fun _ _ => rfl, fun _ => row rfl fun _ _ => rfl, fun _ => row rfl fun _ _ => rfl⟩

end Sys2Proof.Machine
end

