-- ==== Sys2Proof/Proofs/Deadlines.lean ====
section
/-! PROOFS. Deadlines of operations and of messages offered without data (R38, R91, R373, R383, R424), and the meters in time (R202,
R204). -/
namespace Sys2Proof.Machine

open Sys2Proof

/-! ### What a deadline ends, and the rows of operations -/

section
variable {o : Op} (s : State) (place : Nat)

/-- An MCAST_PUT reports the members that have not acknowledged all of it (R356). -/
theorem State.expire_mcastPut {a : McastArea} (ha : o.area = .mcastPut a) :
    s.expire place o = s.finish place .HORIZON_EXPIRED 0 (s.lacking place o a) := by
  simp only [State.expire, ha]

/-- A RECV that is still posted has nothing to refuse to a sender. -/
theorem State.expire_recv_posted {a : RecvArea} (ha : o.area = .recv a) (hp : o.phase = .posted) :
    s.expire place o = s.finish place .HORIZON_EXPIRED 0 o.resends := by
  simp only [State.expire, ha, hp]

/-- A COLLECTIVE fails its group, and breaks the step counter that it would have advanced (R421, R424). -/
theorem State.expire_collective {a : CollArea} (ha : o.area = .collective a) :
    s.expire place o = ((if bit a.flags 0 then s.breakCounter o.fn a.stepCounter else s).finish place .HORIZON_EXPIRED 0 o.resends).failGroup
      a.group causeHORIZON none := by
  simp only [State.expire, ha]

/-- Every other operation just ends. -/
theorem State.expire_other (hm : ∀ a, o.area ≠ .mcastPut a) (hr : ∀ a, o.area ≠ .recv a)
    (hc : ∀ a, o.area ≠ .collective a) : s.expire place o = s.finish place .HORIZON_EXPIRED 0 o.resends := by
  unfold State.expire
  split
  next a ha => exact absurd ha (hm a)
  next a ha => exact absurd ha (hr a)
  next a ha => exact absurd ha (hc a)
  next => rfl

end

section
variable {s : State} {place : Nat} {o : Op} (ho : Tbl.get? s.ops place = some o)
include ho

theorem exec_horizonExpiry (ha : s.alive = true) (hd : o.deadline ≤ s.ns) :
    exec (.horizonExpiry place) s = .next (s.expire place o).settle := by
  simp [exec, execHorizonExpiry, ho, ha, hd]

theorem exec_recvExpiry (ha : s.alive = true) (hd : o.deadline ≤ s.ns) (hp : o.phase = .posted) :
    exec (.recvExpiry place) s = .next (s.finish place .HORIZON_EXPIRED 0 0).settle := by
  simp [exec, execRecvExpiry, ho, ha, hd, hp]

/-- Before the deadline neither row does anything (log 2). -/
theorem exec_expiry_early (hd : s.ns < o.deadline) : exec (.horizonExpiry place) s = .next s ∧ exec (.recvExpiry place) s = .next s := by
  have hd' : ¬ o.deadline ≤ s.ns := Nat.not_le.mpr hd
  simp [exec, execHorizonExpiry, execRecvExpiry, ho, hd']

end

/-! ### Messages offered without data -/

section
variable {s : State} {f i : Nat} {u : Unexpected} (hu : (s.lists f).unexpected[i]? = some u)
include hu

theorem exec_rtsExpiry (ha : s.alive = true) (hn : u.data = none) (hd : u.deadline < s.ns) :
    exec (.rtsExpiry f i) s =
      .next ((s.setLists f { s.lists f with unexpected := removeAt i (s.lists f).unexpected }).evidence (peBase (s.engineOf f) + 0x5028)) := by
  simp [exec, execRtsExpiry, hu, ha, hn, hd]

theorem exec_rtsExpiry_early (hd : s.ns ≤ u.deadline) : exec (.rtsExpiry f i) s = .next s := by
  have hd' : ¬ u.deadline < s.ns := Nat.not_lt.mpr hd
  simp [exec, execRtsExpiry, hu, hd']

end

/-! ### Meters -/

section
variable {s : State} (ha : s.alive = true)
include ha

/-- The row takes the snapshot of the Signal Box's last boundary. -/
theorem exec_meterSnapshot : exec .meterSnapshot s = .next (s.snapshotAt (s.lag 0).tick) := by
  simp only [exec, execMeterSnapshot, ha, if_true]

theorem exec_meterOccupancySample {f : Nat} {x : Fn} (hx : s.fn? f = some x) (hf : x.occFrame ≠ some s.frame) :
    exec (.meterOccupancySample f) s =
      .next ((s.setFn f { x with occFrame := some s.frame }).meter f 5 (ceilDiv (s.storeBytes f x) 4096)) := by
  simp only [exec, execMeterOccupancySample, ha, hx, if_neg hf]

/-- Occupancy is added once in a frame (R202). -/
theorem exec_meterOccupancySample_again {f : Nat} {x : Fn} (hx : s.fn? f = some x) (hf : x.occFrame = some s.frame) :
    exec (.meterOccupancySample f) s = .next s := by
  simp only [exec, execMeterOccupancySample, ha, hx, if_pos hf]

end

/-- At the boundary of a minute not yet recorded, every function's record goes to the meter ring and to the journal (R204). -/
theorem State.snapshotAt_minute (s : State) {k : Nat} (h : s.sb.lastMinute < k) :
    s.snapshotAt (60000000 * k) = ((s.snapshotRecords k).foldl State.meterRing
      { s with sb := { s.sb with lastMinute := k, ghosts := [] } }).journalMeters (s.snapshotRecords k) := by
  simp [State.snapshotAt, h]

/-- A minute is recorded once. -/
theorem State.snapshotAt_recorded (s : State) {k : Nat} (h : k ≤ s.sb.lastMinute) : s.snapshotAt (60000000 * k) = s := by
  simp [State.snapshotAt, Nat.not_lt.mpr h]

/-- Between minutes there is no snapshot. -/
theorem State.snapshotAt_between (s : State) {tick : Nat} (h : tick % 60000000 ≠ 0) : s.snapshotAt tick = s := by
  simp [State.snapshotAt, h]

/-- Settles O60: the lemma of each expiry, and of each row of the meters. -/
theorem deadlinesAndMeters : Obligations.DeadlinesAndMeters := by
  refine ⟨fun s ha => ⟨fun place o ho => ⟨fun hd => ?_, exec_expiry_early ho⟩,
    fun f i u hu hn => ⟨exec_rtsExpiry hu ha hn, exec_rtsExpiry_early hu⟩⟩, fun s ha => ⟨fun k hk => ?_, fun h => ?_, fun f x hx =>
    ⟨exec_meterOccupancySample ha hx, exec_meterOccupancySample_again ha hx⟩⟩⟩
  · rw [exec_horizonExpiry ho ha hd]
    exact ⟨fun a h => by rw [s.expire_mcastPut place h], fun hm hr hc => by rw [s.expire_other place hm hr hc],
      fun a h hp => by rw [s.expire_recv_posted place h hp], fun a h => by rw [s.expire_collective place h],
      exec_recvExpiry ho ha hd⟩
  · rw [exec_meterSnapshot ha, hk]
    exact ⟨fun h => by rw [s.snapshotAt_minute h], fun h => by rw [s.snapshotAt_recorded h]⟩
  · rw [exec_meterSnapshot ha, s.snapshotAt_between h]

end Sys2Proof.Machine
end

