-- ==== Sys2Proof/Proofs/Lags.lean ====
section
/-! PROOFS. Boundaries of a lagging block (R61), and how a lag is regained where no work overruns (R62). -/
namespace Sys2Proof.Machine

open Sys2Proof

theorem maxN_eq_max (a b : Nat) : maxN a b = max a b := Nat.max_def.symm

/-- Settles O10: the boundary of R61 with the lag written out. -/
theorem nextTickBoundary : Obligations.NextTickBoundary := by
  intro l workEnd _
  simp only [Lag.next, Lag.ns, maxN_eq_max]

/-! ### Ticks on, with no overrun -/

/-- The boundary of R61 where no work runs past it: a tick after fabric time's, and 125 ns of the lag less. -/
theorem Lag.next_zero {l : Lag} (h : 1000 * l.tick ≤ l.boundary) : l.next 0 = 1000 * (l.tick + 1) + (l.ns - 125) := by
  have hns : l.boundary = 1000 * l.tick + l.ns := (Nat.add_sub_cancel' h).symm
  simp only [Lag.next, maxN_eq_max]
  split <;> omega

/-- Each tick regains 125 ns of the lag, until none is left (R62). -/
theorem Lag.onward_boundary {l : Lag} (h : 1000 * l.tick ≤ l.boundary) (n : Nat) :
    (l.onward n).boundary = 1000 * (l.tick + n) + (l.ns - 125 * n) := by
  induction n generalizing l with
  | zero => exact (Nat.add_sub_cancel' h).symm
  | succ n ih =>
    have hnext := Lag.next_zero h
    rw [Lag.onward, ih (by dsimp only; omega)]
    simp only [Lag.ns] at hnext ⊢
    omega

theorem Lag.onward_tick (l : Lag) (n : Nat) : (l.onward n).tick = l.tick + n := by
  induction n generalizing l with
  | zero => rfl
  | succ n ih => rw [Lag.onward, ih, Nat.add_right_comm, Nat.add_assoc]

theorem Lag.onward_ns {l : Lag} (h : 1000 * l.tick ≤ l.boundary) (n : Nat) : (l.onward n).ns = l.ns - 125 * n := by
  rw [Lag.ns, l.onward_boundary h, l.onward_tick, Nat.add_sub_cancel_left]

/-- Settles O11: the boundaries and lags n ticks on, for a lag of ⌈L/125⌉ ticks. -/
theorem lagRegained : Obligations.LagRegained := by
  intro l h
  refine ⟨fun n hn => ?_, ?_, fun n hn => ?_⟩
  · rw [l.onward_boundary h, l.onward_boundary h]
    omega
  · rw [l.onward_boundary h]
    omega
  · rw [l.onward_ns h]
    omega

end Sys2Proof.Machine
end

