-- ==== Sys2Proof/Proofs/Timetable.lean ====
section
/-! PROOFS. The charges of an egress once a reservation is entered under a new id (R69, R83). -/
namespace Sys2Proof.Machine

open Sys2Proof

/-! ### A new entry of a table -/

/-- No entry of a table has a number that the table does not list. -/
theorem Tbl.ne_of_not_has {α : Type} {t : Tbl α} {i : Nat} (h : Tbl.has t i = false) : ∀ x ∈ t, x.1 ≠ i := by
  induction t with
  | nil => simp
  | cons e t ih =>
    obtain ⟨k, v⟩ := e
    have hk : k ≠ i := by rintro rfl; simp [Tbl.has, Tbl.get?] at h
    have ht : Tbl.has t i = false := by simpa [Tbl.has, Tbl.get?, hk] using h
    simpa [hk] using ih ht

/-- A new entry stands beside those listed before. -/
theorem Tbl.put_perm {α : Type} {t : Tbl α} {i : Nat} (a : α) (h : ∀ x ∈ t, x.1 ≠ i) : (Tbl.put t i a).Perm ((i, a) :: t) := by
  induction t with
  | nil => exact .refl _
  | cons e t ih =>
    obtain ⟨hk, ht⟩ := List.forall_mem_cons.mp h
    simp only [Tbl.put, if_neg hk]
    split
    · exact .refl _
    · exact ((ih ht).cons e).trans (.swap _ _ t)

/-! ### Charges -/

/-- What an entry of the table of reservations charges egress `e`, where the reservation `but` is left out (R69, R83). -/
def chargeAt (e but : Nat) (x : Nat × Reservation) : Nat :=
  if !x.2.suspended && x.1 != but && x.2.egresses.contains e then x.2.charge else 0

theorem State.chargedBut_eq (s : State) (e but : Nat) : s.chargedBut e but = (s.tt.resv.map (chargeAt e but)).sum :=
  List.sum_eq_foldl.symm

/-- Leaving out an id that no reservation has leaves out nothing. -/
theorem State.chargedBut_of_new {s : State} {id : Nat} (e : Nat) (hnew : ∀ x ∈ s.tt.resv, x.1 ≠ id) (hids : ∀ x ∈ s.tt.resv, x.1 < 65536) :
    s.chargedBut e id = s.charged e := by
  rw [State.charged, s.chargedBut_eq, s.chargedBut_eq]
  congr 1
  refine List.map_congr_left fun x hx => ?_
  simp [chargeAt, hnew x hx, Nat.ne_of_lt (hids x hx)]

/-- A reservation entered under a new id adds its charge to the egresses that it uses, and to no other. -/
theorem State.charged_setResv {s : State} {id : Nat} (r : Reservation) (e : Nat) (hnew : ∀ x ∈ s.tt.resv, x.1 ≠ id) :
    (s.setResv id r).charged e = chargeAt e 65536 (id, r) + s.charged e := by
  rw [State.charged, State.charged, State.chargedBut_eq, State.chargedBut_eq]
  exact ((Tbl.put_perm r hnew).map (chargeAt e 65536)).sum_nat

/-- Settles O16: on its own egresses the new charge fits beside the others, and elsewhere it is nothing. -/
theorem timetableNeverOversold : Obligations.TimetableNeverOversold := by
  intro s id r _ hhas hids hfits hlimit e
  have hnew := Tbl.ne_of_not_has hhas
  have hsame : (s.setResv id r).egressLimit e = s.egressLimit e := rfl
  rw [State.charged_setResv r e hnew, hsame]
  by_cases he : e ∈ r.egresses
  · have hroom : s.chargedBut e id + r.charge ≤ s.egressLimit e := by simpa using List.all_eq_true.mp hfits e he
    have hcharge : chargeAt e 65536 (id, r) ≤ r.charge := by
      unfold chargeAt
      split
      · exact Nat.le_refl _
      · exact Nat.zero_le _
    rw [State.chargedBut_of_new e hnew hids] at hroom
    omega
  · have hzero : chargeAt e 65536 (id, r) = 0 := by simp [chargeAt, he]
    rw [hzero, Nat.zero_add]
    exact hlimit e

end Sys2Proof.Machine
end

