-- ==== Sys2Proof/Proofs/TimeCommands.lean ====
section
/-! PROOFS. The commands of the Timetable unit: time roles (R46 to R58), the reservable fraction (R67) and reservations (R68 to R71). -/
namespace Sys2Proof.Machine

open Sys2Proof

/-! ### Time -/

/-- The state in which a new role and priority are set, before a root is announced or chosen (R46). -/
def State.withRole (s : State) (role : TimeRole) (priority : Nat) (joining : Bool) : State :=
  { s with tt := { s.tt with role := role, priority := priority, announcing := false, joining := joining, yielded := false,
                             noBetterSince := s.ns } }

/-- A ROOT that no neighbour offers a root announces itself (R57). -/
theorem State.timeConfig_root_alone {s : State} (priority : Nat) (h : s.candidates = []) :
    s.timeConfig .ROOT priority = (s.withRole .ROOT priority false).announce := by
  have hnone : (s.withRole .ROOT priority false).candidates.isEmpty = true := List.isEmpty_iff.mpr h
  exact if_pos hnone

/-- A ROOT that is offered a root joins it first (R58). -/
theorem State.timeConfig_root_offered {s : State} (priority : Nat) (h : s.candidates ≠ []) :
    s.timeConfig .ROOT priority = (s.withRole .ROOT priority true).chooseParent.joined := by
  have hsome : ¬ (s.withRole .ROOT priority false).candidates.isEmpty = true := fun he => h (List.isEmpty_iff.mp he)
  exact if_neg hsome

/-- Any other role follows the best root that is offered. -/
theorem State.timeConfig_other {s : State} {role : TimeRole} (priority : Nat) (h : role ≠ .ROOT) :
    s.timeConfig role priority = (s.withRole role priority false).chooseParent := by
  cases role with
  | ROOT => exact absurd rfl h
  | FOLLOWER => rfl
  | BACKUP => rfl

/-- A step of fabric time after which no seconds wait for an edge. -/
theorem State.stepTime_settled (s : State) (now : Nat) :
    ({ s.stepTime now with tt := { (s.stepTime now).tt with pendingSeconds := none } } : State) =
      { s with tt := { s.tt with now := now, slewLeft := 0, lags := [], pendingSeconds := none } } := rfl

/-- Seconds that take effect step fabric time; the blocks restart on the boundary, and no seconds wait any more (R47, R53). The time stands
for any number in `stepTime_settled`, so that the kernel does not compute with the unit. -/
theorem State.setSeconds_eq (s : State) (seconds : Nat) :
    s.setSeconds seconds = { s with tt := { s.tt with
      now := seconds * 1000000000 * unit, slewLeft := 0, lags := [], pendingSeconds := none } } := by
  calc s.setSeconds seconds
      = { s.stepTime (seconds * 1000000000 * unit) with
          tt := { (s.stepTime (seconds * 1000000000 * unit)).tt with pendingSeconds := none } } := rfl
    _ = _ := s.stepTime_settled _

section
variable {s : State} {c : Cmd} {h : CmdHdr}

theorem exec_timeConfig {role priority : Nat} (ha : Accepted (.timeConfig h role priority) c s) (hrole : role ≤ 2) :
    exec (.timeConfig h role priority) s =
      .next ((s.counted.timeConfig (if role = 1 then .ROOT else if role = 2 then .BACKUP else .FOLLOWER) priority).answer
        (.timeConfig h role priority) c .OK 0 []) :=
  exec_ok_of_guards ha rfl rfl (by simp [bad, hrole])

section
variable {seconds : Nat} (ha : Accepted (.timeSetSeconds h seconds) c s) (hs : seconds * 1000000000 < 2 ^ 64) (hj : s.tt.joining = false)
include ha hs hj

/-- Seconds that a 64-bit fabric time holds are set, unless the router joins a root (R47, R58). -/
theorem exec_timeSetSeconds :
    exec (.timeSetSeconds h seconds) s = .next (State.conclude (.timeSetSeconds h seconds) c
      (if s.tt.ppsEn then State.ok { s.counted with tt := { s.tt with pendingSeconds := some seconds } }
       else (s.counted.setSeconds seconds).ok)) := by
  have hfit : ¬ 2 ^ 64 ≤ seconds * 1000000000 := Nat.not_le.mpr hs
  have hnot : s.counted.tt.joining = false := hj
  exact exec_of_guards ha rfl rfl (by simp only [bad, no, hnot, hfit]; rfl)

/-- With the PPS input enabled the seconds wait for its next edge (R47). -/
theorem exec_timeSetSeconds_pending (hp : s.tt.ppsEn = true) :
    exec (.timeSetSeconds h seconds) s =
      .next (({ s.counted with tt := { s.tt with pendingSeconds := some seconds } } : State).answer
        (.timeSetSeconds h seconds) c .OK 0 []) := by
  rw [exec_timeSetSeconds ha hs hj, if_pos hp, conclude_ok]

/-- Without it they take effect at once. -/
theorem exec_timeSetSeconds_now (hp : s.tt.ppsEn = false) :
    exec (.timeSetSeconds h seconds) s =
      .next (({ s.counted with tt := { s.tt with
        now := seconds * 1000000000 * unit, slewLeft := 0, lags := [], pendingSeconds := none } } : State).answer
          (.timeSetSeconds h seconds) c .OK 0 []) := by
  rw [exec_timeSetSeconds ha hs hj, if_neg (by simp [hp]), conclude_ok, State.setSeconds_eq]
  rfl

end

/-! ### The reservable fraction -/

/-- The state in which a new reservable fraction is judged (R67). -/
def State.withFraction (s : State) (fraction : Nat) : State := { s with tt := { s.tt with fraction := fraction } }

theorem exec_timetableFractionSet {fraction : Nat} (ha : Accepted (.timetableFractionSet h fraction) c s) (hf : fraction ≤ 75)
    (hfits : ∀ e, e < 96 → s.charged e ≤ (s.withFraction fraction).egressLimit e) :
    exec (.timetableFractionSet h fraction) s =
      .next ((s.counted.withFraction fraction).rebalance.answer (.timetableFractionSet h fraction) c .OK 0 []) := by
  have hnone : ((List.range 96).any fun e =>
      decide ((s.counted.withFraction fraction).egressLimit e < (s.counted.withFraction fraction).charged e)) = false :=
    List.any_eq_false.mpr fun e he => by
      have hle : (s.counted.withFraction fraction).charged e ≤ (s.counted.withFraction fraction).egressLimit e :=
        hfits e (List.mem_range.mp he)
      simpa using hle
  have hle : ¬ 75 < fraction := Nat.not_lt.mpr hf
  exact exec_ok_of_guards (gs := [bad 0x0403 0 (decide (75 < fraction)), no .CAPACITY ((List.range 96).any fun e =>
      decide ((s.counted.withFraction fraction).egressLimit e < (s.counted.withFraction fraction).charged e))]) ha rfl rfl
    (by simp only [bad, no, hnone, hle]; rfl)

/-! ### Reservations -/

theorem exec_reservationRemove {id : Nat} (ha : Accepted (.reservationRemove h id) c s) (hid : Tbl.has s.tt.resv id = true) :
    exec (.reservationRemove h id) s =
      .next (({ s.counted with tt := { s.tt with resv := Tbl.del s.tt.resv id } } : State).rebalance.answer
        (.reservationRemove h id) c .OK 0 []) := by
  have hthere : Tbl.has s.counted.tt.resv id = true := hid
  exact exec_ok_of_guards ha rfl rfl (by simp only [no, hthere]; rfl)

/-- The reservation of one destination function that RESERVATION_INSTALL names, its ports not yet chosen (R68, R69); at risk in UNSYNC and
ACQUIRING (R59). -/
def State.askedResv (s : State) (rate rank burst hops sourceFn destFn source dest flight installTime egress : Nat) : Reservation :=
  { rate := rate, rank := rank, burst := burst, destKind := 0, hops := hops, sourceFn := sourceFn, destFn := destFn,
    source := source, dest := dest, flight := flight, installTime := installTime, egress := egress, ports := [],
    atts := s.resvAtts 0 source dest egress, suspended := false, forced := [],
    atRisk := s.tt.sync == .UNSYNC || s.tt.sync == .ACQUIRING, bucket := 0, demoted := 0, late := 0, resentFrame := none }

/-- What RESERVATION_INSTALL asks of a source function of this router: it is at the source's attachment, no waiting command acts on it, and
the reservation is within its allowance (R70, R229). -/
def State.sourceTakes (s : State) (sourceFn source rate : Nat) : Prop :=
  s.attOf sourceFn = source % 32 ∧ s.fnBusy sourceFn = false ∧
    ∃ x, s.fn? sourceFn = some x ∧ s.slotsUsed sourceFn + rate ≤ x.resvSlots

section
variable {id rate rank burst hops sourceFn destFn source dest flight installTime egress p : Nat}

/-- A reservation with right parameters that fits on every egress it uses is entered under its id (R68 to R70). -/
theorem exec_reservationInstall
    (ha : Accepted (.reservationInstall h id rate rank burst 0 hops sourceFn destFn source dest flight installTime egress) c s)
    (hlo : 1 ≤ rate) (hhi : rate ≤ 260) (hrank : rank ≤ 7) (hsf : sourceFn ≤ 2047) (hdf : destFn ≤ 2047)
    (hsrc : s.counted.absentHere source = false) (hdst : s.counted.absentHere dest = false)
    (hsep : s.counted.endpointOk source = true) (hdep : s.counted.endpointOk dest = true)
    (heg : s.counted.egressOk 0 dest egress = true)
    (htakes : epLoc source = s.counted.location → s.counted.sourceTakes sourceFn source rate)
    (hnew : Tbl.has s.counted.tt.resv id = false) (hroom : s.counted.tt.resv.length < 4096)
    (hports : s.counted.resvPorts id
      (s.counted.askedResv rate rank burst hops sourceFn destFn source dest flight installTime egress) egress = some [p])
    (hfits : s.counted.fits id
      { s.counted.askedResv rate rank burst hops sourceFn destFn source dest flight installTime egress with ports := [p] }
      ({ s.counted.askedResv rate rank burst hops sourceFn destFn source dest flight installTime egress with
        ports := [p] } : Reservation).egresses = true) :
    exec (.reservationInstall h id rate rank burst 0 hops sourceFn destFn source dest flight installTime egress) s =
      .next ((s.counted.setResv id
        { s.counted.askedResv rate rank burst hops sourceFn destFn source dest flight installTime egress with ports := [p] }).answer
          (.reservationInstall h id rate rank burst 0 hops sourceFn destFn source dest flight installTime egress) c .OK 0 []) := by
  have hrate0 : rate ≠ 0 := by omega
  rw [exec_of_guards ha rfl rfl (by
    by_cases hl : epLoc source = s.counted.location
    · obtain ⟨hatt, hfree, x, hx, hslots⟩ := htakes hl
      simp [bad, no, hsrc, hdst, hrate0, hhi, hrank, hsf, hdf, hsep, hdep, heg, hnew, hroom, hatt, hfree, hx, hslots]
    · simp [bad, no, hsrc, hdst, hrate0, hhi, hrank, hsf, hdf, hsep, hdep, heg, hnew, hroom, hl])]
  simp only [State.askedResv] at hports hfits ⊢
  simp only [hports, hfits, if_true, conclude_ok]

end

end

/-- Settles O14: the lemma of each command, with the choice that TIME_CONFIG makes for each role. -/
theorem timeCommandsAndReservations : Obligations.TimeCommandsAndReservations := by
  refine ⟨fun s c h => ⟨fun priority ha hc => ?_, fun priority ha hc => ?_, fun role priority hrole ha => ?_,
    fun seconds ha hs hj => ⟨exec_timeSetSeconds_pending ha hs hj, exec_timeSetSeconds_now ha hs hj⟩,
    fun fraction => exec_timetableFractionSet⟩, fun s c h id => ⟨?_, exec_reservationRemove⟩⟩
  · rw [exec_timeConfig ha (by omega), if_pos rfl, State.timeConfig_root_alone (s := s.counted) priority hc]
    rfl
  · rw [exec_timeConfig ha (by omega), if_pos rfl, State.timeConfig_root_offered (s := s.counted) priority hc]
    rfl
  · have hne : role ≠ 1 := by omega
    rw [exec_timeConfig ha (by omega), if_neg hne, State.timeConfig_other priority (by split <;> decide)]
    rfl
  · intro rate rank burst hops sourceFn destFn source dest flight installTime egress p i r ha hsrc hdst hlo hhi hrank hsf hdf hsep hdep heg
      htakes hnew hroom hports hfits
    exact exec_reservationInstall ha hlo hhi hrank hsf hdf hsrc hdst hsep hdep heg htakes hnew hroom hports hfits

end Sys2Proof.Machine
end

