-- ==== Sys2Proof/Proofs/TimeEvents.lean ====
section
/-! PROOFS. Events of fabric time: offers that end (R52, R55), HOLDOVER that ends (R55), a BACKUP that takes over (R56) and the edge of
TIME_PPS_IN (R47, R49). -/
namespace Sys2Proof.Machine

open Sys2Proof

/-! ### The choice of a parent while this router announces no root -/

section
variable {s : State} (ha : s.tt.announcing = false) (hl : s.tt.sync = .LOCKED)
include ha hl

/-- Without a candidate a LOCKED router goes to HOLDOVER, keeping its rate (R55). -/
theorem State.chooseParent_holdover (hn : bestParent s.candidates = none) :
    s.chooseParent = (({ s with tt := { s.tt with
      announcing := false, holdoverSince := s.ns, slewLeft := 0, goodExchanges := 0 } } : State).setSync .HOLDOVER).raise 0x013 none 0 := by
  simp [State.chooseParent, ha, hl, hn]

/-- With one a LOCKED router follows the best, and stays LOCKED (R52). -/
theorem State.chooseParent_follows {q : Nat} {best : RootOffer} (hq : bestParent s.candidates = some (q, best)) :
    s.chooseParent = { s with tt := { s.tt with
      announcing := false, parent := q, hops := best.hops + 1, rootPriority := best.priority, rootLocation := best.location } } := by
  simp [State.chooseParent, ha, hl, hq]

end

/-! ### The rows -/

section
variable {s : State} (ha : s.alive = true)
include ha

/-- An offer whose root_seq has stood still for 100 µs ends, and the parent is chosen again. -/
theorem exec_rootOfferTimeout {p : Nat} {o : RootOffer} (ho : (s.port p).offer = some o) (hr : o.noRoot = false)
    (he : o.advanced + 100000 ≤ s.ns) : exec (.rootOfferTimeout p) s = .next s.chooseParent := by
  have hends : o.ends ≤ s.ns := he
  simp [exec, execRootOfferTimeout, ho, ha, hr, hends]

theorem exec_holdoverExpiry (hh : s.tt.sync = .HOLDOVER) (ht : s.tt.holdoverSince + 5000000 ≤ s.ns) :
    exec .holdoverExpiry s = .next ((s.setSync .UNSYNC).faultOf 336) := by
  simp [exec, execHoldoverExpiry, ha, hh, ht]

theorem exec_backupTakeover (hb : s.tt.role = .BACKUP) (hn : s.tt.announcing = false) (hbetter : s.betterOffered = false)
    (ht : s.betterEnded + 1000000 ≤ s.ns) : exec .backupTakeover s = .next s.announce := by
  simp [exec, execBackupTakeover, ha, hb, hn, hbetter, ht]

section
variable (hp : s.tt.ppsEn = true) (hr : s.tt.role = .ROOT)
include hp hr

/-- An edge sets the seconds that wait for it, and dates itself in the new time (R47). -/
theorem exec_ppsEdge_seconds {seconds : Nat} (hs : s.tt.pendingSeconds = some seconds) :
    exec .ppsEdge s = .next { s with tt := { s.tt with
      now := seconds * 1000000000 * unit, slewLeft := 0, lags := [], pendingSeconds := none, phase := 0,
      ppsLast := some (seconds * 1000000000) } } := by
  have hns : seconds * 1000000000 * unit / unit = seconds * 1000000000 := Nat.mul_div_cancel _ (by decide)
  simp [exec, execPpsEdge, ha, hp, hr, hs, State.setSeconds_eq, State.ns, hns]

/-- The root's state after an edge with the phase error `e`, which it removes at 50 ppm (R49). -/
def State.ppsSlew (s : State) (e : Int) : State :=
  { s with tt := { s.tt with ppsLast := some s.ns, phase := satSigned 16 (e / (unit : Int)), slewLeft := -e, slewMax := 2 } }

/-- An edge without seconds waiting slews an announcing root towards it; more than 1 µs off, it raises TIME_PPS_FAR (R49). -/
theorem exec_ppsEdge_slew (hs : s.tt.pendingSeconds = none) (hn : s.tt.announcing = true) :
    exec .ppsEdge s = .next (if ppsError s.tt.now > 1000 * (unit : Int) ∨ ppsError s.tt.now < -(1000 * (unit : Int)) then
      (s.ppsSlew (ppsError s.tt.now)).raise 0x012 none (ofSigned 32 (ppsError s.tt.now / (unit : Int)))
      else s.ppsSlew (ppsError s.tt.now)) := by
  simp [exec, execPpsEdge, State.ppsSlew, State.ns, ha, hp, hr, hs, hn]

end

end

/-- Settles O15: the lemma of each event. -/
theorem timeEvents : Obligations.TimeEvents := by
  intro s ha
  refine ⟨fun p o ho hr he hn => ⟨fun hbest hl => ?_, fun q best hbest hl => ?_⟩, exec_holdoverExpiry ha, exec_backupTakeover ha,
    fun hp hr => ⟨fun seconds => exec_ppsEdge_seconds ha hp hr, fun hs hn e he => ?_⟩⟩
  · rw [exec_rootOfferTimeout ha ho hr he, State.chooseParent_holdover hn hl hbest]
  · rw [exec_rootOfferTimeout ha ho hr he, State.chooseParent_follows hn hl hbest]
  · intro t
    subst he
    rw [exec_ppsEdge_slew ha hp hr hs hn]
    refine ⟨fun hlo hhi => ?_, fun hfar => ?_⟩
    · rw [if_neg (by omega)]
      rfl
    · rw [if_pos (by omega)]
      rfl

end Sys2Proof.Machine
end

