-- ==== Sys2Proof/Proofs/Trains.lean ====
section
/-! PROOFS. Control trains heard (R102, R104, R107, R129, R133), and the trains that a port releases, when asked to and in time (R100, R101,
R107, R109, R138). -/
namespace Sys2Proof.Machine

open Sys2Proof

/-- The port is in a state in which it carries cells. -/
def State.trainsPass (s : State) (p : Nat) : Prop := (s.port p).state = .UP ∨ (s.port p).state = .STANDBY

theorem State.trainsPass_iff {s : State} {p : Nat} : ((s.port p).state == .UP || (s.port p).state == .STANDBY) = true ↔ s.trainsPass p := by
  simp [State.trainsPass]

/-- A train decoded leaves the port's state. -/
theorem State.trainsPass_decoded {s : State} {p : Nat} : (s.decoded p).trainsPass p ↔ s.trainsPass p := by
  simp [State.trainsPass, State.decoded]

/-! ### Control trains heard -/

section
variable {s : State} {p : Nat} (ha : s.alive = true) (hp : p < 64) (hc : s.trainsPass p)
include ha hp hc

theorem State.hears_of_trainsPass : s.hears p = true := by
  have hstate := State.trainsPass_iff.mpr hc
  simp [State.hears, ha, hp, hstate]

/-- A control train that breaks no rule of its layout is decoded, the fields of its header are used, and then its body is. -/
theorem State.controlTrain_good {th : TrainHdr} {kind : Nat} {reserved bad : Bool} (hk : th.kind = kind) (hkind : kind < 9)
    (hr : th.reserved = 0) (hreserved : reserved = false) (hcells : th.cells = 0) (hbad : bad = false) (nakHere : Bool)
    (k : State → State) :
    s.controlTrain p kind th reserved bad nakHere k = k ((s.decoded p).headerFields p th nakHere) := by
  have hstate := State.trainsPass_iff.mpr (State.trainsPass_decoded.mpr hc)
  have hknown : ¬ 9 ≤ kind := Nat.not_le.mpr hkind
  simp [State.controlTrain, State.hears_of_trainsPass ha hp hc, hk, hknown, hr, hreserved, hcells, hbad, State.goodTrain, hstate]

end

/-- Settles O19: a good train's effect at each kind. -/
theorem controlTrainsHeard : Obligations.ControlTrainsHeard := by
  intro s p th body ha hp hc hr hcells d t
  have good {kind : Nat} {reserved bad nakHere : Bool} {k : State → State} (hk : th.kind = kind) (hkind : kind < 9)
      (hreserved : reserved = false) (hbad : bad = false) :
      s.controlTrain p kind th reserved bad nakHere k = k (d.headerFields p th nakHere) :=
    State.controlTrain_good ha hp hc hk hkind hr hreserved hcells hbad nakHere k
  refine ⟨fun hk => ?_, fun hk h10 hz hbad => ?_, fun hk hz hlo hhi hup => ?_, fun hk hz hlo hhi => ?_, fun hk hz hlo hhi => ?_,
    fun hk hs hz hbad hup => ?_, fun hk hs => ?_, fun hk hz h2 h3 => ?_, fun hk h6 hz h2 h3 h7 => ?_⟩
  · exact congrArg Host.Outcome.next (good hk (by decide) rfl rfl)
  · have hsub : ¬ 4 ≤ rd body 10 1 := by omega
    exact congrArg Host.Outcome.next (good hk (by decide) (by simp [hsub, hz]) hbad)
  · have hreason : ¬ (rd body 2 1 = 0 ∨ 4 < rd body 2 1) := by omega
    have hstate := State.trainsPass_iff.mpr hup
    exact congrArg Host.Outcome.next ((good hk (by decide) (by simp [hz]) (by simp [hreason])).trans (if_pos hstate))
  · have hstep : ¬ (rd body 0 1 = 0 ∨ 3 < rd body 0 1) := by omega
    exact congrArg Host.Outcome.next (good hk (by decide) (by simp [hz]) (by simp [hstep]))
  · have hcode : ¬ (rd body 0 1 = 0 ∨ 8 < rd body 0 1) := by omega
    exact congrArg Host.Outcome.next (good hk (by decide) (by simp [hz]) (by simp [hcode]))
  · have hnot : ¬ (s.hears p && (s.port p).state == .STANDBY) = true := by simp [hs]
    have hhere : ((t.port p).state == .UP) = true := by simp [hup]
    exact congrArg Host.Outcome.next ((if_neg hnot).trans ((good hk (by decide) (by simp [hz]) hbad).trans (if_pos hhere)))
  · have hstandby : (s.hears p && (s.port p).state == .STANDBY) = true := by simp [hs, State.hears_of_trainsPass ha hp hc]
    exact congrArg Host.Outcome.next (if_pos hstandby)
  · have hvalues : ¬ (63 < rd body 2 1 ∨ 5 < rd body 3 1) := by omega
    exact congrArg Host.Outcome.next (good hk (by decide) (by simp [hz]) (by simp [hvalues]))
  · have hresume : ¬ 2 ≤ rd body 6 1 := by omega
    have hvalues : ¬ (63 < rd body 2 1 ∨ 9 < rd body 3 1 ∨ 3 < rd body 7 1) := by omega
    exact congrArg Host.Outcome.next (good hk (by decide) (by simp [hresume, hz]) (by simp [hvalues]))

/-! ### What a port releases when asked to (R100) -/

/-- A live device is not in HALT. -/
theorem State.mode_ne_halt {s : State} (h : s.alive = true) : s.rst.mode ≠ .HALT := by
  simp only [State.alive, Bool.and_eq_true, bne_iff_ne] at h
  exact h.2

section
variable {s : State} {p : Nat} (ha : s.alive = true) (hp : p < 64) (hc : s.trainsPass p) (hch : (s.port p).change = none)
include ha hp hc hch

/-- A train to replay is released before anything else (R107). -/
theorem exec_trainRelease_replay {q : Nat} {l : List Nat} (hq : (s.port p).replay = q :: l) :
    exec (.trainRelease p) s = .next (s.releaseReplay p q) := by
  have hstate := State.trainsPass_iff.mpr hc
  simp [exec, execTrainRelease, Nat.not_le.mpr hp, hstate, State.mode_ne_halt ha, ha, hch, hq]

variable (hr : (s.port p).replay = [])
include hr

/-- New data goes where the siding has room for it (R109). -/
theorem exec_trainRelease_data (hn : (s.port p).nextCells ≠ []) (hroom : (s.port p).sidingRoom (s.port p).nextCells.length = true) :
    exec (.trainRelease p) s = .next (s.releaseData p (s.port p).nextCells) := by
  have hstate := State.trainsPass_iff.mpr hc
  simp [exec, execTrainRelease, Nat.not_le.mpr hp, hstate, State.mode_ne_halt ha, ha, hch, hr, hn, hroom]

variable (hn : (s.port p).nextCells = [])
include hn

/-- Without data a violation notice goes, one in a tick (R138). -/
theorem exec_trainRelease_notice {code seq header : Nat} (hno : (s.port p).notice = some (code, seq, header))
    (ht : (s.port p).noticeTick ≠ some s.tickNo) :
    exec (.trainRelease p) s =
      .next ((s.modPort p fun x => { x with notice := none, noticeTick := some s.tickNo }).sendControl p 5 (fitTo 64 (le 1 code ++
        le 1 (minN (if (s.port p).violFrame.1 = s.frame then (s.port p).violFrame.2 else 0) 255) ++ le 2 seq ++ le 8 header))) := by
  have hstate := State.trainsPass_iff.mpr hc
  simp [exec, execTrainRelease, Nat.not_le.mpr hp, hstate, State.mode_ne_halt ha, ha, hch, hr, hn, hno, ht]

variable (hno : (s.port p).notice = none)
include hno

omit hc in
/-- Without a notice a port in STANDBY sends the NAK that is due (R107, R133). -/
theorem exec_trainRelease_nak (hd : (s.port p).nakDue = true) (hs : (s.port p).state = .STANDBY) :
    exec (.trainRelease p) s =
      .next (s.sendControl p 3 (fitTo 64 (le 2 (s.port p).rxExpected ++ le 1 (s.port p).nakReason))) := by
  simp [exec, execTrainRelease, Nat.not_le.mpr hp, State.mode_ne_halt ha, ha, hch, hr, hn, hno, hd, hs]

/-- With nothing else to send a port sends an IDLE train. -/
theorem exec_trainRelease_idle (hd : (s.port p).nakDue = false) : exec (.trainRelease p) s = .next (s.sendControl p 1 []) := by
  have hstate := State.trainsPass_iff.mpr hc
  simp [exec, execTrainRelease, Nat.not_le.mpr hp, hstate, State.mode_ne_halt ha, ha, hch, hr, hn, hno, hd]

end

/-- A train of the siding that may be released again goes with the replay flag, and is counted (R107). -/
theorem State.releaseReplay_some {s : State} {p q : Nat} {y : SidingTrain} (hy : ((s.port p).siding.find? fun y => y.seq == q) = some y)
    (hreplays : (s.port p).replays y = true) :
    s.releaseReplay p q = (((s.modPort p fun x =>
      { x with replay := x.replay.drop 1, siding := x.siding.map fun z => if z.seq = q then { z with released := s.ns } else z }).tally
        (lkBase p + 0x40)).tally (lkBase p + 0x50)).sendTrain p 0 q true (y.cells.map (·.wire)) [] := by
  have hfound : ((s.port p).siding.find? fun y => y.seq == q).filter (s.port p).replays = some y := by
    rw [hy, Option.filter_some, if_pos hreplays]
  simp only [State.releaseReplay, hfound]

/-! ### What a port sends in time (R101) -/

/-- Something that is sent every so many ns is due: it has not been sent yet, or so long ago. -/
def isDue (last : Option Nat) (every now : Nat) : Bool :=
  match last with
  | some t => decide (t + every ≤ now)
  | none => true

theorem isDue_of {last : Option Nat} {every now : Nat} (h : ∀ t, last = some t → t + every ≤ now) : isDue last every now = true := by
  cases last with
  | none => rfl
  | some t => exact decide_eq_true (h t rfl)

theorem fitTo_length (n : Nat) (bs : List Byte) : (fitTo n bs).length = n := by
  simp only [fitTo, List.length_take, List.length_append, List.length_replicate]
  omega

/-- The SUMMARY that port `p` sends: the free part of the pool and of its reserves, the congestion of every port, and the ports in UP
(R102, R169). -/
def State.summaryBody (s : State) (p : Nat) : List Byte :=
  fitTo 64 (le 2 (s.poolFreeKib / 64) ++ ((List.range 8).map fun v => BitVec.ofNat 8 ((32768 - s.reserveUsed p v * 72) / 256)) ++
    packNibbles ((List.range 64).map s.congestion) ++
    le 8 (sumNat ((List.range 64).map fun q => if (s.port q).state = .UP then 2 ^ q else 0)))

section
variable {s : State} {p : Nat} (ha : s.alive = true) (hp : p < 64)
include ha hp

theorem exec_summarySend (hs : (s.port p).state = .UP) (hdue : ∀ t, (s.port p).lastSummary = some t → t + 1000 ≤ s.ns) :
    exec (.summarySend p) s =
      .next ((s.modPort p fun x => { x with lastSummary := some s.ns }).sendControl p 6 (s.summaryBody p)) := by
  have hon : (s.alive && decide (p < 64) && (s.port p).state == .UP && isDue (s.port p).lastSummary 1000 s.ns) = true := by
    simp [ha, hp, hs, isDue_of hdue]
  exact if_pos hon

theorem exec_helloSend (hs : (s.port p).shaking = true) (hdue : ∀ t, (s.port p).lastHello = some t → t + 1000 ≤ s.ns) :
    exec (.helloSend p) s =
      .next ((s.modPort p fun x => { x with lastHello := some s.ns }).sendControl p 8 (s.helloOf p).bytes) := by
  have hon : (s.alive && decide (p < 64) && (s.port p).shaking && isDue (s.port p).lastHello 1000 s.ns) = true := by
    simp [ha, hp, hs, isDue_of hdue]
  exact if_pos hon

theorem exec_keepaliveSend (hs : (s.port p).state = .STANDBY) (hdue : ∀ t, (s.port p).lastHello = some t → t + 8000 ≤ s.ns) :
    exec (.keepaliveSend p) s =
      .next ((s.modPort p fun x => { x with lastHello := some s.ns }).sendControl p 7
        (fitTo 64 (le 2 s.location ++ le 1 p ++ le 1 (modeCode s.rst.mode)))) := by
  have hon : (s.alive && decide (p < 64) && (s.port p).state == .STANDBY && isDue (s.port p).lastHello 8000 s.ns) = true := by
    simp [ha, hp, hs, isDue_of hdue]
  exact if_pos hon

/-- The port has asked for the time in the exchange of this number (R51). -/
def State.askedTime (s : State) (p n : Nat) : State :=
  s.modPort p fun x => { x with exchangeNo := n, exchange := some (n, s.tt.now), lastTimeSend := some s.ns }

/-- A request for the time, of a router that does not announce itself as root (R51). -/
theorem exec_timeExchangeSend (hs : (s.port p).state = .UP) (hn : s.tt.announcing = false)
    (hdue : ∀ t, (s.port p).lastTimeSend = some t → t + (s.port p).timeEvery ≤ s.ns) :
    exec (.timeExchangeSend p) s = .next ((s.askedTime p (((s.port p).exchangeNo + 1) % 256)).sendControl p 2
      ((s.askedTime p (((s.port p).exchangeNo + 1) % 256)).timeBody false (((s.port p).exchangeNo + 1) % 256) 0).bytes) := by
  have hon : (s.exchanges p && isDue (s.port p).lastTimeSend (s.port p).timeEvery s.ns) = true := by
    simp [State.exchanges, ha, hp, hs, isDue_of hdue]
  refine (if_pos hon).trans ?_
  simp only [hn, Bool.false_eq_true, if_false, State.askedTime]

omit hp in
theorem exec_laneChangeResend {c : LaneChange} (hc : (s.port p).change = some c) (hno : c.accepted = false)
    (hdue : c.lastSent + 10000 ≤ s.ns) :
    exec (.laneChangeResend p) s = .next ((s.modPort p fun x => { x with change := some { c with lastSent := s.ns } }).sendControl p 4
      (laneBody 1 c.failed c.active c.change)) := by
  simp [exec, execLaneChangeResend, hc, ha, hno, hdue]

end

/-- Settles O21: the lemma of each train that is released or sent. -/
theorem trainsSent : Obligations.TrainsSent := by
  refine ⟨fun s p ha hp hc hch => ⟨fun q l y hq hy hreplays => ?_, exec_trainRelease_data ha hp hc hch,
    fun code seq header hr hn => exec_trainRelease_notice ha hp hc hch hr hn, fun hr hn hno =>
      ⟨exec_trainRelease_idle ha hp hc hch hr hn hno, exec_trainRelease_nak ha hp hch hr hn hno⟩⟩,
    fun s p ha hp => ⟨fun hs hdue => ⟨s.summaryBody p, exec_summarySend ha hp hs hdue, fitTo_length 64 _⟩, exec_helloSend ha hp,
      exec_keepaliveSend ha hp, exec_timeExchangeSend ha hp, fun c => exec_laneChangeResend ha⟩⟩
  rw [exec_trainRelease_replay ha hp hc hch hq, State.releaseReplay_some hy hreplays]

end Sys2Proof.Machine
end

