-- ==== Sys2Proof/Proofs/Lanes.lean ====
section
/-! PROOFS. Lanes that go bad (R128), lane changes that complete (R129, R130) and the exposure that steps a rate down (R118). -/
namespace Sys2Proof.Machine

open Sys2Proof

/-- What entry to HELD leaves of a port in UP: its grace timer starts (R121). -/
theorem State.enterHeld_up {s : State} {p : Nat} (cause : Nat) (hs : (s.port p).state = .UP) :
    s.enterHeld p cause = (((s.modPort p fun x =>
      { x.stopped with lastCause := cause, graceDeadline := some (s.ns + x.grace * 1000), flushed := false, trainSince := s.ns,
                       replay := [] }).portState p .HELD).evidence (lkBase p + 0x78)).raise 0x041 none (p + cause * 256) := by
  simp [State.enterHeld, hs]

section
variable {s : State} {p : Nat} (hs : (s.port p).state = .UP)
include hs

/-! ### Bad lanes -/

section
variable {lanes : BitVec 8} (hnew : lanes &&& ~~~ (s.port p).failed ≠ 0#8) (cause : Nat)
include hnew

/-- The highest step that the good lanes carry is asked of the partner. -/
theorem State.badLanes_degrade {step : Nat}
    (hstep : bestStep (s.port p).rate (popcount8 (~~~ ((s.port p).failed ||| lanes))) (s.port p).fHandshake = some step) :
    s.badLanes p lanes cause = (s.modPort p fun x => { x with failed := (s.port p).failed ||| lanes }).requestLanes p
      ((s.port p).failed ||| lanes) (lowestLanes (lanesOf step) (~~~ ((s.port p).failed ||| lanes))) false false := by
  have hnew' : (lanes &&& ~~~ (s.port p).failed == 0#8) = false := beq_false_of_ne hnew
  simp only [State.badLanes, hs, hnew', hstep]
  rfl

/-- Where none is left the port enters HELD. -/
theorem State.badLanes_held
    (hstep : bestStep (s.port p).rate (popcount8 (~~~ ((s.port p).failed ||| lanes))) (s.port p).fHandshake = none) :
    s.badLanes p lanes cause = (s.modPort p fun x => { x with failed := (s.port p).failed ||| lanes }).enterHeld p cause := by
  have hnew' : (lanes &&& ~~~ (s.port p).failed == 0#8) = false := beq_false_of_ne hnew
  simp only [State.badLanes, hs, hnew', hstep]
  rfl

end

section
variable (ha : s.alive = true) (hp : p < 64)
include ha hp

omit hs in
/-- Both rows that find lanes bad hand them on. -/
theorem exec_badLanes {lanes : BitVec 8} {i : Instr} (hi : i ∈ [Instr.laneLockLoss p lanes, .laneErrorRateCheck p lanes]) :
    exec i s = .next (s.badLanes p lanes 1) := by
  have hon : (s.alive && decide (p < 64)) = true := by simp [ha, hp]
  obtain rfl | rfl : i = .laneLockLoss p lanes ∨ i = .laneErrorRateCheck p lanes := by simpa only [List.mem_cons, List.not_mem_nil, or_false] using hi
  · exact if_pos hon
  · exact if_pos hon

/-! ### Changes that complete -/

theorem exec_laneChangeComplete {c : LaneChange} (hc : (s.port p).change = some c) (hacc : c.accepted = true) :
    exec (.laneChangeComplete p) s =
      .next ((s.modPort p fun x =>
        { x with change := none, active := c.active, failed := c.failed, rate := stepOf (popcount8 c.active),
                 overExposed := 0, state := if stepOf (popcount8 c.active) = 3 then .STANDBY else x.state }).rebalance.raise 0x042 none
        (p + c.active.toNat * 256)) := by
  simp [exec, execLaneChangeComplete, hc, hacc, ha, hp, hs]

/-! ### Exposure -/

section
variable (hframe : (s.port p).exposureFrame ≠ some s.frame)
include hframe

theorem exec_exposureCheck_within (he : exposure (s.port p).rate (s.port p).fCurrent ≤ exposureLimit) :
    exec (.exposureCheck p) s = .next (s.modPort p fun x => { x with overExposed := 0, exposureFrame := some s.frame }) := by
  simp [exec, execExposureCheck, ha, Nat.not_le.mpr hp, hs, hframe, he]

variable (he : exposureLimit < exposure (s.port p).rate (s.port p).fCurrent)
include he

theorem exec_exposureCheck_over (hcount : (s.port p).overExposed < 2) :
    exec (.exposureCheck p) s =
      .next (s.modPort p fun x => { x with overExposed := x.overExposed + 1, exposureFrame := some s.frame }) := by
  have hover := Nat.not_le.mpr he
  have hfew : ¬ 3 ≤ (s.port p).overExposed + 1 := by omega
  simp [exec, execExposureCheck, ha, Nat.not_le.mpr hp, hs, hframe, hover, hfew]

/-- The third frame over the limit in a row asks for the lanes of the next rate step (R118). -/
theorem exec_exposureCheck_stepDown (hcount : 2 ≤ (s.port p).overExposed) (hrate : (s.port p).rate < 3) (hc : (s.port p).change = none) :
    exec (.exposureCheck p) s =
      .next (((s.modPort p fun x => { x with exposureFrame := some s.frame, overExposed := 0 }).requestLanes p (s.port p).failed
        (lowestLanes (lanesOf ((s.port p).rate + 1)) (~~~ (s.port p).failed)) false true).raise 0x044 none
          (p + ((s.port p).rate + 1) * 256)) := by
  have hover := Nat.not_le.mpr he
  have hthird : 3 ≤ (s.port p).overExposed + 1 := by omega
  simp [exec, execExposureCheck, ha, Nat.not_le.mpr hp, hs, hframe, hover, hthird, hrate, hc]

end

end

end

/-- Settles O23: the lemma of each row, with the step that the good lanes still carry or none. -/
theorem lanesDegrade : Obligations.LanesDegrade := by
  refine ⟨fun s p ha hp hs => ⟨fun lanes hnew i hi => ?_, fun c => exec_laneChangeComplete hs ha hp, fun hf =>
    ⟨exec_exposureCheck_within hs ha hp hf, exec_exposureCheck_over hs ha hp hf⟩⟩, fun s p ha hp hs => exec_exposureCheck_stepDown hs ha hp⟩
  intro t
  rw [exec_badLanes ha hp hi]
  refine ⟨fun step hstep => ?_, fun hnone => ?_⟩
  · rw [State.badLanes_degrade hs hnew 1 hstep]
  · have hup : (t.port p).state = .UP := by simpa [t] using hs
    rw [State.badLanes_held hs hnew 1 hnone, State.enterHeld_up 1 hup]

end Sys2Proof.Machine
end

