-- ==== Sys2Proof/Proofs/Horizons.lean ====
section
/-! PROOFS. The horizon of a function (R89), and what a shorter one does to the deadlines in flight (R39). -/
namespace Sys2Proof.Machine

open Sys2Proof

section
variable {s : State} {c : Cmd} {h : CmdHdr} {ms : Nat} (ha : Accepted (.functionHorizonSet h ms) c s)
include ha

/-- A horizon in range is set; a shorter one draws in the deadlines of what is in flight as well. -/
theorem exec_functionHorizonSet {x : Fn} (hx : s.counted.fn? h.fn = some x) (hb : s.counted.fnBusy h.fn = false) (hlo : 10 ≤ ms)
    (hhi : ms ≤ 10000) :
    exec (.functionHorizonSet h ms) s =
      .next ((if ms < x.horizonMs then s.counted.setHorizon h.fn ms else s.counted.modFn h.fn fun y => { y with horizonMs := ms }).answer
        (.functionHorizonSet h ms) c .OK 0 []) := by
  rw [exec_of_guards ha rfl rfl (by simp [fnGuards_pass hx hb, bad, hlo, hhi])]
  simp only [hx, decide_eq_true_eq]
  split <;> rfl

/-- A horizon out of range is BAD_PARAM. -/
theorem exec_functionHorizonSet_bad (hout : ms < 10 ∨ 10000 < ms) :
    exec (.functionHorizonSet h ms) s = .next (s.counted.answer (.functionHorizonSet h ms) c .BAD_PARAM (paramAt 0x0512 0) []) := by
  have hbad : (decide (ms < 10) || decide (10000 < ms)) = true := by simpa using hout
  exact exec_of_guard_holds ha rfl rfl (by simp [bad, hbad])

end

/-- Settles O30: the two ends of a horizon in range, and one out of range. -/
theorem functionHorizon : Obligations.FunctionHorizon := by
  intro s c h x ms
  refine ⟨fun _ _ _ _ _ _ _ _ _ => rfl, fun ha hx hb hlo hhi => ?_, fun ha hout => ⟨_, exec_functionHorizonSet_bad ha hout⟩⟩
  rw [exec_functionHorizonSet ha hx hb hlo hhi]
  exact ⟨fun hge => by rw [if_neg (Nat.not_lt.mpr hge)], fun hlt => by rw [if_pos hlt]; rfl⟩

end Sys2Proof.Machine
end

