-- ==== Sys2Proof/Proofs/Queries.lean ====
section
/-! PROOFS. Queries: an accepted one whose guards let it pass answers OK with its payload (R202, R475, R499, R518, R602, R615). -/
namespace Sys2Proof.Machine

open Sys2Proof

/-- An accepted query whose guards let it pass answers what it asks for. -/
theorem exec_query {i : Instr} {c : Cmd} {s u : State} {body : State → CmdResult} {gs : List (Bool × Status × Nat)} {p : List Byte}
    (h : Accepted i c s) (hex : exec i s = .next (s.command i body)) (hb : body s.counted = s.counted.guarded gs (u.payload p))
    (hg : gs.all (fun g => !g.1) = true) : exec i s = .next (u.answer i c .OK 0 p) :=
  exec_of_guards h hex hb hg

section
variable {s : State} {c : Cmd} {h : CmdHdr}

theorem exec_linkQuery {p : Nat} (ha : Accepted (.linkQuery h p) c s) (hp : p < 64) (hw : s.counted.portWaits p = false) :
    exec (.linkQuery h p) s =
      .next (s.counted.answer (.linkQuery h p) c .OK 0 ((List.range 32).flatMap fun i => le 4 (s.counted.reg .cores (lkBase p + 4 * i)))) :=
  exec_query ha rfl rfl (by simp [State.portGuards, bad, no, hw]; omega)

theorem exec_routeQuery {station : Nat} (ha : Accepted (.routeQuery h station) c s) (hs : station ≤ 4095) :
    exec (.routeQuery h station) s =
      .next (s.counted.answer (.routeQuery h station) c .OK 0 (le 4 (s.counted.reg .cores (0x110000 + 4 * station)))) :=
  exec_query ha rfl rfl (by simp [bad, hs])

theorem exec_reservationQuery {id : Nat} {r : Reservation} (ha : Accepted (.reservationQuery h id) c s)
    (hr : Tbl.get? s.counted.tt.resv id = some r) :
    exec (.reservationQuery h id) s =
      .next (s.counted.answer (.reservationQuery h id) c .OK 0 (le 1 (Config.resvStateByte r.suspended) ++
        le 1 (b2n (s.counted.resvAtRisk r)) ++ le 6 0 ++ le 8 r.demoted ++ le 4 r.late)) :=
  exec_query (gs := []) ha rfl (by simp only [hr, guarded_nil]) rfl

theorem exec_functionQuery {x : Fn} (ha : Accepted (.functionQuery h) c s) (hx : s.counted.fn? h.fn = some x)
    (hb : s.counted.fnBusy h.fn = false) :
    exec (.functionQuery h) s =
      .next (s.counted.answer (.functionQuery h) c .OK 0 (le 16 (x.word h.fn (s.counted.gen h.fn) (s.counted.manager == some h.fn)))) :=
  exec_query ha rfl (by simp only [hx]) (fnGuards_pass hx hb)

theorem exec_meterRead (ha : Accepted (.meterRead h) c s) (hx : (s.counted.fn? h.fn).isSome) (hb : s.counted.fnBusy h.fn = false) :
    exec (.meterRead h) s = .next (s.counted.answer (.meterRead h) c .OK 0 ((s.counted.meters h.fn).flatMap (le 8))) :=
  exec_query ha rfl rfl (by simp [no, hb, hx])

theorem exec_violationLogRead {first count : Nat} (ha : Accepted (.violationLogRead h first count) c s) (hlo : 1 ≤ count)
    (hhi : count ≤ 256) :
    exec (.violationLogRead h first count) s =
      .next (s.counted.answer (.violationLogRead h first count) c .OK 0
        ((List.range count).flatMap fun i => fitTo 32 (Tbl.getD s.counted.fc.vLog ((first + i) % 256) []))) := by
  have h0 : count ≠ 0 := by omega
  exact exec_query ha rfl rfl (by simp [bad, h0, hhi])

/-- The registers read are those of the state that the reads before them have left (R9, R13). -/
theorem exec_registerRead {width off count : Nat} (ha : Accepted (.registerRead h width off count) c s) (hw : badWidth width = false)
    (hal : off % width = 0) (hlo : 1 ≤ count) (hhi : count ≤ 1024) (hoff : off < 67108864) (hend : off + count * width ≤ 67108864) :
    exec (.registerRead h width off count) s =
      .next ((State.readRegs (cmdParty h.src) width count off s.counted).1.answer (.registerRead h width off count) c .OK 0
        (State.readRegs (cmdParty h.src) width count off s.counted).2) := by
  have h0 : count ≠ 0 := by omega
  exact exec_query ha rfl rfl (by simp [bad, hw, hal, h0, hhi, hoff, hend])

end

/-- Settles O38: the lemma of each query; those without a guard answer at once. -/
theorem queries : Obligations.Queries :=
  fun _ _ _ => ⟨fun ha => exec_query (gs := []) ha rfl rfl rfl, fun _ => exec_linkQuery, fun _ => exec_routeQuery,
    fun ha => exec_query (gs := []) ha rfl rfl rfl, fun _ _ => exec_reservationQuery, fun _ => exec_functionQuery, exec_meterRead,
    fun ha => exec_query (gs := []) ha rfl rfl rfl, fun ha => exec_query (gs := []) ha rfl rfl rfl, fun _ _ => exec_violationLogRead,
    fun ha => exec_query (gs := []) ha rfl rfl rfl, fun _ _ _ => exec_registerRead⟩

end Sys2Proof.Machine
end

