-- ==== Sys2Proof/Proofs/Opens.lean ====
section
/-! PROOFS. What an engine carries out at a destination: OPEN (R319 to R322), multicast parcels (R353, R354) and the last write of a
placement (R330). -/
namespace Sys2Proof.Machine

open Sys2Proof

section
variable {s : State} {n : Nat} (hw : s.engineWorks n = true)
include hw

/-! ### The rows, once a parcel or a placement is taken -/

theorem exec_openReceive {p : Parcel} {e : Engine}
    (h : (s.engine n).takeHanded (fun q => !q.mcast && q.op == opOPEN) = some (p, e)) :
    exec (.openReceive n) s = .next ((s.setEngine n e).carryOpen n p) := by
  simp only [exec, execOpenReceive, hw, h]

theorem exec_mcastPutReceive {p : Parcel} {e : Engine} (h : (s.engine n).takeHanded (fun q => q.mcast) = some (p, e)) :
    exec (.mcastPutReceive n) s = .next ((s.setEngine n e).carryMcast n p) := by
  simp only [exec, execMcastPutReceive, hw, h]

section
variable {w : Placing} {t : List Placing} (hp : (s.engine n).placing = w :: t)
include hp

/-- The placement of a multicast parcel ends, and no flow goes on. -/
theorem exec_ackSend_member (hf : w.flow = none) :
    exec (.ackSend n) s = .next ((s.setEngine n { s.engine n with placing := t }).endPlacing n w).settle := by
  simp only [exec, execAckSend, hw, hp, hf]

/-- The placement of a flow's parcel ends, and the flow's staged parcels go on (R330). -/
theorem exec_ackSend_flow {d q : Nat} (hf : w.flow = some (d, q)) :
    exec (.ackSend n) s = .next (((s.setEngine n { s.engine n with placing := t }).endPlacing n w).unstage n d 5).settle := by
  simp only [exec, execAckSend, hw, hp, hf]

end

/-! ### Chunks that arrive -/

theorem exec_collUpReceive {y : Nat × Parcel} {t : State} (h : s.nextChunk n opCOLL_UP = some (y, t)) :
    exec (.collUpReceive n) s = .next (t.chunkArrives y.1 y.2) := by
  simp only [exec, execCollUpReceive, hw, h]

theorem exec_collDownReceive {y : Nat × Parcel} {t : State} (h : s.nextChunk n opCOLL_DOWN = some (y, t)) :
    exec (.collDownReceive n) s = .next (t.chunkArrives y.1 y.2) := by
  simp only [exec, execCollDownReceive, hw, h]

end

/-- A chunk is taken, and a Roundhouse that does not lag starts the sequence that it may begin. -/
theorem State.chunkArrives_on_time {t : State} {edge : Nat} {p : Parcel} (h : (t.takeChunk edge p).lagging 2 = false) :
    t.chunkArrives edge p = (((t.takeChunk edge p).startSeq (p.flow % 1024)).closeDowns (p.flow % 1024)).settle := by
  simp only [State.chunkArrives, h, Bool.false_eq_true, if_false]

/-- A Roundhouse degraded by its lag starts no sequence (R63). -/
theorem State.chunkArrives_lagging {t : State} {edge : Nat} {p : Parcel} (h : (t.takeChunk edge p).lagging 2 = true) :
    t.chunkArrives edge p = ((t.takeChunk edge p).closeDowns (p.flow % 1024)).settle := by
  simp only [State.chunkArrives, h, if_true]

/-! ### OPEN -/

/-- The flow's sending end that an OPEN names (R319). -/
def Parcel.origin (p : Parcel) : Origin :=
  { endpoint := bits (rd p.area 0 12) 20 0, fn := bits (rd p.area 0 12) 31 21, flow := p.flow, gen := rd p.data 0 1 }

/-- The function that an OPEN names. -/
def Parcel.openFn (p : Parcel) : Nat := bits (rd p.area 0 12) 42 32

/-- Is the flow the one that this OPEN asks for? -/
def Parcel.opened (p : Parcel) (x : Nat × DstFlow) : Bool :=
  x.2.endpoint == p.origin.endpoint && x.2.srcFn == p.origin.fn && x.2.srcFlow == p.origin.flow && x.2.srcGen == p.origin.gen
    && x.2.fn == p.openFn

section
variable {t u : State} {n : Nat} {p : Parcel}

/-- An OPEN for a function that takes no new work is refused (R235, R241). -/
theorem State.carryOpen_refused {k det : Nat} (h : t.roleRefusal p.openFn p.roleGen = (u, some (k, det))) :
    t.carryOpen n p = u.nackOrigin n p.openFn p.origin p.seq k det := by
  simp only [Parcel.openFn] at h
  simp only [State.carryOpen, h]
  rfl

variable (h : t.roleRefusal p.openFn p.roleGen = (u, none))
include h

/-- An OPEN of a flow held and cached is answered again (R322). -/
theorem State.carryOpen_held {d : Nat} {x : DstFlow} (hd : (u.engine n).dst.find? (fun x => p.opened x) = some (d, x))
    (hc : u.isCached n d false = true) : t.carryOpen n p = (u.touch (n, d, false)).openAnswer n d x p.seq p.delay := by
  simp only [Parcel.openFn] at h
  simp only [Parcel.opened, Parcel.origin, Parcel.openFn] at hd
  simp only [State.carryOpen, h, hd, hc, if_true]

section
variable (hd : (u.engine n).dst.find? (fun x => p.opened x) = none) (h47 : bits (rd p.area 0 12) 47 43 = 0) (h95 : bits (rd p.area 0 12) 95 82 = 0)
  (hlen : p.data.length = 8) (hpad : rd p.data 2 6 = 0) (h81 : bit (rd p.area 0 12) 81 = false)
include hd h47 h95 hlen hpad h81

/-- A well-formed OPEN of a flow that is not held opens it (R320), but in DRAIN (R534). -/
theorem State.carryOpen_new :
    t.carryOpen n p = if u.rst.mode = .DRAIN then u.nackOrigin n p.openFn p.origin p.seq nackRETRY_AFTER 16
      else u.createFlow n p.openFn p.origin p (bit (rd p.area 0 12) 80) (bits (rd p.area 0 12) 79 48) := by
  simp only [Parcel.openFn] at h
  simp only [Parcel.opened, Parcel.origin, Parcel.openFn] at hd
  have hok : ¬ (bits (rd p.area 0 12) 47 43 ≠ 0 ∨ bits (rd p.area 0 12) 95 82 ≠ 0 ∨ p.data.length ≠ 8 ∨ rd p.data 2 6 ≠ 0) := by
    simp [h47, h95, hlen, hpad]
  simp only [State.carryOpen, h, hd, if_neg hok, h81, Bool.false_eq_true, if_false, Parcel.origin, Parcel.openFn]

end

end

/-! ### Multicast parcels -/

section
variable {t u : State} {n : Nat} {p : Parcel}

/-- A parcel of a group without a member record here is counted (R353). -/
theorem State.carryMcast_no_member (hm : t.member? n (p.flow % 4096) = none) : t.carryMcast n p = t.evidence (peBase n + 0x7010) := by
  simp only [State.carryMcast, hm]

section
variable {m : Member} (hm : t.member? n (p.flow % 4096) = some m) (h : t.roleRefusal m.fn (t.gen m.fn) = (u, none))
include hm h

/-- A parcel placed already is answered again. -/
theorem State.carryMcast_again (hq : classifySeq m.base m.done m.busy p.seq = .again) :
    t.carryMcast n p = u.memberAnswer n (p.flow % 4096) m p.tag p.seq false 0 0 p.delay := by
  simp only [State.carryMcast, hm, h, hq]

/-- A parcel whose placement is under way waits for it. -/
theorem State.carryMcast_busy (hq : classifySeq m.base m.done m.busy p.seq = .busy) : t.carryMcast n p = u := by
  simp only [State.carryMcast, hm, h, hq]

/-- A new one that is well-formed is placed. -/
theorem State.carryMcast_placed {v : State} (hq : classifySeq m.base m.done m.busy p.seq = .fresh) (hop : p.op = opMCAST_PUT)
    (hoff : rd p.area 4 6 < 2 ^ 43) (hflags : rd p.area 10 1 < 2) (hres : rd p.area 11 1 = 0)
    (hplace : u.placeMember n (p.flow % 4096) m (rd p.area 4 6) p.seq p.tag p.delay p.data none = (v, none)) : t.carryMcast n p = v := by
  have hok : ¬ (p.op ≠ opMCAST_PUT ∨ 2 ^ 43 ≤ rd p.area 4 6 ∨ 2 ≤ rd p.area 10 1 ∨ rd p.area 11 1 ≠ 0) := by
    simp only [hop, hres, ne_eq, not_true, or_false, false_or, not_or, Nat.not_le]
    exact ⟨hoff, hflags⟩
  simp only [State.carryMcast, hm, h, hq, if_neg hok, hplace]

/-- A new parcel of another opcode is refused. -/
theorem State.carryMcast_bad_op (hq : classifySeq m.base m.done m.busy p.seq = .fresh) (hop : p.op ≠ opMCAST_PUT) :
    t.carryMcast n p = u.memberAnswer n (p.flow % 4096) m p.tag p.seq true nackBAD_OP 0 p.seq := by
  simp only [State.carryMcast, hm, h, hq, if_pos (Or.inl hop)]

end

end

/-! ### Chunks resent (R408, R422) -/

section
variable {s : State} {g : Nat} {x : Group} {o : EdgeOut}

theorem exec_chunkResendTimeout {edge chunk slot : Nat} (ha : s.alive = true) (hm : s.rst.mode ≠ .HEATH) (hx : s.group? g = some x)
    (ho : (x.out.find? fun o => o.edge == edge && o.chunk == chunk && o.slot.isSome && decide (o.timeout ≤ s.ns)) = some o)
    (hslot : o.slot = some slot) : exec (.chunkResendTimeout g edge chunk) s = .next (s.chunkTimeout g x o slot).settle := by
  have hon : (s.alive && s.rst.mode != .HEATH) = true := by simp [ha, hm]
  simp only [exec, execChunkResendTimeout, hon, hx, ho, hslot, Option.getD_some]

/-- The state in which one chunk of the group is replaced. -/
def State.keepChunk (s : State) (g : Nat) (x : Group) (o o' : EdgeOut) : State :=
  s.setGroup g { x with out := x.out.map fun z => if z = o then o' else z }

/-- A chunk of an edge that is not up only waits on (R422, log 39). -/
theorem State.chunkTimeout_edge_down (slot : Nat) (he : s.edgeUp x o.edge = false) :
    s.chunkTimeout g x o slot = s.keepChunk g x o { o with timeout := s.ns + 20000 * 2 ^ o.resends } := by
  simp only [State.chunkTimeout, he, Bool.not_false, if_true, State.keepChunk]

variable (he : s.edgeUp x o.edge = true)
include he

/-- After 8 resends the group fails (R408). -/
theorem State.chunkTimeout_spent (slot : Nat) (hn : 8 ≤ o.resends) :
    s.chunkTimeout g x o slot = (s.setGroup g { x with out := x.out.filter (· != o) }).failGroup g causeEDGE none := by
  simp only [State.chunkTimeout, he, Bool.not_true, Bool.false_eq_true, if_false, if_pos hn]

variable (hn : o.resends < 8)
include hn

/-- A chunk goes again, its timeout doubled. -/
theorem State.chunkTimeout_resent (slot : Nat) (hmay : s.chunkMay g o (20000 * 2 ^ (o.resends + 1)) = true) :
    s.chunkTimeout g x o slot =
      ((s.keepChunk g x o { o with resends := o.resends + 1, timeout := s.ns + 20000 * 2 ^ (o.resends + 1) }).tally 0x600028).sendChunk
        g x o slot := by
  simp only [State.chunkTimeout, he, Bool.not_true, Bool.false_eq_true, if_false, if_neg (Nat.not_le.mpr hn), hmay, State.keepChunk]

/-- None goes again whose wait would outlast a deadline (R91). -/
theorem State.chunkTimeout_too_late (slot : Nat) (hmay : s.chunkMay g o (20000 * 2 ^ (o.resends + 1)) = false) :
    s.chunkTimeout g x o slot = s := by
  simp only [State.chunkTimeout, he, Bool.not_true, Bool.false_eq_true, if_false, if_neg (Nat.not_le.mpr hn), hmay, Bool.not_false, if_true]

end

/-- Settles O59: the lemma of each parcel, placement and chunk, after the row has taken it. -/
theorem opensAndChunks : Obligations.OpensAndChunks := by
  refine ⟨fun s n hw => ⟨fun p e => exec_openReceive hw, fun t u p => ?_, fun p e htake => ?_,
    fun y t => ⟨fun hy hl => ?_, fun hy hl => ?_, fun hy hl => ?_⟩, fun w t => exec_ackSend_member hw,
    fun w t d q hp => exec_ackSend_flow hw hp⟩, fun s g edge chunk x o slot ha hm hx ho hslot => ?_⟩
  · refine ⟨fun k det => State.carryOpen_refused, fun h => ⟨fun d x => State.carryOpen_held h, fun hd h47 h95 hlen hpad h81 => ?_⟩⟩
    have row := State.carryOpen_new h hd h47 h95 hlen hpad h81
    exact ⟨fun hm => row.trans (if_pos hm), fun hm => row.trans (if_neg hm)⟩
  · rw [exec_mcastPutReceive hw htake]
    exact ⟨fun hm => by rw [State.carryMcast_no_member hm], fun m u hm h =>
      ⟨fun hq => by rw [State.carryMcast_again hm h hq], fun hq => by rw [State.carryMcast_busy hm h hq],
        fun v hq hop hoff hflags hres hplace => by rw [State.carryMcast_placed hm h hq hop hoff hflags hres hplace],
        fun hq hop => by rw [State.carryMcast_bad_op hm h hq hop]⟩⟩
  · rw [exec_collUpReceive hw hy, State.chunkArrives_on_time hl]
  · rw [exec_collDownReceive hw hy, State.chunkArrives_on_time hl]
  · rw [exec_collUpReceive hw hy, State.chunkArrives_lagging hl]
  · rw [exec_chunkResendTimeout ha hm hx ho hslot]
    intro keep
    exact ⟨fun he => by rw [State.chunkTimeout_edge_down slot he]; rfl, fun he hn => by rw [State.chunkTimeout_spent he slot hn],
      fun he hn hmay => by rw [State.chunkTimeout_resent he hn slot hmay]; rfl,
      fun he hn hmay => by rw [State.chunkTimeout_too_late he hn slot hmay]⟩

end Sys2Proof.Machine
end

