-- ==== Sys2Proof/Proofs/DataTrains.lean ====
section
/-! PROOFS. DATA trains received (R105), the headers of trains heard and sent (R98, R104, R113 to R115), trains that break their layout
(R136), and trains lost on the way (R96, R106). -/
namespace Sys2Proof.Machine

open Sys2Proof

/-! ### DATA trains received -/

/-- How far ahead of the train expected next a train is, by sequence numbers of 16 bits (R105). -/
def State.trainDistance (s : State) (p : Nat) (th : TrainHdr) : Nat := (th.seq.toNat + 65536 - (s.port p).rxExpected) % 65536

/-- The train expected next has come: no NAK is outstanding any more. -/
def State.expectNext (s : State) (p : Nat) : State :=
  s.modPort p fun x => { x with rxExpected := (x.rxExpected + 1) % 65536, nakAt := none, nakDue := false }

/-- A DATA train that its port takes and that breaks no rule of its layout is judged, after the fields of its header, by its distance. -/
theorem exec_dataTrainReceive_good {s : State} {p : Nat} {th : TrainHdr} (ha : s.alive = true) (hp : p < 64) (hc : s.trainsPass p)
    (hk : th.kind = 0) (hr : th.reserved = 0) (hlo : 1 ≤ th.cells) (hhi : th.cells ≤ 8) (cells : List WireCell) :
    let t := (s.decoded p).headerFields p th true
    exec (.dataTrainReceive p th cells) s = .next (
      if t.trainDistance p th = 0 then
        ((t.expectNext p).tally (lkBase p + 0x48)).deliverCells p th ((s.port p).state == .STANDBY) cells
      else if t.trainDistance p th < 16384 then t.askReplay p 2
      else if t.trainDistance p th < 49152 then (t.violation p 4 th).askReplay p 4
      else t.tally (lkBase p + 0x60)) := by
  have hstate := State.trainsPass_iff.mpr hc
  have hcells : ¬ (th.cells = 0 ∨ 8 < th.cells) := by omega
  simp only [exec, execDataTrainReceive, State.hears_of_trainsPass ha hp hc, hstate, hk, hr, hcells, Bool.not_true, Bool.or_self,
    Bool.false_eq_true, ne_eq, not_true_eq_false, if_false, apply_ite Host.Outcome.next]
  rfl

/-- Settles O17: each window of the distance is a branch of `exec_dataTrainReceive_good`. -/
theorem dataTrainReceived : Obligations.DataTrainReceived := by
  intro s p th cells ha hp hc hk hr hlo hhi t d
  have row := exec_dataTrainReceive_good ha hp hc hk hr hlo hhi cells
  refine ⟨fun h0 => ?_, fun h0 hnak => ?_, fun hfar hviol => ?_, fun hdup => ?_⟩
  · exact row.trans (congrArg _ (if_pos h0))
  · exact row.trans (congrArg _ ((if_neg (Nat.ne_of_gt h0)).trans (if_pos hnak)))
  · have h0 : ¬ d = 0 := by omega
    exact row.trans (congrArg _ ((if_neg h0).trans ((if_neg (Nat.not_lt.mpr hfar)).trans (if_pos hviol))))
  · have h0 : ¬ d = 0 := by omega
    have hfar : ¬ d < 16384 := by omega
    exact row.trans (congrArg _ ((if_neg h0).trans ((if_neg hfar).trans (if_neg (Nat.not_lt.mpr hdup)))))

/-! ### The header of a train heard -/

/-- The port has taken the XOFF map of a header (R113 to R115). -/
def State.heedXoff (s : State) (p : Nat) (th : TrainHdr) : State := s.modPort p fun x => { x with xoffIn := th.xoffMap }

section
variable {s : State} {p : Nat} {th : TrainHdr} (nakHere : Bool)

/-- A header without an acknowledgement gives its XOFF map alone. -/
theorem State.headerFields_none (hk : th.ackKind = 0) : s.headerFields p th nakHere = s.heedXoff p th := if_pos hk

/-- An acknowledgement of a train that was sent frees the siding (R104). -/
theorem State.headerFields_ack (hk : th.ackKind = 1)
    (hsent : ((s.heedXoff p th).port p).neverSent ((th.ackSeq.toNat + 1) % 65536) = false) :
    s.headerFields p th nakHere = (s.heedXoff p th).modPort p fun x => x.free ((th.ackSeq.toNat + 1) % 65536) := by
  simp only [State.heedXoff] at hsent
  simp only [State.headerFields, hk, hsent, if_true, Nat.one_ne_zero, Nat.reduceEqDiff, Bool.false_eq_true, or_self, false_and, if_false]
  rfl

/-- The reserved ack_kind is a violation (R136). -/
theorem State.headerFields_reserved (hk : th.ackKind = 3) : s.headerFields p th nakHere = (s.heedXoff p th).violation p 5 th := by
  simp [State.headerFields, State.heedXoff, hk]

end

/-! ### The header of a train sent -/

/-- Settles O18: the header heard by its ack_kind, and the header sent by whether the port carries cells. -/
theorem trainHeaders : Obligations.TrainHeaders := by
  refine ⟨fun s p th nakHere => ⟨State.headerFields_none nakHere, State.headerFields_ack nakHere, State.headerFields_reserved nakHere⟩,
    fun s p kind seq replay cells body => ?_⟩
  simp only [State.sendTrain]
  cases (s.port p).state == .UP || (s.port p).state == .STANDBY
  case false => rfl -- it carries no cells, and acknowledges nothing (log 99)
  case true => rfl -- it acknowledges, or asks for a replay where a NAK is due

/-! ### Trains that break their layout -/

/-- The rows of the control trains, by the kind of train that each takes. -/
def controlRows (p : Nat) (th : TrainHdr) (body : List Byte) : List (Nat × Instr) :=
  [(1, .idleTrainReceive p th), (2, .timeTrainReceive p th body), (3, .nakTrainReceive p th body), (4, .laneChangeTrainReceive p th body),
    (5, .violationTrainReceive p th body), (6, .summaryTrainReceive p th body), (7, .keepaliveTrainReceive p th body),
    (8, .helloTrainReceive p th body)]

/-- No reserved field of a body is set: it is zero from offset 3 on, and TIME and HELLO have no reserved flag; IDLE has no body. -/
def bodyClear (kind : Nat) (body : List Byte) : Prop :=
  kind = 1 ∨ (zeroFrom body 3 = true ∧ (kind = 2 → rd body 10 1 < 4) ∧ (kind = 8 → rd body 6 1 < 2))

/-- Zeros from an offset on are zeros from a later one on. -/
theorem zeroFrom_mono {body : List Byte} {m n : Nat} (hmn : m ≤ n) (h : zeroFrom body m = true) : zeroFrom body n = true := by
  simp only [zeroFrom, List.all_eq_true] at h ⊢
  exact fun b hb => h b ((List.drop_sublist_drop_left body hmn).subset hb)

/-- Is a reserved field of the body of a control train set, by the train's kind (R102)? -/
def reservedSet : Nat → List Byte → Bool
  | 2, body => decide (4 ≤ rd body 10 1) || zeroFrom body 30 == false
  | 3, body => zeroFrom body 3 == false
  | 4, body => zeroFrom body 4 == false
  | 5, body => zeroFrom body 12 == false
  | 6, body => zeroFrom body 50 == false
  | 7, body => zeroFrom body 4 == false
  | 8, body => decide (2 ≤ rd body 6 1) || zeroFrom body 20 == false
  | _, _ => false

theorem reservedSet_of_clear {kind : Nat} {body : List Byte} (h : bodyClear kind body) : reservedSet kind body = false := by
  rcases h with rfl | ⟨hz, htime, hhello⟩
  · rfl
  · have later {n : Nat} (hn : 3 ≤ n) : (zeroFrom body n == false) = false := by simp [zeroFrom_mono hn hz]
    unfold reservedSet
    split
    case h_1 => simp [later, Nat.not_le.mpr (htime rfl)]
    case h_7 => simp [later, Nat.not_le.mpr (hhello rfl)]
    case h_8 => rfl
    all_goals exact later (by decide)

/-- Every row of a control train makes the checks of R136, but that of a SUMMARY in STANDBY. -/
theorem exec_controlRow {s : State} {p : Nat} {th : TrainHdr} {body : List Byte} {e : Nat × Instr} (he : e ∈ controlRows p th body)
    (h6 : e.1 = 6 → (s.port p).state ≠ .STANDBY) :
    ∃ bad nakHere k, exec e.2 s = .next (s.controlTrain p e.1 th (reservedSet e.1 body) bad nakHere k) := by
  simp only [controlRows, List.mem_cons, List.not_mem_nil, or_false] at he
  rcases he with rfl | rfl | rfl | rfl | rfl | rfl | rfl | rfl
  case inr.inr.inr.inr.inr.inl =>
    have hnot : ¬ (s.hears p && (s.port p).state == .STANDBY) = true := by simp [h6 rfl]
    exact ⟨_, _, _, congrArg Host.Outcome.next (if_neg hnot)⟩
  all_goals exact ⟨_, _, _, rfl⟩

theorem controlRows_kind_lt {p : Nat} {th : TrainHdr} {body : List Byte} : ∀ e ∈ controlRows p th body, e.1 < 9 := by
  simp [controlRows]

section
variable {s : State} {p : Nat} {th : TrainHdr} (hh : s.hears p = true)
include hh

theorem State.controlTrain_unknown {kind : Nat} {reserved bad nakHere : Bool} {k : State → State} (hk : 9 ≤ th.kind) :
    s.controlTrain p kind th reserved bad nakHere k = (s.decoded p).violation p 1 th := by
  simp [State.controlTrain, hh, hk]

theorem State.controlTrain_reserved {reserved bad nakHere : Bool} {k : State → State} (hk : th.kind < 9) (hr : th.reserved ≠ 0) :
    s.controlTrain p th.kind th reserved bad nakHere k = (s.decoded p).violation p 2 th := by
  simp [State.controlTrain, hh, Nat.not_le.mpr hk, hr]

theorem State.controlTrain_cells {bad nakHere : Bool} {k : State → State} (hk : th.kind < 9) (hr : th.reserved = 0) (hc : th.cells ≠ 0) :
    s.controlTrain p th.kind th false bad nakHere k = (s.decoded p).violation p 3 th := by
  simp [State.controlTrain, hh, Nat.not_le.mpr hk, hr, hc]

/-! ### DATA trains that break their layout -/

section
variable (hc : s.trainsPass p) (cells : List WireCell)
include hc

theorem exec_dataTrainReceive_unknown (hk : 9 ≤ th.kind) :
    exec (.dataTrainReceive p th cells) s = .next ((s.decoded p).violation p 1 th) := by
  have hstate := State.trainsPass_iff.mpr hc
  simp [exec, execDataTrainReceive, hh, hstate, hk]

theorem exec_dataTrainReceive_reserved (hk : th.kind = 0) (hr : th.reserved ≠ 0) :
    exec (.dataTrainReceive p th cells) s = .next (((s.decoded p).violation p 2 th).askReplay p 1) := by
  have hstate := State.trainsPass_iff.mpr hc
  simp [exec, execDataTrainReceive, hh, hstate, hk, hr]

/-- A count of cells that no DATA train has is a bad cell count (R136). -/
theorem exec_dataTrainReceive_cells (hk : th.kind = 0) (hr : th.reserved = 0) (hcells : th.cells = 0 ∨ 8 < th.cells) :
    exec (.dataTrainReceive p th cells) s = .next (((s.decoded p).violation p 3 th).askReplay p 1) := by
  have hstate := State.trainsPass_iff.mpr hc
  simp [exec, execDataTrainReceive, hh, hstate, hk, hr, hcells]

end

/-! ### Trains lost on the way -/

theorem exec_trainCrcFail_control : exec (.trainCrcFail p false) s = .next (s.evidence (lkBase p + 0x68)) := by
  simp [exec, execTrainCrcFail, hh]

theorem exec_trainCrcFail_data (hc : (s.evidence (lkBase p + 0x68)).trainsPass p) :
    exec (.trainCrcFail p true) s = .next ((s.evidence (lkBase p + 0x68)).askReplay p 1) := by
  have hstate := State.trainsPass_iff.mpr hc
  simp [exec, execTrainCrcFail, hh, hstate]

theorem exec_fecUncorrectable {n : Nat} (trains : Nat) (hc : (s.evidences (lkBase p + 0x6C) n).trainsPass p) :
    exec (.fecUncorrectable p n trains) s =
      .next (if 0 < trains then (s.evidences (lkBase p + 0x6C) n).askReplay p 3 else s.evidences (lkBase p + 0x6C) n) := by
  simp only [State.trainsPass] at hc
  simp [exec, execFecUncorrectable, hh, hc]

end

/-- A port without a NAK under way asks for a replay (R106). -/
theorem State.askReplay_first {s : State} {p : Nat} (reason : Nat) (h : (s.port p).nakAt = none) :
    s.askReplay p reason = s.modPort p fun x => { x with nakAt := some s.ns, nakReason := reason, nakDue := true } := by
  simp [State.askReplay, h]

theorem exec_nakRepeatTimeout {s : State} {p t : Nat} (ha : s.alive = true) (hn : (s.port p).nakAt = some t)
    (ht : t + (s.port p).round ≤ s.ns) :
    exec (.nakRepeatTimeout p) s = .next (s.modPort p fun x => { x with nakAt := some s.ns, nakDue := true }) := by
  simp [exec, execNakRepeatTimeout, hn, ha, ht]

/-- Settles O20: the first check of R136 that a train fails, and the lemma of each loss. -/
theorem trainsRejectedOrLost : Obligations.TrainsRejectedOrLost := by
  refine ⟨fun s p th cells body hh => ⟨fun i hi hk => ?_, fun hs hk => ?_, fun e he hk h6 => ⟨fun hr => ?_, fun hr hclear hc => ?_⟩,
    fun hc => ⟨exec_dataTrainReceive_unknown hh hc cells, exec_dataTrainReceive_reserved hh hc cells,
      exec_dataTrainReceive_cells hh hc cells⟩⟩,
    fun s p hh _ => ⟨exec_trainCrcFail_control hh, fun hc hn => ?_, fun n trains hc hn => ?_, fun t u hu ht ha => ?_⟩⟩
  · have hi' : i ∈ ((controlRows p th body).filter fun e => e.1 != 6).map Prod.snd := hi
    obtain ⟨e, he, rfl⟩ := List.mem_map.mp hi'
    obtain ⟨he, hne⟩ := List.mem_filter.mp he
    obtain ⟨_, _, _, hrow⟩ := exec_controlRow (s := s) he fun h => absurd h (by simpa using hne)
    rw [hrow, State.controlTrain_unknown hh hk]
    rfl
  · obtain ⟨_, _, _, hrow⟩ := exec_controlRow (s := s) (p := p) (th := th) (body := body) (e := (6, .summaryTrainReceive p th body))
      (by simp [controlRows]) fun _ => hs
    rw [hrow, State.controlTrain_unknown hh hk]
    rfl
  · obtain ⟨_, _, _, hrow⟩ := exec_controlRow he h6
    rw [hrow, ← hk, State.controlTrain_reserved hh (hk ▸ controlRows_kind_lt e he) hr]
    rfl
  · obtain ⟨_, _, _, hrow⟩ := exec_controlRow he h6
    rw [hrow, reservedSet_of_clear hclear, ← hk, State.controlTrain_cells hh (hk ▸ controlRows_kind_lt e he) hr hc]
    rfl
  · rw [exec_trainCrcFail_data hh hc, State.askReplay_first 1 hn]
  · rw [exec_fecUncorrectable hh trains hc, State.askReplay_first 3 hn]
  · subst hu
    exact exec_nakRepeatTimeout ha (by simp) ht

end Sys2Proof.Machine
end

