-- ==== Sys2Proof/Proofs/LinkStates.lean ====
section
/-! PROOFS. The states of a fabric port: links that are held and flushed (R120, R121, R123), that train and shake hands (R117, R119, R126),
and that come up (R122, R124). -/
namespace Sys2Proof.Machine

open Sys2Proof

/-- The lanes that both ends of a handshake find good (R117). -/
def Port.commonLanes (x : Port) (h : Hello) : BitVec 8 := x.good &&& h.good &&& ~~~ (x.failed ||| h.failed)

/-- The larger of the flights that both ends have measured in HANDSHAKE (R117). -/
def Port.commonFlight (x : Port) (h : Hello) : Nat := maxN x.fHandshake h.flight

section
variable {s : State} {p : Nat} (ha : s.alive = true) (hp : p < 64)
include ha hp

/-! ### Links that are held and flushed -/

theorem exec_noGoodTrainTimeout (hgood : (s.port p).lastGood + 10000 ≤ s.ns) :
    exec (.noGoodTrainTimeout p) s = .next (s.enterHeld p 2) :=
  if_pos (by simp [ha, hp, hgood])

/-- A lane change that UP has not completed in time ends in HELD; in STANDBY it is given up (R129). -/
theorem exec_laneChangeTimeout_up {c : LaneChange} (hs : (s.port p).state = .UP) (hc : (s.port p).change = some c)
    (hd : c.deadline ≤ s.ns) : exec (.laneChangeTimeout p) s = .next (s.enterHeld p 5) := by
  simp [exec, execLaneChangeTimeout, hc, ha, hp, hs, hd]

theorem exec_graceExpiry {d : Nat} (hs : (s.port p).state = .HELD) (hg : (s.port p).graceDeadline = some d) (hd : d ≤ s.ns) :
    exec (.graceExpiry p) s = .next (s.enterFlushed p) := by
  simp [exec, execGraceExpiry, hg, ha, hp, hs, hd]

theorem exec_standbyKeepaliveLoss (hs : (s.port p).state = .STANDBY) (hgood : (s.port p).lastGood + 100000 ≤ s.ns) :
    exec (.standbyKeepaliveLoss p) s = .next ((s.modPort p fun x => { x with lastCause := 6 }).enterFlushed p) :=
  if_pos (by simp [ha, hp, hs, hgood])

/-! ### Training -/

theorem exec_lanesLocked_training (lanes : BitVec 8) (hs : (s.port p).state = .TRAINING) :
    exec (.lanesLocked p lanes) s =
      .next ((s.modPort p fun x =>
        { x with locked := true, good := lanes, failed := ~~~ lanes, exchanges := 0, hello := none }).portState p .HANDSHAKE) := by
  simp [exec, execLanesLocked, ha, Nat.not_le.mpr hp, hs]

/-- The lanes of a port in HELD or FLUSHED lock again: its handshake begins within that state. -/
theorem exec_lanesLocked_again (lanes : BitVec 8) (hs : (s.port p).state = .HELD ∨ (s.port p).state = .FLUSHED)
    (hl : (s.port p).locked = false) :
    exec (.lanesLocked p lanes) s =
      .next (s.modPort p fun x => { x with locked := true, good := lanes, failed := ~~~ lanes, exchanges := 0, hello := none }) := by
  have hnot : (s.port p).state ≠ .TRAINING := by rcases hs with h | h <;> simp [h]
  simp [exec, execLanesLocked, ha, Nat.not_le.mpr hp, hs, hl, hnot]

theorem exec_trainingTimeout (hs : (s.port p).state = .TRAINING) (ht : (s.port p).trainSince + 100000000 ≤ s.ns) :
    exec (.trainingTimeout p) s = .next ((s.modPort p fun x => { x with trainSince := s.ns }).raise 0x040 none p) :=
  if_pos (by simp [ha, hp, hs, ht])

/-! ### The end of the handshake -/

section
variable {hello : Hello} (hsh : (s.port p).shaking = true) (hh : (s.port p).hello = some hello) (h8 : 8 ≤ (s.port p).exchanges)
include hsh hh h8

theorem exec_handshakeComplete_mismatch (hm : (s.port p).partnerMatches hello = false) :
    exec (.handshakeComplete p) s =
      .next ((((s.modPort p fun x => x.stopped).portState p .DISABLED).emptyPort p).raise 0x045 none (p + hello.location * 65536)) := by
  simp [exec, execHandshakeComplete, hh, ha, Nat.not_le.mpr hp, hsh, Nat.not_lt.mpr h8, hm]

variable (hm : (s.port p).partnerMatches hello = true)
include hm

section
variable {step : Nat}
  (hstep : bestStep hello.rate (popcount8 ((s.port p).commonLanes hello)) ((s.port p).commonFlight hello) = some step)
include hstep

theorem exec_handshakeComplete_up (hmode : s.rst.mode ≠ .HEATH) :
    exec (.handshakeComplete p) s = .next (s.linkUp p hello .UP step) := by
  simp only [Port.commonLanes, Port.commonFlight] at hstep
  simp [exec, execHandshakeComplete, hh, ha, Nat.not_le.mpr hp, hsh, Nat.not_lt.mpr h8, hm, hstep, hmode]

/-- In HEATH a link comes up in STANDBY (R119). -/
theorem exec_handshakeComplete_heath (hmode : s.rst.mode = .HEATH) :
    exec (.handshakeComplete p) s = .next (s.linkUp p hello .STANDBY 3) := by
  simp only [Port.commonLanes, Port.commonFlight] at hstep
  simp [exec, execHandshakeComplete, hh, ha, Nat.not_le.mpr hp, hsh, Nat.not_lt.mpr h8, hm, hstep, hmode]

end

/-- Where no step fits, the link comes up in STANDBY with LINK_TOO_LONG (R117). -/
theorem exec_handshakeComplete_tooLong
    (hnone : bestStep hello.rate (popcount8 ((s.port p).commonLanes hello)) ((s.port p).commonFlight hello) = none) :
    exec (.handshakeComplete p) s =
      .next ((s.linkUp p hello .STANDBY 3).raise 0x043 none (p + exposure 2 ((s.port p).commonFlight hello) * 65536)) := by
  simp only [Port.commonLanes, Port.commonFlight] at hnone ⊢
  simp [exec, execHandshakeComplete, hh, ha, Nat.not_le.mpr hp, hsh, Nat.not_lt.mpr h8, hm, hnone]

end

end

/-! ### The way a link comes up -/

/-- A port in HELD whose link comes up fresh applies R123 before. -/
theorem State.freshFromHeld_iff {s : State} {p : Nat} {h : Hello} :
    (!s.resumes p h && (s.port p).state == .HELD) = true ↔ s.resumes p h = false ∧ (s.port p).state = .HELD := by
  simp

/-- Settles O22: the lemma of each row, and `State.linkUp` with the test of R122 spelled out. -/
theorem linkStates : Obligations.LinkStates := by
  refine ⟨fun s p ha hp => ⟨fun hs hgood => ?_, fun c hs hc hd => ?_, fun d hs hg hd => ?_, exec_standbyKeepaliveLoss ha hp⟩,
    fun s p ha hp => ⟨exec_lanesLocked_training ha hp, exec_lanesLocked_again ha hp, exec_trainingTimeout ha hp,
      fun hello hsh hh h8 => ⟨exec_handshakeComplete_mismatch ha hp hsh hh h8, fun hm => ⟨fun step hstep =>
        ⟨exec_handshakeComplete_up ha hp hsh hh h8 hm hstep, exec_handshakeComplete_heath ha hp hsh hh h8 hm hstep⟩,
        exec_handshakeComplete_tooLong ha hp hsh hh h8 hm⟩⟩⟩, fun s p step hello st => ?_⟩
  · rw [exec_noGoodTrainTimeout ha hp hgood, State.enterHeld_up 2 hs]
  · rw [exec_laneChangeTimeout_up ha hp hs hc hd, State.enterHeld_up 5 hs]
  · rw [exec_graceExpiry ha hp hs hg hd]; rfl
  · simp only [State.linkUp, State.freshFromHeld_iff]
    rfl

end Sys2Proof.Machine
end

