-- ==== Sys2Proof/Proofs/LinkCommands.lean ====
section
/-! PROOFS. The commands of fabric ports and of their queues (R125 to R135, R186, R191, R197, R623, R624), and the end of a port's drain
(R132). -/
namespace Sys2Proof.Machine

open Sys2Proof

/-! ### What the count of a command leaves -/

@[simp] theorem State.port_tally (s : State) (off n p : Nat) : (s.tally off n).port p = s.port p := rfl
@[simp] theorem State.portWaits_tally (s : State) (off n p : Nat) : (s.tally off n).portWaits p = s.portWaits p := rfl
@[simp] theorem State.hasEngine_tally (s : State) (off n e : Nat) : (s.tally off n).hasEngine e = s.hasEngine e := rfl
@[simp] theorem State.waitFull_tally (s : State) (off n : Nat) (h : CmdHdr) : (s.tally off n).waitFull h = s.waitFull h := rfl

/-- A fabric port that no LINK_DISABLE waits on passes the guards of its commands. -/
theorem portGuards_pass {s : State} {p : Nat} (op : Nat) (hp : p < 64) (hw : s.portWaits p = false) :
    (s.counted.portGuards op p).all (fun g => !g.1) = true := by
  simp [State.portGuards, bad, no, hw, Nat.le_of_lt_succ hp]

/-! ### Settings of links and queues -/

section
variable {s : State} {c : Cmd} {h : CmdHdr} {p : Nat}

theorem exec_linkGraceSet {us : Nat} (ha : Accepted (.linkGraceSet h p us) c s) (hp : p < 64) (hlo : 100 ≤ us) (hhi : us ≤ 50000)
    (hw : s.portWaits p = false) :
    exec (.linkGraceSet h p us) s =
      .next ((s.counted.modPort p fun x => { x with grace := us }).answer (.linkGraceSet h p us) c .OK 0 []) :=
  exec_ok_of_guards ha rfl rfl (by simp [bad, no, hw, Nat.le_of_lt_succ hp, hlo, hhi])

theorem exec_linkModuleSet {lanes pre main post : Nat} (ha : Accepted (.linkModuleSet h p lanes pre main post) c s) (hp : p < 64)
    (hw : s.portWaits p = false) :
    exec (.linkModuleSet h p lanes pre main post) s =
      .next ((s.counted.modPort p fun x => { x with
        module := ((List.range 8).filter fun i => bit lanes i).foldl (fun t i => Tbl.put t i (pre, main, post)) x.module }).answer
          (.linkModuleSet h p lanes pre main post) c .OK 0 []) :=
  exec_ok_of_guards ha rfl rfl (portGuards_pass _ hp hw)

theorem exec_queueWeightSet {q quantum burst : Nat} (ha : Accepted (.queueWeightSet h p q quantum burst) c s) (hp : p < 96)
    (he : 64 ≤ p → s.hasEngine (p - 64) = true) (hq : q < 16) (hlo : 1 ≤ quantum) (hhi : quantum ≤ 1024) (hb : burst ≤ 1024) :
    exec (.queueWeightSet h p q quantum burst) s =
      .next ((s.counted.pushChange (.weight p q quantum burst)).answer (.queueWeightSet h p q quantum burst) c .OK 0 []) := by
  have he' : p < 64 ∨ s.hasEngine (p - 64) = true := (Nat.lt_or_ge p 64).imp_right he
  have h0 : quantum ≠ 0 := by omega
  exact exec_ok_of_guards ha rfl rfl (by simp [bad, no, Nat.le_of_lt_succ hp, Nat.le_of_lt_succ hq, h0, hhi, hb, he'])

theorem exec_queueMapSet {levels transit : Nat} (ha : Accepted (.queueMapSet h levels transit) c s)
    (hl : (le 8 levels).all levelByteOk = true) :
    exec (.queueMapSet h levels transit) s =
      .next ((s.counted.pushChange (.map levels transit)).answer (.queueMapSet h levels transit) c .OK 0 []) :=
  exec_ok_of_guards ha rfl rfl (by simp only [bad, hl]; rfl)

theorem exec_signalBoxConfigSet {mib : Nat} (ha : Accepted (.signalBoxConfigSet h mib) c s) :
    exec (.signalBoxConfigSet h mib) s =
      .next ((s.counted.pushChange (.yellow mib)).answer (.signalBoxConfigSet h mib) c .OK 0 []) :=
  exec_ok_of_guards (gs := []) ha rfl rfl rfl

end

/-! ### Roles -/

/-- A port that is not UP only holds its role. -/
theorem State.applyRole_down {s : State} {p : Nat} (role peer : Nat) (last : Option Hello) (hs : (s.port p).state ≠ .UP) :
    s.applyRole p role peer last = s.modPort p fun x => { x with role := role, peer := peer } := by
  simp [State.applyRole, hs]

theorem State.applyRole_match {s : State} {p role peer : Nat} {hello : Hello} (hs : (s.port p).state = .UP)
    (hm : ((s.modPort p fun x => { x with role := role, peer := peer }).port p).partnerMatches hello = true) :
    s.applyRole p role peer (some hello) = (s.modPort p fun x => { x with role := role, peer := peer }).rebalance := by
  have hup : (((s.modPort p fun x => { x with role := role, peer := peer }).port p).state == .UP) = true := by simp [hs]
  simp only [State.applyRole, hup, hm, if_true]

/-- A partner that does not match starts the drain of R132 (R623, log 107). -/
theorem State.applyRole_mismatch {s : State} {p role peer : Nat} {hello : Hello} (hs : (s.port p).state = .UP)
    (hm : ((s.modPort p fun x => { x with role := role, peer := peer }).port p).partnerMatches hello = false) :
    s.applyRole p role peer (some hello) =
      ((s.modPort p fun x => { x with role := role, peer := peer }).beginDisable p 7).raise 0x045 none (p + hello.location * 65536) := by
  have hup : (((s.modPort p fun x => { x with role := role, peer := peer }).port p).state == .UP) = true := by simp [hs]
  simp only [State.applyRole, hup, hm, if_true, Bool.false_eq_true, if_false]

theorem exec_linkRoleSet {s : State} {c : Cmd} {h : CmdHdr} {p role peer : Nat} (ha : Accepted (.linkRoleSet h p role peer) c s)
    (hp : p < 64) (hr : role ≤ 9) (hpeer : peer = 0xFFFF → role = 3) (hw : s.portWaits p = false) :
    exec (.linkRoleSet h p role peer) s =
      .next (((s.counted.modPort p fun x => { x with roleSet := true }).applyRole p role peer (s.port p).hello).answer
        (.linkRoleSet h p role peer) c .OK 0 []) := by
  have hpeer' : ¬ peer = 65535 ∨ role = 3 := Decidable.not_or_of_imp hpeer
  exact exec_ok_of_guards ha rfl rfl (by simp [bad, no, hw, Nat.le_of_lt_succ hp, hr, hpeer'])

/-- Settles O24: the lemma of each setting, and of a role that matches or not. -/
theorem linkSettings : Obligations.LinkSettings := by
  refine ⟨fun s c h p => ⟨fun us => exec_linkGraceSet, fun _ _ _ _ => exec_linkModuleSet, fun _ _ _ => exec_queueWeightSet,
    fun _ _ => exec_queueMapSet, fun _ => exec_signalBoxConfigSet⟩, ?_⟩
  intro s c h p role peer ha hp hr hpeer hw t
  have ht : (s.counted.modPort p fun x => { x with roleSet := true }).modPort p (fun x => { x with role := role, peer := peer }) = t :=
    State.modPort_modPort ..
  have hstate : ((s.counted.modPort p fun x => { x with roleSet := true }).port p).state = (s.port p).state := by
    rw [State.port_modPort, State.port_tally]
  rw [exec_linkRoleSet ha hp hr hpeer hw]
  refine ⟨fun hs => ?_, fun hello hs hh => ?_⟩
  · rw [State.applyRole_down role peer _ (hstate ▸ hs), ht]
  · rw [hh]
    exact ⟨fun hm => by rw [State.applyRole_match (hstate.trans hs) (ht ▸ hm), ht],
      fun hm => by rw [State.applyRole_mismatch (hstate.trans hs) (ht ▸ hm), ht]⟩

/-! ### Commands that move a link -/

section
variable {s : State} {c : Cmd} {h : CmdHdr} {p : Nat} (hp : p < 64) (hw : s.portWaits p = false)
include hp hw

theorem exec_linkEnable (ha : Accepted (.linkEnable h p) c s) (hr : (s.port p).role ≠ 0) :
    exec (.linkEnable h p) s = .next ((s.counted.enablePort p).answer (.linkEnable h p) c .OK 0 []) :=
  exec_ok_of_guards ha rfl rfl (by simp [portGuards_pass _ hp hw, no, hr])

theorem exec_linkDisable_disabled (ha : Accepted (.linkDisable h p) c s) (hs : (s.port p).state = .DISABLED) :
    exec (.linkDisable h p) s = .next (s.counted.answer (.linkDisable h p) c .OK 0 []) := by
  have hs' : ((s.port p).state == .DISABLED) = true := beq_iff_eq.mpr hs
  exact (exec_of_guards ha rfl rfl (portGuards_pass _ hp hw)).trans (by rw [State.port_tally, if_pos hs', conclude_ok])

/-- LINK_DISABLE waits for the end of the port's drain (R132, R494). -/
theorem exec_linkDisable_drains (ha : Accepted (.linkDisable h p) c s) (hs : (s.port p).state ≠ .DISABLED) (hf : s.waitFull h = false) :
    exec (.linkDisable h p) s =
      .next (State.conclude (.linkDisable h p) c (.wait (s.counted.beginDisable p 7) (.linkDisable p))) := by
  have hs' : ¬ ((s.port p).state == .DISABLED) = true := fun e => hs (beq_iff_eq.mp e)
  exact (exec_of_guards ha rfl rfl (portGuards_pass _ hp hw)).trans (by rw [State.port_tally, if_neg hs', guarded_none (by simp [no, hf])])

/-- LINK_LANES_RESTORE in UP, no change of lanes being under way (R130). -/
theorem exec_linkLanesRestore (ha : Accepted (.linkLanesRestore h p) c s) (hs : (s.port p).state = .UP) (hch : (s.port p).change = none) :
    exec (.linkLanesRestore h p) s = .next (State.conclude (.linkLanesRestore h p) c
      (if (s.port p).failed == 0#8 then s.counted.ok else (s.counted.restoreLanes p).ok)) :=
  exec_of_guards ha rfl rfl (by simp [portGuards_pass _ hp hw, no, hs, hch])

/-- A port in UP or STANDBY passes the guards of LINK_STANDBY and LINK_WAKE. -/
theorem standbyGuards_pass (op : Nat) (hc : s.trainsPass p) :
    (s.counted.portGuards op p ++ [no .BUSY ((s.counted.port p).state != .UP && (s.counted.port p).state != .STANDBY)]).all
      (fun g => !g.1) = true := by
  rcases hc with hs | hs
  · simp [portGuards_pass _ hp hw, no, hs]
  · simp [portGuards_pass _ hp hw, no, hs]

theorem exec_linkStandby (ha : Accepted (.linkStandby h p) c s) (hc : s.trainsPass p) :
    exec (.linkStandby h p) s = .next (State.conclude (.linkStandby h p) c
      (if (s.port p).state == .UP then (s.counted.enterStandby p).ok else s.counted.ok)) :=
  exec_of_guards ha rfl rfl (standbyGuards_pass hp hw _ hc)

theorem exec_linkWake (ha : Accepted (.linkWake h p) c s) (hc : s.trainsPass p) :
    exec (.linkWake h p) s = .next (State.conclude (.linkWake h p) c
      (if (s.port p).state == .STANDBY then (s.counted.wakePort p).ok else s.counted.ok)) :=
  exec_of_guards ha rfl rfl (standbyGuards_pass hp hw _ hc)

end

theorem State.enablePort_disabled {s : State} {p : Nat} (hs : (s.port p).state = .DISABLED) :
    s.enablePort p = (s.modPort p fun x => { x with degraded := false, drain := none }).beginTraining p := by
  simp [State.enablePort, hs]

/-- A port that is enabled already stays as it is (R624). -/
theorem State.enablePort_enabled {s : State} {p : Nat} (hs : (s.port p).state ≠ .DISABLED) : s.enablePort p = s := by
  simp [State.enablePort, hs]

/-- A port that is not DISABLED and not yet draining begins its drain (R132). -/
theorem State.beginDisable_fresh {s : State} {p : Nat} (cause : Nat) (hs : (s.port p).state ≠ .DISABLED) (hd : (s.port p).drain = none) :
    s.beginDisable p cause = (s.modPort p fun x => { x with drain := some (s.ns + 1000000, cause) }).rebalance := by
  simp [State.beginDisable, hs, hd]

/-- The lanes asked for are those of the best step that eight good lanes carry (R130). -/
theorem State.restoreLanes_eq {s : State} {p step : Nat} {hello : Hello} (hh : (s.port p).hello = some hello)
    (hstep : bestStep hello.rate 8 (s.port p).fHandshake = some step) :
    s.restoreLanes p = s.requestLanes p 0#8 (lowestLanes (lanesOf step) 0xFF#8) true false := by
  simp only [State.restoreLanes, hh, hstep]

/-- A drain ends when the port's queues are empty, or in time (R132). -/
theorem State.drainEnd_over {s : State} {p deadline cause : Nat} (hd : (s.port p).drain = some (deadline, cause))
    (hover : s.portCells p = [] ∨ deadline ≤ s.ns) : s.drainEnd p = (s.endDisable p cause).answerOn (.linkDisable p) .OK 0 [] := by
  have hover' : (s.portCells p).isEmpty ∨ deadline ≤ s.ns := by simpa using hover
  simp only [State.drainEnd, hd, if_pos hover']

/-- Settles O25: each command by the state that its port is in, and the end of the drain. -/
theorem linkStateCommands : Obligations.LinkStateCommands := by
  refine ⟨fun s c h p hp hw => ⟨fun ha hr => ?_, fun ha => ⟨exec_linkDisable_disabled hp hw ha, fun hs hd hf => ?_⟩,
    fun ha hs hch => ?_, fun ha => ⟨fun hs => ?_, fun hs => ?_⟩, fun ha => ⟨fun hs => ?_, fun hs => ?_⟩⟩,
    fun s p deadline cause ha hp hd hover => ?_⟩
  · rw [exec_linkEnable hp hw ha hr]
    exact ⟨fun hs => by rw [State.enablePort_disabled (s := s.counted) hs]; rfl, fun hs => by rw [State.enablePort_enabled (s := s.counted) hs]⟩
  · rw [exec_linkDisable_drains hp hw ha hs hf, State.beginDisable_fresh (s := s.counted) 7 hs hd]
    rfl
  · rw [exec_linkLanesRestore hp hw ha hs hch]
    refine ⟨fun hf => ?_, fun hello step hf hh hstep => ?_⟩
    · rw [if_pos (beq_iff_eq.mpr hf), conclude_ok]
    · rw [if_neg fun e => hf (beq_iff_eq.mp e), State.restoreLanes_eq (s := s.counted) hh hstep, conclude_ok]
  · rw [exec_linkStandby hp hw ha (.inl hs), if_pos (beq_iff_eq.mpr hs), conclude_ok]
    rfl
  · rw [exec_linkStandby hp hw ha (.inr hs), if_neg (by simp [hs]), conclude_ok]
  · rw [exec_linkWake hp hw ha (.inr hs), if_pos (beq_iff_eq.mpr hs), conclude_ok]
    rfl
  · rw [exec_linkWake hp hw ha (.inl hs), if_neg (by simp [hs]), conclude_ok]
  · refine congrArg Host.Outcome.next ((if_pos ⟨ha, hp⟩).trans ?_)
    rw [State.drainEnd_over hd hover]
    rfl

end Sys2Proof.Machine
end

