-- ==== Sys2Proof/Proofs/Cells.lean ====
section
/-! PROOFS. Cells that leave an egress: to the escape path (R176), to a port's trains and to the engine behind (R189, R192). -/
namespace Sys2Proof.Machine

open Sys2Proof

/-! ### The escape wait -/

/-- An adaptive cell whose wait is over leaves its egress for the escape VC of its next bundle. -/
theorem State.escapeMove_over {s : State} {e position : Nat} {q : QCell} {hop : Hop} (hq : (s.egress e).cells[position]? = some q)
    (hvc : q.vc = 4 ∨ q.vc = 5) (he : e < 64) (hw : q.arrived + s.jn.escapeWait * 64 ≤ s.ns)
    (hhop : s.escapeHop q.ingress q.cell.h = some hop) :
    s.escapeMove e position =
      (s.setEgress e { s.egress e with cells := removeAt position (s.egress e).cells }).requeue q hop := by
  have hover : (q.vc = 4 ∨ q.vc = 5) ∧ e < 64 ∧ q.arrived + s.jn.escapeWait * 64 ≤ s.ns := ⟨hvc, he, hw⟩
  simp only [State.escapeMove, hq, if_pos hover, hhop]

/-! ### The hand-on -/

/-- What follows once a cell is handed on: the visit of a weighted queue may end (R192), and freed space clears XOFF bits (R113). -/
def State.handedOn (t : State) (e : Nat) (q : QCell) : State :=
  match q.queue with
  | .wq _ => (t.endVisit e).refreshXoff
  | _ => t.refreshXoff

section
variable {s : State} {e i : Nat} {x : Egress} {q : QCell} (hq : x.cells[i]? = some q)
include hq

/-- A cell outside the escape path goes to its port's next train, and nothing is counted. -/
theorem State.sendSelected_port (he : e < 64) (hesc : q.esc = false) :
    s.sendSelected e i x = State.handedOn ((s.setEgress e { x with cells := removeAt i x.cells }).modPort e fun y =>
      { y with txReady := y.txReady ++ [q] }) e q := by
  have hplain : ¬ (e < 64 ∧ q.esc = true) := by simp [hesc]
  simp only [State.sendSelected, hq, if_neg hplain, if_pos he, State.handedOn]
  cases q.queue <;> rfl

/-- A cell of an attachment's egress is ejected to the engine behind it. -/
theorem State.sendSelected_engine (he : 64 ≤ e) :
    s.sendSelected e i x = State.handedOn ((s.setEgress e { x with cells := removeAt i x.cells }).modEngine (e - 64) fun n =>
      { n with ejected := n.ejected ++ [q.wire] }) e q := by
  have hhost : ¬ e < 64 := Nat.not_lt.mpr he
  have hplain : ¬ (e < 64 ∧ q.esc = true) := fun h => hhost h.1
  simp only [State.sendSelected, hq, if_neg hplain, if_neg hhost, State.handedOn]
  cases q.queue <;> rfl

end

/-- An egress whose train buffer has room sends the cell that its queues choose. -/
theorem exec_egressCellSelect {s : State} {e i : Nat} {x : Egress} (ha : s.alive = true) (he : e < 96) (hroom : s.trainRoom e = true)
    (hsel : s.selectCell e = some (i, x)) : exec (.egressCellSelect e) s = .next (s.sendSelected e i x) := by
  have hgo : s.alive = true ∧ e < 96 ∧ s.trainRoom e = true := ⟨ha, he, hroom⟩
  simp only [exec, execEgressCellSelect, if_pos hgo, hsel]

/-- Settles O26: the escape move, and the hand-on to a port and to an engine. -/
theorem cellsMove : Obligations.CellsMove := by
  refine fun s e ha => ⟨fun position q hop hq hvc he hw hhop => ?_, fun i x q hsel hq => ⟨fun he htrain hesc => ?_, fun hlo hhi => ?_⟩⟩
  · rw [← State.escapeMove_over hq hvc he hw hhop]
    exact if_pos ha
  · have hroom : s.trainRoom e = true := by simp [State.trainRoom, htrain]
    rw [exec_egressCellSelect ha (by omega) hroom hsel, State.sendSelected_port hq he hesc]
    rfl
  · have hroom : s.trainRoom e = true := by simp [State.trainRoom, hlo]
    rw [exec_egressCellSelect ha hhi hroom hsel, State.sendSelected_engine hq hlo]
    rfl

end Sys2Proof.Machine
end

