-- ==== Sys2Proof/Proofs/JunctionSettings.lean ====
section
/-! PROOFS. The commands of the Junction: topology, routes, pool and quotas (R164 to R171, R176), multicast groups (R180, R181), and their
member and sender records (R351, R352). -/
namespace Sys2Proof.Machine

open Sys2Proof

/-! ### Routing and the pool -/

section
variable {s : State} {c : Cmd} {h : CmdHdr}

theorem exec_routeTopologySet {nx ny nz routers location dx dy dz : Nat}
    (ha : Accepted (.routeTopologySet h nx ny nz routers location dx dy dz) c s) (hx1 : 1 ≤ nx) (hx : nx ≤ 16) (hy1 : 1 ≤ ny)
    (hy : ny ≤ 16) (hz1 : 1 ≤ nz) (hz : nz ≤ 16) (hr1 : 1 ≤ routers) (hr : routers ≤ 16) (hlx : locX location < nx)
    (hly : locY location < ny) (hlz : locZ location < nz) (hlr : locRouter location < routers) (hdx : dx < nx) (hdy : dy < ny)
    (hdz : dz < nz) :
    exec (.routeTopologySet h nx ny nz routers location dx dy dz) s =
      .next ((s.counted.setTopology { s.jn with
        nx := nx, ny := ny, nz := nz, routers := routers, location := location, datelineX := dx, datelineY := dy,
        datelineZ := dz }).answer (.routeTopologySet h nx ny nz routers location dx dy dz) c .OK 0 []) := by
  have size : ∀ n, 1 ≤ n → n ≤ 16 → (n == 0 || decide (16 < n)) = false := by
    intro n h1 h16
    have h0 : n ≠ 0 := by omega
    simp [h0, h16]
  exact exec_ok_of_guards ha rfl rfl
    (by simp [bad, size, hx1, hx, hy1, hy, hz1, hz, hr1, hr, hlx, hly, hlz, hlr, hdx, hdy, hdz])

theorem exec_routeEntrySet {station valid dx dy dz : Nat} (ha : Accepted (.routeEntrySet h station valid dx dy dz) c s)
    (ht : s.counted.jn.topology = true) (hs : station < 4096) (hin : s.counted.jn.inTorus station = true) (hv : valid ≤ 1)
    (hdx : dirsOk (s.counted.jn.dirs (station * 16) 0) dx = true) (hdy : dirsOk (s.counted.jn.dirs (station * 16) 1) dy = true)
    (hdz : dirsOk (s.counted.jn.dirs (station * 16) 2) dz = true) :
    exec (.routeEntrySet h station valid dx dy dz) s =
      .next (({ s.counted with jn := { s.jn with
        routes := Tbl.put s.jn.routes station { valid := valid == 1, dx := dx, dy := dy, dz := dz } } } : State).answer
          (.routeEntrySet h station valid dx dy dz) c .OK 0 []) :=
  exec_ok_of_guards ha rfl rfl (by simp [bad, ht, Nat.le_of_lt_succ hs, hin, hv, hdx, hdy, hdz])

theorem exec_routeAdaptSet {en weight penalty wait : Nat} (ha : Accepted (.routeAdaptSet h en weight penalty wait) c s) (hen : en ≤ 1) :
    exec (.routeAdaptSet h en weight penalty wait) s =
      .next (({ s.counted with jn := { s.jn with
        detourEn := en == 1, downWeight := weight, detourPenalty := penalty, escapeWait := wait } } : State).answer
          (.routeAdaptSet h en weight penalty wait) c .OK 0 []) :=
  exec_ok_of_guards ha rfl rfl (by simp [bad, hen])

theorem exec_poolConfigSet {alpha : Nat} (ha : Accepted (.poolConfigSet h alpha) c s) (hlo : 1 ≤ alpha) (hhi : alpha ≤ 64) :
    exec (.poolConfigSet h alpha) s =
      .next ((State.refreshXoff { s.counted with jn := { s.jn with alpha := alpha } }).answer (.poolConfigSet h alpha) c .OK 0 []) := by
  have h0 : alpha ≠ 0 := by omega
  exact exec_ok_of_guards ha rfl rfl (by simp [bad, h0, hhi])

theorem exec_reasmQuotaSet {att quota : Nat} (ha : Accepted (.reasmQuotaSet h att quota) c s) (hatt : s.counted.badAtt att = false)
    (hlo : 16 ≤ quota) (hhi : quota ≤ 1024) :
    exec (.reasmQuotaSet h att quota) s =
      .next (({ s.counted with jn := { s.jn with quota := Tbl.put s.jn.quota att quota } } : State).answer
        (.reasmQuotaSet h att quota) c .OK 0 []).settle :=
  exec_work_ok_of_guards ha rfl rfl (by simp [bad, hatt, hlo, hhi])

end

/-- Settles O27: the lemma of each setting. -/
theorem routeSettings : Obligations.RouteSettings :=
  fun _ _ _ => ⟨fun _ _ _ _ _ _ _ _ => exec_routeTopologySet, fun _ _ _ _ _ => exec_routeEntrySet, fun _ _ _ _ => exec_routeAdaptSet,
    fun _ => exec_poolConfigSet, fun _ _ => exec_reasmQuotaSet⟩

/-! ### Multicast groups -/

/-- A fabric port, and the mark for this router's own senders, pass the check of a group's ingress (R180). -/
theorem ingressGuard_pass {ingress : Nat} (hin : ingress < 64 ∨ ingress = 0x7F) : (decide (63 < ingress) && ingress != 0x7F) = false := by
  rcases hin with hlt | rfl
  · have hlow : ¬ 63 < ingress := by omega
    rw [decide_eq_false hlow, Bool.false_and]
  · rfl

section
variable {s : State} {c : Cmd} {h : CmdHdr} {group : Nat}

section
variable {ingress mask : Nat} (ha : Accepted (.multicastInstall h group ingress mask) c s) (hin : ingress < 64 ∨ ingress = 0x7F)
  (hm : s.counted.badMask ingress mask = false)
include ha hin hm

theorem exec_multicastInstall (hnew : Tbl.has s.counted.jn.mcast group = false) (hg : group < 4096) :
    exec (.multicastInstall h group ingress mask) s =
      .next (({ s.counted with jn := { s.jn with
        mcast := Tbl.put s.jn.mcast group { ingress := ingress, mask := BitVec.ofNat 80 mask } } } : State).answer
          (.multicastInstall h group ingress mask) c .OK 0 []) := by
  exact exec_ok_of_guards ha rfl rfl (by simp [bad, no, ingressGuard_pass hin, hm, hnew, hg])

/-- A group that is entered already is EXISTS. -/
theorem exec_multicastInstall_exists (hold : Tbl.has s.counted.jn.mcast group = true) :
    exec (.multicastInstall h group ingress mask) s =
      .next (s.counted.answer (.multicastInstall h group ingress mask) c .EXISTS 0 []) := by
  exact exec_of_guard_holds ha rfl rfl (by simp [bad, no, ingressGuard_pass hin, hm, hold])

end

theorem exec_multicastRemove (ha : Accepted (.multicastRemove h group) c s) (hold : Tbl.has s.counted.jn.mcast group = true) :
    exec (.multicastRemove h group) s =
      .next (({ s.counted with jn := { s.jn with mcast := Tbl.del s.jn.mcast group } } : State).answer
        (.multicastRemove h group) c .OK 0 []) :=
  exec_ok_of_guards ha rfl rfl (by simp [no, hold])

theorem exec_multicastRemove_absent (ha : Accepted (.multicastRemove h group) c s) (hnone : Tbl.has s.counted.jn.mcast group = false) :
    exec (.multicastRemove h group) s = .next (s.counted.answer (.multicastRemove h group) c .NOT_FOUND 0 []) :=
  exec_of_guard_holds ha rfl rfl (by simp [no, hnone])

end

/-! ### Members and senders -/

theorem State.attOf_of_fn {s : State} {f : Nat} {x : Fn} (hx : s.fn? f = some x) : s.attOf f = x.att := by
  simp only [State.attOf, hx]

section
variable {s : State} {c : Cmd} {h : CmdHdr} {group : Nat} {x : Fn} (hx : s.counted.fn? h.fn = some x)
  (hb : s.counted.fnBusy h.fn = false)
include hx hb

theorem exec_multicastMemberSet {domain senderFn member sender window : Nat} {w : Window}
    (ha : Accepted (.multicastMemberSet h group domain senderFn member sender window) c s) (hg : group < 4096) (hf : senderFn < 2048)
    (hm : member < 65536) (hs : sender < 2097152) (hw : s.counted.windowOf h.fn domain window = some w) (hr : bit w.rights 2 = true)
    (hnew : Tbl.has (s.counted.engine x.att).members group = false) :
    let m : Member :=
      { fn := h.fn, sender := sender, senderFn := senderFn, index := member, domain := domain, window := window,
        gen := w.gen, base := 0, done := [], busy := [], violFrame := none }
    exec (.multicastMemberSet h group domain senderFn member sender window) s =
      .next ((s.counted.modEngine x.att fun e => { e with members := Tbl.put e.members group m }).answer
        (.multicastMemberSet h group domain senderFn member sender window) c .OK 0 []).settle := by
  rw [exec_work_of_guards ha rfl rfl (by simp [bad, no, hx, hg, hf, hm, hs])]
  simp only [hw, State.attOf_of_fn hx]
  rw [guarded_none (by simp [bad, no, hr, hnew, hb]), conclude_ok]

theorem exec_multicastMemberClear {m : Member} (ha : Accepted (.multicastMemberClear h group) c s)
    (hm : Tbl.get? (s.counted.engine x.att).members group = some m) (hown : m.fn = h.fn) :
    exec (.multicastMemberClear h group) s =
      .next ((s.counted.modEngine x.att fun e => { e with members := Tbl.del e.members group }).answer
        (.multicastMemberClear h group) c .OK 0 []).settle := by
  rw [exec_work_of_guards ha rfl rfl (by simp [no, State.attOf_of_fn hx, hm, hown, hb]), State.attOf_of_fn hx, conclude_ok]

/-- The record of a new sender takes over the tags of its group that rest (R159, log 122). -/
theorem exec_multicastSenderSet {rankTable first count : Nat} {t : RankTable}
    (ha : Accepted (.multicastSenderSet h group rankTable first count) c s) (hg : group < 4096) (hlo : 1 ≤ count) (hhi : count ≤ 65536)
    (ht : Tbl.get? s.counted.cs.rankTables rankTable = some t) (hown : t.fn = h.fn) (hend : first + count ≤ t.size)
    (hnew : (s.counted.engines.any fun e => Tbl.has e.2.senders group) = false) (hmaps : s.counted.mapsFull count = false) :
    let g : Sender :=
      { fn := h.fn, rankTable := rankTable, first := first, count := count, seq := 0, srtt := 20000, out := [],
        resting := Tbl.getD s.jn.mcastRest group [] }
    exec (.multicastSenderSet h group rankTable first count) s =
      .next (((s.counted.modEngine x.att fun e => { e with senders := Tbl.put e.senders group g }).unrest group).answer
        (.multicastSenderSet h group rankTable first count) c .OK 0 []).settle := by
  have h0 : count ≠ 0 := by omega
  rw [exec_work_of_guards ha rfl rfl (by simp [bad, no, hx, hg, h0, hhi])]
  simp only [ht, State.attOf_of_fn hx]
  rw [guarded_none (by simp only [bad, no, short, hnew, hmaps, hb]; simp [hown, hend]), conclude_ok]
  rfl

theorem exec_multicastSenderClear {g : Sender} (ha : Accepted (.multicastSenderClear h group) c s)
    (hg : Tbl.get? (s.counted.engine x.att).senders group = some g) (hown : g.fn = h.fn)
    (hfl : s.counted.mcastInFlight h.fn group = false) :
    exec (.multicastSenderClear h group) s =
      .next (((s.counted.keepRest x.att group).modEngine x.att fun e => { e with senders := Tbl.del e.senders group }).answer
        (.multicastSenderClear h group) c .OK 0 []).settle := by
  rw [exec_work_of_guards ha rfl rfl (by simp [no, State.attOf_of_fn hx, hg, hown, hb, hfl]), State.attOf_of_fn hx, conclude_ok]

end

/-- Settles O28: the lemma of each command of groups, members and senders. -/
theorem multicastSettings : Obligations.MulticastSettings :=
  ⟨fun _ _ _ _ => ⟨fun _ _ => exec_multicastInstall, fun _ _ => exec_multicastInstall_exists, exec_multicastRemove,
      exec_multicastRemove_absent⟩,
    fun _ _ _ _ _ hx hb => ⟨fun _ _ _ _ _ _ => exec_multicastMemberSet hx hb, fun _ => exec_multicastMemberClear hx hb,
      fun _ _ _ _ => exec_multicastSenderSet hx hb, fun _ => exec_multicastSenderClear hx hb⟩⟩

end Sys2Proof.Machine
end

