-- ==== Sys2Proof/Proofs/ContextTables.lean ====
section
/-! PROOFS. The spill region (R345), the Baler's switch (R446), rank tables (R160 to R162) and matching contexts (R357 to R360). -/
namespace Sys2Proof.Machine

open Sys2Proof

/-! ### The spill region, the Baler's switch and rank tables -/

section
variable {s : State} {c : Cmd} {h : CmdHdr} {table : Nat}

theorem exec_flowSpillSet {base capacity en : Nat} (ha : Accepted (.flowSpillSet h base capacity en) c s) (hbase : base % 4096 = 0)
    (hcap : capacity ≤ 4194304) (hen : en ≤ 1) (hempty : s.counted.cs.spilled = []) :
    exec (.flowSpillSet h base capacity en) s =
      .next (({ s.counted with cs := { s.cs with spillBase := base, spillCapacity := capacity, spillEnable := en == 1 } } :
        State).answer (.flowSpillSet h base capacity en) c .OK 0 []).settle :=
  exec_work_ok_of_guards ha rfl rfl (by simp [bad, no, hbase, hcap, hen, hempty])

theorem exec_balerConfigSet {en : Nat} (ha : Accepted (.balerConfigSet h en) c s) (hen : en ≤ 1) :
    exec (.balerConfigSet h en) s =
      .next (({ s.counted with elideEn := en == 1 } : State).answer (.balerConfigSet h en) c .OK 0 []) :=
  exec_ok_of_guards ha rfl rfl (by simp [bad, hen])

/-- The bytes of the rank-table region in use (R162). -/
def State.rankBytes (s : State) : Nat := sumNat (s.cs.rankTables.map fun t => 8 * t.2.size)

section
variable {n : Nat} (ha : Accepted (.rankTableCreate h table n) c s) (hlo : 1 ≤ n) (hhi : n ≤ 2097152)
  (hf : (s.counted.fn? h.fn).isSome) (hb : s.counted.fnBusy h.fn = false) (hnew : Tbl.has s.counted.cs.rankTables table = false)
include ha hlo hhi hf hb hnew

theorem exec_rankTableCreate (hroom : s.counted.rankBytes + 8 * n ≤ rankRegion s.counted.variant) :
    exec (.rankTableCreate h table n) s =
      .next (({ s.counted with cs := { s.cs with
        rankTables := Tbl.put s.cs.rankTables table { fn := h.fn, size := n, entries := [] } } } : State).answer
          (.rankTableCreate h table n) c .OK 0 []).settle := by
  have h0 : n ≠ 0 := by omega
  have hthere : (s.counted.fn? h.fn).isNone = false := by simpa using hf
  exact exec_work_ok_of_guards ha rfl rfl (by simp only [bad, no, short, hthere, hnew, hb]; simpa [h0, hhi, State.rankBytes] using hroom)

/-- A table that the region has no room for is CAPACITY, with the bytes that it needs (R162, log 92). -/
theorem exec_rankTableCreate_full (hfull : rankRegion s.counted.variant < s.counted.rankBytes + 8 * n) :
    exec (.rankTableCreate h table n) s =
      .next (s.counted.answer (.rankTableCreate h table n) c .CAPACITY (8 * n) []).settle := by
  have h0 : n ≠ 0 := by omega
  have hthere : (s.counted.fn? h.fn).isNone = false := by simpa using hf
  exact exec_work_of_guard_holds ha rfl rfl (by simp only [bad, no, short, hthere, hnew, hb]; simpa [h0, hhi, State.rankBytes] using hfull)

end

theorem exec_rankTableWrite {first : Nat} {entries : List Nat} {t : RankTable} (ha : Accepted (.rankTableWrite h table first entries) c s)
    (hok : entries.all s.counted.entryOk = true) (ht : Tbl.get? s.counted.cs.rankTables table = some t)
    (hend : first + entries.length ≤ t.size) :
    exec (.rankTableWrite h table first entries) s =
      .next (({ s.counted with cs := { s.cs with
        rankTables := Tbl.put s.cs.rankTables table { t with entries := writeEntries entries first t.entries } } } : State).answer
          (.rankTableWrite h table first entries) c .OK 0 []) := by
  rw [exec_of_guards ha rfl rfl (by simp only [hok]; rfl)]
  simp only [ht]
  rw [guarded_none (by simp [bad, hend]), conclude_ok]
  rfl

theorem exec_rankTableDestroy (ha : Accepted (.rankTableDestroy h table) c s) (hold : Tbl.has s.counted.cs.rankTables table = true)
    (hfree : s.counted.tableBound table = false) :
    exec (.rankTableDestroy h table) s =
      .next (({ s.counted with cs := { s.cs with rankTables := Tbl.del s.cs.rankTables table } } : State).answer
        (.rankTableDestroy h table) c .OK 0 []).settle :=
  exec_work_ok_of_guards ha rfl rfl (by simp [no, hold, hfree])

end

/-! ### Matching contexts -/

section
variable {s : State} {c : Cmd} {h : CmdHdr} {x : Fn} (hx : s.counted.fn? h.fn = some x) (hb : s.counted.fnBusy h.fn = false)
include hx hb

theorem exec_matchContextSet {en log2 backoff posted unexp kib : Nat}
    (ha : Accepted (.matchContextSet h en log2 backoff posted unexp kib) c s) (hen : en ≤ 1) (hlog : log2 ≤ 16) (hlo : 1 ≤ backoff)
    (hhi : backoff ≤ 1000) (hp : posted ≤ 1048576) (hu : unexp ≤ 1048576) (hk : kib ≤ 4194304)
    (hfree : s.counted.matchInUse h.fn x en log2 posted unexp kib = false)
    (hroom : s.counted.grantsBut h.fn (·.matchBytes) + matchBytes log2 posted unexp kib ≤ matchRegion s.counted.variant) :
    exec (.matchContextSet h en log2 backoff posted unexp kib) s =
      .next ((s.counted.setFn h.fn { x with
        matchEn := en == 1, log2Comms := log2, backoff := backoff, postedMax := posted, unexpectedMax := unexp,
        unexpectedKib := kib }).answer (.matchContextSet h en log2 backoff posted unexp kib) c .OK 0 []).settle := by
  have h0 : backoff ≠ 0 := by omega
  rw [exec_work_of_guards ha rfl rfl (by simp [fnGuards_pass hx hb, bad, hen, hlog, h0, hhi, hp, hu, hk])]
  simp only [hx]
  rw [guarded_none (by simp [no, short, hfree, hroom]), conclude_ok]

theorem exec_matchCommSet {comm rankTable domain own : Nat} {t : RankTable} (ha : Accepted (.matchCommSet h comm rankTable domain own) c s)
    (ht : Tbl.get? s.counted.cs.rankTables rankTable = some t) (hown : t.fn = h.fn) (hd : s.counted.ownsDomain h.fn domain = true)
    (hcomm : comm < 2 ^ x.log2Comms) (hrank : own < t.size) (hfree : s.counted.postedOn h.fn comm = []) :
    exec (.matchCommSet h comm rankTable domain own) s =
      .next ((s.counted.setFn h.fn { x with
        comms := Tbl.put x.comms comm { rankTable := rankTable, domain := domain, ownRank := own } }).answer
          (.matchCommSet h comm rankTable domain own) c .OK 0 []).settle := by
  rw [exec_work_of_guards ha rfl rfl (by simp [no, hx])]
  simp only [hx, ht]
  rw [guarded_none (by simp [bad, no, hown, hd, hcomm, hrank, hb, hfree]), conclude_ok]

/-- A communicator that nothing uses is cleared with and without FORCE (R360). -/
theorem exec_matchCommClear {comm : Nat} (ha : Accepted (.matchCommClear h comm) c s) (hold : Tbl.has x.comms comm = true)
    (hposted : s.counted.postedOn h.fn comm = []) (hun : ((s.counted.lists h.fn).unexpected.any fun u => u.comm == comm) = false) :
    exec (.matchCommClear h comm) s =
      .next (((s.counted.forceComm h.fn comm).modFn h.fn fun y => { y with comms := Tbl.del y.comms comm }).answer
        (.matchCommClear h comm) c .OK 0 []).settle :=
  exec_work_ok_of_guards ha rfl rfl (by simp only [no, hx, hb, hposted, hun]; simp [hold])

end

/-- Settles O32: the lemma of each command of the store's tables and of matching contexts. -/
theorem contextAndMatchTables : Obligations.ContextAndMatchTables :=
  ⟨fun _ _ _ _ => ⟨fun _ _ _ => exec_flowSpillSet, fun _ => exec_balerConfigSet,
      fun _ ha hlo hhi hf hb hnew => ⟨exec_rankTableCreate ha hlo hhi hf hb hnew, exec_rankTableCreate_full ha hlo hhi hf hb hnew⟩,
      fun _ _ _ => exec_rankTableWrite, exec_rankTableDestroy⟩,
    fun _ _ _ _ hx hb => ⟨fun _ _ _ _ _ _ => exec_matchContextSet hx hb, fun _ _ _ _ _ => exec_matchCommSet hx hb,
      fun _ => exec_matchCommClear hx hb⟩⟩

end Sys2Proof.Machine
end

