-- ==== Sys2Proof/Proofs/Reassembly.lean ====
section
/-! PROOFS. Reassembly at an engine: the cell that is taken, by its kind and op (R152, R155, R156, R158), and the ends of entries (R157)
and of quarantines (R151). -/
namespace Sys2Proof.Machine

open Sys2Proof

section
variable {s : State} {n : Nat} (hw : s.engineWorks n = true)
include hw

/-! ### The rows of an engine at work -/

theorem exec_reasmCellReceive {c : WireCell} {e : Engine} (htake : (s.engine n).takeCell isDataCell = some (c, e)) :
    exec (.reasmCellReceive n) s = .next ((s.setEngine n e).reasmCell n c).refreshXoff := by
  simp only [exec, execReasmCellReceive, hw, htake]

section
variable {tag : Nat} {t : Tag} {r : Reasm} (ht : Tbl.get? (s.engine n).tags tag = some t)
include ht

/-- An entry silent for 4 frames is freed and counted (R157). -/
theorem exec_reasmEntryTimeout_silent (hr : t.entry = some r) (hdue : r.last + 4000000 ≤ s.ns) :
    exec (.reasmEntryTimeout n tag false) s =
      .next ((s.setTag n tag { t with entry := none }).evidence (peBase n + 0x7014)).refreshXoff := by
  simp [exec, execReasmEntryTimeout, hw, ht, hr, hdue]

/-- Before that the row has no effect (log 2). -/
theorem exec_reasmEntryTimeout_early (hr : t.entry = some r) (hearly : s.ns < r.last + 4000000) :
    exec (.reasmEntryTimeout n tag false) s = .next s := by
  simp [exec, execReasmEntryTimeout, hw, ht, hr, Nat.not_le.mpr hearly]

/-- A quarantined tag is free after its time (R151). -/
theorem exec_tagQuarantineExpiry_over {u : Nat} (hu : t.quarantine = some u) (hdue : u ≤ s.ns) :
    exec (.tagQuarantineExpiry n tag) s = .next (s.modEngine n fun e => { e with tags := Tbl.del e.tags tag }) := by
  simp [exec, execTagQuarantineExpiry, hw, ht, hu, hdue]

/-- Before that it stays (log 2). -/
theorem exec_tagQuarantineExpiry_early {u : Nat} (hu : t.quarantine = some u) (hearly : s.ns < u) :
    exec (.tagQuarantineExpiry n tag) s = .next s := by
  simp [exec, execTagQuarantineExpiry, hw, ht, hu, Nat.not_le.mpr hearly]

end

/-- A multicast entry silent for 4 frames is freed and counted (R157, R158). -/
theorem exec_reasmEntryTimeout_mcast {tag : Nat} {r : Reasm} (hr : Tbl.get? (s.engine n).mreasm tag = some r)
    (hdue : r.last + 4000000 ≤ s.ns) :
    exec (.reasmEntryTimeout n tag true) s =
      .next ((s.setEngine n { s.engine n with mreasm := Tbl.del (s.engine n).mreasm tag }).evidence (peBase n + 0x7014)).refreshXoff := by
  simp [exec, execReasmEntryTimeout, hw, hr, hdue]

end

/-! ### One cell, by its kind and op -/

section
variable (t : State) (n : Nat) {c : WireCell}

theorem State.reasmCell_multicast (hk : c.h.kind = 6) : t.reasmCell n c = t.mcastCell n c := if_pos hk

/-- A SINGLE goes by its op. -/
theorem State.reasmCell_single (hk : c.h.kind = 3) :
    t.reasmCell n c = if isTaggedSingle c.parcel.op then t.taggedSingle n c c.parcel
      else if c.parcel.op = opOPEN then t.openSingle n c c.parcel else t.flowSingle n c c.parcel := by
  have h6 : c.h.kind ≠ 6 := by omega
  simp only [State.reasmCell, if_neg h6, if_pos hk]

theorem State.reasmCell_tagged (h6 : c.h.kind ≠ 6) (h3 : c.h.kind ≠ 3) : t.reasmCell n c = t.taggedCell n c := by
  simp only [State.reasmCell, if_neg h6, if_neg h3]

/-- A SINGLE of a flow that the engine holds is complete at once. -/
theorem State.flowSingle_held {h : ParcelHdr} {x : DstFlow} (hx : t.dstFlow? n h.flow = some x) :
    t.flowSingle n c h = (t.meter x.fn 1 1).completeFlow n h.flow 0 h (parcelCells h.length == 1) [c] t.ns := by
  simp only [State.flowSingle, hx]

theorem State.taggedCell_no_owner (ht : Tbl.get? (t.engine n).tags c.h.tag = none) : t.taggedCell n c = t.strayCell n none true := by
  simp only [State.taggedCell, ht]

/-- A cell of a tag with an open entry is recorded in it. -/
theorem State.taggedCell_entry {y : Tag} {r : Reasm} (ht : Tbl.get? (t.engine n).tags c.h.tag = some y) (hq : y.quarantine = none)
    (hr : y.entry = some r) : t.taggedCell n c = t.recordCell n c.h.tag y r c := by
  simp [State.taggedCell, ht, hq, hr]

end

/-- Settles O55: the lemma of each kind of cell, and of each end of an entry and of a quarantine. -/
theorem reassembly : Obligations.Reassembly := by
  refine fun s n hw => ⟨fun c e htake => ?_, fun t c h x => State.flowSingle_held t n, fun t c => State.taggedCell_no_owner t n,
    fun t c y r => State.taggedCell_entry t n,
    fun tag t r ht hr => ⟨exec_reasmEntryTimeout_silent hw ht hr, exec_reasmEntryTimeout_early hw ht hr⟩,
    fun tag r => exec_reasmEntryTimeout_mcast hw,
    fun tag t u ht hu => ⟨exec_tagQuarantineExpiry_over hw ht hu, exec_tagQuarantineExpiry_early hw ht hu⟩⟩
  rw [exec_reasmCellReceive hw htake]
  refine ⟨fun hk => ?_, fun hk hop => ?_, fun hk hop hopen => ?_, fun hk hop hopen => ?_, fun h6 h3 => ?_⟩
  · rw [State.reasmCell_multicast _ n hk]
  · rw [State.reasmCell_single _ n hk, if_pos hop]
  · rw [State.reasmCell_single _ n hk, if_neg (by simp [hop]), if_pos hopen]
  · rw [State.reasmCell_single _ n hk, if_neg (by simp [hop]), if_neg hopen]
  · rw [State.reasmCell_tagged _ n h6 h3]

end Sys2Proof.Machine
end

