-- ==== Sys2Proof/Proofs/Parcels.lean ====
section
/-! PROOFS. Parcels at their sources: sent (R193, R316, R319, R353), unanswered in time (R333, R335, R336, R355) and after a back-off (R337,
R380); flows that are idle (R324) and contexts fetched (R347). -/
namespace Sys2Proof.Machine

open Sys2Proof

/-! ### One parcel of a flow -/

section
variable {s : State} {n fid seq : Nat} {x : SrcFlow} {p : OutParcel} (hx : s.srcFlow? n fid = some x) (hp : x.named seq = some p)
include hx hp

/-- Cells of a released parcel that still wait are injected first. -/
theorem State.trySend_left (hl : p.left ≠ []) :
    s.trySend n fid seq = s.sendLeft n fid x p (s.outClass x p).1 (s.outClass x p).2 := by
  simp only [State.trySend, hx, hp, if_pos hl]

theorem State.trySend_due (hl : p.left = []) (hd : p.due = true) : s.trySend n fid seq = s.release n fid x p := by
  simp [State.trySend, hx, hp, hl, hd]

theorem State.trySend_not_due (hl : p.left = []) (hd : p.due = false) : s.trySend n fid seq = s := by
  simp [State.trySend, hx, hp, hl, hd]

/-- A back-off of the kind asked for that has ended resends its parcel (R337, R380). -/
theorem State.backOffEnds_over {t : Nat} {resource : Bool} (hr : p.retryAt = some (t, resource)) (hdue : t ≤ s.ns) :
    s.backOffEnds n fid seq resource = (s.resend n fid x p).settle := by
  simp [State.backOffEnds, hx, hp, Option.filter_some, hr, hdue]

/-- Before its time no back-off of either kind ends (log 2). -/
theorem State.backOffEnds_early {t : Nat} {kind : Bool} (hr : p.retryAt = some (t, kind)) (hearly : s.ns < t) (resource : Bool) :
    s.backOffEnds n fid seq resource = s := by
  simp [State.backOffEnds, hx, hp, Option.filter_some, hr, Nat.not_le.mpr hearly]

end

/-! ### A parcel unanswered in time -/

/-- With no back-off and no resend pending, a parcel's timeout alone decides (R335). -/
theorem OutParcel.timedOut_eq {p : OutParcel} (hr : p.retryAt = none) (hd : p.due = false) {t : Nat} (ht : p.timeout = some t) (now : Nat) :
    p.timedOut now = decide (t ≤ now) := by
  simp [OutParcel.timedOut, hr, hd, ht]

/-- The flow after a timeout: one more in a row, its window halved, down to 1,024 bytes, unless it was cut within the last srtt (R333, R336). -/
def SrcFlow.afterTimeout (x : SrcFlow) (now : Nat) : SrcFlow :=
  let cut := match x.lastCut with | some c => decide (x.srtt ≤ now - c) | none => true
  { x with timeouts := x.timeouts + 1, cwnd := if cut then maxN (x.cwnd / 2) 1024 else x.cwnd, lastCut := if cut then some now else x.lastCut }

/-- A timeout counted, and its flow after it. -/
def State.noteTimeout (s : State) (n fid : Nat) (x : SrcFlow) : State :=
  (s.tally (peBase n + 0x6010)).setSrc n fid (x.afterTimeout s.ns)

section
variable (s : State) (n fid : Nat) (x : SrcFlow) (p : OutParcel)

/-- What a timeout does once it is counted: the flow opens afresh after two in a row where a resend still fits, else the parcel goes again. -/
theorem State.parcelTimeout_eq : s.parcelTimeout n fid x p =
    if p.op ≠ opOPEN ∧ 2 ≤ (x.afterTimeout s.ns).timeouts ∧ (x.afterTimeout s.ns).opening = none
        ∧ (s.noteTimeout n fid x).mayResend (x.afterTimeout s.ns) p then
      (s.noteTimeout n fid x).reopen n fid (x.afterTimeout s.ns) p
    else (s.noteTimeout n fid x).resend n fid (x.afterTimeout s.ns) p := rfl

variable {s n fid x p}

/-- The first timeout in a row sends the parcel again. -/
theorem State.parcelTimeout_first (h : (x.afterTimeout s.ns).timeouts = 1) :
    s.parcelTimeout n fid x p = (s.noteTimeout n fid x).resend n fid (x.afterTimeout s.ns) p := by
  have hone : ¬ 2 ≤ (x.afterTimeout s.ns).timeouts := by omega
  rw [State.parcelTimeout_eq, if_neg (fun hre => hone hre.2.1)]

/-- The second one reopens the flow first (R336). -/
theorem State.parcelTimeout_second (hop : p.op ≠ opOPEN) (h2 : 2 ≤ (x.afterTimeout s.ns).timeouts)
    (ho : (x.afterTimeout s.ns).opening = none) (hm : (s.noteTimeout n fid x).mayResend (x.afterTimeout s.ns) p = true) :
    s.parcelTimeout n fid x p = (s.noteTimeout n fid x).reopen n fid (x.afterTimeout s.ns) p := by
  rw [State.parcelTimeout_eq, if_pos ⟨hop, h2, ho, hm⟩]

end

/-! ### The rows of an engine at work -/

section
variable {s : State} {n : Nat} (hw : s.engineWorks n = true)
include hw

theorem exec_parcelSend_flow (fid seq : Nat) : exec (.parcelSend n fid seq false) s = .next (s.trySend n fid seq).settle := by
  simp [exec, execParcelSend, hw]

theorem exec_parcelSend_mcast (g seq : Nat) : exec (.parcelSend n g seq true) s = .next (s.sendMcast n g seq).settle := by
  simp [exec, execParcelSend, hw]

/-- The row of a flow's parcel acts when its timeout has ended, else it has no effect (log 2). -/
theorem exec_parcelTimeout_flow {fid seq : Nat} {x : SrcFlow} {p : OutParcel} (hx : s.srcFlow? n fid = some x) (hp : x.named seq = some p) :
    exec (.parcelTimeout n fid seq false) s =
      if p.timedOut s.ns then .next (s.parcelTimeout n fid x p).settle else .next s := by
  simp [exec, execParcelTimeout, hw, hx, hp]

/-- The row of a multicast parcel, by its sender record (R355). -/
theorem exec_parcelTimeout_mcast {g seq : Nat} {y : Sender} {m : McastOut} {t : Nat} (hy : s.sender? n g = some y)
    (hm : (y.out.find? fun m => m.seq == seq) = some m) (ht : m.timeout = some t) :
    exec (.parcelTimeout n g seq true) s = if t ≤ s.ns then .next (s.mcastTimeout n g y m t).settle else .next s := by
  simp [exec, execParcelTimeout, hw, hy, hm, ht]

theorem exec_retryAfterExpiry (fid seq : Nat) : exec (.retryAfterExpiry n fid seq) s = .next (s.backOffEnds n fid seq false) := by
  simp only [exec, execRetryAfterExpiry, hw, if_true]

theorem exec_resourceBackoffExpiry (fid seq : Nat) :
    exec (.resourceBackoffExpiry n fid seq) s = .next (s.backOffEnds n fid seq true) := by
  simp only [exec, execResourceBackoffExpiry, hw, if_true]

/-- An open flow with nothing outstanding for 16 frames is closed (R324). -/
theorem exec_flowIdleClose_idle {fid : Nat} {x : SrcFlow} (hx : s.srcFlow? n fid = some x) (hopen : x.state = .OPEN) (hps : x.parcels = [])
    (hq : x.queue = []) (ho : x.opening = none) (hidle : x.lastUse + 16000000 ≤ s.ns) :
    exec (.flowIdleClose n fid) s = .next (s.closeFlow n fid) := by
  simp only [exec, execFlowIdleClose, hw, hx]
  exact if_pos ⟨hopen, hps, hq, ho, hidle⟩

/-- A flow used within the last 16 frames is left open. -/
theorem exec_flowIdleClose_used {fid : Nat} {x : SrcFlow} (hx : s.srcFlow? n fid = some x) (hused : s.ns < x.lastUse + 16000000) :
    exec (.flowIdleClose n fid) s = .next s := by
  simp [exec, execFlowIdleClose, hw, hx, Nat.not_le.mpr hused]

/-- A context fetched, its read from the spill area over, is in the cache (R347). -/
theorem exec_flowContextFetchComplete {fid : Nat} {src : Bool} (hf : s.cs.fetching.contains (n, fid, src) = true)
    (hr : s.spillReading n fid src = false) : exec (.flowContextFetchComplete n fid src) s = .next (s.ctxFetched n fid src) := by
  simp only [exec, execFlowContextFetchComplete, hw, hf, hr, Bool.not_false, Bool.and_self, if_true]

end

/-- Settles O57: the lemma of each row, and of the first and the second timeout in a row. -/
theorem parcelsInTime : Obligations.ParcelsInTime := by
  refine fun s n fid seq x p hw hx => ⟨fun hp => ⟨fun hl => ?_, fun hl hd => ?_, fun hl hd => ?_, fun hr hd t ht => ?_,
      fun t hr hdue => ?_, fun t hr hdue => ?_, fun t k hr hearly => ?_⟩,
    fun g => exec_parcelSend_mcast hw g seq, fun g y m t hy hm ht => ?_,
    exec_flowIdleClose_idle hw hx, exec_flowIdleClose_used hw hx, fun src => exec_flowContextFetchComplete hw⟩
  · rw [exec_parcelSend_flow hw, State.trySend_left hx hp hl]
  · rw [exec_parcelSend_flow hw, State.trySend_due hx hp hl hd]
  · rw [exec_parcelSend_flow hw, State.trySend_not_due hx hp hl hd]
  · have row := exec_parcelTimeout_flow hw hx hp
    rw [OutParcel.timedOut_eq hr hd ht] at row
    refine ⟨fun hearly => row.trans (if_neg (by simpa using hearly)), fun hdue => ?_⟩
    replace row := row.trans (if_pos (by simpa using hdue))
    exact ⟨fun h1 => row.trans (by rw [State.parcelTimeout_first h1]; rfl),
      fun hop h2 ho hm => row.trans (by rw [State.parcelTimeout_second hop h2 ho hm]; rfl)⟩
  · rw [exec_retryAfterExpiry hw, State.backOffEnds_over hx hp hr hdue]
  · rw [exec_resourceBackoffExpiry hw, State.backOffEnds_over hx hp hr hdue]
  · rw [exec_retryAfterExpiry hw, exec_resourceBackoffExpiry hw, State.backOffEnds_early hx hp hr hearly,
      State.backOffEnds_early hx hp hr hearly]
    exact ⟨rfl, rfl⟩
  · have row := exec_parcelTimeout_mcast hw hy hm ht
    exact ⟨fun hdue => row.trans (if_pos hdue), fun hearly => row.trans (if_neg (Nat.not_le.mpr hearly))⟩

end Sys2Proof.Machine
end

