-- ==== Sys2Proof/Proofs/FunctionLives.lean ====
section
/-! PROOFS. The life of a function (R233 to R239), its freeze and thaw (R241, R244), and its save and restore (R242, R243). -/
namespace Sys2Proof.Machine

open Sys2Proof

theorem State.fnState_eq {s : State} {f : Nat} {x : Fn} (hx : s.fn? f = some x) : s.fnState f = x.state := by
  simp only [State.fnState, hx]

/-! ### Life

The guards read the state in which CC_COMMANDS has counted the command. -/

section
variable {s : State} {c : Cmd} {h : CmdHdr} {x : Fn} (hx : s.counted.fn? h.fn = some x) (hb : s.counted.fnBusy h.fn = false)
include hx hb

theorem exec_functionEnable_ready (ha : Accepted (.functionEnable h) c s) (hst : x.state = .READY) (hok : s.counted.enableOk x = true) :
    exec (.functionEnable h) s =
      .next (((s.counted.setFn h.fn { x with state := .RUNNING, cause := 0 }).unforce h.fn).answer (.functionEnable h) c .OK 0 []).settle := by
  rw [exec_work_of_guards ha rfl rfl (fnGuards_pass hx hb)]
  simp only [hx]
  rw [if_neg (by simp [hst]), guarded_none (by simp [no, hst, hok]), conclude_ok]

theorem exec_functionEnable_running (ha : Accepted (.functionEnable h) c s) (hst : x.state = .RUNNING) :
    exec (.functionEnable h) s = .next (s.counted.answer (.functionEnable h) c .OK 0 []).settle := by
  rw [exec_work_of_guards ha rfl rfl (fnGuards_pass hx hb)]
  simp only [hx]
  rw [if_pos hst, conclude_ok]

theorem exec_functionDisable_ready (ha : Accepted (.functionDisable h) c s) (hst : x.state = .READY) :
    exec (.functionDisable h) s = .next (s.counted.answer (.functionDisable h) c .OK 0 []).settle := by
  rw [exec_work_of_guards ha rfl rfl (fnGuards_pass hx hb), if_pos (by rw [State.fnState_eq hx, hst]), conclude_ok]

theorem exec_functionThaw_running (ha : Accepted (.functionThaw h) c s) (hst : x.state = .RUNNING) :
    exec (.functionThaw h) s = .next (s.counted.answer (.functionThaw h) c .OK 0 []).settle := by
  rw [exec_work_of_guards ha rfl rfl (fnGuards_pass hx hb), if_pos (by rw [State.fnState_eq hx, hst]), conclude_ok]

theorem exec_functionThaw_frozen (ha : Accepted (.functionThaw h) c s) (hst : x.state = .FROZEN) (hready : s.counted.hostReady x = true) :
    exec (.functionThaw h) s =
      .next (((s.counted.thaw h.fn).unforce h.fn).answer (.functionThaw h) c .OK 0 []).settle := by
  rw [exec_work_of_guards ha rfl rfl (fnGuards_pass hx hb), if_neg (by simp [State.fnState_eq hx, hst]),
    guarded_none (by simp [no, State.fnState_eq hx, hst, hx, hready]), conclude_ok]

/-! ### Commands that wait -/

variable (hw : s.counted.waitFull h = false)
include hw

/-- DESTROY withdraws the function and waits for the reset point; where control-class state stands, only under FORCE (R238, R239). -/
theorem exec_functionDestroy (ha : Accepted (.functionDestroy h) c s) (hst : x.state = .READY ∨ x.state = .FROZEN)
    (hquiet : h.force = false → s.counted.unquiet h.fn true true true = false) :
    exec (.functionDestroy h) s = .next (State.conclude (.functionDestroy h) c
      (.wait ((if h.force then s.counted.forceRemove h.fn else s.counted).withdraw h.fn h.force false) (.fnDestroy h.fn))).settle := by
  refine exec_work_of_guards ha rfl rfl ?_
  have hstate : (x.state != .READY && x.state != .FROZEN) = false := by rcases hst with e | e <;> simp [e]
  cases hf : h.force with
  | true => simp [fnGuards_pass hx hb, no, State.fnState_eq hx, hstate, hw]
  | false => simp [fnGuards_pass hx hb, no, State.fnState_eq hx, hstate, hw, hquiet hf]

/-- DISABLE does the same with a function that works, and its generation advances (R235). -/
theorem exec_functionDisable (ha : Accepted (.functionDisable h) c s) (hst : x.state = .RUNNING ∨ x.state = .HALTED)
    (hquiet : h.force = false → s.counted.unquiet h.fn true true true = false) :
    exec (.functionDisable h) s = .next (State.conclude (.functionDisable h) c
      (.wait ((if h.force then s.counted.forceSuspend h.fn else s.counted).withdraw h.fn h.force true) (.fnDisable h.fn))).settle := by
  have hready : s.counted.fnState h.fn ≠ .READY := by rw [State.fnState_eq hx]; rcases hst with e | e <;> simp [e]
  have hstate : (x.state != .RUNNING && x.state != .HALTED) = false := by rcases hst with e | e <;> simp [e]
  rw [exec_work_of_guards ha rfl rfl (fnGuards_pass hx hb), if_neg hready, guarded_none]
  cases hf : h.force with
  | true => simp [no, State.fnState_eq hx, hstate, hw]
  | false => simp [no, State.fnState_eq hx, hstate, hw, hquiet hf]

/-- A RESET joins the one under way. -/
theorem exec_functionReset_joins (ha : Accepted (.functionReset h) c s) (hst : x.state = .RESETTING) :
    exec (.functionReset h) s = .next (State.conclude (.functionReset h) c (.wait s.counted (.fnReset h.fn))).settle := by
  rw [exec_work_of_guards ha rfl rfl (by simp [fnGuards_pass hx hb, no, hw]), if_pos (by rw [State.fnState_eq hx, hst])]

theorem exec_functionReset (ha : Accepted (.functionReset h) c s) (hst : x.state ≠ .RESETTING)
    (hquiet : h.force = false → s.counted.unquiet h.fn true true false = false) :
    exec (.functionReset h) s = .next (State.conclude (.functionReset h) c
      (.wait (s.counted.deviceResetFn h.fn h.force) (.fnReset h.fn))).settle := by
  rw [exec_work_of_guards ha rfl rfl (by simp [fnGuards_pass hx hb, no, hw]), if_neg (by rwa [State.fnState_eq hx]), guarded_none]
  cases hf : h.force with
  | true => rfl
  | false => simp [no, hquiet hf]

theorem exec_functionFreeze {ms : Nat} (ha : Accepted (.functionFreeze h ms) c s) (hlo : 1 ≤ ms) (hhi : ms ≤ 10000)
    (hst : x.state = .RUNNING) (hquiet : h.force = false → s.counted.unquiet h.fn false true false = false) :
    exec (.functionFreeze h ms) s = .next (State.conclude (.functionFreeze h ms) c
      (.wait ((s.counted.tokensLost h.fn).beginFreeze h.fn ms) (.freeze h.fn))).settle := by
  refine exec_work_of_guards ha rfl rfl ?_
  have hms : ms ≠ 0 := by omega
  cases hf : h.force with
  | true => simp [fnGuards_pass hx hb, bad, no, State.fnState_eq hx, hst, hw, hms, hhi]
  | false => simp [fnGuards_pass hx hb, bad, no, State.fnState_eq hx, hst, hw, hms, hhi, hquiet hf]

/-! ### Save and restore -/

/-- A FROZEN function's blob that the buffer holds is written there (R242). -/
theorem exec_functionSave {buffer n : Nat} (ha : Accepted (.functionSave h buffer n) c s) (hst : x.state = .FROZEN)
    (hfits : (s.counted.blobOf h.fn x).length ≤ n) (hgen : s.counted.gen h.fn = x.freezeGen) (hm : s.counted.managerReachable = true) :
    exec (.functionSave h buffer n) s =
      .next ((s.counted.managerWrite buffer (s.counted.blobOf h.fn x)).answer (.functionSave h buffer n) c .OK 0
        (le 8 (s.counted.blobOf h.fn x).length)) := by
  rw [exec_of_guards ha rfl rfl (by simp [fnGuards_pass hx hb, no, State.fnState_eq hx, hst, hw])]
  simp only [hx]
  rw [if_neg (Nat.not_lt.mpr hfits), guarded_none (by simp [no, hgen, hm]), conclude_payload]

/-- A buffer too short for it is CAPACITY, with the length that it needs. -/
theorem exec_functionSave_short {buffer n : Nat} (ha : Accepted (.functionSave h buffer n) c s) (hst : x.state = .FROZEN)
    (hshort : n < (s.counted.blobOf h.fn x).length) :
    exec (.functionSave h buffer n) s =
      .next (s.counted.answer (.functionSave h buffer n) c .CAPACITY (s.counted.blobOf h.fn x).length []) := by
  rw [exec_of_guards ha rfl rfl (by simp [fnGuards_pass hx hb, no, State.fnState_eq hx, hst, hw])]
  simp only [hx]
  rw [if_pos hshort, conclude_done]

theorem exec_functionRestore {blob n a : Nat} (ha : Accepted (.functionRestore h blob n) c s) (hn : 64 ≤ n) (hst : x.state = .READY)
    (hready : s.counted.hostReady x = true) (hm : s.counted.managerReachable = true) (hman : s.counted.manager = some a) :
    exec (.functionRestore h blob n) s =
      .next (State.conclude (.functionRestore h blob n) c
        (.wait (s.counted.dmaRead a blob n .blob none h.fn) (.restore h.fn))).settle := by
  rw [exec_work_of_guards ha rfl rfl (by
    simp [fnGuards_pass hx hb, bad, no, State.fnState_eq hx, hst, hw, hx, hready, hm, Nat.not_lt.mpr hn])]
  simp only [hman]

end

/-! ### The cut-off of data-class work -/

/-- The steps of R235 with the generation's advance. -/
theorem State.cutWork_advancing {s : State} {f : Nat} {x : Fn} (hx : s.fn? f = some x) (enters ends : FnState) :
    s.cutWork f enters ends true =
      ((((s.modFn f fun y => { y with state := enters, resetRec := some { oldGen := s.gen f, ends := ends, port := false } }).advanceGen
        f).discardWork f x).memberLost f).answerOn (.freeze f) .FAILED 0 [] := by
  simp only [State.cutWork, hx, if_true]

theorem State.beginFreeze_eq {s : State} {f ms : Nat} {y : Fn}
    (hy : (s.modFn f fun z => { z with state := .FREEZING, freeze := some (s.ns + ms * 1000000) }).fn? f = some y) :
    s.beginFreeze f ms =
      (s.modFn f fun z => { z with state := .FREEZING, freeze := some (s.ns + ms * 1000000) }).refuseWaiting f y := by
  simp only [State.beginFreeze, hy]

/-- Settles O31: the lemma of each command in the state that the function is in, with FORCE and without. -/
theorem functionLife : Obligations.FunctionLife := by
  refine ⟨fun s c h x hx hb hw => ⟨fun ha => ⟨exec_functionEnable_ready hx hb ha, exec_functionEnable_running hx hb ha⟩,
      fun ha hst => ⟨fun hf hq => ?_, fun hf => ?_⟩,
      fun ha => ⟨fun hst => ⟨fun hf hq => ?_, fun hf => ?_⟩, exec_functionDisable_ready hx hb ha⟩,
      fun ha => ⟨exec_functionReset_joins hx hb hw ha, exec_functionReset hx hb hw ha⟩,
      fun ms y ha hlo hhi hst hq hy => ?_,
      fun ha => ⟨exec_functionThaw_frozen hx hb ha, exec_functionThaw_running hx hb ha⟩⟩,
    fun s f x hx => ⟨State.cutWork_advancing hx, fun _ => rfl, fun _ => rfl⟩,
    fun s c h x hx hb hw hm => ⟨fun buffer n ha hst => ⟨fun hfits hgen => exec_functionSave hx hb hw ha hst hfits hgen hm,
        exec_functionSave_short hx hb hw ha hst⟩,
      fun blob n a ha hn hst hready => exec_functionRestore hx hb hw ha hn hst hready hm⟩⟩
  · have row := exec_functionDestroy hx hb hw ha hst fun _ => hq
    simpa only [hf, Bool.false_eq_true, if_false] using row
  · have row := exec_functionDestroy hx hb hw ha hst fun hn => by simp [hf] at hn
    simpa only [hf, if_true] using row
  · have row := exec_functionDisable hx hb hw ha hst fun _ => hq
    simpa only [hf, Bool.false_eq_true, if_false] using row
  · have row := exec_functionDisable hx hb hw ha hst fun hn => by simp [hf] at hn
    simpa only [hf, if_true] using row
  · rw [exec_functionFreeze hx hb hw ha hlo hhi hst hq, State.beginFreeze_eq hy]

end Sys2Proof.Machine
end

