-- ==== Sys2Proof/Proofs/ManagerResets.lean ====
section
/-! PROOFS. The manager (R492), device and block resets (R540, R556), splits of host ports (R214) and forwarded commands (R490). -/
namespace Sys2Proof.Machine

open Sys2Proof

/-! ### The manager -/

theorem State.appoint_same {s : State} {new : Option Nat} (h : new = s.manager) : s.appoint new = s := if_pos h

theorem State.appoint_first {s : State} {new : Option Nat} (h : new ≠ s.manager) (hnone : s.manager = none) :
    s.appoint new = { s with manager := new } := by
  rw [State.appoint, if_neg h, hnone]

/-- The admin ring of the manager before closes (R613). -/
theorem State.appoint_other {s : State} {new : Option Nat} {f : Nat} (h : new ≠ s.manager) (hold : s.manager = some f) :
    s.appoint new = { s.closeAdmin f with manager := new } := by
  rw [State.appoint, if_neg h, hold]

/-- The manager that an attachment number names. -/
def namedManager (a : Nat) : Option Nat := if a = 0xFF then none else some a

section
variable {s : State} {c : Cmd} {h : CmdHdr}

theorem exec_managerSet {a : Nat} (ha : Accepted (.managerSet h a) c s) (hatt : a = 0xFF ∨ s.counted.badAtt a = false)
    (hb : s.counted.adminBusy h.src = false) :
    exec (.managerSet h a) s = .next ((s.counted.appoint (namedManager a)).answer (.managerSet h a) c .OK 0 []).settle := by
  have hatt' : (a != 0xFF && s.counted.badAtt a) = false := by rcases hatt with e | e <;> simp [e]
  exact exec_work_ok_of_guards ha rfl rfl (by simp [bad, no, hatt', hb])

/-! ### Resets -/

/-- The reply to a device reset comes before the reset that is then due (R540). -/
theorem exec_deviceReset (ha : Accepted (.deviceReset h) c s) (hon : s.counted.rst.mode ≠ .OFF) (hnone : s.counted.rst.deferred = none) :
    exec (.deviceReset h) s =
      .next (({ s.counted with rst := { s.rst with deferred := some (commandCause h.src) } } : State).answer (.deviceReset h) c .OK 0
        []).dueReset := by
  have hwant : s.counted.wantReset (commandCause h.src).1 (commandCause h.src).2 =
      { s.counted with rst := { s.rst with deferred := some (commandCause h.src) } } := if_neg (by simp [hon, hnone])
  calc exec (.deviceReset h) s
      = .next (s.command (.deviceReset h) fun s => (s.wantReset (commandCause h.src).1 (commandCause h.src).2).ok).dueReset := rfl
    _ = _ := by rw [State.command_of_accepted _ ha, hwant, conclude_ok]

theorem exec_blockReset_port {p : Nat} (ha : Accepted (.blockReset h 1 p) c s) (hp : p ≤ 63) (hst : (s.counted.port p).state ≠ .DISABLED)
    (hw : s.counted.portWaits p = false) :
    exec (.blockReset h 1 p) s = .next ((s.counted.resetPort p).answer (.blockReset h 1 p) c .OK 0 []).settle := by
  have hst' : ((s.counted.port p).state == .DISABLED) = false := beq_false_of_ne hst
  rw [exec_work_of_guards ha rfl rfl (by simp [bad, badBlock, hp]), if_pos rfl, guarded_none (by simp only [no, hst', hw]; rfl), conclude_ok]

theorem exec_blockReset_engine {n : Nat} (ha : Accepted (.blockReset h 2 n) c s) (hn : n ≤ 31) :
    exec (.blockReset h 2 n) s = .next (State.conclude (.blockReset h 2 n) c
      (if ((s.counted.resetEngine n).fnsOf n).isEmpty then (s.counted.resetEngine n).ok
       else .hold (s.counted.resetEngine n) (.engineReset n))).settle :=
  exec_work_of_guards ha rfl rfl (by simp [bad, badBlock, hn])

/-- An engine whose attachment has no function is reset at once. -/
theorem exec_blockReset_engine_free {n : Nat} (ha : Accepted (.blockReset h 2 n) c s) (hn : n ≤ 31)
    (hfns : (s.counted.resetEngine n).fnsOf n = []) :
    exec (.blockReset h 2 n) s = .next ((s.counted.resetEngine n).answer (.blockReset h 2 n) c .OK 0 []).settle := by
  rw [exec_blockReset_engine ha hn, if_pos (List.isEmpty_iff.mpr hfns), conclude_ok]

/-- Otherwise the command is held until its functions are at their reset points (R246, R556). -/
theorem exec_blockReset_engine_held {n : Nat} (ha : Accepted (.blockReset h 2 n) c s) (hn : n ≤ 31)
    (hfns : (s.counted.resetEngine n).fnsOf n ≠ []) :
    exec (.blockReset h 2 n) s =
      .next (State.conclude (.blockReset h 2 n) c (.hold (s.counted.resetEngine n) (.engineReset n))).settle := by
  rw [exec_blockReset_engine ha hn, if_neg (mt List.isEmpty_iff.mp hfns)]

theorem exec_blockReset_hostPort {p : Nat} (ha : Accepted (.blockReset h 3 p) c s) (hp : p ≤ 15) :
    exec (.blockReset h 3 p) s = .next ((s.counted.resetHostPort p).answer (.blockReset h 3 p) c .OK 0 []).settle :=
  exec_work_ok_of_guards ha rfl rfl (by simp [bad, badBlock, hp])

theorem exec_hostPortSplitSet {p split : Nat} (ha : Accepted (.hostPortSplitSet h p split) c s) (hp : p ≤ 15) (hs : split ≤ 1)
    (hb : s.counted.splitBusy p split = false) :
    exec (.hostPortSplitSet h p split) s =
      .next ((s.counted.setSplit p split).answer (.hostPortSplitSet h p split) c .OK 0 []).settle :=
  exec_work_ok_of_guards ha rfl rfl (by simp [bad, no, hp, hs, hb])

/-! ### Forwarded commands -/

theorem exec_commandForward {loc : Nat} {packet : List Byte} (ha : Accepted (.commandForward h loc packet) c s)
    (hop : rd packet 0 2 ≠ 0x010C) (hw : s.counted.waitFull h = false) :
    exec (.commandForward h loc packet) s = .next (State.conclude (.commandForward h loc packet) c
      (.wait (s.counted.beginForward loc packet).1 (.forward s.cc.nextTransfer))) :=
  exec_of_guards ha rfl rfl (by simp [bad, no, hop, hw])

end

section
variable {s : State} {n : Nat} {x : Forward} (hal : s.alive = true) (hx : Tbl.get? s.cc.forwards n = some x)
include hal hx

theorem exec_commandForwardResend_due (hd : x.sent + 10000000 ≤ s.ns) :
    exec (.commandForwardResend n) s =
      .next (({ s with cc := { s.cc with forwards := Tbl.put s.cc.forwards n { x with sent := s.ns } } } : State).sendForward n
        { x with sent := s.ns }) := by
  simp only [exec, execCommandForwardResend, hx]
  exact if_pos ⟨hal, hd⟩

theorem exec_commandForwardTimeout_due (hd : x.deadline ≤ s.ns) :
    exec (.commandForwardTimeout n) s = .next (s.endForward n .TIMEOUT []) := by
  simp only [exec, execCommandForwardTimeout, hx]
  exact if_pos ⟨hal, hd⟩

end

/-- Settles O41: the lemma of each command, with the manager that is named, the functions of the engine's attachment, and the split. -/
theorem managerResetsAndForwards : Obligations.ManagerResetsAndForwards := by
  refine ⟨fun s c h => ⟨fun a ha hatt hb => ?_, exec_deviceReset, fun p => exec_blockReset_port,
      fun n ha hn => ⟨exec_blockReset_engine_free ha hn, exec_blockReset_engine_held ha hn⟩, fun p => exec_blockReset_hostPort,
      fun p hp => ⟨fun ha hb => exec_hostPortSplitSet ha hp (Nat.le_refl 1) hb, fun ha hb => exec_hostPortSplitSet ha hp (Nat.zero_le 1) hb⟩⟩,
    fun s h => ⟨fun c loc packet => exec_commandForward,
      fun n x hal hx => ⟨exec_commandForwardResend_due hal hx, exec_commandForwardTimeout_due hal hx⟩⟩⟩
  have row := exec_managerSet ha hatt hb
  refine ⟨fun hsame => ?_, fun hne hnone => ?_, fun f hne hold => ?_⟩
  · rwa [State.appoint_same (s := s.counted) (new := namedManager a) hsame] at row
  · rwa [State.appoint_first (s := s.counted) (new := namedManager a) hne hnone] at row
  · rwa [State.appoint_other (s := s.counted) (new := namedManager a) hne hold] at row

end Sys2Proof.Machine
end

