-- ==== Sys2Proof/Proofs/Waits.lean ====
section
/-! PROOFS. The ends of what commands wait for (R217, R221, R237, R298, R299, R503, R529), and reads that return (R227). -/
namespace Sys2Proof.Machine

open Sys2Proof

/-! ### Held commands -/

/-- Where no command is held, or the service stands still, nothing goes on. -/
theorem State.goOn_rests {t : State} (h : t.cc.held = [] ∨ t.standsStill = true) : t.goOn = .next t := by
  cases hs : t.standsStill with
  | true => simp only [State.goOn, State.runHeld, hs, if_true]
  | false =>
    have hheld : t.cc.held = [] := h.resolve_right (by simp [hs])
    simp only [State.goOn, State.runHeld, hs, hheld, Bool.false_eq_true, if_false]

/-- A step that lets the held commands go on is that step alone where they rest. -/
theorem goesOn_of_exec {i : Instr} {s t : State} (h : exec i s = t.goOn) :
    exec i s = t.goOn ∧ ((t.cc.held = [] ∨ t.standsStill = true) → exec i s = .next t) :=
  ⟨h, fun hr => h.trans (State.goOn_rests hr)⟩

section
variable {s : State} (hal : s.alive = true)
include hal

theorem exec_resetPoint (f : Nat) : exec (.resetPoint f) s = (s.resetPoint f).settle.goOn := by
  simp only [exec, execResetPoint, hal, if_true]

theorem exec_generationHoldRelease (f : Nat) : exec (.generationHoldRelease f) s = (s.generationRelease f).goOn := by
  simp only [exec, execGenerationHoldRelease, hal, if_true]

theorem exec_revocationComplete (d id : Nat) : exec (.revocationComplete d id) s = (s.revocationDone d id).goOn := by
  simp only [exec, execRevocationComplete, hal, if_true]

theorem exec_revocationHoldRelease (d id : Nat) : exec (.revocationHoldRelease d id) s = (s.revocationRelease d id).goOn := by
  simp only [exec, execRevocationHoldRelease, hal, if_true]

theorem exec_lockstepTakeoverComplete (ht : s.cc.takeover.isSome = true) : exec .lockstepTakeoverComplete s = s.swapPairs.goOn := by
  simp only [exec, execLockstepTakeoverComplete, hal, ht, Bool.and_self, if_true]

theorem exec_standbySelftestComplete {w : Waiting} (hw : s.cc.waiting.find? (fun w => w.on == .activate) = some w) (pass : Bool) :
    exec (.standbySelftestComplete pass) s =
      (if pass then s.activated (activatedSlot w.instr) else s.activateFails (activatedSlot w.instr)).goOn := by
  simp only [exec, execStandbySelftestComplete, hw, hal, Bool.not_true, Bool.false_eq_true, if_false]

theorem exec_failedPairSelfTestComplete (hr : s.cc.reloading = true) (pass : Bool) :
    exec (.failedPairSelfTestComplete pass) s = .next { s with cc := { s.cc with reloading := false, standbyReady := pass } } := by
  simp only [exec, execFailedPairSelfTestComplete, hal, hr, Bool.and_self, if_true]

theorem exec_windowCacheSweep (client : Nat) :
    exec (.windowCacheSweep client) s =
      .next { s with wu := { s.wu with cache := (s.wu.cache.filter fun c => !(c.client == client && !s.fresh c.frame)).map fun c =>
        if c.client = client then { c with extents := c.extents.filter fun e => s.fresh e.2 } else c } } := by
  simp only [exec, execWindowCacheSweep, hal, if_true]

end

/-! ### Reset points, generations and revocations -/

section
variable {s : State}

theorem State.resetPoint_reached {f : Nat} {x : Fn} {r : ResetRec} (hx : s.fn? f = some x) (hr : x.resetRec = some r)
    (hat : s.atResetPoint f x r = true) : s.resetPoint f = s.endReset f x r := by
  simp only [State.resetPoint, hx, hr, hat, if_true]

/-- The value that a held change of generation completes with (R221, R243). -/
def Gen.next (g : Gen) : Nat := match g.goal with | some v => v | none => (g.gen + 1) % 256

/-- The last change that was held completes in a new frame, and what waited for it is answered (R221). -/
theorem State.generationRelease_last {f : Nat} (hheld : (s.genOf f).held = 1) (hframe : (s.genOf f).frame ≠ some s.frame) :
    let t : State := { s with gens := Tbl.put s.gens f { gen := (s.genOf f).next, frame := some s.frame, held := 0, goal := none } }
    s.generationRelease f = (t.answerOn (.create f) .OK 0 (t.createdReply f)).answerOn (.restore f) .OK 0 [] := by
  intro t
  have hrelease : s.releaseGen f = t := by
    rw [State.releaseGen, if_neg (by simp [hheld, hframe]), hheld]
    rfl
  have hlast : (t.genOf f).held = 0 := by simp [t, State.genOf, Tbl.getD]
  rw [State.generationRelease, hrelease, if_pos hlast]

/-- No command that waits for the window gets a turn where none waits. -/
theorem State.windowTurns_idle {d id : Nat} (hw : ∀ x ∈ s.cc.waiting, x.on ≠ .window d id) (hp : s.cc.pause = none) (n : Nat) :
    s.windowTurns d id n = s := by
  have hfind : s.cc.waiting.find? (fun w => w.on == .window d id) = none := by simpa using hw
  have hturn : s.takeTurn d id = none := by simp only [State.takeTurn, hfind, hp]
  cases n with
  | zero => rfl
  | succ n => simp only [State.windowTurns, hturn, ite_self]

/-- A revocation that is complete answers its command with the new generation (R298). -/
theorem State.revocationDone_revoke {d id : Nat} {r : Revocation} (hrs : s.wu.revocations = [r]) (hd : r.domain = d) (hid : r.id = id)
    (hheld : r.held = false) (hwhy : r.why = .revoke) :
    let t := ({ s with wu := { s.wu with revocations := [], lastNs := minN 8191 (s.ns - r.started) } } : State).setSlot d id
      { s.slot d id with revoked := some s.frame }
    let u := t.answerOn (.revoke d id) .OK 0 (le 1 (s.slot d id).gen)
    s.revocationDone d id = u.windowTurns d id u.cc.inProgress.length := by
  have hfind : s.wu.revocations.find? (fun r => r.domain == d && r.id == id && !r.held) = some r := by simp [hrs, hd, hid, hheld]
  simp only [State.revocationDone, hfind]
  simp only [hrs, hwhy, List.erase_cons_head, Inval.revokes, if_true]
  rfl

/-- A revocation held by its rate limit begins in a new frame (R299). -/
theorem State.revocationRelease_begins {d id : Nat} {r : Revocation} (hrs : s.wu.revocations = [r]) (hd : r.domain = d) (hid : r.id = id)
    (hheld : r.held = true) (hframe : (s.slot d id).revoked ≠ some s.frame) :
    s.revocationRelease d id = ({ s with wu := { s.wu with
      revocations := [{ r with held := false, started := s.ns }] } } : State).beginInval { r with held := false, started := s.ns } := by
  have hfind : s.wu.revocations.find? (fun r => r.domain == d && r.id == id && r.held) = some r := by simp [hrs, hd, hid, hheld]
  simp only [State.revocationRelease, hfind]
  rw [if_neg hframe]
  simp only [hrs, List.map_cons, List.map_nil, if_true]

end

/-! ### Reads that return -/

theorem State.readReturn_unknown {s : State} {tag : Nat} (h : Tbl.get? s.dma tag = none) (c : Completion) (busy : Bool) :
    s.readReturn tag c busy = .next s := by
  simp only [State.readReturn, h]

section
variable {s : State} {tag : Nat} {d : DmaRead} (hal : s.alive = true) (hd : Tbl.get? s.dma tag = some d) (hsent : d.sent = true)
include hal hd hsent

/-- Every read but those of a command packet or a blob is the block's own: the two hypotheses on the use rule out the other arms. -/
theorem State.readReturn_data (hblob : d.use ≠ .blob) (hpacket : ∀ k, d.use ≠ .packet k) (c : Completion) (busy : Bool) :
    s.readReturn tag c busy = .next (s.dataReturn tag d c busy) := by
  simp only [State.readReturn, hd, hal, hsent, Bool.not_true, Bool.or_self, Bool.false_eq_true, if_false]

section
variable (hblob : d.use = .blob)
include hblob

/-- A blob that comes back after the function's generation has passed fails its FUNCTION_RESTORE. -/
theorem State.readReturn_blob_stale (h : (s.endRead tag d).staleRead d = true) (c : Completion) (busy : Bool) :
    s.readReturn tag c busy = .next (((s.endRead tag d).tally (attBase d.att + 0x28)).blobRead d.offset (.error .refused 0)) := by
  simp only [State.readReturn, hd, hal, hsent, hblob, h, Bool.not_true, Bool.or_self, Bool.false_eq_true, if_false, if_true]

variable (h : (s.endRead tag d).staleRead d = false)
include h

theorem State.readReturn_blob_data (b : List Byte) (busy : Bool) :
    s.readReturn tag (.data b) busy = .next ((s.endRead tag d).blobRead d.offset (.data b)) := by
  simp only [State.readReturn, hd, hal, hsent, hblob, h, Bool.not_true, Bool.or_self, Bool.false_eq_true, if_false]

theorem State.readReturn_blob_error (e : HostErr) (off : Nat) (busy : Bool) :
    s.readReturn tag (.error e off) busy = .next (((s.endRead tag d).reportRead d.fn e).blobRead d.offset (.error e off)) := by
  simp only [State.readReturn, hd, hal, hsent, hblob, h, Bool.not_true, Bool.or_self, Bool.false_eq_true, if_false]

end

theorem State.readReturn_packet_stale {k : Nat} (hpacket : d.use = .packet k) (hstale : (s.endRead tag d).staleRead d = true)
    (c : Completion) (busy : Bool) : s.readReturn tag c busy = .next ((s.endRead tag d).tally (attBase d.att + 0x28)) := by
  simp only [State.readReturn, hd, hal, hsent, hpacket, hstale, Bool.not_true, Bool.or_self, Bool.false_eq_true, if_false, if_true]

end

section
variable {s : State} {tag : Nat} {d : DmaRead}

theorem State.dataReturn_index {r : Nat} (h : d.use = .index r) (c : Completion) (busy : Bool) :
    s.dataReturn tag d c busy = (s.indexReturn tag r d c).afterIndex d.fn := by
  simp only [State.dataReturn, h]

theorem State.dataReturn_descriptors {r first count : Nat} (h : d.use = .descriptors r first count) (c : Completion) (busy : Bool) :
    s.dataReturn tag d c busy = s.descReturn tag r first count d c := by
  simp only [State.dataReturn, h]

section
variable (hidx : ∀ r, d.use ≠ .index r) (hdesc : ∀ r a b, d.use ≠ .descriptors r a b)
include hidx hdesc

/-- What is stale is only counted, unless it concerns a context of the store (R227, R235). -/
theorem State.dataReturn_stale (h : (s.endRead tag d).staleData d = true) (c : Completion) (busy : Bool) :
    s.dataReturn tag d c busy = (s.endRead tag d).tally (attBase d.att + 0x28) := by
  simp only [State.dataReturn, h, if_true]

variable (h : (s.endRead tag d).staleData d = false)
include h

/-- Data that does not concern a ring goes to its use. -/
theorem State.dataReturn_data (b : List Byte) (busy : Bool) :
    s.dataReturn tag d (.data b) busy = ((s.endRead tag d).readDone tag d b busy).settle := by
  simp only [State.dataReturn, h, Bool.false_eq_true, if_false]

theorem State.dataReturn_error (e : HostErr) (off : Nat) (busy : Bool) :
    s.dataReturn tag d (.error e off) busy = ((s.endRead tag d).readFails d e off).settle := by
  simp only [State.dataReturn, h, Bool.false_eq_true, if_false]

end

theorem State.descReturn_stale {r first count : Nat} (h : (s.endRead tag d).staleRead d = true) (c : Completion) :
    s.descReturn tag r first count d c = (s.endRead tag d).tally (attBase d.att + 0x28) := by
  simp only [State.descReturn, h, if_true]

theorem State.descReturn_data {r first count : Nat} (h : (s.endRead tag d).staleRead d = false) (b : List Byte) :
    s.descReturn tag r first count d (.data b) = (s.endRead tag d).acceptAll d.fn r first count b := by
  simp only [State.descReturn, h, Bool.false_eq_true, if_false]

theorem State.descReturn_error {r first count : Nat} (h : (s.endRead tag d).staleRead d = false) (e : HostErr) (off : Nat) :
    s.descReturn tag r first count d (.error e off) =
      ((s.endRead tag d).reportRead d.fn e).fetchFailed d.fn r true fun s => s.dmaRead d.fn d.addr d.len d.use none 0 := by
  simp only [State.descReturn, h, Bool.false_eq_true, if_false]

end

/-- A completion timeout returns to the read as the error `timeout`: what holds of every completion holds of it. -/
theorem forall_returns {s : State} {tag : Nat} {t : State} (h : ∀ c busy, s.readReturn tag c busy = .next t) (c : Completion) (busy : Bool) :
    exec (.dmaReadCompletion tag c busy) s = .next t ∧ exec (.completionTimeout tag) s = .next t :=
  ⟨h c busy, h (.error .timeout 0) false⟩

/-- Settles O50: the lemma of each end and of each use of a read. -/
theorem waitsAndCompletions : Obligations.WaitsAndCompletions := by
  refine ⟨fun s hal => ⟨fun f => goesOn_of_exec (exec_resetPoint hal f), fun f x r => State.resetPoint_reached,
      fun f => State.generationRelease_last, fun f => goesOn_of_exec (exec_generationHoldRelease hal f),
      fun d id => goesOn_of_exec (exec_revocationComplete hal d id), fun d id r hrs hd hid hheld hwhy hw hp => ?_,
      fun d id => goesOn_of_exec (exec_revocationHoldRelease hal d id), fun d id r => State.revocationRelease_begins,
      fun ht => goesOn_of_exec (exec_lockstepTakeoverComplete hal ht),
      fun pass w hw => goesOn_of_exec (exec_standbySelftestComplete hal hw pass),
      fun pass hr => exec_failedPairSelfTestComplete hal hr pass, exec_windowCacheSweep hal⟩,
    fun s tag => ⟨fun c busy h => forall_returns (State.readReturn_unknown h) c busy, fun d hal hd hsent => ?_⟩⟩
  · exact (State.revocationDone_revoke hrs hd hid hheld hwhy).trans (State.windowTurns_idle hw hp _)
  · intro t stale
    refine ⟨fun hblob hpacket hidx hdesc => ?_, fun r hr c busy => ?_, fun r first count hr => ?_, fun hblob => ?_,
      fun k hk hstale c busy => State.readReturn_packet_stale hal hd hsent hk hstale c busy⟩
    · have row := State.readReturn_data hal hd hsent hblob hpacket
      refine ⟨fun hstale => forall_returns fun c busy => (row c busy).trans (by rw [State.dataReturn_stale hidx hdesc hstale]),
        fun hfresh => ⟨fun b busy => (row (.data b) busy).trans (by rw [State.dataReturn_data hidx hdesc hfresh]),
          fun e off busy => (row (.error e off) busy).trans (by rw [State.dataReturn_error hidx hdesc hfresh]),
          (row (.error .timeout 0) false).trans (by rw [State.dataReturn_error hidx hdesc hfresh])⟩⟩
    · have row := fun c busy => (State.readReturn_data hal hd hsent (by simp [hr]) (by simp [hr]) c busy).trans
        (congrArg _ (State.dataReturn_index hr c busy))
      exact ⟨row c busy, row (.error .timeout 0) false⟩
    · have row := fun c busy => (State.readReturn_data hal hd hsent (by simp [hr]) (by simp [hr]) c busy).trans
        (congrArg _ (State.dataReturn_descriptors hr c busy))
      refine ⟨fun hstale => forall_returns fun c busy => (row c busy).trans (by rw [State.descReturn_stale hstale]), fun hfresh => ?_⟩
      exact ⟨fun b busy => (row (.data b) busy).trans (by rw [State.descReturn_data hfresh]),
        fun e off busy => (row (.error e off) busy).trans (by rw [State.descReturn_error hfresh]),
        (row (.error .timeout 0) false).trans (by rw [State.descReturn_error hfresh])⟩
    · exact ⟨State.readReturn_blob_stale hal hd hsent hblob, fun hfresh => ⟨State.readReturn_blob_data hal hd hsent hblob hfresh,
        State.readReturn_blob_error hal hd hsent hblob hfresh⟩⟩

end Sys2Proof.Machine
end

