-- ==== Sys2Proof/Proofs/HostEvents.lean ====
section
/-! PROOFS. What hosts do to their ports and functions (R210, R214, R216, R240, R247), the end of a freeze (R241), ATS (R228), vectors (R226)
and errors (R224, R227, R250). -/
namespace Sys2Proof.Machine

open Sys2Proof

/-! ### Resets from the host -/

/-- The host ports work only in a device that runs. -/
theorem State.running_of_hosts {s : State} (h : s.hosts = true) : s.running = true := by
  simp only [State.hosts, Bool.and_eq_true] at h
  exact h.2

/-- A reset from the host ends in READY and takes the function's translations out of the cache of its attachment (R228, R240). -/
theorem State.hostResetFn_eq {s : State} {f : Nat} {y : Fn} (hy : ((s.beginReset f true .READY).modFn f Fn.flr).fn? f = some y) :
    s.hostResetFn f = ((s.beginReset f true .READY).modFn f Fn.flr).setAtt y.att
      { ((s.beginReset f true .READY).modFn f Fn.flr).att y.att with
        ats := (((s.beginReset f true .READY).modFn f Fn.flr).att y.att).ats.filter fun e => e.fn != f } := by
  simp only [State.hostResetFn, hy]

/-- The state in which the link of an attachment that came up is trained: PERST# of its host port is over. -/
def State.linkBack (s : State) (a speed width : Nat) (flit : Bool) : State :=
  (s.setHostPort (a / 2) { s.hostPort (a / 2) with perst := false }).linkTrained a speed width flit

section
variable {s : State} (hh : s.hosts = true)
include hh

theorem exec_flrVf {f : Nat} {x : Fn} (hx : s.fn? f = some x) (hvf : x.vf ≠ 0) :
    exec (.flrVf f) s = .next ((s.hostResetFn f).hostResetEvent f 0) := by
  simp only [exec, execFlrVf, hx]
  exact if_pos ⟨hh, hvf⟩

theorem exec_flrPf {a : Nat} (ha : (s.fn? a).isSome = true) :
    exec (.flrPf a) s = .next (((s.clearVfs a).hostResetFn a).hostResetEvent a 1) :=
  if_pos ⟨hh, ha⟩

theorem exec_vfEnableClear {a : Nat} (ha : (s.att a).vfEnable = true) :
    exec (.vfEnableClear a) s = .next ((s.clearVfs a).hostResetEvent a 2) :=
  congrArg Host.Outcome.next (if_pos ⟨hh, ha⟩)

/-- A running function whose bus mastering is cleared halts with cause BUS_MASTER (R240). -/
theorem exec_busMasterEnableClear_running {f : Nat} {x : Fn} (hx : s.fn? f = some x) (hb : x.busMaster = true) (hst : x.state = .RUNNING) :
    exec (.busMasterEnableClear f) s =
      .next (((s.setFn f { x with busMaster := false }).haltFn f 3).hostResetEvent f 3) := by
  simp only [exec, execBusMasterEnableClear, State.busMasterClear, hx, hh, hb, hst, and_self, if_true]

theorem exec_busMasterEnableClear_resting {f : Nat} {x : Fn} (hx : s.fn? f = some x) (hb : x.busMaster = true) (hst : x.state ≠ .RUNNING) :
    exec (.busMasterEnableClear f) s = .next (s.setFn f { x with busMaster := false }) := by
  simp only [exec, execBusMasterEnableClear, State.busMasterClear, hx, hh, hb, hst, and_self, if_true, if_false]

/-! ### Host ports and their links -/

theorem exec_perstAssert {p : Nat} (hp : s.hasHostPort p = true) : exec (.perstAssert p) s = .next (s.perst p) :=
  if_pos ⟨State.running_of_hosts hh, hp⟩

theorem exec_pcieLinkDown {a : Nat} (ha : s.assigned a = true) (hst : (s.att a).state ≠ .DOWN) :
    exec (.pcieLinkDown a) s = .next (((s.evidence (attBase a + 0x44)).raise 0x081 none (a / 2)).linkLost a) :=
  if_pos ⟨State.running_of_hosts hh, ha, hst⟩

theorem exec_pcieLinkUp {a speed width : Nat} {flit : Bool} (ha : s.assigned a = true) (hd : (s.hostPort (a / 2)).degraded = false) :
    exec (.pcieLinkUp a speed width flit) s =
      .next (if (s.linkBack a speed width flit).served ∧ linkCarries speed width then (s.linkBack a speed width flit).addPf a
        else s.linkBack a speed width flit) :=
  if_pos ⟨hh, ha, by simp [hd]⟩

theorem exec_hostLinkRetrainSlow {a speed width : Nat} {flit : Bool} (ha : s.assigned a = true) (hst : (s.att a).state ≠ .DOWN)
    (hslow : linkCarries speed width = false) : exec (.hostLinkRetrainSlow a speed width flit) s = .next (s.linkTrained a speed width flit) :=
  if_pos ⟨hh, ha, hst, by simp [hslow]⟩

end

section
variable {s : State} {a speed width : Nat} {flit : Bool}

theorem State.linkTrained_carries (h : linkCarries speed width = true) :
    s.linkTrained a speed width flit =
      (s.setAtt a { s.att a with state := .UP, speed := speed, width := width, flit := flit }).rebalance := by
  simp [State.linkTrained, h]

/-- Below the limit of R210 the running functions of the attachment halt with cause HOST_LINK. -/
theorem State.linkTrained_slow (h : linkCarries speed width = false) :
    s.linkTrained a speed width flit = ((State.fnsOf
      (s.setAtt a { s.att a with state := .SLOW, speed := speed, width := width, flit := flit }) a).foldl (fun s f => s.haltFn f 4)
        ((s.setAtt a { s.att a with state := .SLOW, speed := speed, width := width, flit := flit }).raise 0x080 none a)).rebalance := by
  simp [State.linkTrained, h]

end

/-! ### The end of a freeze -/

theorem exec_freezeDrained {s : State} {f : Nat} {x : Fn} (hx : s.fn? f = some x) (hst : x.state = .FREEZING) (hw : s.workOf f x = false) :
    exec (.freezeDrained f) s =
      .next ((s.setFn f { x with state := .FROZEN, freeze := none, freezeTime := s.ns, freezeGen := s.gen f }).answerOn (.freeze f)
        .OK 0 []) := by
  simp only [exec, execFreezeDrained, hx]
  exact if_pos ⟨hst, by simp [hw]⟩

theorem exec_freezeLimitExpiry {s : State} {f d : Nat} {x : Fn} (hx : s.fn? f = some x) (hst : x.state = .FREEZING) (hd : x.freeze = some d)
    (hdue : d ≤ s.ns) : exec (.freezeLimitExpiry f) s = .next ((s.runAgain f).answerOn (.freeze f) .TIMEOUT 0 []) := by
  simp only [exec, execFreezeLimitExpiry, hx, hst, hd]
  exact if_pos hdue

/-! ### Translations, vectors and errors -/

/-- In HALT every read completes with Completer Abort (R250). -/
theorem exec_badRegisterAccess_halt {s : State} {f : Nat} {x : Fn} (hx : s.fn? f = some x) (hm : s.rst.mode = .HALT) :
    exec (.badRegisterAccess f true) s = .next (s.emit (.completerAbort f)) := by
  have hnot : s.hosts = false := by simp [State.hosts, State.alive, hm]
  simp [exec, execBadRegisterAccess, hx, hnot, hm]

section
variable {s : State} (hh : s.hosts = true)
include hh

theorem exec_atsInvalidate {a address length : Nat} (ha : s.assigned a = true) :
    exec (.atsInvalidate a address length) s = .next (s.atsInvalidate a address length) :=
  if_pos ⟨hh, ha⟩

theorem exec_badRegisterAccess {f : Nat} {x : Fn} (hx : s.fn? f = some x) (isRead : Bool) :
    exec (.badRegisterAccess f isRead) s =
      .next (if isRead then ((s.evidence (attBase x.att + 0x38)).logAbort f).emit (.completerAbort f)
        else (s.evidence (attBase x.att + 0x38)).logAbort f) := by
  simp only [exec, execBadRegisterAccess, hx, hh, if_true]

theorem exec_pcieCorrectableError {a : Nat} (ha : s.assigned a = true) :
    exec (.pcieCorrectableError a) s = .next ((s.tally (attBase a + 0x20)).emit (.aer a .correctable)) :=
  if_pos ⟨hh, ha⟩

theorem exec_msixUnmask {f v : Nat} {x : Fn} (hx : s.fn? f = some x) (hv : v < x.tableSize) :
    exec (.msixUnmask f v) s = .next (s.unmask f v) := by
  simp only [exec, execMsixUnmask, hx]
  exact if_pos ⟨hh, hv⟩

end

/-- The function's record once a vector is unmasked, its message pending or not. -/
def Fn.unmasked (x : Fn) (v : Nat) (pending : Bool) : Fn :=
  { x with msix := Tbl.put x.msix v { Tbl.getD x.msix v Vector.initial with masked := false, pending := pending } }

section
variable {s : State} {f v : Nat} {x : Fn} (hx : s.fn? f = some x)
include hx

/-- A message that pends is sent where messages go out. -/
theorem State.unmask_sends (hp : (Tbl.getD x.msix v Vector.initial).pending = true) (hm : x.msixMask = false) (he : x.msixEnable = true)
    (hi : s.mayIssue x.att = true) :
    s.unmask f v = (s.setFn f (x.unmasked v false)).emit
      (.msix f v (Tbl.getD x.msix v Vector.initial).addr (Tbl.getD x.msix v Vector.initial).data) := by
  simp [State.unmask, Fn.unmasked, hx, hp, hm, he, hi]

/-- Elsewhere it goes on pending. -/
theorem State.unmask_keeps (hp : (Tbl.getD x.msix v Vector.initial).pending = true)
    (hno : x.msixMask = true ∨ x.msixEnable = false ∨ s.mayIssue x.att = false) :
    s.unmask f v = s.setFn f (x.unmasked v true) := by
  have hsend : (!x.msixMask && x.msixEnable && s.mayIssue x.att) = false := by
    rcases hno with h | h | h <;> simp [h]
  simp only [State.unmask, Fn.unmasked, hx, hp, Bool.true_and, hsend]
  rfl

theorem State.unmask_idle (hp : (Tbl.getD x.msix v Vector.initial).pending = false) : s.unmask f v = s.setFn f (x.unmasked v false) := by
  simp [State.unmask, Fn.unmasked, hx, hp]

end

/-- Settles O51: the lemma of each event. -/
theorem hostPortEvents : Obligations.HostPortEvents := by
  refine ⟨fun s hh => ⟨fun f x hx hvf => exec_flrVf hh hx hvf, fun f x y _ => State.hostResetFn_eq, fun a => rfl, fun a => exec_flrPf hh,
      fun a => exec_vfEnableClear hh, fun f x => exec_busMasterEnableClear_running hh, fun f x => exec_busMasterEnableClear_resting hh,
      fun p => exec_perstAssert hh, fun a => exec_pcieLinkDown hh, fun s a => rfl, fun s a _ _ _ => State.linkTrained_carries,
      fun s a _ _ _ => State.linkTrained_slow,
      fun a speed width flit ha => ⟨fun hd => ⟨fun hc hs => ?_, fun hno => ?_⟩, fun hst hslow => exec_hostLinkRetrainSlow hh ha hst hslow⟩⟩,
    fun s => ⟨fun f x => exec_freezeDrained, fun f x d => exec_freezeLimitExpiry, fun f x => exec_badRegisterAccess_halt,
      fun hh => ⟨fun a address length => exec_atsInvalidate hh, fun f x v hx hv => ⟨fun hp hm he hi => ?_, fun hp hno => ?_, fun hp => ?_⟩,
        fun f x hx => ⟨exec_badRegisterAccess hh hx false, exec_badRegisterAccess hh hx true⟩, fun a => exec_pcieCorrectableError hh⟩⟩⟩
  · exact (exec_pcieLinkUp hh ha hd).trans (by rw [if_pos ⟨hs, hc⟩]; rfl)
  · have hnot : ¬ ((s.linkBack a speed width flit).served = true ∧ linkCarries speed width = true) := fun ⟨hs, hc⟩ =>
      hno.elim (by simp [hc]) fun h => Bool.noConfusion (hs.symm.trans h)
    exact (exec_pcieLinkUp hh ha hd).trans (by rw [if_neg hnot]; rfl)
  · rw [exec_msixUnmask hh hx hv, State.unmask_sends hx hp hm he hi]; rfl
  · rw [exec_msixUnmask hh hx hv, State.unmask_keeps hx hp hno]; rfl
  · rw [exec_msixUnmask hh hx hv, State.unmask_idle hx hp]; rfl

end Sys2Proof.Machine
end

