-- ==== Sys2Proof/Proofs/Rings.lean ====
section
/-! PROOFS. Doorbells (R233, R241, R261, R263), setup actions (R252 to R257, R278) and the block's own reads of a ring (R262, R277). -/
namespace Sys2Proof.Machine

open Sys2Proof

/-! ### Doorbells -/

section
variable {s : State} {f : Nat} {x : Fn} (hal : s.alive = true) (hx : s.fn? f = some x)
include hal hx

theorem exec_doorbell_dropped {v : Nat}
    (h : x.state = .READY ∨ x.state = .RESETTING ∨ x.state = .HALTED ∨ 16384 ≤ v ∨ s.ring? f v = none) :
    exec (.doorbell f v) s = .next (s.dropBell x) := by
  simp only [exec, execDoorbell, hal, hx]
  by_cases hdrop : x.state = .READY ∨ x.state = .RESETTING ∨ x.state = .HALTED ∨ v / 16384 ≠ 0
  · rw [if_pos hdrop]
  · obtain ⟨h1, h2, h3, h4⟩ : x.state ≠ .READY ∧ x.state ≠ .RESETTING ∧ x.state ≠ .HALTED ∧ v / 16384 = 0 := by simpa using hdrop
    have hv : ¬ 16384 ≤ v := by omega
    have hnone : s.ring? f v = none := (((h.resolve_left h1).resolve_left h2).resolve_left h3).resolve_left hv
    rw [if_neg hdrop, hnone]

section
variable {r : Nat} {g : Ring} (hg : s.ring? f r = some g) (hr : r < 16384)
include hg hr

/-- The doorbell of a ring in a function that takes it: a ring that is FROZEN or that the device writes drops it (R263). -/
theorem exec_doorbell_ring (hst : x.state = .RUNNING ∨ x.state = .FREEZING ∨ x.state = .FROZEN) :
    exec (.doorbell f r) s = .next (if g.state = .FROZEN ∨ g.kind = 1 ∨ g.kind = 2 then s.dropBell x else s.ringBell f x r g) := by
  have hv : r / 16384 = 0 := Nat.div_eq_of_lt hr
  have htakes : ¬ (x.state = .READY ∨ x.state = .RESETTING ∨ x.state = .HALTED ∨ r / 16384 ≠ 0) := by
    rcases hst with e | e | e <;> simp [e, hv]
  simp only [exec, execDoorbell, hal, hx]
  rw [if_neg htakes]
  simp only [hg]
  exact (apply_ite Host.Outcome.next _ _ _).symm

theorem exec_doorbell_rings (hst : x.state = .RUNNING ∨ x.state = .FREEZING ∨ x.state = .FROZEN) (hf : g.state ≠ .FROZEN)
    (hk : g.kind = 0 ∨ g.kind = 3) : exec (.doorbell f r) s = .next (s.ringBell f x r g) := by
  have hrings : ¬ (g.state = .FROZEN ∨ g.kind = 1 ∨ g.kind = 2) := by simp only [hf, false_or]; omega
  rw [exec_doorbell_ring hal hx hg hr hst, if_neg hrings]

end

end

section
variable {s : State} {f r : Nat} {x : Fn} {g : Ring}

/-- A function that freezes, or is FROZEN, records its doorbells (R241). -/
theorem State.ringBell_frozen (h : x.state = .FREEZING ∨ x.state = .FROZEN) : s.ringBell f x r g = s.recordBell f x r := if_pos h

/-- In SERVICE a doorbell has the index read again, and one for a ring that waits is noted (R261, R263). -/
theorem State.ringBell_service (hst : x.state = .RUNNING) (hm : s.rst.mode = .SERVICE) :
    s.ringBell f x r g = if g.state = .WAITING then s.setRing f r { g with bell := true } else s.readIndex f r := by
  simp [State.ringBell, hst, hm]

end

/-! ### Setup actions -/

section
variable {s : State} {f : Nat} {x : Fn} (hal : s.alive = true) (hx : s.fn? f = some x)
include hal hx

theorem State.setupAct_ignored (h : x.setup.isSome = true) (k : Fn → State) : s.setupAct f k = s := by
  simp only [State.setupAct, hal, hx, h, if_true]

section
variable (hs : x.setup = none)
include hs

theorem State.setupAct_refused (h : x.state ≠ .RUNNING) (k : Fn → State) : s.setupAct f k = s.setupEnd f .BUSY := by
  simp [State.setupAct, hal, hx, hs, h]

variable (hrun : x.state = .RUNNING)
include hrun

theorem State.setupAct_runs (k : Fn → State) : s.setupAct f k = k x := by
  simp [State.setupAct, hal, hx, hs, hrun]

/-- A setup action of a RUNNING function none of whose actions is in progress: what it does. -/
theorem exec_setup {i : Instr} {k : Fn → State} {t : State} (hex : exec i s = .next (s.setupAct f k)) (hk : k x = t) :
    exec i s = .next t := by
  rw [hex, State.setupAct_runs hal hx hs hrun, hk]

theorem exec_ringCreate (r : Nat) :
    (x.setupAddr % 64 = 0 → exec (.ringCreate f r) s = .next
      ((s.setFn f { x with setup := some { action := 1, target := r, tag := s.nextDma } }).dmaRead f x.setupAddr 64 .setup none 0)) ∧
    (x.setupAddr % 64 ≠ 0 → exec (.ringCreate f r) s = .next (s.setupEnd f .BAD_PARAM)) :=
  ⟨fun h => exec_setup hal hx hs hrun rfl (if_neg (fun hne => hne h)), fun h => exec_setup hal hx hs hrun rfl (if_pos h)⟩

section
variable {r : Nat} {g : Ring}

theorem exec_ringDestroy_missing (hg : Tbl.get? x.rings r = none) : exec (.ringDestroy f r) s = .next (s.setupEnd f .NOT_FOUND) :=
  exec_setup hal hx hs hrun rfl (by simp only [hg])

/-- A ring is destroyed with its routes and recorded doorbells, and no further access is made to it (R256). -/
theorem exec_ringDestroy (hg : Tbl.get? x.rings r = some g) (he : g.entries = []) (hw : g.state ≠ .WAITING)
    (hk : g.kind = 2 → x.rings.length ≤ 1) :
    exec (.ringDestroy f r) s = .next (((s.setFn f { x with
      rings := Tbl.del x.rings r, routes := x.routes.filter (fun q => q.2 != r),
      bells := x.bells.filter (· != r) }).dropRingReads f r).setupEnd f .OK) := by
  have hfree : ¬ (g.entries ≠ [] ∨ g.state = .WAITING ∨ (g.kind = 2 ∧ 1 < x.rings.length)) := by
    simp only [he, hw, ne_eq, not_true_eq_false, false_or, not_and, Nat.not_lt]
    exact hk
  exact exec_setup hal hx hs hrun rfl (by simp only [hg, if_neg hfree])

theorem exec_ringDestroy_busy (hg : Tbl.get? x.rings r = some g)
    (hb : g.entries ≠ [] ∨ g.state = .WAITING ∨ (g.kind = 2 ∧ 1 < x.rings.length)) :
    exec (.ringDestroy f r) s = .next (s.setupEnd f .BUSY) :=
  exec_setup hal hx hs hrun rfl (by simp only [hg, if_pos hb])

theorem exec_ringQuery_missing (hg : Tbl.get? x.rings r = none) :
    exec (.ringQuery f r) s = .next ((s.setFn f { x with setupState := 0, setupCause := 0 }).setupEnd f .NOT_FOUND) :=
  exec_setup hal hx hs hrun rfl (by simp only [hg])

theorem exec_ringQuery (hg : Tbl.get? x.rings r = some g) :
    exec (.ringQuery f r) s =
      .next ((s.setFn f { x with setupState := ringStateCode g.state, setupCause := g.cause }).setupEnd f .OK) :=
  exec_setup hal hx hs hrun rfl (by simp only [hg])

end

section
variable {k : Nat}

theorem exec_counterAlloc (hk : k ≤ 4095) (ha : x.setupAddr % 8 = 0) :
    exec (.counterAlloc f k) s = .next (if Tbl.has x.counters k then s.setupEnd f .EXISTS
      else if 65536 ≤ s.countersUsed then s.setupEnd f .CAPACITY
      else (s.setFn f { x with counters := Tbl.put x.counters k { value := 0, broken := false, mirror := x.setupAddr } }).setupEnd
        f .OK) :=
  exec_setup hal hx hs hrun rfl (if_neg (by simp [hk, ha]))

theorem exec_counterAlloc_bad (h : 4095 < k ∨ x.setupAddr % 8 ≠ 0) : exec (.counterAlloc f k) s = .next (s.setupEnd f .BAD_PARAM) :=
  exec_setup hal hx hs hrun rfl (if_pos h)

theorem exec_counterFree (hk : k ≤ 4095) :
    exec (.counterFree f k) s = .next (if Tbl.has x.counters k then
        (s.setFn f { x with counters := Tbl.del x.counters k }).setupEnd f .OK
      else s.setupEnd f .NOT_FOUND) :=
  exec_setup hal hx hs hrun rfl (if_neg (Nat.not_lt.mpr hk))

theorem exec_counterFree_bad (hk : 4095 < k) : exec (.counterFree f k) s = .next (s.setupEnd f .BAD_PARAM) :=
  exec_setup hal hx hs hrun rfl (if_pos hk)

/-- COUNTER_SET gives the counter the value in PE_COUNTER_VALUE, unbroken, and WAITs on it see it (R278). -/
theorem exec_counterSet {v : Counter} (hk : k ≤ 4095) (hv : Tbl.get? x.counters k = some v) :
    exec (.counterSet f k) s =
      .next ((s.writeCounter f k { v with value := x.counterValue, broken := false }).setupEnd f .OK).settle :=
  exec_setup hal hx hs hrun rfl (by simp only [Nat.not_lt.mpr hk, if_false, hv])

theorem exec_counterSet_missing (hk : k ≤ 4095) (hv : Tbl.get? x.counters k = none) :
    exec (.counterSet f k) s = .next (s.setupEnd f .NOT_FOUND) :=
  exec_setup hal hx hs hrun rfl (by simp only [Nat.not_lt.mpr hk, if_false, hv])

theorem exec_counterSet_bad (hk : 4095 < k) : exec (.counterSet f k) s = .next (s.setupEnd f .BAD_PARAM) :=
  exec_setup hal hx hs hrun rfl (if_pos hk)

end

end

end

/-! ### Reads of a ring -/

/-- Is a read one of the descriptors of ring r? -/
def DmaUse.fetches (r : Nat) : DmaUse → Bool
  | .descriptors q _ _ => q == r
  | _ => false

section
variable {s : State} {f r tag : Nat} {d : DmaRead} (hal : s.alive = true)
include hal

theorem exec_descriptorFetchReturn {first count : Nat} (hread : s.readFor f (DmaUse.fetches r) = some (tag, d))
    (hu : d.use = .descriptors r first count) (c : Completion) :
    exec (.descriptorFetchReturn f r c) s = .next (s.descReturn tag r first count d c) := by
  calc exec (.descriptorFetchReturn f r c) s
      = match s.alive, s.readFor f (DmaUse.fetches r) with
        | true, some (tag, d) =>
          (match d.use with
           | .descriptors _ first count => .next (s.descReturn tag r first count d c)
           | _ => .next s)
        | _, _ => .next s := rfl
    _ = .next (s.descReturn tag r first count d c) := by simp only [hal, hread, hu]

theorem exec_producerIndexReadReturn (hread : s.readFor f (fun u => u == .index r) = some (tag, d)) (c : Completion) :
    exec (.producerIndexReadReturn f r c) s = .next ((s.indexReturn tag r d c).afterIndex f) := by
  simp only [exec, execProducerIndexReadReturn, hal, hread]

end

section
variable {s : State} {tag r : Nat} {d : DmaRead}

theorem State.indexReturn_stale (h : (s.endRead tag d).staleRead d = true) (c : Completion) :
    s.indexReturn tag r d c = (s.endRead tag d).tally (attBase d.att + 0x28) := by
  simp only [State.indexReturn, h, if_true]

theorem State.indexReturn_data (h : (s.endRead tag d).staleRead d = false) (b : List Byte) :
    s.indexReturn tag r d (.data b) = (s.endRead tag d).indexRead d.fn r (rd b 0 4) := by
  simp only [State.indexReturn, h, Bool.false_eq_true, if_false]

theorem State.indexReturn_error (h : (s.endRead tag d).staleRead d = false) (e : HostErr) (off : Nat) :
    s.indexReturn tag r d (.error e off) =
      ((s.endRead tag d).reportRead d.fn e).fetchFailed d.fn r false fun s => s.dmaRead d.fn d.addr 4 (.index r) none 0 := by
  simp only [State.indexReturn, h, Bool.false_eq_true, if_false]

end

section
variable {s : State} {f r : Nat} {g : Ring} (hg : s.ring? f r = some g) (again : State → State)
include hg

/-- The first failed read of descriptors is made again (R277). -/
theorem State.fetchFailed_desc_first (h : g.retriedDesc = false) :
    s.fetchFailed f r true again = again (s.setRing f r { g with retriedDesc := true }) := by
  simp [State.fetchFailed, hg, h]

/-- The first failed read of an index block is made again (R277). -/
theorem State.fetchFailed_index_first (h : g.retried = false) :
    s.fetchFailed f r false again = again (s.setRing f r { g with retried := true }) := by
  simp [State.fetchFailed, hg, h]

variable (hheld : g.held = []) (hst : g.state ≠ .FROZEN)
include hheld hst

/-- The second in a row freezes the ring with cause FETCH; a ring that holds no records loses none (R272, R277). -/
theorem State.fetchFailed_desc_second (h : g.retriedDesc = true) :
    s.fetchFailed f r true again =
      (s.setRing f r { g with fetching := none, state := .FROZEN, cause := 2 }).raise 0x0C0 (some f) r := by
  simp [State.fetchFailed, State.loseHeld, hg, h, hheld, hst]

theorem State.fetchFailed_index_second (h : g.retried = true) :
    s.fetchFailed f r false again =
      (s.setRing f r { g with reading := false, again := false, state := .FROZEN, cause := 2 }).raise 0x0C0 (some f) r := by
  simp [State.fetchFailed, State.loseHeld, hg, h, hheld, hst]

end

/-- Settles O53: the lemma of each doorbell by the states of function and ring, of each setup action, and of each return of a read. -/
theorem ringsServed : Obligations.RingsServed := by
  refine ⟨fun s f x hal hx => ⟨fun v h => exec_doorbell_dropped hal hx h, fun r g hg hr hst hf hk => ?_, fun hrun => ?_, fun r => ?_,
      fun hs hrun => ⟨exec_ringCreate hal hx hs hrun, fun r hg => ⟨exec_ringDestroy_missing hal hx hs hrun hg, exec_ringQuery_missing hal hx hs hrun hg⟩,
        fun r g hg => ⟨exec_ringDestroy hal hx hs hrun hg, exec_ringDestroy_busy hal hx hs hrun hg, exec_ringQuery hal hx hs hrun hg⟩,
        fun k hk ha => ?_, fun k => exec_counterAlloc_bad hal hx hs hrun, fun k v hk hv => ?_, fun k hk hv => ?_,
        fun k hk => ⟨exec_counterFree_bad hal hx hs hrun hk, exec_counterSet_bad hal hx hs hrun hk⟩⟩⟩,
    fun s f r tag d hal hf => ?_⟩
  · rw [exec_doorbell_rings hal hx hg hr (Or.inr hst) hf hk, State.ringBell_frozen hst]; rfl
  · refine ⟨fun r g hg hact hk hr hm => ?_, fun r g hg hwait hk hr hm => ?_, fun r g hg hno hr => ?_⟩
    · rw [exec_doorbell_rings hal hx hg hr (Or.inl hrun) (by simp [hact]) hk, State.ringBell_service hrun hm, if_neg (by simp [hact])]
    · rw [exec_doorbell_rings hal hx hg hr (Or.inl hrun) (by simp [hwait]) hk, State.ringBell_service hrun hm, if_pos hwait]
    · rw [exec_doorbell_ring hal hx hg hr (Or.inl hrun), if_pos hno]; rfl
  · refine ⟨fun hs => ?_, fun hs hst => ?_⟩
    · have row := fun k => congrArg (Host.Outcome.next (φ := Fault) (ρ := Refusal)) (State.setupAct_ignored hal hx hs k)
      exact ⟨row _, row _, row _, row _, row _, row _⟩
    · have row := fun k => congrArg (Host.Outcome.next (φ := Fault) (ρ := Refusal)) (State.setupAct_refused hal hx hs hst k)
      exact ⟨row _, row _, row _, row _, row _, row _⟩
  · have row := exec_counterAlloc hal hx hs hrun hk ha
    refine ⟨fun hnew hroom => ?_, fun hnew hfull => ?_, fun hthere => ?_⟩
    · rw [row, if_neg (by simp [Tbl.has, hnew]), if_neg (Nat.not_le.mpr hroom)]
    · rw [row, if_neg (by simp [Tbl.has, hnew]), if_pos hfull]
    · rw [row, if_pos (show Tbl.has x.counters k = true from hthere)]
  · refine ⟨?_, exec_counterSet hal hx hs hrun hk hv⟩
    rw [exec_counterFree hal hx hs hrun hk, if_pos (by simp [Tbl.has, hv])]
  · refine ⟨?_, exec_counterSet_missing hal hx hs hrun hk hv⟩
    rw [exec_counterFree hal hx hs hrun hk, if_neg (by simp [Tbl.has, hv])]
  · subst hf
    refine ⟨fun first count hu hread => ?_, fun hu hread => ?_⟩
    · have row := exec_descriptorFetchReturn hal hread hu
      refine ⟨fun hstale c => (row c).trans (by rw [State.descReturn_stale hstale]), fun hfresh => ⟨fun bs => ?_, fun e n g hg h => ?_,
        fun e n g hg h hheld hst => ?_⟩⟩
      · rw [row, State.descReturn_data hfresh]
      · rw [row, State.descReturn_error hfresh, State.fetchFailed_desc_first hg _ h]
      · rw [row, State.descReturn_error hfresh, State.fetchFailed_desc_second hg _ hheld hst h]
    · have row := exec_producerIndexReadReturn hal hread
      refine ⟨fun hstale c => (row c).trans (by rw [State.indexReturn_stale hstale]), fun hfresh => ⟨fun bs => ?_, fun e n g hg h => ?_,
        fun e n g hg h hheld hst => ?_⟩⟩
      · rw [row, State.indexReturn_data hfresh]
      · rw [row, State.indexReturn_error hfresh, State.fetchFailed_index_first hg _ h]
      · rw [row, State.indexReturn_error hfresh, State.fetchFailed_index_second hg _ hheld hst h]

end Sys2Proof.Machine
end

