-- ==== Sys2Proof/Proofs/Windows.lean ====
section
/-! PROOFS. Domains (R282 to R284), how an invalidation of a window starts (R297, R299), and the commands of a window (R294 to R299, R304,
R621). -/
namespace Sys2Proof.Machine

open Sys2Proof

/-! ### Domains -/

section
variable {s : State} {c : Cmd} {h : CmdHdr} {domain : Nat}

/-- DOMAIN_CREATE takes room for the slots of a new domain; a job names at most one domain of a function (R283). -/
theorem exec_domainCreate {log2 job base : Nat} (ha : Accepted (.domainCreate h domain log2 job) c s) (hlo : 4 ≤ log2) (hhi : log2 ≤ 24)
    (hfn : (s.counted.fn? h.fn).isSome) (hb : s.counted.fnBusy h.fn = false) (hnew : Tbl.has s.counted.wu.domains domain = false)
    (hjob : job ≠ 0 → ∀ d ∈ s.counted.wu.domains, d.2.fn = h.fn → d.2.job ≠ job)
    (hroom : s.counted.allocate [] (64 * 2 ^ log2) = some base) :
    exec (.domainCreate h domain log2 job) s =
      .next (({ s.counted with wu := { s.wu with
        domains := Tbl.put s.wu.domains domain { fn := h.fn, job := job, log2Ids := log2, base := base } } } : State).answer
          (.domainCreate h domain log2 job) c .OK 0 []) := by
  have hsome : (s.counted.fn? h.fn).isNone = false := by simpa using hfn
  have htwin : (s.counted.wu.domains.any fun d => d.2.fn == h.fn && d.2.job == job && job != 0) = false := by
    simp only [List.any_eq_false, Bool.and_eq_true, beq_iff_eq, bne_iff_ne]
    exact fun d hd ⟨⟨hf, hj⟩, h0⟩ => hjob h0 d hd hf hj
  rw [exec_of_guards ha rfl rfl (by simp [bad, no, Nat.not_lt.mpr hlo, Nat.not_lt.mpr hhi, hsome, hb, hnew, htwin])]
  simp only [hroom]
  rfl

/-- A domain without open windows and bound rings is destroyed with its slots (R284). -/
theorem exec_domainDestroy (ha : Accepted (.domainDestroy h domain) c s) (hold : Tbl.has s.counted.wu.domains domain = true)
    (hopen : s.counted.domainOpen domain = false) (hbound : s.counted.domainBound domain = false) :
    exec (.domainDestroy h domain) s =
      .next (({ s.counted with wu := { s.wu with
        domains := Tbl.del s.wu.domains domain, slots := s.wu.slots.filter fun w => w.1 / 2 ^ 24 != domain } } : State).answer
          (.domainDestroy h domain) c .OK 0 []) :=
  exec_ok_of_guards ha rfl rfl (by simp [no, hold, hopen, hbound])

end

/-! ### How an invalidation starts -/

/-- An invalidation as it is entered: a second revocation of a window within a frame is held (R299). -/
def State.dueInval (s : State) (domain id : Nat) (why : Inval) : Revocation :=
  { domain := domain, id := id, why := why, started := s.ns,
    held := why.revokes && (match Tbl.get? s.wu.slots (slotKey domain id) with
      | some w => w.revoked == some s.frame
      | none => false) }

def State.enterInval (s : State) (r : Revocation) : State :=
  { s with wu := { s.wu with revocations := s.wu.revocations ++ [r] } }

theorem State.invalidate_held {s : State} {domain id : Nat} {why : Inval} (h : (s.dueInval domain id why).held = true) :
    s.invalidate domain id why = s.enterInval (s.dueInval domain id why) := if_pos h

theorem State.invalidate_begins {s : State} {domain id : Nat} {why : Inval} (h : (s.dueInval domain id why).held = false) :
    s.invalidate domain id why = (s.enterInval (s.dueInval domain id why)).beginInval (s.dueInval domain id why) :=
  if_neg (Bool.eq_false_iff.mp h)

section
variable {t : State} {r : Revocation}

/-- A modification or a clearing of marks only flushes the caches. -/
theorem State.beginInval_keeping (h : r.why.revokes = false) : t.beginInval r = t.broadcast r.domain r.id false := by
  simp only [State.beginInval, h, Bool.false_eq_true, if_false]

/-- A revocation marks the slot first (step 1 of R297). -/
theorem State.beginInval_revoking (h : r.why.revokes = true) :
    t.beginInval r = ({ t with wu := { t.wu with
      slots := Tbl.modify t.wu.slots (slotKey r.domain r.id) Window.revokedNow } } : State).broadcast r.domain r.id true := by
  simp only [State.beginInval, h, if_true]

end

/-! ### What a window command does in its turn -/

section
variable {t : State} {domain id : Nat} {d : Domain} (hd : Tbl.get? t.wu.domains domain = some d) (hid : id < 2 ^ d.log2Ids)
include hd hid

/-- WINDOW_OPEN on a slot that is not valid: the window that it enters, with a new check byte and the slot's generation (R294, R295). -/
theorem State.openWindow_opens {rights track base : Nat} {extents : List (Nat × Nat)} {l : List Extent} (htrack : track ≤ 1)
    (hne : extents ≠ []) (hlen : extents.length ≤ 8) (hok : extents.all extentOk = true) (hfree : (t.slot domain id).valid = false)
    (hroom : t.placeExtents [] (layExtents extents 0) (track == 1) = some (base, l)) :
    t.openWindow domain rights track id extents =
      (t.draw.2.setSlot domain id
        { valid := true, rights := rights, accessed := false, dirtyTrack := track == 1, check := t.draw.1 % 256,
          gen := (t.slot domain id).gen, fn := d.fn, length := sumNat (extents.map (·.1)), extentBase := base, openTime := t.ns,
          extents := l, revoked := (t.slot domain id).revoked }).payload
        (le 4 (id + at_ (t.draw.1 % 256) 24) ++ le 1 (t.slot domain id).gen) := by
  rw [State.openWindow, guarded_none (by simp [bad, Nat.not_lt.mpr htrack, hne, Nat.not_lt.mpr hlen, hok])]
  simp only [hd]
  rw [guarded_none (by simp [bad, no, Nat.not_le.mpr hid, hfree])]
  simp only [hroom]
  rfl

variable (hv : (t.slot domain id).valid = true)
include hv

/-- A window that is open is found by every command. -/
theorem State.noWindow_of_valid : t.noWindow domain id = false := by
  simp [State.noWindow, hd, hid, hv]

theorem State.queryWindow_open (hthere : Tbl.has t.wu.slots (slotKey domain id) = true) :
    t.queryWindow domain id = t.payload ((t.slot domain id).bytes domain id ++ (t.slot domain id).extents.flatMap (·.bytes)) := by
  simp only [State.queryWindow, hd]
  rw [guarded_none (by simp [bad, Nat.not_le.mpr hid])]
  simp only [hthere, hv, if_true]

theorem State.revokeWindow_open : t.revokeWindow domain id = .wait (t.invalidate domain id .revoke) (.revoke domain id) :=
  guarded_none (by simp [no, State.noWindow_of_valid hd hid hv])

/-- WINDOW_MODIFY sets the rights and the IOVAs; without lazy an invalidation follows, for which it waits (R296). -/
theorem State.modifyWindow_open {rights lazy : Nat} {iovas : List Nat} (hlazy : lazy ≤ 1)
    (hlen : iovas.length = (t.slot domain id).extents.length) (hok : badIova iovas (t.slot domain id).extents = none) :
    let u := t.setSlot domain id { t.slot domain id with
      rights := rights, extents := ((t.slot domain id).extents.zip iovas).map fun x => { x.1 with iova := x.2 } }
    t.modifyWindow domain rights lazy id iovas =
      if lazy = 1 then u.ok else .wait (u.invalidate domain id .modify) (.modify domain id) :=
  guarded_none (by simp [bad, no, State.noWindow_of_valid hd hid hv, Nat.not_lt.mpr hlazy, hlen, hok])

/-- WINDOW_DIRTY of an open window, by its action (R304). -/
theorem State.dirtyWindow_enable {l : List Extent} (hroom : t.addBitmaps [] (t.slot domain id).extents = some l) (buffer n : Nat) :
    t.dirtyWindow domain 0 id buffer n =
      (t.setSlot domain id { t.slot domain id with dirtyTrack := true, extents := l }).payload (le 8 0) := by
  rw [State.dirtyWindow, guarded_none (by simp [no, State.noWindow_of_valid hd hid hv]), if_pos rfl]
  simp only [hroom]

theorem State.dirtyWindow_disable (buffer n : Nat) :
    t.dirtyWindow domain 1 id buffer n = (t.setSlot domain id { t.slot domain id with
      dirtyTrack := false, extents := (t.slot domain id).extents.map fun e => { e with bitmap := none } }).payload (le 8 0) :=
  guarded_none (by simp [no, State.noWindow_of_valid hd hid hv])

/-- The bitmaps are written to the manager's buffer, which can be reached and holds them, and cleared. -/
theorem State.dirtyWindow_fetch {buffer n : Nat} (hm : t.managerReachable = true)
    (hfits : ((t.slot domain id).extents.flatMap (·.mapBytes)).length ≤ n) :
    t.dirtyWindow domain 2 id buffer n =
      ((t.setSlot domain id { t.slot domain id with
        extents := (t.slot domain id).extents.map fun e => { e with bitmap := e.bitmap.map fun b => (b.1, []) } }).managerWrite buffer
          ((t.slot domain id).extents.flatMap (·.mapBytes))).payload
        (le 8 ((t.slot domain id).extents.flatMap (·.mapBytes)).length) :=
  calc t.dirtyWindow domain 2 id buffer n
      = t.guarded _ _ := guarded_none (by simp [no, State.noWindow_of_valid hd hid hv])
    _ = _ := guarded_none (by simp only [no, hm, Nat.not_lt.mpr hfits]; rfl)

theorem State.dirtyWindow_clear (buffer n : Nat) :
    t.dirtyWindow domain 3 id buffer n =
      .wait ((t.setSlot domain id { t.slot domain id with
        accessed := false, extents := (t.slot domain id).extents.map fun e => { e with dirty := false } }).invalidate domain id .clear)
          (.dirty domain id) :=
  guarded_none (by simp [no, State.noWindow_of_valid hd hid hv])

end

/-! ### A window command gets its turn, or waits for it -/

section
variable {s : State} {h : CmdHdr} {domain id : Nat}

theorem State.windowStart_runs (hb : s.windowBusy domain id = false) {waits : Bool} (hw : waits = true → s.waitFull h = false) (i : Instr) :
    s.windowStart h domain id waits i = s.windowRun i := by
  have hroom : (waits && s.waitFull h) = false := by
    cases waits with
    | false => rfl
    | true => simp [hw rfl]
  simp only [State.windowStart, hroom, hb, Bool.false_eq_true, if_false]

/-- On a busy window a waiting command waits for its turn (R299). -/
theorem State.windowStart_waits (hb : s.windowBusy domain id = true) (hw : s.waitFull h = false) (i : Instr) :
    s.windowStart h domain id true i = .wait s (.window domain id) := by
  simp [State.windowStart, hb, hw]

/-- Any other is held, and no command starts meanwhile (R493). -/
theorem State.windowStart_held (hb : s.windowBusy domain id = true) (i : Instr) :
    s.windowStart h domain id false i = .hold s (.window domain id) := by
  simp [State.windowStart, hb]

variable {c : Cmd} {i : Instr} {waits : Bool} {k : CmdResult} (ha : Accepted i c s)
include ha

/-- An accepted window command is concluded with what comes of its start. -/
theorem exec_windowStart (hex : exec i s = .next (s.command i fun s => s.windowStart h domain id waits i))
    (hk : s.counted.windowStart h domain id waits i = k) : exec i s = .next (State.conclude i c k) := by
  rw [hex, State.command_of_accepted _ ha, hk]

/-- As `exec_windowStart`, for the one after which waiting work goes on: WINDOW_REVOKE. -/
theorem exec_work_windowStart (hex : exec i s = .next (s.workCommand i fun s => s.windowStart h domain id waits i))
    (hk : s.counted.windowStart h domain id waits i = k) : exec i s = .next (State.conclude i c k).settle := by
  rw [hex, State.work_of_accepted _ ha, hk]

variable (hb : s.counted.windowBusy domain id = false) (hw : s.counted.waitFull h = false)
include hb hw

/-- On a window that is not busy, a window command is concluded with what it does in its turn. -/
theorem exec_windowRun (hex : exec i s = .next (s.command i fun s => s.windowStart h domain id waits i))
    (hk : s.counted.windowRun i = k) : exec i s = .next (State.conclude i c k) :=
  exec_windowStart ha hex ((State.windowStart_runs hb (fun _ => hw) i).trans hk)

/-- As `exec_windowRun`, for a command that is answered at once. -/
theorem exec_windowRun_payload {u : State} {p : List Byte}
    (hex : exec i s = .next (s.command i fun s => s.windowStart h domain id waits i)) (hk : s.counted.windowRun i = u.payload p) :
    exec i s = .next (u.answer i c .OK 0 p) :=
  exec_windowRun ha hb hw hex hk

end

/-- Settles O33: the lemma of each command by the state of the window, and of an invalidation by its cause and the frame. -/
theorem windowCommands : Obligations.WindowCommands := by
  refine ⟨fun s c h domain => ⟨fun log2 job base => exec_domainCreate, exec_domainDestroy, fun id hw hb => ⟨fun ha => ?_, fun ha => ?_⟩⟩,
    fun s domain id why => ⟨State.invalidate_held, fun hnow hkeep => ?_, fun hnow hrevokes => ?_⟩,
    fun s c h domain id d hw hb hd hid => ⟨?_, fun ha hv hthere => ?_, fun hv => ⟨fun ha => ?_, ?_, fun l ha hroom => ?_, fun ha => ?_,
      fun buffer n ha hm hfits => ?_, fun ha => ?_⟩⟩⟩
  · exact exec_work_windowStart ha rfl (State.windowStart_waits (s := s.counted) hb hw _)
  · exact exec_windowStart ha rfl (State.windowStart_held (s := s.counted) hb _)
  · exact (State.invalidate_begins hnow).trans (State.beginInval_keeping hkeep)
  · exact (State.invalidate_begins hnow).trans (State.beginInval_revoking hrevokes)
  · intro rights track extents base l i check w ha htrack hne hlen hok hfree hroom
    exact exec_windowRun_payload ha hb hw rfl (State.openWindow_opens (t := s.counted) hd hid htrack hne hlen hok hfree hroom)
  · exact exec_windowRun_payload ha hb hw rfl (State.queryWindow_open (t := s.counted) hd hid hv hthere)
  · exact exec_work_windowStart ha rfl
      ((State.windowStart_runs (s := s.counted) hb (fun _ => hw) _).trans (State.revokeWindow_open (t := s.counted) hd hid hv))
  · intro rights lazy iovas i t ha hlazy hlen hok
    have row := State.modifyWindow_open (t := s.counted) (rights := rights) hd hid hv hlazy hlen hok
    exact ⟨fun h1 => exec_windowRun_payload ha hb hw rfl (row.trans (if_pos h1)),
      fun h0 => exec_windowRun ha hb hw rfl (row.trans (if_neg (by simp [h0])))⟩
  · exact exec_windowRun_payload ha hb hw rfl (State.dirtyWindow_enable (t := s.counted) hd hid hv hroom 0 0)
  · exact exec_windowRun_payload ha hb hw rfl (State.dirtyWindow_disable (t := s.counted) hd hid hv 0 0)
  · exact exec_windowRun_payload ha hb hw rfl (State.dirtyWindow_fetch (t := s.counted) hd hid hv hm hfits)
  · exact exec_windowRun ha hb hw rfl (State.dirtyWindow_clear (t := s.counted) hd hid hv 0 0)

end Sys2Proof.Machine
end

