-- ==== Sys2Proof/Proofs/Carried.lean ====
section
/-! PROOFS. A complete parcel at its destination: carried out by the row of its op (R325, R337), staged (R340), answered again (R339), dropped,
or refused. -/
namespace Sys2Proof.Machine

open Sys2Proof

/-! ### What carries a parcel out, by its op -/

section
variable (s : State) (n d : Nat) (x : DstFlow) {p : Parcel}

theorem State.carryNow_put (h : p.op = opPUT) : s.carryNow n d x p = s.carryPut n d x p := by
  simp only [State.carryNow, h]; rfl

theorem State.carryNow_putElided (h : p.op = opPUT_ELIDED) : s.carryNow n d x p = s.carryElided n d x p := by
  simp only [State.carryNow, h]; rfl

theorem State.carryNow_getReq (h : p.op = opGET_REQ) : s.carryNow n d x p = s.carryGet n d x p := by
  simp only [State.carryNow, h]; rfl

theorem State.carryNow_atomic (h : p.op = opATOMIC) : s.carryNow n d x p = s.carryAtomic n d x p := by
  simp only [State.carryNow, h]; rfl

theorem State.carryNow_signal (h : p.op = opSIGNAL) : s.carryNow n d x p = s.carrySignal n d x p := by
  simp only [State.carryNow, h]; rfl

theorem State.carryNow_mcastRepair (h : p.op = opMCAST_REPAIR) : s.carryNow n d x p = s.carryRepair n d x p := by
  simp only [State.carryNow, h]; rfl

theorem State.carryNow_close (h : p.op = opCLOSE) : s.carryNow n d x p = s.carryClose n d x p := by
  simp only [State.carryNow, h]; rfl

theorem State.carryNow_message (h : p.op = opMSG_EAGER ∨ p.op = opMSG_RTS) : s.carryNow n d x p = s.carryMessage n d x p := by
  rcases h with h | h <;> simp only [State.carryNow, h] <;> rfl

theorem State.carryNow_msgGet (h : p.op = opMSG_GET) : s.carryNow n d x p = s.carryMsgGet n d x p := by
  simp only [State.carryNow, h]; rfl

theorem State.carryNow_msgFin (h : p.op = opMSG_FIN) : s.carryNow n d x p = s.carryMsgFin n d x p := by
  simp only [State.carryNow, h]; rfl

/-- A parcel of an op that no rule lists is answered BAD_OP (R337). -/
theorem State.carryNow_not_listed (h : listedOp p.op = false) : s.carryNow n d x p = s.badOp n d p := by
  have hne : ∀ op, listedOp op = true → p.op ≠ op := fun op hop heq => by simp [← heq, h] at hop
  simp only [State.carryNow, hne opPUT rfl, hne opPUT_ELIDED rfl, hne opGET_REQ rfl, hne opATOMIC rfl, hne opSIGNAL rfl,
    hne opMCAST_REPAIR rfl, hne opCLOSE rfl, hne opMSG_EAGER rfl, hne opMSG_RTS rfl, hne opMSG_GET rfl, hne opMSG_FIN rfl, or_self,
    if_false]

end

/-! ### The rows -/

/-- The ops that the row of `op` takes: its own, and the row of PUT those that no rule lists as well (R337). -/
def rowTakes (op q : Nat) : Bool := q == op || (op == opPUT && !listedOp q)

theorem rowTakes_of_ne_put {op : Nat} (h : op ≠ opPUT) : rowTakes op = (· == op) := by
  funext q
  simp [rowTakes, h]

/-- What the parcel that a row has taken satisfies. -/
theorem Engine.takeHanded_satisfies {e e' : Engine} {f : Parcel → Bool} {p : Parcel} (h : e.takeHanded f = some (p, e')) : f p = true := by
  obtain ⟨q, hq, heq⟩ := Option.map_eq_some_iff.mp h
  cases heq
  exact List.find?_some hq

/-- A parcel that a row takes is carried over to its flow. -/
theorem State.carryRow_taken {s : State} {n : Nat} {f : Nat → Bool} {p : Parcel} {e : Engine} (hw : s.engineWorks n = true)
    (h : (s.engine n).takeHanded (fun q => !q.mcast && f q.op) = some (p, e)) :
    s.carryRow n f = ((s.setEngine n e).carry n p).settle := by
  simp only [State.carryRow, hw, h]

/-- Row `i` is that of the op `op` at engine `n`, and `carries` is what it does with the parcel `p`, where it takes `p`. -/
structure CarriesOp (n : Nat) (p : Parcel) (i : Instr) (op : Nat) (carries : State → DstFlow → State) : Prop where
  row : ∀ s, exec i s = .next (s.carryRow n (rowTakes op))
  close_iff : rowTakes op p.op = true → (p.op = opCLOSE ↔ op = opCLOSE)
  carryNow : rowTakes op p.op = true → ∀ s x, s.carryNow n p.flow x p = carries s x

section
variable {n : Nat} {p : Parcel} {i : Instr} {op : Nat} {carries : State → DstFlow → State}

/-- A row that takes the parcels of one op only. -/
theorem carriesOp_of_ne_put (hop : op ≠ opPUT) (hrow : ∀ s, exec i s = .next (s.carryRow n (· == op)))
    (hc : p.op = op → ∀ s x, s.carryNow n p.flow x p = carries s x) : CarriesOp n p i op carries := by
  have htakes : rowTakes op p.op = true → p.op = op := by simp [rowTakes_of_ne_put hop]
  exact { row := by rwa [rowTakes_of_ne_put hop], close_iff := fun h => by rw [htakes h], carryNow := fun h => hc (htakes h) }

/-- The row of PUT carries a PUT out, and refuses an op that no rule lists. -/
theorem carriesOp_put (n : Nat) (p : Parcel) : CarriesOp n p (.putParcelReceive n) opPUT
    (fun s x => if p.op = opPUT then s.carryPut n p.flow x p else s.badOp n p.flow p) := by
  have htakes : rowTakes opPUT p.op = true → p.op = opPUT ∨ listedOp p.op = false := by simp [rowTakes]
  refine { row := fun s => rfl, close_iff := fun h => ?_, carryNow := fun h s x => ?_ }
  · have hne : p.op ≠ opCLOSE := by
      rcases htakes h with hput | hnot
      · rw [hput]; decide
      · intro hclose; rw [hclose] at hnot; cases hnot
    exact iff_of_false hne (by decide)
  · by_cases hput : p.op = opPUT
    · rw [State.carryNow_put s n p.flow x hput, if_pos hput]
    · rw [State.carryNow_not_listed s n p.flow x ((htakes h).resolve_left hput), if_neg hput]

end

/-- The rows that carry a parcel out, each with its op and with what it does. -/
def carryRows (n : Nat) (p : Parcel) : List (Instr × Nat × (State → DstFlow → State)) :=
  [(.putParcelReceive n, opPUT, fun s x => if p.op = opPUT then s.carryPut n p.flow x p else s.badOp n p.flow p),
    (.putElidedReceive n, opPUT_ELIDED, fun s x => s.carryElided n p.flow x p),
    (.getReqReceive n, opGET_REQ, fun s x => s.carryGet n p.flow x p),
    (.atomicParcelReceive n, opATOMIC, fun s x => s.carryAtomic n p.flow x p),
    (.signalReceive n, opSIGNAL, fun s x => s.carrySignal n p.flow x p),
    (.closeReceive n, opCLOSE, fun s x => s.carryClose n p.flow x p),
    (.mcastRepairReceive n, opMCAST_REPAIR, fun s x => s.carryRepair n p.flow x p),
    (.msgEagerReceive n, opMSG_EAGER, fun s x => s.carryMessage n p.flow x p),
    (.msgRtsReceive n, opMSG_RTS, fun s x => s.carryMessage n p.flow x p),
    (.msgGetReceive n, opMSG_GET, fun s x => s.carryMsgGet n p.flow x p),
    (.msgFinReceive n, opMSG_FIN, fun s x => s.carryMsgFin n p.flow x p)]

/-- Each row listed carries its op out, by the equation of `State.carryNow` for that op. -/
theorem carryRows_carry (n : Nat) (p : Parcel) : ∀ r ∈ carryRows n p, CarriesOp n p r.1 r.2.1 r.2.2 := by
  simp only [carryRows, List.forall_mem_cons]
  exact ⟨carriesOp_put n p,
    carriesOp_of_ne_put (by decide) (fun _ => rfl) (fun h s x => State.carryNow_putElided s n p.flow x h),
    carriesOp_of_ne_put (by decide) (fun _ => rfl) (fun h s x => State.carryNow_getReq s n p.flow x h),
    carriesOp_of_ne_put (by decide) (fun _ => rfl) (fun h s x => State.carryNow_atomic s n p.flow x h),
    carriesOp_of_ne_put (by decide) (fun _ => rfl) (fun h s x => State.carryNow_signal s n p.flow x h),
    carriesOp_of_ne_put (by decide) (fun _ => rfl) (fun h s x => State.carryNow_close s n p.flow x h),
    carriesOp_of_ne_put (by decide) (fun _ => rfl) (fun h s x => State.carryNow_mcastRepair s n p.flow x h),
    carriesOp_of_ne_put (by decide) (fun _ => rfl) (fun h s x => State.carryNow_message s n p.flow x (.inl h)),
    carriesOp_of_ne_put (by decide) (fun _ => rfl) (fun h s x => State.carryNow_message s n p.flow x (.inr h)),
    carriesOp_of_ne_put (by decide) (fun _ => rfl) (fun h s x => State.carryNow_msgGet s n p.flow x h),
    carriesOp_of_ne_put (by decide) (fun _ => rfl) (fun h s x => State.carryNow_msgFin s n p.flow x h),
    List.forall_mem_nil _⟩

/-! ### A complete parcel, by its flow and its sequence number -/

section
variable {t u : State} {n : Nat} {p : Parcel}

section
variable {o : Origin} (hx : t.dstFlow? n p.flow = none) (ho : Tbl.get? (t.engine n).gone p.flow = some o)
include hx ho

/-- A parcel of a flow that is closed is refused (R322). -/
theorem State.carry_gone (hop : p.op ≠ opCLOSE) : t.carry n p = t.nackOrigin n n o p.seq nackNO_FLOW 0 := by
  simp only [State.carry, hx, ho, if_neg hop]

/-- A CLOSE of a flow that is closed is acknowledged (R324, log 49). -/
theorem State.carry_close_gone (hop : p.op = opCLOSE) : t.carry n p = t.sendCell n n ((o.answer p.seq) : AnswerCell).cell := by
  simp only [State.carry, hx, ho, if_pos hop]

end

section
variable {x : DstFlow} (hx : t.dstFlow? n p.flow = some x) (hc : t.isCached n p.flow false = true)
include hx hc

/-- A parcel for a role that is not current is refused (R233). -/
theorem State.carry_refused {k det : Nat} (h : (t.touch (n, p.flow, false)).roleRefusal x.fn p.roleGen = (u, some (k, det))) :
    t.carry n p = u.nack n x p.tag p.seq k 0 det := by
  simp only [State.carry, hx, hc, h, Bool.not_true, Bool.false_eq_true, if_false]

variable (h : (t.touch (n, p.flow, false)).roleRefusal x.fn p.roleGen = (u, none))
include h

/-- One that is done is answered again (R339). -/
theorem State.carry_again (hq : classifySeq x.base x.done x.busy p.seq = .again) : t.carry n p = u.answerAgain n p.flow x p := by
  simp only [State.carry, hx, hc, h, hq, Bool.not_true, Bool.false_eq_true, if_false]

/-- The copy of one in progress is dropped (log 50). -/
theorem State.carry_busy (hq : classifySeq x.base x.done x.busy p.seq = .busy) : t.carry n p = u := by
  simp only [State.carry, hx, hc, h, hq, Bool.not_true, Bool.false_eq_true, if_false]

variable (hq : classifySeq x.base x.done x.busy p.seq = .fresh)
include hq

/-- A fresh one whose turn it is, or whose flow has no order, is carried out, and those staged behind it follow (R340). -/
theorem State.carry_fresh (hturn : x.ordered = false ∨ p.seq = x.base) :
    t.carry n p = (u.carryFresh n p.flow x p).unstage n p.flow 5 := by
  have hnow : ¬ (x.ordered = true ∧ p.seq ≠ x.base) := by simpa [Classical.or_iff_not_imp_left] using hturn
  simp only [State.carry, hx, hc, h, hq, Bool.not_true, Bool.false_eq_true, if_false, if_neg hnow]

/-- A fresh one out of turn on an ordered flow is staged (R340). -/
theorem State.carry_staged (hord : x.ordered = true) (hturn : p.seq ≠ x.base) : t.carry n p = u.stage n p.flow x p := by
  simp only [State.carry, hx, hc, h, hq, Bool.not_true, Bool.false_eq_true, if_false, if_pos (And.intro hord hturn)]

end

end

/-- Settles O58: the row of each op carries its parcel over to the flow, and the lemma of each class of parcel says what becomes of it. -/
theorem parcelsCarried : Obligations.ParcelsCarried := by
  intro s n p e i op carries hlisted hw htake t
  have hop : CarriesOp n p i op carries := carryRows_carry n p (i, op, carries) hlisted
  have htakes : rowTakes op p.op = true := (Bool.and_eq_true_iff.mp (Engine.takeHanded_satisfies htake)).2
  have hrow : exec i s = .next (t.carry n p).settle :=
    (hop.row s).trans (congrArg _ (State.carryRow_taken (f := rowTakes op) hw htake))
  rw [hrow]
  refine ⟨fun o hx ho => ⟨fun hne => ?_, fun hclose => ?_⟩,
    fun x u hx hc h => ⟨fun hq hturn => ?_, fun hq hord hturn => ?_, fun hq => ?_, fun hq => ?_⟩, fun x u k det hx hc h => ?_⟩
  · rw [State.carry_gone hx ho (mt (hop.close_iff htakes).mp hne)]
  · rw [State.carry_close_gone hx ho ((hop.close_iff htakes).mpr hclose)]
  · rw [State.carry_fresh hx hc h hq hturn, State.carryFresh, hop.carryNow htakes]
  · rw [State.carry_staged hx hc h hq hord hturn]
  · rw [State.carry_again hx hc h hq]
  · rw [State.carry_busy hx hc h hq]
  · rw [State.carry_refused hx hc h]

end Sys2Proof.Machine
end

