-- ==== Sys2Proof/Proofs/CollTokens.lean ====
section
/-! PROOFS. The commands of collective groups (R390 to R396) and of tokens (R450, R462 to R464, R499). -/
namespace Sys2Proof.Machine

open Sys2Proof

/-! ### Collective groups -/

/-- No parent, and a parent's port that no child has, pass the check of a group's parent (R391). -/
theorem parentGuard_pass {s : State} {parent : Nat} {children : List Nat}
    (hp : parent = 0xFF ∨ (s.edgePort parent = true ∧ children.contains parent = false)) :
    (parent != 0xFF && (!s.edgePort parent || children.contains parent)) = false := by
  rcases hp with rfl | ⟨hport, hnot⟩
  · rfl
  · rw [hport, hnot, Bool.not_true, Bool.or_self, Bool.and_false]

section
variable {s : State} {c : Cmd} {h : CmdHdr} {group : Nat} (hg : group ≤ 1023)
include hg

/-- A group with right parameters whose tags the anchor grants is entered READY (R390 to R392). -/
theorem exec_collGroupCreate {epoch parent anchor depth size : Nat} {children : List Nat} {t : State}
    (ha : Accepted (.collGroupCreate h group epoch parent anchor depth size children) c s)
    (hparent : parent = 0xFF ∨ (s.counted.edgePort parent = true ∧ children.contains parent = false)) (hanchor : anchor ≤ 31)
    (hassigned : s.counted.assigned anchor = true) (hdlo : 2 ≤ groupDepth depth) (hdhi : groupDepth depth ≤ 16)
    (hlen : children.length ≤ 47) (hlo : 1 ≤ size) (hhi : size ≤ 524288) (hrep : hasRepeat children = false)
    (hports : children.all s.counted.edgePort = true) (hnew : s.counted.group? group = none) (hcount : s.counted.rh.groups.length < 1024)
    (hstore : (Group.initial epoch parent anchor (groupDepth depth) size children).storeKib ≤ s.counted.rhFreeKib)
    (hmade : s.counted.createGroup group (Group.initial epoch parent anchor (groupDepth depth) size children) = some t) :
    exec (.collGroupCreate h group epoch parent anchor depth size children) s =
      .next (t.answer (.collGroupCreate h group epoch parent anchor depth size children) c .OK 0 []).settle := by
  have h0 : size ≠ 0 := by omega
  rw [exec_work_of_guards ha rfl rfl (by
    simp only [bad, no, parentGuard_pass hparent, hassigned, hrep, hports, hnew]
    simp [hg, hanchor, Nat.not_lt.mpr hdlo, hdhi, hlen, h0, hhi, hcount, hstore])]
  simp only [hmade, conclude_ok]

section
variable {x : Group} (hx : s.counted.group? group = some x)
include hx

/-- A group that is not ACTIVE is destroyed without FORCE (R396). -/
theorem exec_collGroupDestroy (ha : Accepted (.collGroupDestroy h group) c s) (hst : x.state ≠ 2) (hf : h.force = false) :
    exec (.collGroupDestroy h group) s =
      .next ((s.counted.removeGroup group x).answer (.collGroupDestroy h group) c .OK 0 []).settle := by
  rw [exec_work_of_guards ha rfl rfl (by simp [bad, hg])]
  simp only [hx]
  rw [guarded_none (by simp [no, hst]), hf, if_neg Bool.false_ne_true, conclude_ok]

/-- With FORCE a group in any state fails first, with cause COMMAND (R396). -/
theorem exec_collGroupDestroy_force (ha : Accepted (.collGroupDestroy h group) c s) (hf : h.force = true) :
    exec (.collGroupDestroy h group) s =
      .next (((s.counted.failGroup group causeCOMMAND none).removeGroup group x).answer (.collGroupDestroy h group) c .OK 0 []).settle := by
  rw [exec_work_of_guards ha rfl rfl (by simp [bad, hg])]
  simp only [hx]
  rw [guarded_none (by simp [no, hf]), if_pos hf, conclude_ok]

/-- A group that no COLLECTIVE waits in is READY again in a new epoch (R396). -/
theorem exec_collGroupReset {epoch : Nat} (ha : Accepted (.collGroupReset h group epoch) c s) (hst : x.state ≠ 2)
    (hops : s.counted.groupOps group = []) :
    exec (.collGroupReset h group epoch) s =
      .next ((s.counted.setGroup group (x.restart epoch)).answer (.collGroupReset h group epoch) c .OK 0 []).settle := by
  rw [exec_work_of_guards ha rfl rfl (by simp [bad, hg])]
  simp only [hx]
  rw [guarded_none (by simp [no, hst]), hops, List.foldl_nil, conclude_ok]

/-- A function of the attachment becomes its member of a READY group, at a rank within the group's size (R394). -/
theorem exec_collMemberSet {att rank : Nat} {f : Fn} (ha : Accepted (.collMemberSet h group att rank) c s)
    (hatt : s.counted.badAtt att = false) (hf : s.counted.fn? h.fn = some f) (hown : f.att = att) (hrank : rank < x.size)
    (hst : x.state = 1) (hb : s.counted.fnBusy h.fn = false) :
    exec (.collMemberSet h group att rank) s =
      .next ((s.counted.setGroup group { x with
        members := Tbl.put x.members att { fn := h.fn, rank := rank, next := 0 } }).answer
          (.collMemberSet h group att rank) c .OK 0 []).settle := by
  rw [exec_work_of_guards ha rfl rfl (by simp [bad, hg, hatt])]
  simp only [hx, hf]
  rw [guarded_none (by simp [bad, no, hown, hrank, hst, hb]), conclude_ok]

theorem exec_collGroupQuery (ha : Accepted (.collGroupQuery h group) c s) :
    exec (.collGroupQuery h group) s = .next (s.counted.answer (.collGroupQuery h group) c .OK 0 x.bytes) :=
  exec_query (gs := [bad 0x0705 0 (decide (1023 < group))]) ha rfl (by simp only [hx]) (by simp [bad, hg])

end

end

/-! ### Tokens -/

/-- A binding that neither holds nor waits has nothing to lose (R461, R464). -/
theorem State.loseBinding_idle {s : State} {b : Nat} {x : Binding} (hst : x.state ≠ .HELD) (hw : x.waits = false) :
    s.loseBinding b x = s := by
  simp only [State.loseBinding, hst, hw, Bool.false_eq_true, if_false]

/-- The state in which the rights of a token group are set (R450). -/
def State.withRights (s : State) (group : Nat) (r : TokenRights) : State :=
  { s with tk := { s.tk with rights := Tbl.put s.tk.rights group r } }

section
variable {s : State} {c : Cmd} {h : CmdHdr}

/-- The rights of a token group are set when no function that holds or awaits one of its tokens loses the right (R450). -/
theorem exec_tokenGroupRightsSet {group en first last mask : Nat} (ha : Accepted (.tokenGroupRightsSet h group en first last mask) c s)
    (hg : group ≤ 63) (hen : en ≤ 1) (hfirst : first ≤ 2047) (hlast : last ≤ 2047)
    (hfree : s.counted.rightsBusy
      (s.counted.withRights group { enable := en == 1, first := first, last := last, pfMask := BitVec.ofNat 32 mask }) group = false) :
    exec (.tokenGroupRightsSet h group en first last mask) s =
      .next ((s.counted.withRights group { enable := en == 1, first := first, last := last, pfMask := BitVec.ofNat 32 mask }).answer
        (.tokenGroupRightsSet h group en first last mask) c .OK 0 []) := by
  simp only [State.withRights] at hfree
  exact exec_ok_of_guards ha rfl rfl (by simp only [bad, no, hfree]; simp [hg, hen, hfirst, hlast])

/-- A home slot is enabled at any time, and disabled when nobody holds its token (R463). -/
theorem exec_tokenFabricHomeSet {slot en : Nat} (ha : Accepted (.tokenFabricHomeSet h slot en) c s) (hs : slot ≤ 63) (hen : en ≤ 1)
    (hfree : en = 0 → (s.counted.home slot).holder = none) :
    exec (.tokenFabricHomeSet h slot en) s =
      .next ((s.counted.setHome slot { s.counted.home slot with enable := en == 1 }).answer
        (.tokenFabricHomeSet h slot en) c .OK 0 []) := by
  have hnot : (en == 0 && (s.counted.home slot).holder.isSome) = false := by
    by_cases h0 : en = 0
    · rw [hfree h0, Option.isSome_none, Bool.and_false]
    · simp [h0]
  exact exec_ok_of_guards ha rfl rfl (by simp only [bad, no, hnot]; simp [hs, hen])

/-- A free binding is made for a function within its allowance, IDLE (R464). -/
theorem exec_tokenFabricBind {b index loc : Nat} {f : Fn} (ha : Accepted (.tokenFabricBind h b index loc) c s) (hb : b ≤ 63)
    (hi : index ≤ 63) (hf : s.counted.fn? h.fn = some f) (hnew : s.counted.binding? b = none) (hbusy : s.counted.fnBusy h.fn = false)
    (hroom : s.counted.bindingCount h.fn < f.fabricTokens) :
    exec (.tokenFabricBind h b index loc) s =
      .next ((s.counted.setBinding b (Binding.initial h.fn loc index)).answer (.tokenFabricBind h b index loc) c .OK 0 []) := by
  rw [exec_of_guards ha rfl rfl (by simp [bad, hb, hi])]
  simp only [hf]
  rw [guarded_none (by simp [no, hnew, hbusy, hroom]), conclude_ok]

/-- The function's binding that neither holds nor waits is removed (R464). -/
theorem exec_tokenFabricUnbind {b : Nat} {x : Binding} (ha : Accepted (.tokenFabricUnbind h b) c s) (hb : b ≤ 63)
    (hf : (s.counted.fn? h.fn).isSome) (hx : s.counted.ownBinding h.fn b = some x) (hst : x.state ≠ .HELD) (hw : x.waits = false)
    (hbusy : s.counted.fnBusy h.fn = false) :
    exec (.tokenFabricUnbind h b) s =
      .next (({ s.counted with tk := { s.tk with bindings := Tbl.del s.tk.bindings b } } : State).reportLevels.answer
        (.tokenFabricUnbind h b) c .OK 0 []) := by
  have hthere : (s.counted.fn? h.fn).isNone = false := by simpa using hf
  rw [exec_of_guards ha rfl rfl (by simp [bad, no, hb, hthere])]
  simp only [hx]
  rw [guarded_none (by simp [no, hst, hw, hbusy]), State.loseBinding_idle hst hw, conclude_ok]
  rfl

/-- A local token is taken from its holder, as its function's loss would take it (R462). -/
theorem exec_tokenForceRelease {token : Nat} (ha : Accepted (.tokenForceRelease h token) c s) (ht : token ≤ 1023)
    (hheld : (s.counted.localToken token).holder.isSome) :
    exec (.tokenForceRelease h token) s =
      .next ((s.counted.localRelease token true).reportLevels.answer (.tokenForceRelease h token) c .OK 0 []) := by
  have hthere : (s.counted.localToken token).holder.isNone = false := by simpa using hheld
  exact exec_ok_of_guards ha rfl rfl (by simp [bad, no, ht, hthere])

theorem exec_tokenQuery {kind index : Nat} (ha : Accepted (.tokenQuery h kind index) c s) (hk : kind ≤ 2)
    (hi : index < tokenCount kind) :
    exec (.tokenQuery h kind index) s =
      .next (s.counted.answer (.tokenQuery h kind index) c .OK 0
        (if kind = 0 then le 8 (s.counted.localWord index) else if kind = 1 then le 16 (s.counted.homeWord index)
         else le 16 (s.counted.bindWord index))) :=
  exec_query ha rfl rfl (by simp [bad, hk, hi])

end

/-- Settles O34: the lemma of each command of groups, by the state of the group and FORCE, and of tokens. -/
theorem collectiveAndTokenCommands : Obligations.CollectiveAndTokenCommands :=
  ⟨fun _ _ _ _ hg => ⟨fun _ _ _ _ _ _ _ => exec_collGroupCreate hg,
      fun _ hx => ⟨exec_collGroupDestroy hg hx, exec_collGroupDestroy_force hg hx, fun _ => exec_collGroupReset hg hx,
        fun _ _ _ => exec_collMemberSet hg hx, exec_collGroupQuery hg hx⟩⟩,
    fun _ _ _ => ⟨fun _ _ _ _ _ => exec_tokenGroupRightsSet, fun _ _ => exec_tokenFabricHomeSet, fun _ _ _ _ => exec_tokenFabricBind,
      fun _ _ => exec_tokenFabricUnbind, fun _ => exec_tokenForceRelease, fun _ _ => exec_tokenQuery⟩⟩

end Sys2Proof.Machine
end

