-- ==== Sys2Proof/Proofs/TokenAccesses.lean ====
section
/-! PROOFS. Reads and writes of the token page by a function that has the right to them: local tokens (R454 to R458) and fabric bindings
(R458, R466 to R468). -/
namespace Sys2Proof.Machine

open Sys2Proof

/-! ### The token page -/

/-- A read of the token page returns a value, and the report of R460 follows. -/
def State.pageReturns (s : State) (f offset value : Nat) : State := (s.emit (.value (.fn f) (0x2000 + offset) value)).reportLevels

section
variable {s : State} {f : Nat} {x : Fn} (hal : s.alive = true) (hx : s.fn? f = some x) (hrun : x.state = .RUNNING)
variable {right : Fn → Bool} (hr : right x = true)
include hal hx hrun hr

/-- A RUNNING function that has the right makes its access (R449, R451). -/
theorem State.tokenAccess_granted (denied : State → State) (k : Fn → State) : s.tokenAccess f right denied k = k x := by
  simp [State.tokenAccess, hal, hx, hrun, hr]

theorem State.tokenRead_granted {k : Fn → State × Nat} {u : State} {v : Nat} (hk : k x = (u, v)) (offset : Nat) :
    s.tokenRead f offset right k = u.pageReturns f offset v := by
  have hnot : ¬ (s.rst.mode = .HALT ∧ (s.fn? f).isSome = true) := fun ⟨hm, _⟩ => by simp [State.alive, hm] at hal
  rw [State.tokenRead, if_neg hnot, State.tokenAccess_granted hal hx hrun hr, hk, State.pageReturns]

theorem State.tokenWrite_granted (k : Fn → State) : s.tokenWrite f right k = (k x).reportLevels :=
  State.tokenAccess_granted hal hx hrun hr _ _

end

/-! ### What a read or a write does to a local token -/

/-- The entry that a function takes among the waiters of a local token (R455). -/
def State.localWaiter (s : State) (f : Nat) (x : Fn) : Waiter :=
  { endpoint := s.endpoint x.att, fn := f, gen := s.gen f, binding := 0, priority := x.sched.baseLevel }

section
variable {s : State} {f t : Nat}

theorem State.localRead_free (x : Fn) (wait : Bool) (h : (s.localToken t).holder = none) :
    s.localRead f x t wait =
      ((s.setLocal t { s.localToken t with holder := some f, lost := false }).tally 0x60010,
        tokenValue true (s.localToken t).lost false (s.gen f) f) := by
  simp only [State.localRead, h]

theorem State.localRead_own (x : Fn) (wait : Bool) (h : (s.localToken t).holder = some f) :
    s.localRead f x t wait =
      (s.setLocal t { s.localToken t with lost := false }, tokenValue true (s.localToken t).lost false (s.gen f) f) := by
  simp only [State.localRead, h, if_true]

section
variable {g : Nat} (h : (s.localToken t).holder = some g) (hg : g ≠ f)
include h hg

/-- The token of another stays as it is where the reader does not ask to wait, waits already, or finds no room. -/
theorem State.localRead_stays {x : Fn} {wait : Bool}
    (hno : wait = false ∨ ((s.localToken t).waiters.any fun w => w.fn == f) = true ∨ s.waiterRoom (s.endpoint x.att) f = false) :
    s.localRead f x t wait = (s, tokenValue false false ((s.localToken t).waiters.any fun w => w.fn == f) (s.gen g) g) := by
  have hstay : (wait && !((s.localToken t).waiters.any fun w => w.fn == f) && s.waiterRoom (s.endpoint x.att) f) = false := by
    rcases hno with e | e | e <;> simp only [e, Bool.false_and, Bool.not_true, Bool.and_false]
  simp only [State.localRead, State.heldValue, h, hg, hstay, Bool.false_eq_true, if_false]

/-- A WAIT read enters the reader behind the waiters there are, and the value says so. -/
theorem State.localRead_enters {x : Fn} (hnew : ((s.localToken t).waiters.any fun w => w.fn == f) = false)
    (hroom : s.waiterRoom (s.endpoint x.att) f = true) :
    s.localRead f x t true =
      (s.setLocal t { s.localToken t with waiters := (s.localToken t).waiters ++ [s.localWaiter f x] },
        tokenValue false false true (s.gen g) g) := by
  have hqueued : (((s.localToken t).waiters ++ [s.localWaiter f x]).any fun w => w.fn == f) = true := by simp [State.localWaiter]
  simp only [State.localWaiter] at hqueued
  simp only [State.localRead, State.heldValue, State.localWaiter, h, hg, hnew, hroom, hqueued, Bool.not_false, Bool.and_self, if_true,
    if_false]

end

/-- A token that nobody waits for is free (R457). -/
theorem State.localRelease_free (lost : Bool) (h : nextWaiter (s.localToken t).waiters = none) :
    s.localRelease t lost = s.setLocal t { holder := none, lost := lost, waiters := [] } := by
  simp only [State.localRelease, h]

/-- The next waiter gets the token and is told (R457, R459). -/
theorem State.localRelease_next (lost : Bool) {w : Waiter} (h : nextWaiter (s.localToken t).waiters = some w) :
    s.localRelease t lost =
      ((s.setLocal t { holder := some w.fn, lost := lost, waiters := (s.localToken t).waiters.erase w }).tally 0x60018).raise 0x140
        (some w.fn) t := by
  simp only [State.localRelease, h]

end

/-! ### The rows of local tokens -/

section
variable {s : State} {f t : Nat} {x : Fn} (ht : t < 1024) (hal : s.alive = true) (hx : s.fn? f = some x) (hrun : x.state = .RUNNING)
  (hr : s.tokenRight f x (t / 16) = true)
include ht hal hx hrun hr

/-- The row of a read of a local token, at one of its two offsets in the page. -/
theorem exec_localTokenRead {i : Instr} {offset : Nat} {wait : Bool}
    (hrow : exec i s = .next (if 1024 ≤ t then s
      else s.tokenRead f offset (fun x => s.tokenRight f x (t / 16)) fun x => s.localRead f x t wait))
    {u : State} {v : Nat} (h : s.localRead f x t wait = (u, v)) : exec i s = .next (u.pageReturns f offset v) := by
  rw [hrow, if_neg (Nat.not_le.mpr ht), State.tokenRead_granted hal hx hrun hr h]

theorem exec_localTokenAcquireRead {u : State} {v : Nat} (h : s.localRead f x t false = (u, v)) :
    exec (.localTokenAcquireRead f t) s = .next (u.pageReturns f (8 * t) v) :=
  exec_localTokenRead ht hal hx hrun hr rfl h

theorem exec_localTokenWaitRead {u : State} {v : Nat} (h : s.localRead f x t true = (u, v)) :
    exec (.localTokenWaitRead f t) s = .next (u.pageReturns f (8 * t + 4) v) :=
  exec_localTokenRead ht hal hx hrun hr rfl h

/-- Where the two reads do the same, they differ in their offset alone. -/
theorem exec_localTokenReads {u : State} {v : Nat} (h : ∀ wait, s.localRead f x t wait = (u, v)) :
    ∀ e ∈ [(Instr.localTokenAcquireRead f t, 8 * t), (.localTokenWaitRead f t, 8 * t + 4)],
      exec e.1 s = .next (u.pageReturns f e.2 v) :=
  List.forall_mem_cons.mpr ⟨exec_localTokenAcquireRead ht hal hx hrun hr (h false),
    List.forall_mem_singleton.mpr (exec_localTokenWaitRead ht hal hx hrun hr (h true))⟩

/-- The holder's write of 0 releases the token (R457). -/
theorem exec_localTokenReleaseWrite_holder (h : (s.localToken t).holder = some f) :
    exec (.localTokenReleaseWrite f t 0) s = .next (s.localRelease t false).reportLevels := by
  simp only [exec, execLocalTokenReleaseWrite]
  rw [if_neg (Nat.not_le.mpr ht), State.tokenWrite_granted hal hx hrun hr, if_pos ⟨trivial, h⟩]

/-- Any other write is only counted (R458). -/
theorem exec_localTokenReleaseWrite_other {v : Nat} (h : v ≠ 0 ∨ (s.localToken t).holder ≠ some f) :
    exec (.localTokenReleaseWrite f t v) s = .next (s.evidence 0x60028).reportLevels := by
  have hnot : ¬ (v = 0 ∧ (s.localToken t).holder = some f) := fun ⟨hv, hf⟩ => h.elim (· hv) (· hf)
  simp only [exec, execLocalTokenReleaseWrite]
  rw [if_neg (Nat.not_le.mpr ht), State.tokenWrite_granted hal hx hrun hr, if_neg hnot]

/-- A write of 0 to the WAIT address takes the writer from the waiters (R458). -/
theorem exec_tokenWaitCancelWrite_local :
    exec (.tokenWaitCancelWrite f false t 0) s =
      .next (s.setLocal t { s.localToken t with
        waiters := (s.localToken t).waiters.filter fun w => w.fn != f }).reportLevels := by
  simp only [exec, execTokenWaitCancelWrite, Bool.false_eq_true, if_false]
  rw [if_neg (Nat.not_le.mpr ht), State.tokenWrite_granted hal hx hrun hr, if_neg (not_not_intro rfl)]

end

/-! ### What a read does to a fabric binding -/

section
variable {s : State} {b : Nat} {x : Binding} (wait : Bool)

theorem State.bindRead_pending (h : x.req.isSome = true) :
    s.bindRead b x wait = (s.setBinding b { x with answer := valuePending }, valuePending) := by
  simp only [State.bindRead, h, if_true]

section
variable (hreq : x.req = none)
include hreq

/-- An answer that has come is returned once (R466). -/
theorem State.bindRead_ready {v : Nat} (h : x.ready = some v) :
    s.bindRead b x wait = (s.setBinding b { x with ready := none, answer := v }, v) := by
  simp only [State.bindRead, hreq, h, Option.isSome_none, Bool.false_eq_true, if_false]

variable (hready : x.ready = none)
include hready

theorem State.bindRead_held (h : x.state = .HELD) :
    s.bindRead b x wait =
      (s.setBinding b { x with lost := false, answer := tokenValue true x.lost false (s.gen x.fn) x.fn },
        tokenValue true x.lost false (s.gen x.fn) x.fn) := by
  simp only [State.bindRead, hreq, hready, h, Option.isSome_none, Bool.false_eq_true, if_false, if_true]

/-- The binding while the request that a read sent is under way (R466). -/
def Binding.asking (x : Binding) (gen kind request ns : Nat) : Binding :=
  { x with
    gen := gen, state := .PENDING, answer := valuePending,
    req := some { kind := kind, request := request, sent := ns, wait := 50000, first := ns } }

/-- A read of a binding with nothing to return sends its request to the home (R466). -/
theorem State.bindRead_asks {kind : Nat} (h : x.state ≠ .HELD) (hkind : (if wait then tmWAIT else tmACQUIRE) = kind) :
    let y := x.asking (s.gen x.fn) kind s.takeRequest.1 s.ns
    let t := s.takeRequest.2.setBinding b y
    s.bindRead b x wait = (t.sendToken x.homeLoc (t.bindMsg b y kind s.takeRequest.1 false), valuePending) := by
  subst hkind
  simp only [State.bindRead, Binding.asking, hreq, hready, h, Option.isSome_none, Bool.false_eq_true, if_false]

end

end

/-! ### The rows of fabric bindings -/

/-- A read of the binding `b`, where it is `f`'s. -/
def State.ownBindRead (s : State) (f b : Nat) (wait : Bool) : State × Nat :=
  match s.ownBinding f b with
  | some x => s.bindRead b x wait
  | none => (s, 0)

section
variable {s : State} {f b : Nat} {z : Fn} {x : Binding} (hal : s.alive = true) (hz : s.fn? f = some z) (hrun : z.state = .RUNNING)
  (hown : s.ownBinding f b = some x)
include hal hz hrun hown

/-- A read of a function's own binding returns what the binding answers. -/
theorem exec_fabricBindingRead {i : Instr} {offset : Nat} {wait : Bool}
    (hrow : exec i s = .next (s.tokenRead f (0x2000 + offset) (fun _ => (s.ownBinding f b).isSome) fun _ => s.ownBindRead f b wait))
    {u : State} {v : Nat} (h : s.bindRead b x wait = (u, v)) :
    exec i s = .next (u.emit (.value (.fn f) (0x4000 + offset) v)).reportLevels := by
  have hread : s.ownBindRead f b wait = (u, v) := by simp only [State.ownBindRead, hown, h]
  have hoff : 0x2000 + (0x2000 + offset) = 0x4000 + offset := by omega
  rw [hrow, State.tokenRead_granted hal hz hrun (by rw [hown, Option.isSome_some]) hread, State.pageReturns, hoff]

/-- The two addresses of a binding differ in their offset and in the request that a read of them sends (R466). -/
theorem exec_fabricBindingReads :
    ∀ e ∈ [(Instr.fabricBindingAcquireRead f b, 8 * b, tmACQUIRE), (.fabricBindingWaitRead f b, 8 * b + 4, tmWAIT)],
      ∃ wait, (if wait = true then tmWAIT else tmACQUIRE) = e.2.2 ∧ ∀ {u v}, s.bindRead b x wait = (u, v) →
        exec e.1 s = .next (u.emit (.value (.fn f) (0x4000 + e.2.1) v)).reportLevels := by
  have hoff : 0x2004 + 8 * b = 0x2000 + (8 * b + 4) := by omega
  refine List.forall_mem_cons.mpr ⟨⟨false, rfl, exec_fabricBindingRead hal hz hrun hown rfl⟩,
    List.forall_mem_singleton.mpr ⟨true, rfl, exec_fabricBindingRead hal hz hrun hown ?_⟩⟩
  rw [← hoff]
  rfl

/-- The holder's write of 0 sends RELEASE (R468). -/
theorem exec_fabricBindingReleaseWrite_holder (h : x.state = .HELD) :
    exec (.fabricBindingReleaseWrite f b 0) s = .next (s.bindRelease b x false).reportLevels := by
  simp only [exec, execFabricBindingReleaseWrite]
  rw [State.tokenWrite_granted hal hz hrun (by rw [hown, Option.isSome_some])]
  simp only [hown, h, and_self, if_true]

/-- Any other write is only counted (R458). -/
theorem exec_fabricBindingReleaseWrite_other {v : Nat} (h : v ≠ 0 ∨ x.state ≠ .HELD) :
    exec (.fabricBindingReleaseWrite f b v) s = .next (s.evidence 0x60028).reportLevels := by
  have hnot : ¬ (v = 0 ∧ x.state = .HELD) := fun ⟨hv, hst⟩ => h.elim (· hv) (· hst)
  simp only [exec, execFabricBindingReleaseWrite]
  rw [State.tokenWrite_granted hal hz hrun (by rw [hown, Option.isSome_some])]
  simp only [hown, hnot, if_false]

/-- A cancel of a wait sends CANCEL (R458). -/
theorem exec_tokenWaitCancelWrite_fabric (h : x.waits = true) :
    exec (.tokenWaitCancelWrite f true b 0) s = .next (s.bindCancel b x).reportLevels := by
  simp only [exec, execTokenWaitCancelWrite, if_true]
  rw [State.tokenWrite_granted hal hz hrun (by rw [hown, Option.isSome_some])]
  simp only [hown, h, ne_eq, not_true_eq_false, if_false, if_true]

end

/-- Settles O35: the lemma of each read and write, by the holder of the token and the state of the binding. -/
theorem tokenAccesses : Obligations.TokenAccesses := by
  refine ⟨fun s f t x ht hal hx hrun hr => ?_, fun s f b z x hal hz hrun hown => ?_⟩
  · have acquire {u v} := exec_localTokenAcquireRead ht hal hx hrun hr (u := u) (v := v)
    have wait {u v} := exec_localTokenWaitRead ht hal hx hrun hr (u := u) (v := v)
    have reads {u v} := exec_localTokenReads ht hal hx hrun hr (u := u) (v := v)
    refine ⟨fun h => reads fun w => State.localRead_free x w h, fun h => reads fun w => State.localRead_own x w h,
      fun g h hg => ⟨acquire (State.localRead_stays h hg (.inl rfl)), fun hq => ?_,
        fun hnew hroom => wait (State.localRead_enters h hg hnew hroom), fun hnew hfull => ?_⟩,
      fun h => ⟨fun hnone => ?_, fun w hw => ?_⟩,
      fun v => exec_localTokenReleaseWrite_other ht hal hx hrun hr, exec_tokenWaitCancelWrite_local ht hal hx hrun hr⟩
    · exact wait (by rw [State.localRead_stays h hg (.inr (.inl hq)), hq])
    · exact wait (by rw [State.localRead_stays h hg (.inr (.inr hfull)), hnew])
    · rw [exec_localTokenReleaseWrite_holder ht hal hx hrun hr h, State.localRelease_free false hnone]
    · rw [exec_localTokenReleaseWrite_holder ht hal hx hrun hr h, State.localRelease_next false hw]
  · refine ⟨fun e he => ?_, exec_fabricBindingReleaseWrite_holder hal hz hrun hown,
      fun v => exec_fabricBindingReleaseWrite_other hal hz hrun hown, exec_tokenWaitCancelWrite_fabric hal hz hrun hown⟩
    obtain ⟨wait, hkind, row⟩ := exec_fabricBindingReads hal hz hrun hown e he
    exact ⟨fun h => row (State.bindRead_pending wait h), fun hreq hready h => row (State.bindRead_held wait hreq hready h),
      fun v hreq h => row (State.bindRead_ready wait hreq h), fun hreq hready h => row (State.bindRead_asks wait hreq hready h hkind)⟩

end Sys2Proof.Machine
end

