-- ==== Sys2Proof/Proofs/TokenMessages.lean ====
section
/-! PROOFS. Token messages at a home slot (R454, R455, R458, R463, R466 to R470) and at a requester (R466 to R470). -/
namespace Sys2Proof.Machine

open Sys2Proof

/-! ### A message taken -/

/-- The state once the Token unit has taken a message from those received. -/
def State.withoutMsg (s : State) (loc : Nat) (m : TokenMsg) : State :=
  { s with tk := { s.tk with inbox := s.tk.inbox.erase (loc, m) } }

@[simp] theorem State.withoutMsg_home (s : State) (loc : Nat) (m : TokenMsg) (i : Nat) : (s.withoutMsg loc m).home i = s.home i := rfl

/-- The oldest message of its kind is taken, and the report of R460 follows what it does. -/
theorem State.tokenFrom_taken {s : State} {loc kind : Nat} {m : TokenMsg} (hal : s.alive = true) (hkind : m.kind = kind)
    (hm : (s.tk.inbox.find? fun n => n.2.kind == m.kind) = some (loc, m)) (k : Nat → TokenMsg → State → State) :
    s.tokenFrom kind k = (k loc m (s.withoutMsg loc m)).reportLevels := by
  subst hkind
  simp only [State.tokenFrom, hal, hm, State.withoutMsg]

/-! ### Messages to a home slot in use -/

section
variable {s : State} {m : TokenMsg} (k : Nat → State)

/-- A slot that is not enabled answers nothing (R463). -/
theorem State.homeMsg_disabled (h : (s.home m.index).enable = false) : s.homeMsg m k = s := if_pos (.inr h)

section
variable (hi : m.index < 64) (he : (s.home m.index).enable = true)
include hi he

theorem State.homeMsg_new (h : (s.home m.index).earlier m = none) : s.homeMsg m k = k m.index := by
  simp only [State.homeMsg, h, he, Nat.not_le.mpr hi, Bool.true_eq_false, or_self, if_false]

/-- A repeated request number gets the earlier answer again (R467). -/
theorem State.homeMsg_again {a : TokenMsg} (h : (s.home m.index).earlier m = some a) : s.homeMsg m k = s.sendToken (epLoc m.endpoint) a := by
  simp only [State.homeMsg, h, he, Nat.not_le.mpr hi, Bool.true_eq_false, or_self, if_false]

end

end

/-- The row of a message of `kind` that a home slot in use answers: what it does there with a new one. -/
def AnswersAtHome (kind : Nat) (i : Instr) (act : State → Nat → TokenMsg → State) : Prop :=
  ∀ s, exec i s = .next (s.tokenMsg kind fun m s => s.homeMsg m fun i => act s i m)

/-- The four messages that a home answers. -/
def homeRows : List (Nat × Instr) :=
  [(tmACQUIRE, .tokenMsgAcquire), (tmWAIT, .tokenMsgWait), (tmRELEASE, .tokenMsgRelease), (tmRENEW, .tokenMsgRenew)]

theorem answersAtHome_acquire : AnswersAtHome tmACQUIRE .tokenMsgAcquire fun s i m => s.homeTake i m false := fun _ => rfl
theorem answersAtHome_wait : AnswersAtHome tmWAIT .tokenMsgWait fun s i m => s.homeTake i m true := fun _ => rfl
theorem answersAtHome_release : AnswersAtHome tmRELEASE .tokenMsgRelease State.homeReleaseMsg := fun _ => rfl
theorem answersAtHome_renew : AnswersAtHome tmRENEW .tokenMsgRenew State.homeRenew := fun _ => rfl

theorem homeRows_answer : ∀ e ∈ homeRows, ∃ act, AnswersAtHome e.1 e.2 act :=
  List.forall_mem_cons.mpr ⟨⟨_, answersAtHome_acquire⟩, List.forall_mem_cons.mpr ⟨⟨_, answersAtHome_wait⟩,
    List.forall_mem_cons.mpr ⟨⟨_, answersAtHome_release⟩, List.forall_mem_singleton.mpr ⟨_, answersAtHome_renew⟩⟩⟩⟩

/-- ACQUIRE and WAIT do the same but for a party that asks for the token of another. -/
theorem takeRows_answer :
    ∀ e ∈ [(tmACQUIRE, Instr.tokenMsgAcquire), (tmWAIT, .tokenMsgWait)],
      ∃ wait, AnswersAtHome e.1 e.2 fun s i m => s.homeTake i m wait :=
  List.forall_mem_cons.mpr ⟨⟨false, answersAtHome_acquire⟩, List.forall_mem_singleton.mpr ⟨true, answersAtHome_wait⟩⟩

section
variable {s : State} {loc kind : Nat} {m : TokenMsg} {i : Instr} {act : State → Nat → TokenMsg → State}
  (hrow : AnswersAtHome kind i act) (hal : s.alive = true)
  (hm : (s.tk.inbox.find? fun n => n.2.kind == m.kind) = some (loc, m)) (hkind : m.kind = kind)
include hrow hal hm hkind

theorem AnswersAtHome.row :
    exec i s = .next (((s.withoutMsg loc m).homeMsg m fun j => act (s.withoutMsg loc m) j m).reportLevels) :=
  (hrow s).trans (congrArg _ (State.tokenFrom_taken hal hkind hm _))

theorem AnswersAtHome.disabled (h : (s.home m.index).enable = false) : exec i s = .next (s.withoutMsg loc m).reportLevels := by
  rw [hrow.row hal hm hkind, State.homeMsg_disabled _ (s := s.withoutMsg loc m) h]

section
variable (hi : m.index < 64) (he : (s.home m.index).enable = true)
include hi he

theorem AnswersAtHome.again {a : TokenMsg} (h : (s.home m.index).earlier m = some a) :
    exec i s = .next ((s.withoutMsg loc m).sendToken (epLoc m.endpoint) a).reportLevels := by
  rw [hrow.row hal hm hkind, State.homeMsg_again _ (s := s.withoutMsg loc m) hi he h]

theorem AnswersAtHome.new (h : (s.home m.index).earlier m = none) {u : State} (hact : act (s.withoutMsg loc m) m.index m = u) :
    exec i s = .next u.reportLevels := by
  rw [hrow.row hal hm hkind, State.homeMsg_new _ (s := s.withoutMsg loc m) hi he h, hact]

end

end

/-! ### What a party takes at a home -/

section
variable {s : State} {i : Nat} {m : TokenMsg}

/-- The free token is taken, with a lease of 4 ms (R454, R471). -/
theorem State.homeTake_free (wait : Bool) (h : (s.home i).holder = none) :
    s.homeTake i m wait =
      ((s.setHome i { s.home i with
        holder := some (msgParty m), lost := false, lease := s.ns + 4000000, granting := none }).tally 0x60010).homeReply i m
          (s.home i).lost := by
  simp only [State.homeTake, h]

section
variable {y : Waiter} (h : (s.home i).holder = some y)
include h

theorem State.homeTake_own (wait : Bool) (hy : y.same (msgParty m) = true) :
    s.homeTake i m wait = (s.setHome i { s.home i with lost := false }).homeReply i m (s.home i).lost := by
  simp only [State.homeTake, h, hy, if_true]

section
variable (hy : y.same (msgParty m) = false)
include hy

/-- WAIT enters the party behind the waiters there are (R455). -/
theorem State.homeTake_enters (hnew : ((s.home i).waiters.any (·.same (msgParty m))) = false)
    (hroom : s.waiterRoom (msgParty m).endpoint (msgParty m).fn = true) :
    s.homeTake i m true =
      (s.setHome i { s.home i with waiters := (s.home i).waiters ++ [msgParty m] }).homeReply i m false := by
  simp only [State.homeTake, h, hy, hnew, hroom, Bool.not_false, Bool.and_self, Bool.false_eq_true, if_false, if_true]

/-- The home of another's token stays as it is for ACQUIRE, for a party that waits already, and where there is no room. -/
theorem State.homeTake_stays {wait : Bool}
    (hno : wait = false ∨ ((s.home i).waiters.any (·.same (msgParty m))) = true ∨
      s.waiterRoom (msgParty m).endpoint (msgParty m).fn = false) :
    s.homeTake i m wait = s.homeReply i m false := by
  have hstay : (wait && !((s.home i).waiters.any (·.same (msgParty m))) && s.waiterRoom (msgParty m).endpoint (msgParty m).fn) = false := by
    rcases hno with e | e | e <;> simp only [e, Bool.false_and, Bool.not_true, Bool.and_false]
  simp only [State.homeTake, h, hy, hstay, Bool.false_eq_true, if_false]

end

end

end

/-! ### Messages that a home does not answer -/

section
variable {s : State} {loc : Nat} {m : TokenMsg} (hal : s.alive = true)
  (hm : (s.tk.inbox.find? fun n => n.2.kind == m.kind) = some (loc, m)) (hi : m.index < 64)
include hal hm hi

/-- CANCEL removes a waiter (R458). -/
theorem exec_tokenMsgCancel (hkind : m.kind = tmCANCEL) :
    exec .tokenMsgCancel s =
      .next ((s.withoutMsg loc m).setHome m.index { s.home m.index with
        waiters := (s.home m.index).waiters.filter fun y => !y.same (msgParty m) }).reportLevels := by
  simp only [exec, execTokenMsgCancel, State.tokenMsg]
  rw [State.tokenFrom_taken hal hkind hm, State.homeCancel, if_neg (Nat.not_le.mpr hi)]
  rfl

/-- GRANT_ACK confirms the grant that it names (R468). -/
theorem exec_tokenMsgGrantAck (hkind : m.kind = tmGRANT_ACK) (hgrant : (s.home m.index).granting = some m.request)
    (hheld : (s.home m.index).heldBy (msgParty m) = true) :
    exec .tokenMsgGrantAck s =
      .next ((s.withoutMsg loc m).setHome m.index { s.home m.index with
        granting := none, lost := false, lease := s.ns + 4000000 }).reportLevels := by
  simp only [exec, execTokenMsgGrantAck, State.tokenMsg]
  rw [State.tokenFrom_taken hal hkind hm, State.homeGranted, if_neg (Nat.not_le.mpr hi)]
  simp only [State.withoutMsg_home, hgrant, hheld, and_self, if_true]
  rfl

end

/-! ### A requester -/

/-- A binding whose request the home answered (R466, R467). -/
def Binding.answered (x : Binding) (q : TokenReq) (m : TokenMsg) : Binding :=
  { x with
    req := none, ready := some (tokenValue m.won m.lost m.queued m.generation m.function), top := m.priority, renewed := q.first,
    renewing := none, state := if m.won then .HELD else if m.queued then .WAITING else .IDLE }

/-- A binding to which the home granted its token at `ns` (R468). -/
def Binding.granted (x : Binding) (m : TokenMsg) (ns : Nat) : Binding :=
  { x with state := .HELD, req := none, ready := none, lost := m.lost, top := m.priority, renewed := ns, renewing := none }

section
variable {s : State} {m : TokenMsg}

/-- The ANSWER to a RELEASE ends its resends (R468). -/
theorem State.tokenAnswered_release (h : Tbl.has s.tk.releases m.request = true) :
    s.tokenAnswered m = { s with tk := { s.tk with releases := Tbl.del s.tk.releases m.request } } := if_pos h

section
variable {x : Binding} (hx : s.binding? m.binding = some x)
include hx

theorem State.tokenAnswered_request {q : TokenReq} (h : Tbl.has s.tk.releases m.request = false) (hst : x.state ≠ .HELD)
    (hq : x.req = some q) (hr : q.request = m.request) : s.tokenAnswered m = s.setBinding m.binding (x.answered q m) := by
  simp only [State.tokenAnswered, h, hx, hq, hr, State.requestAnswered, hst, Bool.false_eq_true, if_false, if_true]
  rfl

/-- A GRANT of a binding that waits makes it HELD, with an event, and is acknowledged (R468). -/
theorem State.tokenGranted_waits {loc : Nat} (hst : x.state ≠ .HELD) (hn : x.named m = true) (hl : x.homeLoc = loc) (hw : x.waits = true) :
    s.tokenGranted loc m =
      ((s.setBinding m.binding (x.granted m s.ns)).grantAck x m).raise 0x140 (some x.fn) (m.binding + 32768) := by
  subst hl
  simp only [State.tokenGranted, hx, Option.filter_some, hn, hw, beq_self_eq_true, Bool.or_true, Bool.and_self, if_true, hst, if_false]
  rfl

/-- One that the binding does not wait for is released, toward the router that sent it (R468). -/
theorem State.tokenGranted_releases {loc : Nat} (hst : x.state ≠ .HELD) (h : x.named m = false ∨ x.homeLoc ≠ loc ∨ x.waits = false) :
    s.tokenGranted loc m = s.sendRelease loc { m with lost := false, won := false, queued := false } := by
  have hnot : (x.named m && x.homeLoc == loc && (x.state == .HELD || x.waits)) = false := by
    rcases h with e | e | e <;> simp [e, hst]
  simp only [State.tokenGranted, hx, Option.filter_some, hnot, Bool.false_eq_true, if_false]

end

end

section
variable {s : State} {loc : Nat} {m : TokenMsg} (hal : s.alive = true)
  (hm : (s.tk.inbox.find? fun n => n.2.kind == m.kind) = some (loc, m))
include hal hm

theorem exec_tokenMsgAnswer (hkind : m.kind = tmANSWER) {u : State} (h : (s.withoutMsg loc m).tokenAnswered m = u) :
    exec .tokenMsgAnswer s = .next u.reportLevels :=
  congrArg Host.Outcome.next ((State.tokenFrom_taken hal hkind hm _).trans (congrArg _ h))

theorem exec_tokenMsgGrant (hkind : m.kind = tmGRANT) {u : State} (h : (s.withoutMsg loc m).tokenGranted loc m = u) :
    exec .tokenMsgGrant s = .next u.reportLevels :=
  congrArg Host.Outcome.next ((State.tokenFrom_taken hal hkind hm _).trans (congrArg _ h))

end

/-- Settles O36: the lemma of each message, by the state of the slot it names or of the binding. -/
theorem tokenMessages : Obligations.TokenMessages := by
  refine ⟨fun s loc m hal hi hm => ⟨fun he hnew => ?_, fun e hmem hkind => ?_, exec_tokenMsgCancel hal hm hi,
      exec_tokenMsgGrantAck hal hm hi⟩,
    fun s loc m hal hm => ⟨fun hkind h => exec_tokenMsgAnswer hal hm hkind (State.tokenAnswered_release (s := s.withoutMsg loc m) h),
      fun x hx hst => ?_⟩⟩
  · have new {kind i act u} (hrow : AnswersAtHome kind i act) (hkind : m.kind = kind) :=
      hrow.new hal hm hkind hi he hnew (u := u)
    refine ⟨fun e hmem hkind => ?_,
      fun y hkind h hy => new answersAtHome_acquire hkind (State.homeTake_stays (s := s.withoutMsg loc m) h hy (.inl rfl)),
      fun y hkind h hy hno hroom => new answersAtHome_wait hkind (State.homeTake_enters (s := s.withoutMsg loc m) h hy hno hroom),
      fun y hkind h hy hno => new answersAtHome_wait hkind (State.homeTake_stays (s := s.withoutMsg loc m) h hy (.inr hno)),
      fun hkind => new answersAtHome_release hkind rfl, fun hkind => new answersAtHome_renew hkind rfl⟩
    obtain ⟨wait, hrow⟩ := takeRows_answer e hmem
    exact ⟨fun h => new hrow hkind (State.homeTake_free (s := s.withoutMsg loc m) wait h),
      fun y h hy => new hrow hkind (State.homeTake_own (s := s.withoutMsg loc m) h wait hy)⟩
  · obtain ⟨act, hrow⟩ := homeRows_answer e hmem
    exact ⟨hrow.disabled hal hm hkind, fun _ he => hrow.again hal hm hkind hi he⟩
  · have hx : (s.withoutMsg loc m).binding? m.binding = some x := hx
    exact ⟨fun q hkind h hq hr => exec_tokenMsgAnswer hal hm hkind (State.tokenAnswered_request hx h hst hq hr),
      fun hkind hn hl hw => exec_tokenMsgGrant hal hm hkind (State.tokenGranted_waits hx hst hn hl hw),
      fun hkind h => exec_tokenMsgGrant hal hm hkind (State.tokenGranted_releases hx hst h)⟩

end Sys2Proof.Machine
end

