-- ==== Sys2Proof/Proofs/TokenTimes.lean ====
section
/-! PROOFS. Resends, periodic messages and leases of fabric tokens (R467 to R472). -/
namespace Sys2Proof.Machine

open Sys2Proof

/-! ### Bindings in time -/

/-- What the Token unit does to a binding in use is followed by the report of R460. -/
theorem State.onBinding_used {s : State} {b : Nat} {x : Binding} (hal : s.alive = true) (hx : s.binding? b = some x) (k : Binding → State) :
    s.onBinding b k = (k x).reportLevels := by
  simp only [State.onBinding, hal, hx]

/-- At a frame boundary a binding's message has a number of its own (R469, R470). -/
theorem State.periodic_due {s : State} {b kind : Nat} {x : Binding} (h : x.lastSent / 1000000 < s.frame) :
    s.periodic b x kind =
      (s.takeRequest.2.setBinding b { x with renewing := some (s.takeRequest.1, s.ns) }).sendToken x.homeLoc
        (s.bindMsg b x kind s.takeRequest.1 false) := if_pos h

/-- The wait doubles up to 1 ms with each resend (R467). -/
def doubledWait (wait : Nat) : Nat := minN (2 * wait) 1000000

section
variable {s : State} {b : Nat} {x : Binding} (hal : s.alive = true) (hx : s.binding? b = some x)
include hal hx

section
variable {q : TokenReq} (hq : x.req = some q)
include hq

theorem exec_tokenRequestRetry_due (hwait : q.sent + q.wait ≤ s.ns) (hlimit : s.ns + doubledWait q.wait ≤ s.requestLimit x q) :
    exec (.tokenRequestRetry b) s =
      .next ((s.setBinding b { x with req := some { q with sent := s.ns, wait := doubledWait q.wait } }).sendToken x.homeLoc
        (s.bindMsg b x q.kind q.request false)).reportLevels := by
  simp only [exec, execTokenRequestRetry]
  rw [State.onBinding_used hal hx]
  simp only [hq]
  exact congrArg (fun t : State => Host.Outcome.next t.reportLevels) (if_pos ⟨hwait, hlimit⟩)

/-- At its horizon a request fails with an event. -/
theorem exec_tokenRequestFail_due (hlimit : s.requestLimit x q ≤ s.ns) :
    exec (.tokenRequestFail b) s =
      .next ((s.setBinding b { x with req := none, ready := some valueFailed, state := .FAILED }).raise 0x141 (some x.fn)
        b).reportLevels := by
  simp only [exec, execTokenRequestFail]
  rw [State.onBinding_used hal hx]
  simp only [hq, hlimit, if_true]

end

/-- The row of a periodic message, in the state of the binding that sends it. -/
theorem exec_periodic_due {i : Instr} {st : BindState} {kind : Nat}
    (hrow : exec i s = .next (s.onBinding b fun x => if x.state = st then s.periodic b x kind else s)) (hst : x.state = st)
    (h : x.lastSent / 1000000 < s.frame) :
    exec i s =
      .next ((s.takeRequest.2.setBinding b { x with renewing := some (s.takeRequest.1, s.ns) }).sendToken x.homeLoc
        (s.bindMsg b x kind s.takeRequest.1 false)).reportLevels := by
  rw [hrow, State.onBinding_used hal hx, if_pos hst, State.periodic_due h]

/-- A token whose RENEW the home has not answered for 3 ms is dropped, and the next read says so (R472). -/
theorem exec_tokenLeaseDrop_due (hst : x.state = .HELD) (h : x.renewed + 3000000 ≤ s.ns) :
    exec (.tokenLeaseDrop b) s =
      .next ((s.setBinding b { x with
        state := .IDLE, lost := false, top := 0, renewing := none,
        ready := some (tokenValue false false false (s.gen x.fn) x.fn) }).raise 0x142 (some x.fn) b).reportLevels := by
  simp only [exec, execTokenLeaseDrop]
  rw [State.onBinding_used hal hx, if_pos ⟨hst, h⟩]

end

/-! ### Releases and homes in time -/

section
variable {s : State} (hal : s.alive = true)
include hal

/-- A RELEASE that no ANSWER has come for is sent again (R468). -/
theorem exec_tokenReleaseResend_due {n : Nat} {r : Release} (hr : Tbl.get? s.tk.releases n = some r) (h : r.sent + r.wait ≤ s.ns) :
    exec (.tokenReleaseResend n) s =
      .next (({ s with tk := { s.tk with
        releases := Tbl.put s.tk.releases n { r with sent := s.ns, wait := doubledWait r.wait } } } : State).sendToken r.homeLoc
          r.msg) := by
  simp only [exec, execTokenReleaseResend, hal, hr, h, if_true]
  rfl

section
variable {i : Nat} (hheld : (s.home i).holder.isSome = true) (hend : (s.home i).lease ≤ s.ns)
include hheld hend

/-- A lease, or a grant that was not confirmed, that runs out is counted, and the token passes on, marked lost (R471). -/
theorem State.lapse_due {granting : Bool} (h : (s.home i).granting.isSome = granting) :
    s.lapse i granting = (s.evidence 0x60020).homeRelease i true := by
  simp only [State.lapse, hal, hheld, hend, h, beq_self_eq_true, decide_true, Bool.and_self, if_true]

/-- The two rows name what runs out. -/
theorem exec_tokenLapses_due :
    ∀ e ∈ [(Instr.tokenLeaseLapse i, false), (.tokenGrantLapse i, true)], (s.home i).granting.isSome = e.2 →
      exec e.1 s = .next ((s.evidence 0x60020).homeRelease i true) :=
  List.forall_mem_cons.mpr ⟨fun h => congrArg Host.Outcome.next (State.lapse_due hal hheld hend h),
    List.forall_mem_singleton.mpr fun h => congrArg Host.Outcome.next (State.lapse_due hal hheld hend h)⟩

end

end

/-- Settles O37: the lemma of each timer at its end. -/
theorem tokensInTime : Obligations.TokensInTime := fun _ _ _ hal hx =>
  ⟨fun _ => exec_tokenRequestRetry_due hal hx, fun _ => exec_tokenRequestFail_due hal hx, fun _ _ => exec_tokenReleaseResend_due hal,
    List.forall_mem_cons.mpr ⟨exec_periodic_due hal hx rfl, List.forall_mem_singleton.mpr (exec_periodic_due hal hx rfl)⟩,
    exec_tokenLeaseDrop_due hal hx, fun e he hheld hgrant hend => exec_tokenLapses_due hal hheld hend e he hgrant⟩

end Sys2Proof.Machine
end

