-- ==== Sys2Proof/Proofs/Fuses.lean ====
section
/-! PROOFS. A step runs the front of the queue (R480) and lowers no fuse (R503), and what reset leaves (R530, R548, R623). -/
namespace Sys2Proof.Machine

open Sys2Proof

/-- Settles O1: a step matches the front of the queue and runs it on the rest. -/
theorem stepRunsTheFront : Obligations.StepRunsTheFront :=
  fun _ _ _ => rfl

/-- Agreement with a footing: the fuses are kept, and the queue is the footing's. -/
theorem State.Sound.fuses {s t : State} (h : t.Sound s.footing) : FusesKept s t ∧ t.pending = s.pending.tail := by
  obtain ⟨hvariant, hver, hqueue, -, -⟩ := h
  exact ⟨⟨hvariant, hver⟩, hqueue⟩

/-- Settles O3: the agreement that every row and the core cycle keep carries the fuses and the queue. -/
theorem fusesNeverLowered : Obligations.FusesNeverLowered :=
  fun _ _ h => (step_sound h).fuses

/-! ### Reset -/

/-- With no counter and no kept reply listed, the invariant holds of reset. -/
theorem reset_inv : State.reset.Inv :=
  ⟨⟨List.Pairwise.nil, fun _ he => nomatch he⟩, fun _ => Nat.zero_le 64⟩

/-- Settles O2: reset lists no port, so each is as `Port.initial` gives it, and three registers are read off. -/
theorem resetValues : Obligations.ResetValues :=
  ⟨reset_inv, ⟨rfl, rfl, rfl, rfl, rfl, rfl, rfl⟩, fun _ _ => ⟨rfl, rfl, rfl⟩, rfl, rfl, rfl⟩

end Sys2Proof.Machine
end

