-- ==== Sys2Proof/Proofs/Fields.lean ====
section
/-! PROOFS. Little-endian fields in a row (R5): what is read of the first and of those behind it. -/
namespace Sys2Proof.Machine

open Sys2Proof

/-- The field at the front is read back. -/
theorem rd_front {n v : Nat} (b : List Byte) (h : v < 256 ^ n) : rd (le n v ++ b) 0 n = v := rd_append [] b n v h

/-- A read behind a field does not see it. -/
theorem rd_behind {m o n v : Nat} (b : List Byte) (h : m ≤ o) : rd (le m v ++ b) o n = rd b (o - m) n := by
  simp [rd, List.drop_append, List.drop_eq_nil_of_le, h]

end Sys2Proof.Machine
end

