-- ==== Sys2Proof/Proofs/Replies.lean ====
section
/-! PROOFS. Duplicates of a command (R491), the replies kept of each source (R491) and the layout of a reply (R478). -/
namespace Sys2Proof.Machine

open Sys2Proof

/-! ### Duplicates -/

section
variable {i : Instr} {c : Cmd} {s : State} (hc : cmdOf i = some c) (hserved : s.serves c.h.src = true)
include hc hserved

/-- A packet equal to that of a command still running is only counted. -/
theorem endsWith_of_runningDup (h : s.runningDup c = true) : EndsWith i s (s.evidence 0x4005C) :=
  endsWith_of_command hc (by simp [State.carriesOut, hc, h]) fun body => by simp [State.command, hc, hserved, h]

/-- A command that has the source and sequence of a kept reply is answered by it: the same packet with that reply, another as a bad packet. -/
theorem endsWith_of_kept {k : Kept} (hfresh : s.runningDup c = false) (hmoves : s.standsStill = false)
    (hk : (s.cc.kept.find? fun k => sameOrigin k.hdr c.h) = some k) :
    EndsWith i s (if k.bytes = c.bytes then (s.evidence 0x4005C).sendReply c.h k.reply
      else s.sendReply c.h (replyBytes c.opcode c.h.seq .BAD_PACKET (firstDiff k.bytes c.bytes 0) [])) := by
  refine endsWith_of_command hc (by simp [State.carriesOut, hc, hk]) fun body => ?_
  simp only [State.command, hc, hserved, hfresh, hmoves, State.startCommand, hk, Bool.not_true, Bool.false_eq_true, if_false]

end

/-- Settles O7: a duplicate is told before the checks of R480, from the commands running and the replies kept. -/
theorem duplicatesAnswered : Obligations.DuplicatesAnswered := by
  intro i c s hc hserved
  refine ⟨endsWith_of_runningDup hc hserved, fun k hfresh hmoves hk => ⟨fun heq => ?_, fun hne => ?_⟩⟩
  · have h := endsWith_of_kept hc hserved hfresh hmoves hk
    rwa [if_pos heq] at h
  · have h := endsWith_of_kept hc hserved hfresh hmoves hk
    rwa [if_neg hne] at h

/-! ### Replies kept -/

/-- The replies of one source among those kept. -/
def repliesOf (x : CmdSrc) (l : List Kept) : List Kept := l.filter fun y => srcKey y.hdr.src == srcKey x

theorem repliesOf_append (x : CmdSrc) (l m : List Kept) : repliesOf x (l ++ m) = repliesOf x l ++ repliesOf x m :=
  List.filter_append ..

theorem repliesOf_erase (x : CmdSrc) (l : List Kept) (o : Kept) : repliesOf x (l.erase o) = (repliesOf x l).erase o :=
  List.erase_filter.symm

theorem repliesOf_self (k : Kept) : repliesOf k.hdr.src [k] = [k] := by simp [repliesOf]

theorem repliesOf_other {k : Kept} {x : CmdSrc} (h : srcKey x ≠ srcKey k.hdr.src) : repliesOf x [k] = [] := by
  simp [repliesOf, Ne.symm h]

/-- With room for the source, a reply is kept behind the others. -/
theorem keepReply_room {l : List Kept} {k : Kept} (h : (repliesOf k.hdr.src l).length < 64) : keepReply l k = l ++ [k] := by
  change (if 64 ≤ (repliesOf k.hdr.src l).length then _ else l) ++ [k] = l ++ [k]
  rw [if_neg (Nat.not_le.mpr h)]

/-- With 64 of the source kept, its oldest gives way. -/
theorem keepReply_full {l m : List Kept} {k o : Kept} (hl : repliesOf k.hdr.src l = o :: m) (h : 64 ≤ (repliesOf k.hdr.src l).length) :
    keepReply l k = l.erase o ++ [k] := by
  have hmine : (l.filter fun x => srcKey x.hdr.src == srcKey k.hdr.src) = o :: m := hl
  simp only [keepReply, hmine, List.head?_cons]
  rw [if_pos (hl ▸ h)]

/-- A reply kept touches no other source's. -/
theorem repliesOf_keepReply_other {l : List Kept} {k : Kept} {x : CmdSrc} (h : srcKey x ≠ srcKey k.hdr.src) :
    repliesOf x (keepReply l k) = repliesOf x l := by
  rcases Nat.lt_or_ge (repliesOf k.hdr.src l).length 64 with hroom | hfull
  · rw [keepReply_room hroom, repliesOf_append, repliesOf_other h, List.append_nil]
  · obtain ⟨o, m, hl⟩ := List.exists_cons_of_length_pos (Nat.lt_of_lt_of_le (by decide) hfull)
    have ho : o ∈ repliesOf k.hdr.src l := hl ▸ List.mem_cons_self
    have hkey : srcKey o.hdr.src = srcKey k.hdr.src := by simpa using (List.mem_filter.mp ho).2
    have hnot : o ∉ repliesOf x l := fun hin => h (by rw [← hkey]; exact (by simpa using (List.mem_filter.mp hin).2 : _ = _).symm)
    rw [keepReply_full hl hfull, repliesOf_append, repliesOf_other h, List.append_nil, repliesOf_erase, List.erase_of_not_mem hnot]

theorem repliesOf_keepReply_room {l : List Kept} {k : Kept} (h : (repliesOf k.hdr.src l).length < 64) :
    repliesOf k.hdr.src (keepReply l k) = repliesOf k.hdr.src l ++ [k] := by
  rw [keepReply_room h, repliesOf_append, repliesOf_self]

theorem repliesOf_keepReply_full {l : List Kept} {k : Kept} (h : (repliesOf k.hdr.src l).length = 64) :
    repliesOf k.hdr.src (keepReply l k) = (repliesOf k.hdr.src l).tail ++ [k] := by
  obtain ⟨o, m, hl⟩ := List.exists_cons_of_length_pos (l := repliesOf k.hdr.src l) (by omega)
  rw [keepReply_full hl (by omega), repliesOf_append, repliesOf_self, repliesOf_erase, hl, List.erase_cons_head, List.tail_cons]

theorem repliesOf_keepReply_le {l : List Kept} {k : Kept} (h : (repliesOf k.hdr.src l).length ≤ 64) :
    (repliesOf k.hdr.src (keepReply l k)).length ≤ 64 := by
  rcases Nat.lt_or_eq_of_le h with hroom | hfull
  · rw [repliesOf_keepReply_room hroom, List.length_append]
    exact hroom
  · rw [repliesOf_keepReply_full hfull]
    simp [hfull]

/-! ### The layout of a reply -/

section
variable {opcode seq detail : Nat} {st : Status} {payload : List Byte}

theorem replyBytes_length : (replyBytes opcode seq st detail payload).length = 16 + payload.length := by
  simp [replyBytes]
  omega

theorem statusCode_lt (st : Status) : statusCode st < 256 ^ 2 := by cases st <;> decide

theorem replyBytes_drop : (replyBytes opcode seq st detail payload).drop 16 = payload := rfl

/-- The header's fields are read back, each at its offset of R478. -/
theorem replyBytes_header (ho : opcode < 2 ^ 16) (hs : seq < 2 ^ 32) (hd : detail < 2 ^ 32) (hp : payload.length < 2 ^ 16) :
    let b := replyBytes opcode seq st detail payload
    rd b 0 2 = opcode ∧ rd b 2 2 = 0 ∧ rd b 4 4 = seq ∧ rd b 8 2 = statusCode st ∧ rd b 10 2 = payload.length ∧ rd b 12 4 = detail := by
  intro b
  refine ⟨?_, ?_, ?_, ?_, ?_, ?_⟩ <;> simp only [b, replyBytes, List.append_assoc, rd_behind, Nat.reduceLeDiff, Nat.reduceSub]
  exacts [rd_front _ ho, rd_front _ (by decide), rd_front _ hs, rd_front _ (statusCode_lt st), rd_front _ hp, rd_front _ hd]

end

/-- A reply that MCTP can carry is sent over it as it is. -/
theorem State.sendReply_mctp {s : State} {h : CmdHdr} {eid tag : Nat} {b : List Byte} (hsrc : h.src = .mctp eid tag)
    (hfit : b.length ≤ maxMessage) : s.sendReply h b = s.emit (.mctp eid tag b) := by
  simp only [State.sendReply, hsrc, cutReply, if_pos hfit]

/-- Settles O8: a source's replies through `keepReply`, and a reply's fields at their offsets. -/
theorem repliesKeptAndLaidOut : Obligations.RepliesKeptAndLaidOut := by
  refine ⟨fun l k x => ⟨repliesOf_keepReply_other, repliesOf_keepReply_room, repliesOf_keepReply_full, repliesOf_keepReply_le⟩, ?_⟩
  intro s h opcode detail st payload ho hs hd hp
  obtain ⟨hop, hflags, hseq, hst, hlen, hdetail⟩ := replyBytes_header (st := st) ho hs hd hp
  exact ⟨⟨hop, hflags, hseq, hst, hlen, hdetail, replyBytes_drop, replyBytes_length⟩, fun _ _ => State.sendReply_mctp⟩

end Sys2Proof.Machine
end

