-- ==== Sys2Proof/Proofs/Packets.lean ====
section
/-! PROOFS. Command packets read back as the commands they spell (R473, R477, R480, R499): fields laid out and read in order, then the
parameter area, then the header, and the row of every opcode. -/
namespace Sys2Proof.Machine

open Sys2Proof

/-! ### Alignment -/

/-- The next multiple of the alignment of fields of width `w` (R477). -/
abbrev alignUp (w o : Nat) : Nat := ceilDiv o (minN w 8) * minN w 8

theorem minN_pos {w : Nat} (h : 0 < w) : 0 < minN w 8 := by
  unfold minN
  split <;> omega

theorem ceilDiv_eq (n : Nat) {m : Nat} (h : 0 < m) : ceilDiv n m = n / m + if n % m = 0 then 0 else 1 := by
  have hr : n % m < m := Nat.mod_lt n h
  have hsplit : n + m - 1 = n % m + m - 1 + m * (n / m) := by have := Nat.mod_add_div n m; omega
  rw [ceilDiv, hsplit, Nat.add_mul_div_left _ _ h, Nat.add_comm]
  congr 1
  split
  · next hz => rw [hz, Nat.zero_add]; exact Nat.div_eq_of_lt (by omega)
  · rw [show n % m + m - 1 = n % m - 1 + m by omega, Nat.add_div_right _ h, Nat.div_eq_of_lt (by omega)]

theorem ceilDiv_mul_of_dvd {n m : Nat} (h : 0 < m) (hd : m ∣ n) : ceilDiv n m * m = n := by
  rw [ceilDiv_eq n h, if_pos (Nat.mod_eq_zero_of_dvd hd), Nat.add_zero, Nat.div_mul_cancel hd]

/-- Padding is what lacks to the next multiple. -/
theorem add_padding (n : Nat) {m : Nat} (h : 0 < m) : n + (m - n % m) % m = ceilDiv n m * m := by
  have hdiv := Nat.div_add_mod n m
  have hr : n % m < m := Nat.mod_lt n h
  rw [ceilDiv_eq n h, Nat.add_mul, Nat.mul_comm (n / m) m]
  split
  · next hz => rw [hz, Nat.sub_zero, Nat.mod_self, Nat.zero_mul]; omega
  · rw [Nat.mod_eq_of_lt (a := m - n % m) (by omega), Nat.one_mul]; omega

theorem length_padTo (b : List Byte) {m : Nat} (h : 0 < m) : (padTo m b).length = ceilDiv b.length m * m := by
  rw [padTo, List.length_append, List.length_replicate, add_padding _ h]

theorem le_ceilDiv_mul (n : Nat) {m : Nat} (h : 0 < m) : n ≤ ceilDiv n m * m := by
  rw [← add_padding n h]
  exact Nat.le_add_right ..

theorem le_alignUp {w : Nat} (o : Nat) (h : 0 < w) : o ≤ alignUp w o := le_ceilDiv_mul o (minN_pos h)

/-! ### Fields laid out -/

theorem length_putField {w : Nat} (b : List Byte) (v : Nat) (h : 0 < w) : (putField b w v).length = alignUp w b.length + w := by
  rw [putField, List.length_append, le_length, length_padTo b (minN_pos h)]

theorem putField_extends (b : List Byte) (w v : Nat) : b <+: putField b w v :=
  List.IsPrefix.trans ⟨_, rfl⟩ ⟨_, rfl⟩

/-- A field stands at its alignment behind what was there, and is read back from there, whatever follows. -/
theorem rd_putField {w v : Nat} (b d : List Byte) (hw : 0 < w) (hv : v < 256 ^ w) : rd (putField b w v ++ d) (alignUp w b.length) w = v :=
  rd_field (a := padTo (minN w 8) b) rfl (length_padTo b (minN_pos hw)).symm hv

theorem putFields_extends (b : List Byte) (ws vs : List Nat) : b <+: putFields b ws vs := by
  induction ws generalizing b vs with
  | nil => exact ⟨[], List.append_nil b⟩
  | cons w ws ih =>
    cases vs with
    | nil => exact ⟨[], List.append_nil b⟩
    | cons v vs => exact (putField_extends b w v).trans (ih _ vs)

/-- Each value fits its field, and no field is empty. -/
abbrev FieldsFit (ws vs : List Nat) : Prop := List.Forall₂ (fun w v => 0 < w ∧ v < 256 ^ w) ws vs

/-- Fields that fit are read back in order, and the read ends where they end. -/
theorem readFields_putFields {ws vs : List Nat} (h : FieldsFit ws vs) (b d : List Byte) :
    readFields (putFields b ws vs ++ d) ws b.length = (vs, (putFields b ws vs).length) := by
  induction h generalizing b with
  | nil => rfl
  | @cons w v ws vs hwv _ ih =>
    obtain ⟨hw, hv⟩ := hwv
    obtain ⟨e, he⟩ := putFields_extends (putField b w v) ws vs
    have hhead : rd (putFields (putField b w v) ws vs ++ d) (alignUp w b.length) w = v := by
      rw [← he, List.append_assoc, rd_putField b _ hw hv]
    have htail := ih (putField b w v)
    rw [length_putField b v hw] at htail
    simp only [readFields, putFields]
    rw [htail, hhead]

/-- Where fields end depends on their widths alone. -/
theorem readFields_snd (b d : List Byte) (ws : List Nat) (o : Nat) : (readFields b ws o).2 = (readFields d ws o).2 := by
  induction ws generalizing o with
  | nil => rfl
  | cons w ws ih => exact ih _

/-! ### The elements of an array

Their width divides its own alignment, so that they stand one behind the other. -/

/-- The elements of an array put behind what is there. -/
def putElems (w : Nat) (b : List Byte) (l : List Nat) : List Byte := l.foldl (fun b v => putField b w v) b

theorem putElems_extends (w : Nat) (b : List Byte) (l : List Nat) : b <+: putElems w b l := by
  induction l generalizing b with
  | nil => exact ⟨[], List.append_nil b⟩
  | cons v l ih => exact (putField_extends b w v).trans (ih _)

section
variable {w : Nat} (hw : w = 1 ∨ w = 8)
include hw

/-- Behind an element the next stands at once. -/
theorem alignUp_putField (b : List Byte) (v : Nat) : alignUp w (putField b w v).length = alignUp w b.length + w := by
  have hpos : 0 < w := by omega
  have hm : minN w 8 = w := by rcases hw with rfl | rfl <;> rfl
  rw [length_putField b v hpos]
  simp only [alignUp, hm]
  exact ceilDiv_mul_of_dvd hpos ⟨ceilDiv b.length w + 1, by ring⟩

theorem length_putElems (b : List Byte) (l : List Nat) :
    (putElems w b l).length = if l = [] then b.length else alignUp w b.length + l.length * w := by
  induction l generalizing b with
  | nil => rfl
  | cons v l ih =>
    have hpos : 0 < w := by omega
    have hstep : putElems w b (v :: l) = putElems w (putField b w v) l := rfl
    rw [hstep, ih, if_neg (List.cons_ne_nil v l), alignUp_putField hw, length_putField b v hpos, List.length_cons, Nat.succ_mul]
    split
    · next hl => simp [hl]
    · omega

/-- Elements that fit are read back in order. -/
theorem rd_putElems {l : List Nat} (hl : ∀ v ∈ l, v < 256 ^ w) (b d : List Byte) :
    ((List.range l.length).map fun k => rd (putElems w b l ++ d) (alignUp w b.length + k * w) w) = l := by
  induction l generalizing b with
  | nil => rfl
  | cons v l ih =>
    have hpos : 0 < w := by omega
    have hstep : putElems w b (v :: l) = putElems w (putField b w v) l := rfl
    obtain ⟨e, he⟩ := putElems_extends w (putField b w v) l
    have hhead : rd (putElems w (putField b w v) l ++ d) (alignUp w b.length) w = v := by
      rw [← he, List.append_assoc, rd_putField b _ hpos (hl v List.mem_cons_self)]
    have htail := ih (fun x hx => hl x (List.mem_cons_of_mem v hx)) (putField b w v)
    rw [alignUp_putField hw] at htail
    rw [List.length_cons, List.range_succ_eq_map, List.map_cons, List.map_map, hstep, Nat.zero_mul, Nat.add_zero, hhead]
    refine congrArg (v :: ·) (Eq.trans (List.map_congr_left fun k _ => ?_) htail)
    refine congrArg (fun o => rd _ o w) ?_
    rw [Nat.succ_mul]
    omega

end

/-! ### The parameter area -/

/-- What R477 lays out of a command: parameters in fields that hold them, elements as many as the counts say, and room for them. -/
structure Laid (i : OpInfo) (params elems : List Nat) : Prop where
  width : i.tail.width = 1 ∨ i.tail.width = 8
  fields : FieldsFit i.widths params
  count : elems.length = i.tail.count params
  fit : ∀ v ∈ elems, v < 256 ^ i.tail.width
  room : alignUp i.tail.width (readFields [] i.widths 0).2 + elems.length * i.tail.width ≤ 65528

theorem Laid.length_params {i : OpInfo} {params elems : List Nat} (h : Laid i params elems) :
    (putFields [] i.widths params).length = (readFields [] i.widths 0).2 := by
  have hread := readFields_putFields h.fields [] []
  rw [readFields_snd [] (putFields [] i.widths params ++ []) i.widths 0]
  exact (congrArg Prod.snd hread).symm

section
variable {i : OpInfo} {params elems : List Nat} (h : Laid i params elems)
include h

theorem Laid.width_pos : 0 < i.tail.width := by
  rcases h.width with hw | hw <;> omega

theorem Laid.elems_eq_nil (ht : i.tail = .none) : elems = [] := by
  have hcount := h.count
  rw [ht] at hcount
  exact List.length_eq_zero_iff.mp hcount

theorem Laid.readFields_area (d : List Byte) :
    readFields (putFields [] i.widths params ++ d) i.widths 0 = (params, (readFields [] i.widths 0).2) := by
  have hread := readFields_putFields h.fields [] d
  rwa [h.length_params] at hread

/-- The area ends where the parser looks for its end: behind the elements, or behind the fields where there is no array. -/
theorem Laid.length_area : (i.area params elems).length =
    ceilDiv (if i.tail = .none then (readFields [] i.widths 0).2
      else alignUp i.tail.width (readFields [] i.widths 0).2 + elems.length * i.tail.width) 8 * 8 := by
  have harea : i.area params elems = padTo 8 (putElems i.tail.width (putFields [] i.widths params) elems) := rfl
  rw [harea, length_padTo _ (by decide), length_putElems h.width, h.length_params]
  by_cases htail : i.tail = .none
  · rw [if_pos (h.elems_eq_nil htail), if_pos htail]
  · rw [if_neg htail]
    split
    · next hnil =>
      rw [hnil, List.length_nil, Nat.zero_mul, Nat.add_zero]
      rcases h.width with hw | hw
      · simp [hw, alignUp, minN, ceilDiv]
      · rw [hw]
        exact (ceilDiv_mul_of_dvd (by decide) (Dvd.intro_left _ rfl)).symm
    · rfl

theorem Laid.length_area_lt : (i.area params elems).length < 2 ^ 16 := by
  have hend := le_alignUp (readFields [] i.widths 0).2 h.width_pos
  have hroom := h.room
  have hle : ∀ n, n ≤ 65528 → ceilDiv n 8 * 8 < 2 ^ 16 := by intro n hn; simp only [ceilDiv]; omega
  rw [h.length_area]
  split
  · exact hle _ (by omega)
  · exact hle _ hroom

theorem Laid.length_elems_le : elems.length ≤ (i.area params elems).length := by
  have hn : elems.length ≤ elems.length * i.tail.width := Nat.le_mul_of_pos_right _ h.width_pos
  rw [h.length_area]
  refine Nat.le_trans ?_ (le_ceilDiv_mul _ (by decide))
  split
  · next htail => simp [h.elems_eq_nil htail]
  · omega

/-- The parameter area is parsed as the parameters and elements that it was laid out from. -/
theorem Laid.parseArea_area (hdr : CmdHdr) :
    parseArea i hdr (i.area params elems) = some { h := hdr, opcode := i.opcode, params := params, elems := elems } := by
  obtain ⟨e, he⟩ := putElems_extends i.tail.width (putFields [] i.widths params) elems
  have harea : i.area params elems = putElems i.tail.width (putFields [] i.widths params) elems ++ List.replicate _ 0#8 := rfl
  have hfields : readFields (i.area params elems) i.widths 0 = (params, (readFields [] i.widths 0).2) := by
    rw [harea, ← he, List.append_assoc, h.readFields_area]
  have helems : ((List.range elems.length).map fun k =>
      rd (i.area params elems) (alignUp i.tail.width (readFields [] i.widths 0).2 + k * i.tail.width) i.tail.width) = elems := by
    have hread := rd_putElems h.width h.fit (putFields [] i.widths params)
    rw [h.length_params] at hread
    rw [harea]
    exact hread _
  simp only [parseArea, hfields, ← h.count]
  rw [if_pos ⟨h.length_elems_le, h.length_area⟩, helems]

end

/-! ### The packet -/

section
variable {c : Cmd} {info : OpInfo} (hi : opInfo c.opcode = some info)
include hi

theorem Cmd.bytes_eq : c.bytes = le 2 c.opcode ++ (le 2 (b2n c.h.force) ++ (le 4 c.h.seq ++ (le 2 (info.area c.params c.elems).length ++
    (le 1 c.h.target ++ (le 1 1 ++ (le 2 c.h.fn ++ (le 2 0 ++ info.area c.params c.elems))))))) := by
  simp only [Cmd.bytes, hi, List.append_assoc]

theorem Cmd.length_bytes : c.bytes.length = 16 + (info.area c.params c.elems).length := by
  rw [Cmd.bytes_eq hi]
  simp only [List.length_append, le_length]
  omega

theorem Cmd.bytes_drop : c.bytes.drop 16 = info.area c.params c.elems := by
  rw [Cmd.bytes_eq hi]
  rfl

/-- The fields of a packet's header, each at its offset (R473). -/
theorem Cmd.rd_bytes (hwf : c.h.wf = true) (ha : (info.area c.params c.elems).length < 2 ^ 16) :
    rd c.bytes 2 2 = b2n c.h.force ∧ rd c.bytes 4 4 = c.h.seq ∧ rd c.bytes 8 2 = (info.area c.params c.elems).length ∧
    rd c.bytes 10 1 = c.h.target ∧ rd c.bytes 11 1 = 1 ∧ rd c.bytes 12 2 = c.h.fn ∧ rd c.bytes 14 2 = 0 := by
  have hforce : b2n c.h.force < 256 ^ 2 := by cases c.h.force <;> decide
  simp only [CmdHdr.wf, fits, Bool.and_eq_true, decide_eq_true_eq] at hwf
  obtain ⟨⟨⟨-, hseq⟩, htarget⟩, hfn⟩ := hwf
  rw [Cmd.bytes_eq hi]
  refine ⟨?_, ?_, ?_, ?_, ?_, ?_, ?_⟩ <;> simp only [rd_behind, Nat.reduceLeDiff, Nat.reduceSub]
  exacts [rd_front _ hforce, rd_front _ hseq, rd_front _ ha, rd_front _ htarget, rd_front _ (by decide), rd_front _ hfn, rd_front _ (by decide)]

/-- The framing of a packet whose area fits the 16-bit length is right (R480). -/
theorem Cmd.frameFault_bytes (hwf : c.h.wf = true) (ha : (info.area c.params c.elems).length < 2 ^ 16) : frameFault c.bytes = none := by
  obtain ⟨hflags, -, hsize, -, hversion, -, hzero⟩ := Cmd.rd_bytes hi hwf ha
  have hforce : b2n c.h.force < 2 := by cases c.h.force <;> decide
  have hlen := Cmd.length_bytes hi
  simp only [frameFault, hversion, hflags, hsize, hzero]
  rw [if_neg (by omega), if_neg (by decide), if_neg (by omega), if_neg (by omega), if_neg (by decide)]

/-- A packet's header is read back. -/
theorem Cmd.hdrOf_bytes (hwf : c.h.wf = true) (ha : (info.area c.params c.elems).length < 2 ^ 16) : hdrOf c.h.src c.bytes = c.h := by
  obtain ⟨hflags, hseq, -, htarget, -, hfn, -⟩ := Cmd.rd_bytes hi hwf ha
  have hforce : bit (b2n c.h.force) 0 = c.h.force := by cases c.h.force <;> rfl
  simp only [hdrOf, hflags, hseq, htarget, hfn, hforce]

end

/-! ### The rows -/

/-- The opcode of an entry of R499 is the one that it is found by. -/
theorem opcode_of_opInfo {op : Nat} {info : OpInfo} (h : opInfo op = some info) : info.opcode = op := by
  simpa using List.find?_some h

theorem byteOf_toNat (l : List Byte) : (l.map (·.toNat)).map byteOf = l := by
  simp [byteOf, Function.comp_def]

theorem pairs_flatMap (l : List (Nat × Nat)) : pairs (l.flatMap fun e => [e.1, e.2]) = l := by
  induction l with
  | nil => rfl
  | cons e l ih => simp [pairs, ih]

/-- The row of a command's opcode, with its parameters, is the row it was. -/
theorem instrOf_of_cmdOf {i : Instr} {c : Cmd} (h : cmdOf i = some c) (hwf : i.wf = true) : instrOf c = some i := by
  cases i <;> cases h <;> simp only [instrOf, Nat.reduceDiv]
  case controlAccessSet.refl hdr mask locations =>
    simp only [Instr.wf, Bool.and_eq_true, beq_iff_eq] at hwf
    obtain ⟨⟨-, hlen⟩, -⟩ := hwf
    obtain ⟨a, b, c, d, rfl⟩ := List.length_eq_four.mp hlen
    rfl
  case commandForward.refl hdr location packet =>
    exact congrArg (fun l => some (Instr.commandForward hdr location l)) (byteOf_toNat packet)
  case windowOpen.refl hdr domain rights dirty id extents =>
    exact congrArg (fun l => some (Instr.windowOpen hdr domain rights dirty id l)) (pairs_flatMap extents)
  case journalMark.refl hdr note => exact congrArg (fun l => some (Instr.journalMark hdr l)) (byteOf_toNat note)
  case fwStageData.refl hdr offset data => exact congrArg (fun l => some (Instr.fwStageData hdr offset l)) (byteOf_toNat data)
  case makerProcedure.refl hdr procedure => exact congrArg (fun l => some (Instr.makerProcedure hdr l)) (byteOf_toNat procedure)
  all_goals rfl

/-- A row without an array is laid out when its parameters fit their fields. -/
theorem Laid.of_fields {info : OpInfo} {params : List Nat} (ht : info.tail = .none) (hf : FieldsFit info.widths params)
    (hr : (readFields [] info.widths 0).2 ≤ 65528) : Laid info params [] := by
  refine ⟨by rw [ht]; exact Or.inl rfl, hf, by rw [ht]; rfl, fun _ hv => (nomatch hv), ?_⟩
  rw [ht, List.length_nil, Nat.zero_mul, Nat.add_zero]
  simpa [Tail.width, alignUp, minN, ceilDiv] using hr

/-- Bytes fit the elements of a byte array. -/
theorem toNat_lt_of_mem {b : List Byte} : ∀ v ∈ b.map (·.toNat), v < 256 ^ 1 := by
  intro v hv
  obtain ⟨x, -, rfl⟩ := List.mem_map.mp hv
  exact x.isLt

/-- What the fields of a well-formed row hold fits them. -/
theorem laid_of_cmdOf {i : Instr} {c : Cmd} (h : cmdOf i = some c) (hwf : i.wf = true) :
    ∃ info, opInfo c.opcode = some info ∧ Laid info c.params c.elems := by
  cases i <;> cases h <;>
    simp only [Instr.wf, fits, Bool.and_eq_true, decide_eq_true_eq, room, fitAll, List.all_eq_true, beq_iff_eq, Nat.reducePow] at hwf
  case controlAccessSet.refl hdr mask locations =>
    obtain ⟨⟨⟨-, hmask⟩, hlen⟩, hfit⟩ := hwf
    obtain ⟨a, b, c, d, rfl⟩ := List.length_eq_four.mp hlen
    simp only [List.forall_mem_cons] at hfit
    exact ⟨_, rfl, .of_fields rfl (by simp [hmask, hfit]) (by decide)⟩
  case commandForward.refl hdr location packet =>
    obtain ⟨⟨-, hlocation⟩, hroom⟩ := hwf
    have hroom' : 8 + (packet.map (·.toNat)).length * 1 ≤ 65528 := by simpa using hroom
    exact ⟨_, rfl, Or.inl rfl, by simp [hlocation]; omega, by simp [Tail.count], toNat_lt_of_mem, hroom'⟩
  case rankTableWrite.refl hdr table first entries =>
    obtain ⟨⟨⟨⟨-, htable⟩, hfirst⟩, hroom⟩, hfit⟩ := hwf
    have hroom' : 16 + entries.length * 8 ≤ 65528 := by omega
    exact ⟨_, rfl, Or.inr rfl, by simp [htable, hfirst]; omega, by simp [Tail.count], hfit, hroom'⟩
  case windowOpen.refl hdr domain rights dirty id extents =>
    obtain ⟨⟨⟨⟨⟨⟨-, hdomain⟩, hrights⟩, hdirty⟩, hid⟩, hlen⟩, hfit⟩ := hwf
    have hcount : (extents.flatMap fun e => [e.1, e.2]).length = 2 * extents.length := by simp; omega
    have hroom : 16 + (extents.flatMap fun e => [e.1, e.2]).length * 8 ≤ 65528 := by omega
    have helems : ∀ v ∈ extents.flatMap fun e => [e.1, e.2], v < 256 ^ 8 := by
      intro v hv
      obtain ⟨e, he, hv⟩ := List.mem_flatMap.mp hv
      obtain ⟨h1, h2⟩ := hfit e he
      simp only [List.mem_cons, List.not_mem_nil, or_false] at hv
      rcases hv with rfl | rfl <;> assumption
    exact ⟨_, rfl, Or.inr rfl, by simp [hdomain, hrights, hdirty, hid, hlen], hcount, helems, hroom⟩
  case windowModify.refl hdr domain rights lazy id iovas =>
    obtain ⟨⟨⟨⟨⟨⟨-, hdomain⟩, hrights⟩, hlazy⟩, hid⟩, hlen⟩, hfit⟩ := hwf
    have hroom : 16 + iovas.length * 8 ≤ 65528 := by omega
    exact ⟨_, rfl, Or.inr rfl, by simp [hdomain, hrights, hlazy, hid, hlen], by simp [Tail.count], hfit, hroom⟩
  case collGroupCreate.refl hdr group epoch parent anchor depth size children =>
    obtain ⟨⟨⟨⟨⟨⟨⟨⟨-, hgroup⟩, hepoch⟩, hparent⟩, hanchor⟩, hdepth⟩, hsize⟩, hlen⟩, hfit⟩ := hwf
    have hroom : 12 + children.length * 1 ≤ 65528 := by omega
    exact ⟨_, rfl, Or.inl rfl, by simp [hgroup, hepoch, hparent, hanchor, hdepth, hsize, hlen], by simp [Tail.count], hfit, hroom⟩
  case journalMark.refl hdr note =>
    obtain ⟨-, hlen⟩ := hwf
    have hroom : 0 + (note.map (·.toNat)).length * 1 ≤ 65528 := by simp [hlen]
    exact ⟨_, rfl, Or.inl rfl, by simp, by simp [Tail.count, hlen], toNat_lt_of_mem, hroom⟩
  case fwStageData.refl hdr offset data =>
    obtain ⟨⟨-, hoffset⟩, hroom⟩ := hwf
    have hroom' : 8 + (data.map (·.toNat)).length * 1 ≤ 65528 := by simpa using hroom
    exact ⟨_, rfl, Or.inl rfl, by simp [hoffset]; omega, by simp [Tail.count], toNat_lt_of_mem, hroom'⟩
  case makerProcedure.refl hdr procedure =>
    obtain ⟨-, hroom⟩ := hwf
    have hroom' : 4 + (procedure.map (·.toNat)).length * 1 ≤ 65528 := by simpa using hroom
    exact ⟨_, rfl, Or.inl rfl, by simp; omega, by simp [Tail.count], toNat_lt_of_mem, hroom'⟩
  all_goals exact ⟨_, rfl, .of_fields rfl (by simp [hwf]) (by decide)⟩

/-- A well-formed row has a well-formed header. -/
theorem hdr_wf_of_cmdOf {i : Instr} {c : Cmd} (h : cmdOf i = some c) (hwf : i.wf = true) : c.h.wf = true := by
  cases i <;> cases h <;> simp only [Instr.wf, Bool.and_eq_true] at hwf
  all_goals simp only [hwf]

/-- Settles O5: the area is parsed back field by field, the header from its offsets, and the opcode gives the row. -/
theorem packetsReadBack : Obligations.PacketsReadBack := by
  intro i c hc hwf
  obtain ⟨info, hi, hlaid⟩ := laid_of_cmdOf hc hwf
  have hhdr := hdr_wf_of_cmdOf hc hwf
  have harea := hlaid.length_area_lt
  refine ⟨info, hi, Cmd.frameFault_bytes hi hhdr harea, Cmd.hdrOf_bytes hi hhdr harea, ?_, ?_, instrOf_of_cmdOf hc hwf⟩
  · rw [Cmd.bytes_drop hi, hlaid.parseArea_area, opcode_of_opInfo hi]
  · rw [Cmd.bytes_drop hi]
    exact if_pos rfl

end Sys2Proof.Machine
end

