-- ==== Sys2Proof/Proofs/ModeCommands.lean ====
section
/-! PROOFS. MODE_SET (R531, R532, R534): what it asks of each mode, and the entries into SERVICE and HEATH. -/
namespace Sys2Proof.Machine

open Sys2Proof

/-! ### What a mode answers -/

section
variable {s : State} {h : CmdHdr}

theorem State.toService_of_bringup (hm : s.rst.mode = .BRINGUP) (hstage : s.rst.stage = .AWAIT) (htop : s.jn.topology = true) :
    s.toService h = s.enterService.ok := by
  simp only [State.toService, hm]
  exact guarded_none (by simp [no, hstage, htop])

theorem State.toService_of_drain (hm : s.rst.mode = .DRAIN) : s.toService h = s.enterService.ok := by
  simp only [State.toService, hm]

/-- In HEATH the command waits for the wake, where the core supply can still be adjusted. -/
theorem State.toService_of_heath (hm : s.rst.mode = .HEATH) (hw : s.waitFull h = false) (havs : s.avsStopped = false) :
    s.toService h = .wait s .wake := by
  simp only [State.toService, hm]
  rw [guarded_none (by simp [no, hw]), havs]
  rfl

theorem State.toDrain_of_service (hm : s.rst.mode = .SERVICE) (hw : s.waitFull h = false) :
    s.toDrain h = .wait { s with rst := { s.rst with mode := .DRAIN, drained := false } } .drain := by
  simp only [State.toDrain, hm]
  exact guarded_none (by simp [no, hw])

theorem State.toDrain_of_ne_service (hm : s.rst.mode ≠ .SERVICE) : s.toDrain h = .done s .WRONG_MODE 0 [] := by
  unfold State.toDrain
  split
  · next hs => exact absurd hs hm
  · rfl

theorem State.toHeath_of_drain (hm : s.rst.mode = .DRAIN) (hd : s.rst.drained = true) : s.toHeath = s.enterHeath.ok := by
  simp only [State.toHeath, hm]
  exact guarded_none (by simp [no, hd])

theorem State.toHeath_of_ne_drain (hm : s.rst.mode ≠ .DRAIN) : s.toHeath = .done s .WRONG_MODE 0 [] := by
  unfold State.toHeath
  split
  · next hs => exact absurd hs hm
  · rfl

/-! ### Entry into SERVICE -/

theorem State.enterService_of_bringup (hm : s.rst.mode = .BRINGUP) :
    s.enterService = ({ s with
      rst := { s.rst with mode := .SERVICE, stage := .DONE, drained := false, wake := none }
      tt := { s.tt with pendingSeconds := none } } : State).createPfs.replayRest := by
  simp only [State.enterService, hm]

theorem State.enterService_of_drain (hm : s.rst.mode = .DRAIN) :
    s.enterService = (({ s with
      rst := { s.rst with mode := .SERVICE, stage := .DONE, drained := false, wake := none } } : State).answerOn .drain .FAILED 0
        []).serveRecorded := by
  simp only [State.enterService, hm]

end

/-! ### The command -/

/-- Modes have codes of their own (R530). -/
theorem modeCode_injective : Function.Injective modeCode := by
  intro a b
  cases a <;> cases b <;> simp [modeCode]

section
variable {s : State} {c : Cmd} {h : CmdHdr} {mode : Nat} (ha : Accepted (.modeSet h mode) c s)
include ha

/-- An accepted MODE_SET of a mode that may be set: the mode held already is OK, and another is asked of the mode held. -/
theorem exec_modeSet (hmode : mode = 2 ∨ mode = 3 ∨ mode = 4) :
    exec (.modeSet h mode) s = .next (State.conclude (.modeSet h mode) c
      (if modeCode s.rst.mode = mode then s.counted.ok
       else if mode = 2 then s.counted.toService h else if mode = 3 then s.counted.toDrain h else s.counted.toHeath)).settle :=
  exec_work_of_guards ha rfl rfl (by rcases hmode with rfl | rfl | rfl <;> rfl)

theorem exec_modeSet_held (hmode : mode = 2 ∨ mode = 3 ∨ mode = 4) (hm : modeCode s.rst.mode = mode) :
    exec (.modeSet h mode) s = .next (s.counted.answer (.modeSet h mode) c .OK 0 []).settle := by
  rw [exec_modeSet ha hmode, if_pos hm, conclude_ok]

end

section
variable {s : State} {c : Cmd} {h : CmdHdr}

theorem exec_modeSet_service (ha : Accepted (.modeSet h 2) c s) (hm : s.rst.mode ≠ .SERVICE) :
    exec (.modeSet h 2) s = .next (State.conclude (.modeSet h 2) c (s.counted.toService h)).settle := by
  have hcode : modeCode s.rst.mode ≠ 2 := fun hcode => hm (modeCode_injective hcode)
  rw [exec_modeSet ha (Or.inl rfl), if_neg hcode, if_pos rfl]

theorem exec_modeSet_drain (ha : Accepted (.modeSet h 3) c s) (hm : s.rst.mode ≠ .DRAIN) :
    exec (.modeSet h 3) s = .next (State.conclude (.modeSet h 3) c (s.counted.toDrain h)).settle := by
  have hcode : modeCode s.rst.mode ≠ 3 := fun hcode => hm (modeCode_injective hcode)
  rw [exec_modeSet ha (Or.inr (Or.inl rfl)), if_neg hcode, if_neg (by decide), if_pos rfl]

theorem exec_modeSet_heath (ha : Accepted (.modeSet h 4) c s) (hm : s.rst.mode ≠ .HEATH) :
    exec (.modeSet h 4) s = .next (State.conclude (.modeSet h 4) c s.counted.toHeath).settle := by
  have hcode : modeCode s.rst.mode ≠ 4 := fun hcode => hm (modeCode_injective hcode)
  rw [exec_modeSet ha (Or.inr (Or.inr rfl)), if_neg hcode, if_neg (by decide), if_neg (by decide)]

end

/-- Settles O40: what is asked of the mode held, mode by mode. -/
theorem modeSet : Obligations.ModeSet := by
  intro s c h mode ha hmode hwait
  refine ⟨exec_modeSet_held ha hmode, ?_, ?_, ?_, ?_, ?_, ?_⟩
  · rintro rfl hm hstage htop
    rw [exec_modeSet_service ha (by simp [hm]), State.toService_of_bringup (s := s.counted) hm hstage htop, conclude_ok,
      State.enterService_of_bringup (s := s.counted) hm]
    rfl
  · rintro rfl hm
    rw [exec_modeSet_service ha (by simp [hm]), State.toService_of_drain (s := s.counted) hm, conclude_ok,
      State.enterService_of_drain (s := s.counted) hm]
    rfl
  · rintro rfl hm havs
    rw [exec_modeSet_service ha (by simp [hm]), State.toService_of_heath (s := s.counted) hm hwait havs]
  · rintro rfl hm
    rw [exec_modeSet_drain ha (by simp [hm]), State.toDrain_of_service (s := s.counted) hm hwait]
    rfl
  · rintro rfl hm hd
    rw [exec_modeSet_heath ha (by simp [hm]), State.toHeath_of_drain (s := s.counted) hm hd, conclude_ok]
    rfl
  · rintro (⟨rfl, hm⟩ | ⟨rfl, hm⟩)
    · have hservice : s.rst.mode ≠ .SERVICE := by rcases hm with hm | hm <;> simp [hm]
      have hdrain : s.rst.mode ≠ .DRAIN := by rcases hm with hm | hm <;> simp [hm]
      rw [exec_modeSet_drain ha hdrain, State.toDrain_of_ne_service (s := s.counted) hservice, conclude_done]
    · have hdrain : s.rst.mode ≠ .DRAIN := by rcases hm with hm | hm <;> simp [hm]
      have hheath : s.rst.mode ≠ .HEATH := by rcases hm with hm | hm <;> simp [hm]
      rw [exec_modeSet_heath ha hheath, State.toHeath_of_ne_drain (s := s.counted) hdrain, conclude_done]

end Sys2Proof.Machine
end

