-- ==== Sys2Proof/Proofs/JournalCommands.lean ====
section
/-! PROOFS. The commands of the Journal unit (R519, R572, R581), of firmware (R500 to R504, R582) and MAKER_PROCEDURE (R505). -/
namespace Sys2Proof.Machine

open Sys2Proof

/-- Settles O43: only a procedure that is carried out and verifies is refused; without a valid signature it is answered. -/
theorem makerProcedure : Obligations.MakerProcedure := by
  intro s c h b ha
  refine ⟨fun hbad => ?_, fun hok => if_pos ⟨State.carriesOut_of_accepted ha, hok⟩⟩
  have hno : ¬(s.carriesOut (.makerProcedure h b) = true ∧ Config.makerProcedureVerifies b = true) := by simp [hbad]
  calc exec (.makerProcedure h b) s
      = .next (s.command (.makerProcedure h b) fun s => .done s .BAD_SIGNATURE 0 []) := if_neg hno
    _ = _ := by rw [State.command_of_accepted _ ha, conclude_done]

/-! ### A command that waits for the Journal unit -/

/-- Operations are put behind those queued with the answer that follows them, and an idle unit starts (R496, R560). -/
def State.journalWait (s : State) (opcode : Nat) (h : CmdHdr) (ops : List JOp) : CmdResult :=
  .wait ({ s with jr := { s.jr with queue := s.jr.queue ++ (ops ++ [JOp.answer opcode h false]) } } : State).journalStart .journal

/-- With room for a waiting command and a part that is supported, the command waits for its operations. -/
theorem State.journalRunCmd_waits {s : State} {h : CmdHdr} (hw : s.waitFull h = false) (hsup : s.jr.state ≠ .UNSUPPORTED) (opcode : Nat)
    (ops : List JOp) : s.journalRunCmd opcode h ops = s.journalWait opcode h ops := by
  have hsup' : (s.jr.state == .UNSUPPORTED) = false := beq_false_of_ne hsup
  exact guarded_none (by simp only [no, hw, hsup']; rfl)

section
variable {i : Instr} {c : Cmd} {s : State} {body : State → CmdResult} {gs : List (Bool × Status × Nat)} {k : CmdResult}

/-- As `exec_of_guards`, for a command of the Journal unit. -/
theorem exec_journal_of_guards (h : Accepted i c s) (hex : exec i s = .next (s.journalCommand i body))
    (hb : body s.counted = s.counted.guarded gs k) (hg : gs.all (fun g => !g.1) = true) :
    exec i s = .next (State.conclude i c k).journalSettle := by
  rw [hex, State.journal_of_accepted body h, hb, guarded_none hg]

/-- A command whose guards let it pass waits for its operations. -/
theorem exec_journal_waits {h : CmdHdr} {opcode : Nat} {ops : List JOp} (ha : Accepted i c s)
    (hex : exec i s = .next (s.journalCommand i body)) (hb : body s.counted = s.counted.guarded gs (s.counted.journalRunCmd opcode h ops))
    (hg : gs.all (fun g => !g.1) = true) (hw : s.counted.waitFull h = false) (hsup : s.counted.jr.state ≠ .UNSUPPORTED) :
    exec i s = .next (State.conclude i c (s.counted.journalWait opcode h ops)).journalSettle := by
  rw [exec_journal_of_guards ha hex hb hg, State.journalRunCmd_waits hw hsup]

end

section
variable {s : State} {c : Cmd} {h : CmdHdr} (hw : s.counted.waitFull h = false) (hsup : s.counted.jr.state ≠ .UNSUPPORTED)
include hw hsup

/-! ### The journal -/

theorem exec_configSave {flags : Nat} (ha : Accepted (.configSave h flags) c s)
    (hsize : ({ type := 0x20, number := 0, payload := s.counted.configPayload flags } : JRec).size ≤ 1048576) :
    exec (.configSave h flags) s = .next (State.conclude (.configSave h flags) c (s.counted.journalWait 0x0106 h
      (configOps { type := 0x20, number := 0, payload := s.counted.configPayload flags }))).journalSettle :=
  exec_journal_waits ha rfl rfl (by simp [no, hsize]) hw hsup

theorem exec_journalRead {region count record offset : Nat} (ha : Accepted (.journalRead h region count record offset) c s)
    (hregion : region ≤ 2) (hcount : 1 ≤ count) (hmax : count ≤ 1024)
    (hconfig : region = 2 → count = 1 ∧ offset ≤ s.counted.configLength record) (hoffset : region ≠ 2 → offset = 0)
    (hnew : s.counted.pastNewest region record = false) :
    exec (.journalRead h region count record offset) s =
      .next (State.conclude (.journalRead h region count record offset) c (s.counted.journalWait 0x0906 h [.read])).journalSettle := by
  refine exec_journal_waits ha rfl rfl ?_ hw hsup
  by_cases h2 : region = 2
  · subst h2
    obtain ⟨rfl, hlen⟩ := hconfig rfl
    simp [bad, no, hnew, hlen]
  · have hpos : count ≠ 0 := by omega
    simp [bad, no, hregion, hpos, hmax, h2, hoffset h2, hnew]

theorem exec_evidenceHold {en : Nat} (ha : Accepted (.evidenceHold h en) c s) (hen : en ≤ 1) (hnew : s.counted.jr.hold ≠ (en == 1)) :
    exec (.evidenceHold h en) s =
      .next (State.conclude (.evidenceHold h en) c (s.counted.journalWait 0x0908 h [.anchor])).journalSettle := by
  rw [exec_journal_of_guards ha rfl rfl (by simp [bad, hen]), if_neg (by simpa using hnew), State.journalRunCmd_waits hw hsup]

/-! ### Firmware -/

section
variable (hb : s.counted.fwBusy = false)
include hb

theorem exec_fwStageBegin {slot length : Nat} (ha : Accepted (.fwStageBegin h slot length) c s) (hslot : slot ≤ 2)
    (hrun : slot ≠ s.counted.cc.running) (hforce : slot = 2 → h.force = true) (hlen : length ≤ 33554432) (hstage : s.counted.cc.stage = none)
    (hroom : s.counted.jr.slotBad.getD slot 0 + ceilDiv (256 + length) 262144 ≤ 144) :
    exec (.fwStageBegin h slot length) s =
      .next (State.conclude (.fwStageBegin h slot length) c (s.counted.journalWait 0x0A02 h [.anchor])).journalSettle :=
  exec_journal_waits ha rfl rfl (by
    simp only [bad, no, short, List.all_cons, List.all_nil, hstage, hb]
    simp [hslot, hrun, hlen]
    exact ⟨Decidable.not_or_of_imp hforce, hroom⟩) hw hsup

section
variable {g : Stage} (hstage : s.counted.cc.stage = some g)
include hstage

theorem exec_fwStageData {offset : Nat} {data : List Byte} (ha : Accepted (.fwStageData h offset data) c s) (hdata : data ≠ [])
    (hlen : data.length ≤ 32768) (hin : s.counted.beyondStage offset data.length = false) :
    exec (.fwStageData h offset data) s =
      .next (State.conclude (.fwStageData h offset data) c (s.counted.journalWait 0x0A03 h [.slot g.slot offset data])).journalSettle := by
  rw [exec_journal_of_guards ha rfl rfl (by simp [bad, no, hdata, hlen, hstage, hin, hb])]
  simp only [hstage, State.journalRunCmd_waits hw hsup]

theorem exec_fwStageEnd (ha : Accepted (.fwStageEnd h) c s) :
    exec (.fwStageEnd h) s = .next (State.conclude (.fwStageEnd h) c (s.counted.journalWait 0x0A04 h
      ((if (List.range g.pages).all g.whole then [] else [.slot g.slot 0 []]) ++ [.read]))).journalSettle := by
  rw [exec_journal_of_guards ha rfl rfl (by simp [no, hstage, hb])]
  simp only [hstage, State.journalRunCmd_waits hw hsup]

theorem exec_fwStageAbort (ha : Accepted (.fwStageAbort h) c s) :
    exec (.fwStageAbort h) s =
      .next (State.conclude (.fwStageAbort h) c (s.counted.journalWait 0x0A08 h [.anchor])).journalSettle :=
  exec_journal_waits ha rfl rfl (by simp [no, hstage, hb]) hw hsup

end

theorem exec_fwActivate {slot : Nat} (ha : Accepted (.fwActivate h slot) c s) (hslot : slot ≤ 1)
    (hvalid : (s.counted.fwSlot slot).state = .VALID) (hready : s.counted.cc.standbyReady = true) :
    exec (.fwActivate h slot) s =
      .next (State.conclude (.fwActivate h slot) c (s.counted.journalWait 0x0A05 h [.read])).journalSettle :=
  exec_journal_waits ha rfl rfl (by simp [bad, no, hslot, hvalid, hready, hb]) hw hsup

theorem exec_fwBootSlotSet {slot : Nat} (ha : Accepted (.fwBootSlotSet h slot) c s) (hslot : slot ≤ 1) :
    exec (.fwBootSlotSet h slot) s =
      .next (State.conclude (.fwBootSlotSet h slot) c (s.counted.journalWait 0x0A06 h [.anchor])).journalSettle :=
  exec_journal_waits ha rfl rfl (by simp [bad, no, hslot, hb]) hw hsup

end

end

/-- EVIDENCE_HOLD of the state held writes no anchor (R565). -/
theorem exec_evidenceHold_held {s : State} {c : Cmd} {h : CmdHdr} {en : Nat} (ha : Accepted (.evidenceHold h en) c s) (hen : en ≤ 1)
    (hheld : s.counted.jr.hold = (en == 1)) :
    exec (.evidenceHold h en) s = .next (s.counted.answer (.evidenceHold h en) c .OK 0 []).journalSettle := by
  rw [exec_journal_of_guards ha rfl rfl (by simp [bad, hen]), if_pos (by simpa using hheld), conclude_ok]

/-- JOURNAL_MARK's record joins the buffered evidence, and the page of all of it goes to the medium before the answer (R581). -/
theorem exec_journalMark {s : State} {c : Cmd} {h : CmdHdr} {note : List Byte} (ha : Accepted (.journalMark h note) c s)
    (hw : s.counted.waitFull h = false) (hsup : s.counted.jr.state ≠ .UNSUPPORTED) (hroom : s.counted.jr.evidenceFull = false) :
    let t := s.counted.evidenceRecord 5 (le 8 s.ns ++ note)
    let u : State := { t with jr := { t.jr with evBuf := [], evSince := none } }
    u.waitFull h = false → u.jr.state ≠ .UNSUPPORTED →
    exec (.journalMark h note) s =
      .next (State.conclude (.journalMark h note) c (u.journalWait 0x0907 h [.program 3 0 t.jr.evBuf])).journalSettle := by
  intro t u hw' hsup'
  have hsup'' : (s.counted.jr.state == .UNSUPPORTED) = false := beq_false_of_ne hsup
  rw [exec_journal_of_guards ha rfl rfl (by simp only [no, hw, hsup'', hroom]; rfl)]
  exact congrArg (fun r => Host.Outcome.next (State.conclude _ c r).journalSettle) (State.journalRunCmd_waits hw' hsup' ..)

/-- Settles O42: the lemma of each command of the Journal unit and of firmware. -/
theorem journalCommands : Obligations.JournalCommands :=
  ⟨fun _ _ _ hw hsup =>
    ⟨fun _ ha hsize => exec_configSave hw hsup ha hsize,
      fun _ _ _ _ ha hregion hcount hmax hconfig hoffset hnew => exec_journalRead hw hsup ha hregion hcount hmax hconfig hoffset hnew,
      fun _ ha hen => ⟨exec_evidenceHold_held ha hen, exec_evidenceHold hw hsup ha hen⟩,
      fun hb =>
        ⟨fun _ _ ha hslot hrun hforce hlen hstage hroom => exec_fwStageBegin hw hsup hb ha hslot hrun hforce hlen hstage hroom,
          fun _ hstage => ⟨fun _ _ ha hdata hlen hin => exec_fwStageData hw hsup hb hstage ha hdata hlen hin,
            exec_fwStageEnd hw hsup hb hstage, exec_fwStageAbort hw hsup hb hstage⟩,
          fun _ ha hslot hvalid hready => exec_fwActivate hw hsup hb ha hslot hvalid hready,
          fun _ ha hslot => exec_fwBootSlotSet hw hsup hb ha hslot⟩⟩,
    fun _ _ _ _ ha hw hsup hroom => exec_journalMark ha hw hsup hroom⟩

end Sys2Proof.Machine
end

