-- ==== Sys2Proof/Proofs/DeviceResets.lean ====
section
/-! PROOFS. Resets of the whole device (R540 to R548): what asks for one, how one that is due begins, and what it keeps (R541). -/
namespace Sys2Proof.Machine

open Sys2Proof

/-! ### A reset that is due -/

section
variable {s : State} {cause source : Nat}

/-- Asked for while none is due, a reset is due. -/
theorem State.resetDue_of_none (hon : s.rst.mode ≠ .OFF) (hnone : s.rst.deferred = none) :
    s.resetDue cause source = ({ s with rst := { s.rst with deferred := some (cause, source) } } : State).dueReset := by
  have hwant : s.wantReset cause source = { s with rst := { s.rst with deferred := some (cause, source) } } :=
    if_neg (by simp [hon, hnone])
  rw [State.resetDue, hwant]

/-- It waits while a pulse of the Journal unit is in progress (R544). -/
theorem State.dueReset_waits (hdue : s.rst.deferred = some (cause, source)) (hp : s.jr.pulse.isSome = true) : s.dueReset = s := by
  simp only [State.dueReset, hdue, hp, if_true]

/-- Without a pulse it begins. -/
theorem State.dueReset_begins (hdue : s.rst.deferred = some (cause, source)) (hp : s.jr.pulse = none) :
    s.dueReset = s.beginDeviceReset cause source := by
  simp only [State.dueReset, hdue, hp, Option.isSome_none, Bool.false_eq_true, if_false]

end

/-! ### What asks for a reset -/

section
variable {s : State}

theorem exec_resetNAssert_high (hon : s.rst.mode ≠ .OFF) (hpin : s.rst.resetN = false) :
    exec .resetNAssert s = .next (({ s with rst := { s.rst with resetN := true } } : State).resetDue 2 0) :=
  if_neg (by simp [hon, hpin])

/-- RESET_N rises in stage STRAP, in which the strap converts (R551). -/
theorem exec_resetNRelease_strap {code : Nat} (hm : s.rst.mode = .BRINGUP) (hstage : s.rst.stage = .STRAP) :
    exec (.resetNRelease code) s = .next { s with rst := { s.rst with resetN := false, strapCode := code % 256 } } :=
  (if_neg (by simp [hm])).trans (if_pos ⟨hm, hstage⟩)

theorem exec_watchdogExpiry_on (hw : s.rst.watchdog = true) : exec .watchdogExpiry s = .next (s.resetDue 3 0) := if_pos hw

/-- The last reading of 112 °C or more counts from the reset on (R547). -/
theorem exec_thermalTrip_hot {sensor : Nat} {value : Int} (hon : s.rst.mode ≠ .OFF) (hcool : s.rst.thermalHold = false) (hsensor : sensor < 8)
    (hhot : 1792 ≤ value) :
    let t := (({ s with rst := { s.rst with thermalHold := true, hotAt := s.ns } } : State).emit (.thermTripN true)).resetDue 6 0
    exec (.thermalTrip sensor value) s = .next { t with rst := { t.rst with hotAt := t.ns } } :=
  if_neg (by simp [hon, hcool]; omega)

theorem exec_thermalTripRelease_cool (hon : s.rst.mode ≠ .OFF) (hhold : s.rst.thermalHold = true) (hnone : s.rst.deferred = none)
    (hcool : s.rst.hotAt + 1000000000 ≤ s.ns) :
    exec .thermalTripRelease s =
      .next { s with rst := { s.rst with thermalHold := false }, out := s.out ++ [.thermTripN false] } :=
  if_pos (by simp [hon, hhold, hnone, hcool])

theorem exec_powerLoss_on (hon : s.rst.mode ≠ .OFF) :
    exec .powerLoss s =
      .next { s.linksGo.reborn with hostPorts := [], rst := { RST.reset with mode := .OFF, strapCode := s.rst.strapCode } } :=
  if_neg hon

theorem exec_powerOn_off (hoff : s.rst.mode = .OFF) :
    exec .powerOn s = .next { s.reborn with rst := { RST.reset with strapCode := s.rst.strapCode } } :=
  if_pos hoff

end

/-- Settles O46: what asks for a reset, how it begins by mode, and the fields of `State.reborn`. -/
theorem deviceResets : Obligations.DeviceResets := by
  refine ⟨fun s => ⟨exec_resetNAssert_high, fun _ => exec_resetNRelease_strap, exec_watchdogExpiry_on, fun _ _ => exec_thermalTrip_hot,
    exec_thermalTripRelease_cool, exec_powerLoss_on, exec_powerOn_off⟩, fun s cause source => ⟨State.resetDue_of_none, State.dueReset_waits,
    fun hdue hp hm => ?_, fun hdue hp hm => ?_⟩, fun s => ?_⟩
  · exact (State.dueReset_begins hdue hp).trans (if_pos hm)
  · exact (State.dueReset_begins hdue hp).trans (if_neg hm)
  · and_intros <;> rfl

end Sys2Proof.Machine
end

