-- ==== Sys2Proof/Proofs/BringUp.lean ====
section
/-! PROOFS. The stages of bring-up (R548), the end of DRAIN (R534), the core supply (R587 to R589) and the samples of sensors (R604). -/
namespace Sys2Proof.Machine

open Sys2Proof

/-! ### Stages -/

section
variable {s : State} (hb : s.bringing = true)
include hb

theorem exec_bringupStageComplete_bringing : exec .bringupStageComplete s = .next s.endStage :=
  congrArg Host.Outcome.next (if_pos hb)

/-- A stage that ends does what the stage's own end is. -/
theorem exec_bringupStageComplete_eq {t : State} (h : s.endStage = t) : exec .bringupStageComplete s = .next t :=
  h ▸ exec_bringupStageComplete_bringing hb

theorem exec_pllLockRetry_locked (hstage : s.rst.stage = .PLL) : exec (.pllLockRetry true) s = .next s.endPll :=
  congrArg Host.Outcome.next (if_pos (by simp [hb, hstage]))

/-- Without lock the next try comes 10 ms later. -/
theorem exec_pllLockRetry_unlocked (hstage : s.rst.stage = .PLL) :
    exec (.pllLockRetry false) s = .next { s with rst := { s.rst with pllRetry := some (s.ns + 10000000) } } :=
  congrArg Host.Outcome.next (if_pos (by simp [hb, hstage]))

end

section
variable {s : State}

theorem State.endStage_strap (h : s.rst.stage = .STRAP) : s.endStage = s.endStrap := by simp only [State.endStage, h]
theorem State.endStage_fuse (h : s.rst.stage = .FUSE) : s.endStage = s.setStage .PLL := by simp only [State.endStage, h]
theorem State.endStage_pll (h : s.rst.stage = .PLL) : s.endStage = s.endPll := by simp only [State.endStage, h]
theorem State.endStage_sram (h : s.rst.stage = .SRAM) : s.endStage = s.setStage .BOOT := by simp only [State.endStage, h]
theorem State.endStage_boot (h : s.rst.stage = .BOOT) :
    s.endStage = if s.endBoot.rst.stage = .LINKS then s.endBoot.trainLinks else s.endBoot := by simp only [State.endStage, h]
theorem State.endStage_hbm (h : s.rst.stage = .HBM) : s.endStage = s.endHbm.trainLinks := by simp only [State.endStage, h]
theorem State.endStage_links (h : s.rst.stage = .LINKS) : s.endStage = s.setStage .CONFIG := by simp only [State.endStage, h]
theorem State.endStage_config (h : s.rst.stage = .CONFIG) : s.endStage = s.endConfig := by simp only [State.endStage, h]

/-! ### The end of DRAIN -/

theorem exec_drainComplete_drained (hm : s.rst.mode = .DRAIN) (hnot : s.rst.drained = false) (hd : s.hasDrained = true) :
    exec .drainComplete s = .next (({ s with rst := { s.rst with drained := true } } : State).answerOn .drain .OK 0 []) :=
  if_pos (by simp [hm, hnot, hd])

/-! ### The core supply -/

section
variable {target readback : Nat} (hr : s.running = true) (hgo : s.avsStopped = false) (hstage : 2 ≤ stageCode s.rst.stage)
  (hlegal : s.targetLegal target = true)
include hr hgo hstage hlegal

/-- A legal target after stage FUSE is put to the regulator while adjustment has not stopped. -/
theorem avsAdjust_goesOn : ¬(!s.running || s.avsStopped || decide (stageCode s.rst.stage < 2) || !s.targetLegal target) = true := by
  simp [hr, hgo, hlegal]
  omega

/-- An adjustment that is not acknowledged stops adjustment, fails the wake and warns (R589). -/
theorem exec_avsAdjust_unacked :
    exec (.avsAdjust target false readback) s =
      .next ((({ s with avsStopped := true } : State).raise 0x180 none 12).answerOn .wake .FAILED 0 []) :=
  congrArg Host.Outcome.next ((if_neg (avsAdjust_goesOn hr hgo hstage hlegal)).trans (if_pos rfl))

/-- One that is acknowledged sets the target; where the device wakes, what is read back decides whether the wake goes on (R588). -/
theorem exec_avsAdjust_acked :
    let t : State := { s with avsTarget := target, avsAt := some s.ns, out := s.out ++ [.pmbus target] }
    exec (.avsAdjust target true readback) s =
      .next (if !(s.rst.mode == .HEATH && s.waking) then t else if coreFloor ≤ readback then t.enterService else t.wakeFails) :=
  congrArg Host.Outcome.next ((if_neg (avsAdjust_goesOn hr hgo hstage hlegal)).trans (if_neg (by decide)))

theorem exec_avsAdjust_awake (hm : s.rst.mode ≠ .HEATH) :
    exec (.avsAdjust target true readback) s =
      .next { s with avsTarget := target, avsAt := some s.ns, out := s.out ++ [.pmbus target] } := by
  rw [exec_avsAdjust_acked hr hgo hstage hlegal, if_pos (by simp [hm])]

theorem exec_avsAdjust_waking (hm : s.rst.mode = .HEATH) (hw : s.waking = true) :
    let t : State := { s with avsTarget := target, avsAt := some s.ns, out := s.out ++ [.pmbus target] }
    exec (.avsAdjust target true readback) s =
      .next (if coreFloor ≤ readback then t.enterService else (t.raise 0x180 none 12).answerOn .wake .FAILED 0 []) := by
  rw [exec_avsAdjust_acked hr hgo hstage hlegal, if_neg (by simp [hm, hw])]
  rfl

end

/-- PMB_ALERT warns of the core supply (R588). -/
theorem exec_pmbAlert_running (hr : s.running = true) : exec .pmbAlert s = .next (s.raise 0x180 none 12) :=
  congrArg Host.Outcome.next (if_pos hr)

/-! ### Samples -/

/-- Out of a thermal trip, and below one, a sample is kept and judged. -/
theorem exec_telemetrySample_judged {sensor : Nat} {value : Int} (hr : s.running = true) (hcool : s.rst.thermalHold = false)
    (hthere : s.sensorPresent sensor = true) (h12 : sensor ≠ 12) (hbelow : sensor < 8 → value < 1792) :
    exec (.telemetrySample sensor value) s = .next (s.judgeSensor sensor { s.sensor sensor with value := value, valid := true }) := by
  have hno : ¬(sensor < 8 ∧ 1792 ≤ value) := by omega
  have hhold : ¬(s.rst.thermalHold = true ∧ sensor < 8 ∧ 1520 ≤ value) := by simp [hcool]
  have hjudge : s.running = true ∧ s.sensorPresent sensor = true ∧ sensor ≠ 12 := ⟨hr, hthere, h12⟩
  simp only [exec, execTelemetrySample]
  rw [if_neg hno, if_neg hhold, if_pos hjudge]

end

/-- Settles O45: the end of each stage, and the lemma of each row of the supply and the sensors. -/
theorem bringUpAndSupply : Obligations.BringUpAndSupply := by
  intro s
  refine ⟨fun hb => ?_, exec_drainComplete_drained, fun target readback hr hgo hstage hlegal => ⟨exec_avsAdjust_awake hr hgo hstage hlegal,
    exec_avsAdjust_waking hr hgo hstage hlegal, exec_avsAdjust_unacked hr hgo hstage hlegal⟩, exec_pmbAlert_running,
    fun sensor value => exec_telemetrySample_judged⟩
  refine ⟨fun h => exec_bringupStageComplete_eq hb (State.endStage_strap h), fun h => exec_bringupStageComplete_eq hb (State.endStage_fuse h),
    fun h => exec_bringupStageComplete_eq hb (State.endStage_pll h), fun h => exec_bringupStageComplete_eq hb (State.endStage_sram h),
    fun h hno => exec_bringupStageComplete_eq hb ((State.endStage_boot h).trans (if_neg hno)),
    fun h hlinks => exec_bringupStageComplete_eq hb ((State.endStage_boot h).trans (if_pos hlinks)),
    fun h => exec_bringupStageComplete_eq hb (State.endStage_hbm h), fun h => exec_bringupStageComplete_eq hb (State.endStage_links h),
    fun h => exec_bringupStageComplete_eq hb (State.endStage_config h),
    fun h => ⟨exec_pllLockRetry_locked hb h, exec_pllLockRetry_unlocked hb h⟩⟩

end Sys2Proof.Machine
end

