-- ==== Sys2Proof/Proofs/Transports.lean ====
section
/-! PROOFS. MCTP control messages (R483), packets that arrive (R480, R484, R485) and the cells of the CONTROL VC (R486 to R488). -/
namespace Sys2Proof.Machine

open Sys2Proof

/-! ### MCTP control messages -/

section
variable {s : State}

/-- While MCTP is served, a control message gets its response. -/
theorem State.mctpRespond_on (hon : s.mctpOn = true) (requester tag command code : Nat) (data : List Byte) :
    s.mctpRespond requester tag command code data =
      { s with out := s.out ++ [.mctpControl requester tag command (le 1 code ++ data)] } := if_pos hon

theorem exec_setEndpointId_on (hon : s.mctpOn = true) (requester tag : Nat) {eid : Nat} (h0 : 1 ≤ eid) (h255 : eid < 255) :
    exec (.setEndpointId requester tag eid) s =
      .next { s with
        cc := { s.cc with eid := eid }
        out := s.out ++ [.mctpControl requester tag 1 (le 1 0 ++ (le 1 0 ++ le 1 eid ++ le 1 0))] } := by
  have hrange : ¬(eid = 0 ∨ 255 ≤ eid) := by omega
  have hon' : ({ s with cc := { s.cc with eid := eid } } : State).mctpOn = true := hon
  simp only [exec, execSetEndpointId, hon, Bool.not_true, Bool.false_eq_true, if_false, if_neg hrange, State.mctpRespond_on hon']

theorem exec_getEndpointId_on (hon : s.mctpOn = true) (requester tag : Nat) :
    exec (.getEndpointId requester tag) s =
      .next { s with out := s.out ++ [.mctpControl requester tag 2 (le 1 0 ++ (le 1 s.cc.eid ++ le 1 0 ++ le 1 0))] } :=
  congrArg Host.Outcome.next (State.mctpRespond_on hon ..)

theorem exec_getEndpointUuid_on (hon : s.mctpOn = true) (requester tag : Nat) :
    exec (.getEndpointUuid requester tag) s =
      .next { s with out := s.out ++ [.mctpControl requester tag 3 (le 1 0 ++ fitTo 16 Config.uuid)] } :=
  congrArg Host.Outcome.next (State.mctpRespond_on hon ..)

theorem exec_getMctpVersionSupport_commands (hon : s.mctpOn = true) (requester tag : Nat) :
    exec (.getMctpVersionSupport requester tag 0x7F) s =
      .next { s with out := s.out ++ [.mctpControl requester tag 4 (le 1 0 ++ (le 1 (Config.mctpVersions 0x7F).length ++
        (Config.mctpVersions 0x7F).flatMap fun v => (le 4 v.toNat).reverse))] } :=
  congrArg Host.Outcome.next ((if_pos (by decide)).trans (State.mctpRespond_on hon ..))

theorem exec_getMessageTypeSupport_on (hon : s.mctpOn = true) (requester tag : Nat) :
    exec (.getMessageTypeSupport requester tag) s =
      .next { s with out := s.out ++ [.mctpControl requester tag 5 (le 1 0 ++ (le 1 1 ++ le 1 0x7F))] } :=
  congrArg Host.Outcome.next (State.mctpRespond_on hon ..)

theorem exec_getVendorDefinedMessageSupport_first (hon : s.mctpOn = true) (requester tag : Nat) :
    exec (.getVendorDefinedMessageSupport requester tag 0) s =
      .next { s with out := s.out ++ [.mctpControl requester tag 6 (le 1 0 ++ (le 1 0xFF ++ le 1 1 ++
        (le 4 Config.enterprise).reverse ++ le 2 Config.commandSetVersion))] } :=
  congrArg Host.Outcome.next ((if_pos rfl).trans (State.mctpRespond_on hon ..))

theorem exec_i3cEntdaa_on (hon : s.mctpOn = true) (address : Nat) :
    exec (.i3cEntdaa address) s = .next { s with cc := { s.cc with address := address % 128, addressValid := true } } :=
  congrArg Host.Outcome.next (if_pos hon)

/-! ### Packets over MCTP -/

/-- With the integrity check bit set a message is discarded and counted (R485). -/
theorem exec_mctpMessageReceive_checked (hon : s.mctpOn = true) (requester tag : Nat) (packet : List Byte) :
    exec (.mctpMessageReceive requester tag true packet) s = .next (s.evidence 0x40058) := by
  simp only [exec, execMctpMessageReceive, hon, Bool.not_true, Bool.false_eq_true, if_false, if_true]

/-- Any other is a packet that arrives. -/
theorem exec_mctpMessageReceive_packet (hon : s.mctpOn = true) {requester tag : Nat} (hr : requester < 256) (ht : tag < 8)
    (packet : List Byte) :
    exec (.mctpMessageReceive requester tag false packet) s = s.packetArrives (.mctp requester tag) packet := by
  simp only [exec, execMctpMessageReceive, hon, Bool.not_true, Bool.false_eq_true, if_false, Nat.mod_eq_of_lt hr, Nat.mod_eq_of_lt ht]

/-! ### Packets that arrive -/

section
variable {src : CmdSrc} {b : List Byte} (hs : s.serves src = true)
include hs

theorem State.packetArrives_badFrame {st : Status} {detail : Nat} (hf : frameFault b = some (st, detail)) :
    s.packetArrives src b = .next (s.refusePacket (hdrOf src b) b st detail) := by
  simp only [State.packetArrives, hs, hf, Bool.not_true, Bool.false_eq_true, if_false]

section
variable (hf : frameFault b = none)
include hf

theorem State.packetArrives_unknown (hi : opInfo (rd b 0 2) = none) :
    s.packetArrives src b = .next (s.refusePacket (hdrOf src b) b .UNKNOWN_OPCODE 0) := by
  simp only [State.packetArrives, hs, hf, hi, Bool.not_true, Bool.false_eq_true, if_false]

section
variable {i : OpInfo} (hi : opInfo (rd b 0 2) = some i)
include hi

/-- A parameter area that is not as long as its opcode and counts require is refused (R480 step 4). -/
theorem State.packetArrives_badArea (hp : parseArea i (hdrOf src b) (b.drop 16) = none) :
    s.packetArrives src b = .next (s.refusePacket (hdrOf src b) b .BAD_PACKET 8) := by
  simp only [State.packetArrives, hs, hf, hi, hp, Bool.not_true, Bool.false_eq_true, if_false]

/-- A packet that spells a row is run as that row. -/
theorem State.packetArrives_runs {c : Cmd} {row : Instr} (hp : parseArea i (hdrOf src b) (b.drop 16) = some c)
    (hpad : paddingFault i c (b.drop 16) = none) (hrow : instrOf c = some row) : s.packetArrives src b = runCmd row s := by
  simp only [State.packetArrives, hs, hf, hi, hp, hpad, hrow, Bool.not_true, Bool.false_eq_true, if_false]

end

end

end

end

/-! ### Fragments of a transfer -/

/-- The assembly of a fragment's transfer with the fragment withFragment to it (R486). -/
def State.withFragment (s : State) (transfer : Nat) (b : List Byte) : Assembly :=
  let a := s.cc.assembly (controlSource b) transfer (rd b 0 1) s.ns
  { a with frags := Tbl.put a.frags (rd b 2 2) (b.drop 8), last := if bit (rd b 1 1) 1 then some (rd b 2 2) else a.last, at_ := s.ns }

/-- The assemblies of other transfers. -/
def State.otherAssemblies (s : State) (transfer : Nat) (b : List Byte) : List Assembly :=
  let a := s.cc.assembly (controlSource b) transfer (rd b 0 1) s.ns
  s.cc.assemblies.filter fun x => !(x.source == a.source && x.transfer == a.transfer && x.cls == a.cls)

section
variable {s : State} {a : Assembly} {n : Nat}

/-- A COMMAND transfer is a packet that arrives. -/
theorem State.transferDone_command (h : a.cls = 1) :
    s.transferDone a n = s.packetArrives (.control a.source a.transfer)
      (trimMessage a.cls ((List.range (n + 1)).flatMap fun i => Tbl.getD a.frags i [])) := if_pos h

/-- A REPLY transfer from the router that a command was forwarded to ends its COMMAND_FORWARD (R490). -/
theorem State.transferDone_reply {x : Forward} (h : a.cls = 2) (hx : Tbl.get? s.cc.forwards a.transfer = some x)
    (hloc : x.location = a.source) :
    s.transferDone a n =
      .next (s.endForward a.transfer .OK (trimMessage a.cls ((List.range (n + 1)).flatMap fun i => Tbl.getD a.frags i []))) := by
  simp only [State.transferDone, hx, h]
  rw [if_neg (by decide), if_pos hloc]

end

section
variable {s : State} {transfer : Nat} {b : List Byte}

/-- Beyond eight transfers a fragment is discarded and counted (R488). -/
theorem State.fragment_full (h : 8 ≤ (s.otherAssemblies transfer b).length) : s.fragment transfer b = .next (s.evidence 0x40058) :=
  if_pos h

section
variable (hroom : (s.otherAssemblies transfer b).length < 8)
include hroom

/-- While the last fragment is not known, the transfer waits for more. -/
theorem State.fragment_unended (hlast : (s.withFragment transfer b).last = none) :
    s.fragment transfer b =
      .next { s with cc := { s.cc with assemblies := s.otherAssemblies transfer b ++ [s.withFragment transfer b] } } := by
  refine (if_neg (Nat.not_le.mpr hroom)).trans ?_
  split
  · next n hn => exact absurd (hlast.symm.trans hn) (by simp)
  · rfl

/-- While a fragment lacks, the transfer waits for it. -/
theorem State.fragment_lacking {n i : Nat} (hlast : (s.withFragment transfer b).last = some n) (hin : i ≤ n)
    (hno : Tbl.has (s.withFragment transfer b).frags i = false) :
    s.fragment transfer b =
      .next { s with cc := { s.cc with assemblies := s.otherAssemblies transfer b ++ [s.withFragment transfer b] } } := by
  refine (if_neg (Nat.not_le.mpr hroom)).trans ?_
  split
  · next m hm =>
    obtain rfl : n = m := Option.some.inj (hlast.symm.trans hm)
    refine if_neg fun hall => ?_
    have hhas := List.all_eq_true.mp hall i (List.mem_range.mpr (Nat.lt_succ_of_le hin))
    exact Bool.false_ne_true (hno.symm.trans hhas)
  · next hm => exact absurd (hlast.symm.trans hm) (by simp)

section
variable {n : Nat} (hlast : (s.withFragment transfer b).last = some n)
  (hall : ∀ i, i ≤ n → Tbl.has (s.withFragment transfer b).frags i = true)
include hlast hall

/-- With its last fragment and all before it, the transfer is complete. -/
theorem State.fragment_complete :
    s.fragment transfer b =
      State.transferDone { s with cc := { s.cc with assemblies := s.otherAssemblies transfer b } } (s.withFragment transfer b) n := by
  refine (if_neg (Nat.not_le.mpr hroom)).trans ?_
  split
  · next m hm =>
    obtain rfl : n = m := Option.some.inj (hlast.symm.trans hm)
    exact if_pos (List.all_eq_true.mpr fun i hi => hall i (Nat.le_of_lt_succ (List.mem_range.mp hi)))
  · next hm => exact absurd (hlast.symm.trans hm) (by simp)

/-- A COMMAND that is complete is a packet that arrives. -/
theorem State.fragment_command {cls : Nat} (hcls : cls = 1) (ha : (s.withFragment transfer b).cls = 1) :
    s.fragment transfer b = State.packetArrives { s with cc := { s.cc with assemblies := s.otherAssemblies transfer b } }
      (.control (s.withFragment transfer b).source (s.withFragment transfer b).transfer)
      (trimMessage cls ((List.range (n + 1)).flatMap fun i => Tbl.getD (s.withFragment transfer b).frags i [])) := by
  rw [State.fragment_complete hroom hlast hall, State.transferDone_command ha, hcls.trans ha.symm]

/-- A REPLY that is complete ends the COMMAND_FORWARD that it answers. -/
theorem State.fragment_reply {cls : Nat} {x : Forward} (hcls : cls = 2) (ha : (s.withFragment transfer b).cls = 2)
    (hx : Tbl.get? s.cc.forwards (s.withFragment transfer b).transfer = some x) (hloc : x.location = (s.withFragment transfer b).source) :
    s.fragment transfer b =
      .next (State.endForward { s with cc := { s.cc with assemblies := s.otherAssemblies transfer b } }
        (s.withFragment transfer b).transfer .OK
        (trimMessage cls ((List.range (n + 1)).flatMap fun i => Tbl.getD (s.withFragment transfer b).frags i []))) := by
  rw [State.fragment_complete hroom hlast hall, hcls.trans ha.symm]
  exact State.transferDone_reply ha hx hloc

end

end

end

/-! ### Cells handed to the control cores -/

/-- The oldest cell has been taken from those handed over (R487). -/
def State.handed (s : State) (rest : List QCell) : State := State.refreshXoff { s with cc := { s.cc with controlIn := rest } }

section
variable {s : State} {q : QCell} {rest : List QCell} (hal : s.alive = true) (hq : s.cc.controlIn = q :: rest)
include hal hq

/-- What is done with it: its low destination bits and class, its envelope, and its class again decide. -/
theorem exec_controlCellReceive_cons :
    exec .controlCellReceive s =
      let t := s.handed rest
      let c := q.cell
      if c.h.dest % 32 ≠ 0 ∨ rd c.payload 0 1 = 0 ∨ 3 < rd c.payload 0 1 then .next (t.evidence 0x40058)
      else if !envelopeOk c.payload then .next t
      else if rd c.payload 0 1 = 3 then
        .next (if tokenOk (c.payload.drop 8) then
            { t with tk := { t.tk with inbox := t.tk.inbox ++ [(rd c.payload 4 4 / 32 % 65536, tokenOf (c.payload.drop 8))] } }
          else t)
      else t.fragment c.h.tag c.payload := by
  have hal' : (!(s.handed rest).alive) = false := congrArg not hal
  simp only [exec, execControlCellReceive, hq]
  exact if_neg (Bool.eq_false_iff.mp hal')

/-- With low destination bits, or of a reserved class, it is discarded and counted. -/
theorem exec_controlCellReceive_reserved
    (h : q.cell.h.dest % 32 ≠ 0 ∨ rd q.cell.payload 0 1 = 0 ∨ 3 < rd q.cell.payload 0 1) :
    exec .controlCellReceive s = .next ((s.handed rest).evidence 0x40058) :=
  (exec_controlCellReceive_cons hal hq).trans (if_pos h)

section
variable (hdest : q.cell.h.dest % 32 = 0) (henv : envelopeOk q.cell.payload = true)
include hdest henv

/-- A TOKEN cell goes to the Token unit (R465). -/
theorem exec_controlCellReceive_token (hcls : rd q.cell.payload 0 1 = 3) (hok : tokenOk (q.cell.payload.drop 8) = true) :
    let t := s.handed rest
    exec .controlCellReceive s = .next { t with
      tk := { t.tk with inbox := t.tk.inbox ++ [(rd q.cell.payload 4 4 / 32 % 65536, tokenOf (q.cell.payload.drop 8))] } } := by
  rw [exec_controlCellReceive_cons hal hq]
  simp only [hdest, henv, hcls, hok]
  rfl

/-- A cell of a COMMAND or REPLY is a fragment of its transfer. -/
theorem exec_controlCellReceive_fragment (hcls : rd q.cell.payload 0 1 = 1 ∨ rd q.cell.payload 0 1 = 2) :
    exec .controlCellReceive s = (s.handed rest).fragment q.cell.h.tag q.cell.payload := by
  have hclass : ¬(q.cell.h.dest % 32 ≠ 0 ∨ rd q.cell.payload 0 1 = 0 ∨ 3 < rd q.cell.payload 0 1) := by omega
  have htoken : rd q.cell.payload 0 1 ≠ 3 := by omega
  refine (exec_controlCellReceive_cons hal hq).trans ((if_neg hclass).trans ((if_neg ?_).trans (if_neg htoken)))
  simp [henv]

end

end

/-- A transfer without a fragment for 1 ms is discarded and counted (R488). -/
theorem exec_controlTransferTimeout_only {s : State} {a : Assembly} (hal : s.alive = true) (hone : s.cc.assemblies = [a])
    (hold : a.at_ + 1000000 ≤ s.ns) :
    exec (.controlTransferTimeout a.source a.transfer) s =
      .next (({ s with cc := { s.cc with assemblies := [] } } : State).evidence 0x40058) := by
  refine (if_pos hal).trans ?_
  simp [hone, hold, State.evidences]

/-- Settles O49: the lemma of each control message, of each end of a packet, and of each thing done with a cell. -/
theorem managementAndPackets : Obligations.ManagementAndPackets := by
  refine ⟨fun s requester tag hon => ⟨fun _ => exec_setEndpointId_on hon requester tag, exec_getEndpointId_on hon requester tag,
    exec_getEndpointUuid_on hon requester tag, exec_getMctpVersionSupport_commands hon requester tag,
    exec_getMessageTypeSupport_on hon requester tag, exec_getVendorDefinedMessageSupport_first hon requester tag, exec_i3cEntdaa_on hon⟩,
    fun s => ⟨fun requester tag packet hon => exec_mctpMessageReceive_checked hon requester tag packet, ?_, ?_, ?_⟩⟩
  · intro requester tag packet hr ht hs hon h
    rw [exec_mctpMessageReceive_packet hon hr ht packet]
    exact ⟨fun _ _ => State.packetArrives_badFrame hs, State.packetArrives_unknown hs, fun _ hf hi => State.packetArrives_badArea hs hf hi,
      fun _ _ _ hf hi hp => State.packetArrives_runs hs hf hi hp⟩
  · intro q rest hal hq t c cls a others k a' done
    refine ⟨exec_controlCellReceive_reserved hal hq, fun hdest hcls henv hok => exec_controlCellReceive_token hal hq hdest henv hcls hok,
      fun hdest hcls henv => ?_⟩
    rw [exec_controlCellReceive_fragment hal hq hdest henv hcls]
    refine ⟨State.fragment_full, State.fragment_unended, fun n i hroom hlast hin hno => State.fragment_lacking hroom hlast hin hno, ?_⟩
    exact fun n hroom hlast hall => ⟨fun hcls ha => State.fragment_command hroom hlast hall hcls ha,
      fun x hcls ha hx hloc => State.fragment_reply hroom hlast hall hcls ha hx hloc⟩
  · rintro source transfer a hal hone rfl rfl hold
    exact exec_controlTransferTimeout_only hal hone hold

end Sys2Proof.Machine
end

