-- ==== Sys2Proof/Proofs/Faults.lean ====
section
/-! PROOFS. Faults that assert and their reactions (R508, R510), takeover and self-fault (R514, R529), the later steps of HALT (R537, R574),
blocks and banks taken out of service, and scrubbing (R528). -/
namespace Sys2Proof.Machine

open Sys2Proof

/-! ### Assertion -/

section
variable {s : State} {i : FaultInfo}

/-- LOG is applied as it is. -/
theorem State.applied_log (n : Nat) : s.applied n .LOG = .LOG := if_pos rfl

/-- Nothing is stronger than HALT (R510). -/
theorem State.applied_halt (n : Nat) : s.applied n .HALT = .HALT := by
  simp [State.applied]

section
variable (hasserts : s.asserts (s.sourceOf i).source = true) (hr : s.running = true)
include hasserts hr

/-- A source that asserts is latched, and its reaction follows, where it is none of those with an effect of their own. -/
theorem exec_faultAssert_reacts (h356 : (s.sourceOf i).source ≠ 356) (h337 : (s.sourceOf i).source ≠ 337)
    (h350 : (s.sourceOf i).source ≠ 350) (h354 : (s.sourceOf i).source = 354 → s.railsWatched = true) :
    exec (.faultAssert i) s =
      .next ((s.latchFault (s.sourceOf i) (s.applied (s.sourceOf i).source (s.severity (s.sourceOf i).source)) false).react (s.sourceOf i)
        (s.fc.latched.contains (s.sourceOf i).source) (s.severity (s.sourceOf i).source)) := by
  have hgo : (!s.asserts (s.sourceOf i).source || !s.running || (s.sourceOf i).source == 356 ||
      ((s.sourceOf i).source == 354 && !s.railsWatched)) = false := by
    simp [hasserts, hr, h356]
    exact h354
  refine congrArg Host.Outcome.next ((if_neg (Bool.eq_false_iff.mp hgo)).trans ?_)
  simp only [h337, h350, false_and, if_false]

end

theorem State.react_contain {u : State} {again : Bool} (h : u.rst.mode ≠ .HALT) : u.react i again .CONTAIN = u.contain i again := if_neg h

theorem State.react_degrade {u : State} {again : Bool} (h : u.rst.mode ≠ .HALT) : u.react i again .DEGRADE = u.degrade i := if_neg h

/-- A mismatch with a standby pair ready is logged, and the takeover begins (R529). -/
theorem exec_faultAssert_mismatch (hr : s.running = true) (hi : i.source = 350) (hasserts : s.asserts 350 = true)
    (hready : s.cc.standbyReady = true) (hsev : s.severity 350 = .LOG) :
    exec (.faultAssert i) s = .next (s.latchFault i .LOG false).beginTakeover := by
  have hsource : s.sourceOf i = i := if_neg (by simp [hready])
  have hgo : (!s.asserts i.source || !s.running || i.source == 356 || (i.source == 354 && !s.railsWatched)) = false := by
    simp [hi, hasserts, hr]
  refine congrArg Host.Outcome.next ?_
  simp only [State.assertFault, hsource]
  rw [if_neg (Bool.eq_false_iff.mp hgo), hi]
  simp only [hsev, State.applied_log]
  rfl

/-! ### The collector's own faults and the later steps of HALT -/

theorem exec_collectorSelfFault_new {w : Nat} (hr : s.running = true) (hnew : s.fc.selfFault = false) (hw : failedWordOk w = true) :
    exec (.collectorSelfFault w) s =
      .next ((({ s with fc := { s.fc with selfFault := true, failedWord := w } } : State).latchFault
        { source := 356, inst := 0, address := 0, syndrome := 0 } .HALT true).enterHalt) :=
  if_neg (by simp [hr, hnew, hw])

theorem exec_haltLanesPowerDown_due (hm : s.rst.mode = .HALT) (hdue : s.rst.haltAt + 100000 ≤ s.ns) :
    exec .haltLanesPowerDown s =
      .next { s with ports := Tbl.mapVal s.ports fun _ (x : Port) => { x with state := .DISABLED } } :=
  if_pos (by simp [hm, hdue])

/-- The buffered evidence and the HALT record go to the reserved block (R574). -/
theorem exec_haltRecordWrite_once (hm : s.rst.mode = .HALT) (hnew : s.rst.haltRecorded = false) (hp : s.jr.pulse = none)
    (hj : s.jr.usable = true) :
    let recs := numbered s.jr.evNext (s.jr.evBuf ++ [{ type := 2, number := 0, payload := s.haltPayload }])
    exec .haltRecordWrite s = .next ((pageCut recs [] 0).zipIdx.foldl
      (fun s p => s.programPage s.jr.haltBlock p.2 3 8 [] p.1)
      { s with rst := { s.rst with haltRecorded := true },
               jr := { s.jr with evBuf := [], evSince := none, evNext := (s.jr.evNext + recs.length) % 2 ^ 32 } }) :=
  if_pos (by simp [hm, hnew, hp, hj])

/-! ### Blocks and banks taken out of service -/

theorem exec_degradeDrainComplete_engine {n : Nat} (hn : n < 32) (hal : s.alive = true) (hd : (s.engine n).draining = true)
    (hw : s.attWork n = false) :
    exec (.degradeDrainComplete (128 + n)) s =
      .next ((s.containEngine n).modEngine n fun e => { e with draining := false, degraded := true }) := by
  have hrange : 128 ≤ 128 + n ∧ 128 + n < 160 := by omega
  have hdrained : (s.engine n).draining = true ∧ (!s.attWork n) = true := ⟨hd, congrArg not hw⟩
  simp only [exec, execDegradeDrainComplete, hal, Nat.add_sub_cancel_left]
  exact (if_pos hrange).trans (if_pos hdrained)

theorem exec_degradeDrainComplete_hostPort {p : Nat} (hp : p < 16) (hal : s.alive = true) (hd : (s.hostPort p).draining = true)
    (h0 : s.attWork (2 * p) = false) (h1 : s.attWork (2 * p + 1) = false) :
    exec (.degradeDrainComplete (160 + p)) s =
      .next ((s.containHostPort p).setHostPort p { (s.containHostPort p).hostPort p with degraded := true }) := by
  have hengine : ¬(128 ≤ 160 + p ∧ 160 + p < 160) := by omega
  have hrange : 160 ≤ 160 + p ∧ 160 + p < 176 := by omega
  have hdrained : (s.hostPort p).draining = true ∧ (!s.attWork (2 * p)) = true ∧ (!s.attWork (2 * p + 1)) = true :=
    ⟨hd, congrArg not h0, congrArg not h1⟩
  simp only [exec, execDegradeDrainComplete, hal, Nat.add_sub_cancel_left]
  exact (if_neg hengine).trans ((if_pos hrange).trans (if_pos hdrained))

theorem exec_bankRetire_leaving {bank : Nat} (h : s.jn.banksLeaving.contains bank = true) :
    exec (.bankRetire bank) s =
      .next { s with jn := { s.jn with
        banksLeaving := s.jn.banksLeaving.filter (fun (b : Nat) => b != bank), banksGone := insertNat bank s.jn.banksGone } } :=
  if_pos h

/-! ### Scrubbing -/

section
variable {row n : Nat} (hr : s.running = true) (hn : n ≠ 0)
include hr hn

/-- Corrections of a bank's row are counted; a second of one row within 24 h moves it to a spare. -/
theorem exec_sramScrub_corrected {bank : Nat} (hbank : bank < 176) :
    let l := recent s.ns s.fc.corrected
    let t : State := { s.tally 0x10118 n with fc := { s.fc with corrected := l } }
    exec (.sramScrub bank row n) s = .next (if secondCorrection l bank row n then t.spareRow bank row
      else { t with fc := { s.fc with corrected := l ++ [(bank, row, s.ns)] } }) :=
  if_neg (by simp [hr, hn, hbank])

/-- Corrections of a stack's row are counted; a second of one row within 24 h repairs it. -/
theorem exec_hbmScrub_corrected {stack : Nat} (hstack : stack < 2) (hthere : s.hasUnit (48 + stack) = true) :
    let l := recent s.ns s.fc.hbmCorrected
    let t : State := { s.tally 0x10120 n with fc := { s.fc with hbmCorrected := l } }
    exec (.hbmScrub stack row n) s = .next (if secondCorrection l stack row n then t.repairRow stack row
      else { t with fc := { s.fc with hbmCorrected := l ++ [(stack, row, s.ns)] } }) :=
  if_neg (by simp [hr, hn, hstack, hthere])

end

end

/-- Settles O47: the reaction of each severity, and the lemma of each other row of faults and scrubbing. -/
theorem faultEvents : Obligations.FaultEvents := by
  refine ⟨fun s => ⟨?_, fun _ => exec_faultAssert_mismatch, fun t hal ht hheld => ?_, fun pass hal hr =>
    exec_failedPairSelfTestComplete hal hr pass, fun _ => exec_collectorSelfFault_new, exec_haltLanesPowerDown_due, exec_haltRecordWrite_once,
    fun _ => exec_degradeDrainComplete_engine, fun _ => exec_degradeDrainComplete_hostPort, fun _ => exec_bankRetire_leaving⟩,
    fun s row n hr hn => ⟨fun bank hbank => ?_, fun stack hstack hthere => ?_⟩⟩
  · intro info hr hasserts h356 h337 h350 h354 i
    have hreacts := exec_faultAssert_reacts hasserts hr h356 h337 h350 h354
    refine ⟨fun hsev => ?_, fun hsev => ?_, ?_⟩
    · rw [hreacts, hsev, State.applied_log]
      rfl
    · rw [hreacts, hsev, State.applied_halt]
      rfl
    · rintro u rfl hm
      refine ⟨fun hsev => ?_, fun hsev => ?_⟩
      · rw [hreacts, hsev, State.react_contain (hsev ▸ hm)]
      · rw [hreacts, hsev, State.react_degrade (hsev ▸ hm)]
  · exact (goesOn_of_exec (exec_lockstepTakeoverComplete hal (by simp [ht]))).2 (Or.inl hheld)
  · have hscrub := exec_sramScrub_corrected (row := row) hr hn hbank
    exact ⟨fun h => hscrub.trans (congrArg _ (if_pos h)), fun h => hscrub.trans (congrArg _ (if_neg (by simp [h])))⟩
  · have hscrub := exec_hbmScrub_corrected (row := row) hr hn hstack hthere
    exact ⟨fun h => hscrub.trans (congrArg _ (if_pos h)), fun h => hscrub.trans (congrArg _ (if_neg (by simp [h])))⟩

end Sys2Proof.Machine
end

