-- ==== Sys2Proof/Proofs/JournalEvents.lean ====
section
/-! PROOFS. The Journal unit's pulses and reads (R560, R562, R579), what it does on its own (R565, R572, R579), and the end of FW_ACTIVATE
(R503). -/
namespace Sys2Proof.Machine

open Sys2Proof

/-! ### Pulses -/

section
variable {s : State}

theorem State.mode_ne_off_of_alive (hal : s.alive = true) : s.rst.mode ≠ .OFF := by
  simp only [State.alive, Bool.and_eq_true, bne_iff_ne] at hal
  exact hal.1

/-- The pulse in progress is over. -/
def State.pulseOver (s : State) : State := { s with jr := { s.jr with current := none, pulse := none } }

/-- A pulse that ends does what it was for, or fails; where no reset was deferred for it, what waits next starts (R544, R560). -/
theorem exec_journalPulseComplete_starts {o : JOp} (hal : s.alive = true) (hcur : s.jr.current = some o) (hp : o.isPulse = true) (ok : Bool)
    (hnone : (if ok then s.pulseOver.pulseDone o else s.pulseOver.pulseFailed o).rst.deferred = none) :
    exec (.journalPulseComplete ok) s =
      .next (if ok then s.pulseOver.pulseDone o else s.pulseOver.pulseFailed o).journalStart.journalSettle := by
  have hgo : (!o.isPulse || s.rst.mode == .OFF) = false := by simp [hp, State.mode_ne_off_of_alive hal]
  have hrest : ¬(if ok then s.pulseOver.pulseDone o else s.pulseOver.pulseFailed o).rst.deferred.isSome = true := by
    rw [hnone]
    decide
  simp only [exec, execJournalPulseComplete, hcur]
  exact (if_neg (Bool.eq_false_iff.mp hgo)).trans (if_neg hrest)

theorem exec_journalPulseComplete_done {o : JOp} (hal : s.alive = true) (hcur : s.jr.current = some o) (hp : o.isPulse = true)
    (hnone : (s.pulseOver.pulseDone o).rst.deferred = none) :
    exec (.journalPulseComplete true) s = .next (s.pulseOver.pulseDone o).journalStart.journalSettle :=
  exec_journalPulseComplete_starts hal hcur hp true hnone

theorem exec_journalPulseComplete_failed {o : JOp} (hal : s.alive = true) (hcur : s.jr.current = some o) (hp : o.isPulse = true)
    (hnone : (s.pulseOver.pulseFailed o).rst.deferred = none) :
    exec (.journalPulseComplete false) s = .next (s.pulseOver.pulseFailed o).journalStart.journalSettle :=
  exec_journalPulseComplete_starts hal hcur hp false hnone

/-! ### Reads -/

/-- A read is decoded, and its corrections and the sectors beyond correction are counted (R562). -/
theorem exec_journalPageReadComplete_read {mains spares : List (List Byte)} (hcur : s.jr.current = some .read) :
    let x := readPages mains spares
    let u := (({ s with jr := { s.jr with current := none } } : State).tally 0x50040 x.1).evidences 0x50050 x.2.2
    exec (.journalPageReadComplete mains spares) s = .next (u.readSpoilt x.2.2).journalSettle.journalStart := by
  simp only [exec, execJournalPageReadComplete, hcur]

theorem State.readSpoilt_zero (s : State) : s.readSpoilt 0 = s := rfl

/-! ### What the unit does on its own -/

/-- A part that is supported takes an operation behind those queued. -/
theorem State.journalPush_supported {o : JOp} (hsup : s.jr.state ≠ .UNSUPPORTED) :
    s.journalPush o = ({ s with jr := s.jr.push o } : State).journalStart := if_neg hsup

theorem exec_evidencePageFlush_due {since : Nat} (hal : s.alive = true) (hsince : s.jr.evSince = some since)
    (hdue : since + 1000000000 ≤ s.ns) (hbuf : s.jr.evBuf ≠ []) (hsup : s.jr.state ≠ .UNSUPPORTED) :
    let u : State := { s with jr := { s.jr with evBuf := [], evSince := none } }
    exec .evidencePageFlush s = .next ({ u with jr := u.jr.push (.program 3 0 s.jr.evBuf) } : State).journalStart.journalSettle := by
  intro u
  have hpage : s.evidencePage = u.journalPush (.program 3 0 s.jr.evBuf) := if_neg (by simpa using hbuf)
  have hgo : (s.alive && decide (since + 1000000000 ≤ s.ns)) = true := by simp [hal, hdue]
  simp only [exec, execEvidencePageFlush, hsince]
  rw [if_pos hgo, hpage, State.journalPush_supported (s := u) hsup]

theorem exec_anchorHourlyWrite_due (hal : s.alive = true) (hdue : s.jr.anchorAge + 3600 ≤ s.jr.age)
    (hq : s.jr.queue.contains .anchor = false) (hcur : s.jr.current ≠ some .anchor) (hsup : s.jr.state ≠ .UNSUPPORTED) :
    exec .anchorHourlyWrite s = .next ({ s with jr := s.jr.push .anchor } : State).journalStart.journalSettle := by
  have hgo : (s.alive && decide (s.jr.anchorAge + 3600 ≤ s.jr.age) && !s.jr.queue.contains .anchor && s.jr.current != some .anchor) = true := by
    simp only [hal, hdue, hq, bne_iff_ne.mpr hcur]
    rfl
  rw [← State.journalPush_supported hsup]
  exact if_pos hgo

/-- The patrol counts what it finds, and refreshes a block that is worn or old (R579). -/
theorem exec_journalPatrol_ready {block page : Nat} {mains spares : List (List Byte)} (hal : s.alive = true) (hst : s.jr.state = .READY) :
    let x := readPages mains spares
    let u := ((s.tally 0x50040 x.1).evidences 0x50050 x.2.2).loseSectors block (unreadable page mains spares)
    exec (.journalPatrol block page mains spares) s =
      .next (if 24 < x.2.1 ∨ u.jr.oldBlock block then (u.refreshBlock block).journalSettle else u) :=
  if_neg (by simp [hal, JR.usable, hst])

end

/-- Settles O44: the lemmas of the pulses, the reads and the unit's own work, and of the self-test of the standby pair. -/
theorem journalEvents : Obligations.JournalEvents := by
  refine ⟨fun s hal _ => ⟨fun flags recs hcur => exec_journalPulseComplete_done hal hcur rfl,
    fun hcur => exec_journalPulseComplete_done hal hcur rfl, fun b hcur => exec_journalPulseComplete_done hal hcur rfl,
    fun o hcur hp => exec_journalPulseComplete_failed hal hcur hp, ?_,
    fun since => exec_evidencePageFlush_due hal, exec_anchorHourlyWrite_due hal, ?_⟩, ?_⟩
  · intro mains spares hcur x u
    have hread := exec_journalPageReadComplete_read (mains := mains) (spares := spares) hcur
    refine ⟨fun hx => hread.trans ?_, hread⟩
    have hclean : u.readSpoilt x.2.2 = u := (congrArg u.readSpoilt hx).trans u.readSpoilt_zero
    exact congrArg (fun v => Host.Outcome.next (State.journalStart (State.journalSettle v))) hclean
  · intro block page mains spares hst x u
    have hpatrol := exec_journalPatrol_ready (block := block) (page := page) (mains := mains) (spares := spares) hal hst
    refine ⟨fun hfew hyoung => hpatrol.trans (congrArg _ (if_neg ?_)), fun hworn => hpatrol.trans (congrArg _ (if_pos hworn))⟩
    rintro (hmany | hold)
    · exact absurd hmany (Nat.not_lt.mpr hfew)
    · exact Bool.false_ne_true (hyoung.symm.trans hold)
  · intro s w hal hw slot t u
    have hpass : exec (.standbySelftestComplete true) s = t.goOn := exec_standbySelftestComplete hal hw true
    have hfail : exec (.standbySelftestComplete false) s = u.goOn := exec_standbySelftestComplete hal hw false
    exact ⟨hpass, hfail, fun hr => hpass.trans (State.goOn_rests hr.symm), fun hr => hfail.trans (State.goOn_rests hr.symm)⟩

end Sys2Proof.Machine
end
